-- ==== Sys2Proof/Word.lean ====
section
/-! DEFINITION. The word types of the module and their plainest arithmetic (R6, R8, R12). -/

namespace Sys2Proof

/-- A byte (R12). -/
abbrev Byte := BitVec 8
/-- A 32-bit word: a register of ordinary width, a vector element, an accumulator word (R8, R111). -/
abbrev Word32 := BitVec 32
/-- A 64-bit word: a wide register, a scalar register (R8, R212). -/
abbrev Word64 := BitVec 64

/-- A finite map kept as an association list in one canonical form: keys strictly rising, and no
entry equal to what an unlisted key reads as. Equal maps are equal lists. -/
abbrev SMap (α : Type) := List (Nat × α)

end Sys2Proof
end

