-- ==== Sys2Proof/Syntax.lean ====
section
/-! DEFINITION. The commands the module takes, one constructor per row of spec/opcode_table.json, and
the types of their operands. The table gives no operands: each command carries what its rule needs from
its sender (an atoll, an address, a slot's encoded fields, a sensor reading). -/

namespace Sys2Proof

/-- Atoll number, 0-7 clockwise (R17). -/
abbrev Atoll := Fin 8
/-- Stack number, 0-47; atoll k owns 6k to 6k+5 (R17). -/
abbrev Stack := Fin 48
/-- Board slot (conventions of 00_scope.md). -/
abbrev Slot := Fin 16
/-- Port die in directory order: 0 B0, 1 B1, 2 K0, 3 K1, 4 F0, 5 F1 (R60). -/
abbrev PortIx := Fin 6
/-- One of the two strait ports B0, B1 (R18). -/
abbrev BPort := Fin 2
/-- Lane of a B port (R312). -/
abbrev LaneIx := Fin 32
/-- Configuration ticket (R70). -/
abbrev Ticket := Fin 4
/-- Page in directory order, 0 (HOLM) to 168 (SNDCTX) (R60, R98). -/
abbrev PageIx := Fin 169
/-- Plan queue n = 16k + q (R90). -/
abbrev QueueIx := Fin 128
/-- Channel of an atoll, 0-767 (R255). -/
abbrev Chan := Fin 768
/-- Engine slot of a stream (R285). -/
abbrev StreamIx := Fin 64
/-- Fault record of the STRM page (R296). -/
abbrev FaultIx := Fin 16
/-- Scalar register number (R212). -/
abbrev SReg := BitVec 6
/-- Vector register number (R183). -/
abbrev VReg := BitVec 5
/-- Sound context number (R334). -/
abbrev CtxNo := BitVec 20

/-- Who makes a register access (R60, R70, R426, R441) (log 27: DESIGN CHOICE, safe). -/
inductive Requester where
  | harbour | holm | core (k : Atoll) | i3c | server
  deriving DecidableEq, Repr

/-- Second operand of a scalar slot (R220): a register, or a 43-bit immediate sign-extended. -/
inductive SOperand where
  | reg (r : SReg) | imm (v : BitVec 43)
  deriving DecidableEq, Repr

/-- A count or budget given in the slot or taken from a register (R218: CR, BR). -/
inductive CountOf (w : Nat) where
  | lit (v : BitVec w) | reg (r : SReg)
  deriving DecidableEq, Repr

/-- Fields of a feeder slot (R222). -/
structure FeedSlot where
  en     : Bool
  src    : BitVec 2
  sfmt   : BitVec 4
  areg   : SReg
  sreg   : SReg
  qreg   : SReg
  kstart : BitVec 20
  rbase  : BitVec 20
  creg   : SReg
  deriving DecidableEq, Repr

/-- Fields of a cove slot; `side` true names the column feeders (09_reefcode.md, cove slot; R236). -/
structure CoveSlot where
  en    : Bool
  side  : Bool
  mode  : BitVec 2
  areg  : SReg
  pair  : Bool
  sreg  : SReg
  areg2 : SReg
  sreg2 : SReg
  /-- PARAM bits [12:0], reserved. -/
  res   : BitVec 13
  deriving DecidableEq, Repr

/-- Fields of the array slot beside OP (R221), as encoded: K, M, N minus one. -/
structure ArraySlot where
  fmtRow : BitVec 4
  fmtCol : BitVec 4
  k      : BitVec 16
  m      : BitVec 10
  n      : BitVec 10
  bank   : Bool
  cont   : Bool
  fin    : BitVec 2
  ferry  : BitVec 2
  tag    : BitVec 4
  fnum   : BitVec 16
  deriving DecidableEq, Repr

/-- An array operation as a bundle issues it: the array slot, both feeder slots and the cove slot. -/
structure ArrayArgs where
  a    : ArraySlot
  row  : FeedSlot
  col  : FeedSlot
  cove : CoveSlot
  deriving DecidableEq, Repr

/-- Fields of a main-pipe vector operation (09_reefcode.md), OPC apart. -/
structure VOp where
  sub   : BitVec 4
  cnt   : BitVec 12
  hi    : Bool
  fmt   : BitVec 4
  pm    : BitVec 4
  ps    : BitVec 3
  pd    : BitVec 3
  vd    : VReg
  va    : VReg
  vb    : VReg
  vc    : VReg
  sa    : SReg
  sb    : SReg
  sc    : SReg
  sd    : SReg
  xi    : BitVec 4
  tab   : BitVec 2
  bcast : Bool
  acc   : Bool
  clr   : Bool
  incl  : Bool
  rev   : Bool
  carry : Bool
  scale : Bool
  meas  : Bool
  /-- bits [30:0]: OPT [30:29], FIRST [28] of VUPD (R244); reserved for every other opcode. -/
  ext   : BitVec 31
  deriving DecidableEq, Repr

/-- Fields of a vector drain operation (09_reefcode.md). -/
structure DrainOp where
  bank   : Bool
  cnt    : BitVec 12
  sa     : SReg
  vd     : VReg
  interp : BitVec 2
  csRow  : Bool
  csCol  : Bool
  bias   : Bool
  fn     : Bool
  tab    : BitVec 2
  outf   : Bool
  va     : VReg
  vb     : VReg
  vc     : VReg
  deriving DecidableEq, Repr

/-- What the module's sensors gave over the tide that ends: energies in µJ (R394), input voltage in mV
(R393), temperatures in 1/16 °C (R408, R409). The sensors are physical: their readings are operands. -/
structure TideMeasure where
  input     : Nat
  atolls    : List Nat
  stacksE   : List Nat
  ports     : List Nat
  harbour   : Nat
  holm      : Nat
  vin       : Nat
  atollTemp : List Int
  stackTemp : List Int
  /-- bit errors that lagoon words took over the tide (R281): atoll, 8-byte word, whether two bits of it -/
  flips     : List (Atoll × Nat × Bool)
  deriving DecidableEq, Repr

/-- The body of a MARK flit (R317). -/
structure MarkBody where
  slot     : Slot
  hold     : Bool
  leader   : Bool
  inLine   : Bool
  noSlot   : Bool
  count    : BitVec 48
  defer    : BitVec 16
  len      : BitVec 20
  n        : Nat
  decision : BitVec 8
  init     : BitVec 8
  gen      : BitVec 16
  target   : BitVec 48
  g        : Nat
  deriving DecidableEq, Repr

/-- One record of a PREPARE (R77): class, instance, offset, value. -/
structure CommitRecord where
  cls   : BitVec 8
  inst  : BitVec 8
  off   : BitVec 11
  value : Word32
  deriving DecidableEq, Repr

/-- The board tag and target of a ticket message (R319). -/
structure BoardTag where
  init   : Slot
  gen    : BitVec 16
  target : BitVec 48
  deriving DecidableEq, Repr

/-- The trailer of a strait flit, TYPE apart (R312); `info` is the 48-bit INFO. -/
structure Trailer where
  start : Bool
  fin   : Bool
  nak   : Bool
  seq   : BitVec 12
  ack   : BitVec 12
  info  : BitVec 48
  deriving DecidableEq, Repr

/-- The Sound header (R331), KIND apart, and the source address of the frame that brought it on a K or F port (R333). -/
structure SoundHdr where
  ver    : BitVec 4
  flags  : BitVec 8
  len    : BitVec 16
  dst    : CtxNo
  src    : CtxNo
  slot   : Slot
  noSlot : Bool
  psn    : Word32
  msg    : Word32
  roff   : Word32
  ackPsn : Word32
  grant  : Word32
  ip     : BitVec 128
  deriving DecidableEq, Repr

/-- An Ethernet frame as far as the port examines it (R325, R333). -/
inductive FrameKind where
  | sound (packet : List Byte) | lldp (chassis portId : List Byte) | neighborSolicitation (target : BitVec 128) | pause | other
  deriving DecidableEq, Repr

/-- A received frame: its length, whether its check sequence passed, source and destination, and contents (R325, R333). -/
structure Frame where
  bytes      : Nat
  fcsOk      : Bool
  dstMac     : BitVec 48
  srcIp      : BitVec 128
  dstIp      : BitVec 128
  udpPort    : BitVec 16
  checksumOk : Bool
  kind       : FrameKind
  deriving DecidableEq, Repr

/-- How a retraining window of a channel ended (R265, R266): pins that failed their margin, and whether
training passed at 8 Gb/s and at 4 Gb/s. -/
structure TrainOutcome where
  failed : List (Fin 18)
  pass8  : Bool
  pass4  : Bool
  deriving DecidableEq, Repr

/-- One attempt at a burst (R260): the bits that flip on the data and check pins, as beat and pin, and those of its CRC on
the response lane. -/
structure BurstTry where
  flips : List (Nat × Nat)
  crc   : BitVec 16
  deriving DecidableEq, Repr

/-- What disturbs a burst (R257, R258, R260): per symbol of the 136-symbol codeword the exclusive-or of an error in the
stack, and its attempts so far; a later one is undisturbed. -/
structure BurstNoise where
  errors : List (Nat × Byte)
  tries  : List BurstTry
  deriving DecidableEq, Repr

/-- Where a request of the REMOTE class comes from (R289). -/
inductive RemoteFrom where
  | atoll (k : Atoll) | port (p : PortIx) | harbour
  deriving DecidableEq, Repr

/-- The class of a request at a memory controller (R289). -/
inductive MemClass where
  | read | write | remote (src : RemoteFrom) | skiff
  deriving DecidableEq, Repr

/-- How a lane direction is lost (R321). -/
inductive LaneCause where
  | openLane | short | crc | margin
  deriving DecidableEq, Repr

/-- The checkpoint layers of R379 above STACKS. -/
inductive Layer where
  | partner | flash | store
  deriving DecidableEq, Repr

/-- Outcome of a bring-up stage, as the silicon and the images gave it (R433). -/
structure StageOutcome where
  /-- the stage completed within its time -/
  done        : Bool
  /-- atolls found failed in this stage, with cause code of HOLM_ATOLLS (R433) -/
  lost        : List Atoll
  /-- component whose image failed verification, 0 none (R436) -/
  badImage    : Nat
  /-- identity unwrapped (R438), examined in stage 2 -/
  identityOk  : Bool
  /-- strap ratio r in 1/4,096, measured in stage 1 (R431) -/
  strap       : BitVec 12
  /-- an array has more than one islet column beyond its spare, or harbour or holm failed (R28) -/
  fatal       : Bool
  /-- failed physical islet columns found per atoll in stage 5 (R123) -/
  failedCols  : List (Atoll × Nat)
  /-- drift in mV per atoll, read in stage 5 (R412) -/
  drifts      : List Nat
  deriving DecidableEq, Repr

/-- A firmware image as delivered: its bytes (R435). -/
abbrev Image := List Byte

/-- The readings refreshed at a slow-clock edge (R68): input in mV, 10 mA and W; temperatures in
1/16 °C of atolls, harbour, holm, port dies and stacks; optical readings of the F ports. -/
structure SlowSensors where
  vin       : BitVec 16
  iin       : BitVec 16
  pin       : BitVec 16
  atollTemp : List (BitVec 16)
  harbour   : BitVec 16
  holm      : BitVec 16
  portTemp  : List (BitVec 16)
  stackTemp : List (BitVec 16)
  light     : List (BitVec 8 × BitVec 3 × BitVec 16)
  deriving DecidableEq, Repr

/-- What a coolant stop switches off when it grows too hot (R410). -/
inductive LostInStop where
  | stack (s : Stack) | harbour | holm
  deriving DecidableEq, Repr

/-- Who reaches 115 °C (or 105 °C) outside the atolls (R408, R409). -/
inductive OtherDie where
  | harbour | holm | port (p : PortIx) | stack (s : Stack)
  deriving DecidableEq, Repr

/-- Why every rail is shut down (R393, R460). -/
inductive ShutdownCause where
  | vinBelow46 | vinAbove60 | railShort
  deriving DecidableEq, Repr

/-- What a module hears on one of its receivers (R314): the receiver, and the transmitter's serial, port and lane. -/
structure HeardLane where
  port   : BPort
  lane   : LaneIx
  serial : Word64
  atPort : BPort
  atLane : LaneIx
  deriving DecidableEq, Repr

/-- Discovery data of a TRAIN flit (R314): the sender's serial and slot, the port and lane it leaves on, the receiving lane's
polarity, and, once the sender knows it, what it hears on its receivers. -/
structure TrainInfo where
  serial   : Word64
  slot     : Option Slot
  port     : BPort
  lane     : LaneIx
  inverted : Bool
  hears    : List HeardLane
  deriving DecidableEq, Repr

/-- How sequenced flits come in (R313): the port, the module that sends them by its serial, and the trailer of the first. -/
structure StraitIn where
  port : BPort
  peer : Word64
  t    : Trailer
  deriving DecidableEq, Repr

/-- The replica's answer for one piece (R386). -/
structure ReplicaInfo where
  tensor : Word32
  len    : Nat
  digest : BitVec 128
  passed : Bool
  bytes  : List Byte
  deriving DecidableEq, Repr

/-- THE COMMANDS: one constructor per row of spec/opcode_table.json, with the operands its sender gives it (log 97:
DESIGN CHOICE, safe); one sent where its event cannot be changes nothing (log 24: DESIGN CHOICE, safe). -/
inductive Instr where
  -- tides (02_tide.md)
  | slack (m : TideMeasure)
  | mark
  | markFlit (port : BPort) (peer : Word64) (b : MarkBody)
  | peerLate (port : BPort) (peer : Word64)
  | graceExpiry (m : TideMeasure)
  | cutResume (k : Atoll)
  | markLoss
  | slice (k : Atoll) (phase : BitVec 12) (budget : CountOf 26)
  | publish (k : Atoll) (rec rs : Bool) (rslot : BitVec 4) (vreg treg : SReg)
  | sliceClose (k : Atoll)
  | crRecordWrite (k : Atoll)
  | divergedTimeout
  | windowDone (k : Atoll) (o : TrainOutcome)
  -- register window, tickets (03_control_pages.md)
  | accessErr (off : BitVec 26) (wrongSize write : Bool)
  | registerWrite (by' : Requester) (off : BitVec 26) (wide : Bool) (value : Word64)
  | stagedWrite (by' : Requester) (page : PageIx) (off : BitVec 11) (wide : Bool) (value : Word64)
  | bind (page : PageIx) (t : Ticket)
  | release (page : PageIx)
  | unlock (page : PageIx) (key : Word32)
  | evtAck (page : PageIx) (seq : Word32)
  | evtMaskWrite (page : PageIx) (mask : Word32)
  | srst (page : PageIx)
  | srstDone (page : PageIx)
  | openTicket (by' : Requester) (t : Ticket)
  | check (t : Ticket)
  | checkDone (t : Ticket)
  | arm (t : Ticket)
  | abort (t : Ticket)
  | resolve (t : Ticket)
  | commitRuleDataRead (word : Fin 8)
  | prepare (via : StraitIn) (tag : BoardTag) (total first : Nat) (records : List CommitRecord)
  | vote (via : StraitIn) (tag : BoardTag) (voter : Slot) (pass : Bool) (rule : BitVec 16) (cls inst : BitVec 8) (off : BitVec 11)
  | decision (via : StraitIn) (tag : BoardTag) (go : Bool)
  | selfWaitAbort
  | hostTimeout (page : PageIx) (bit : Fin 4)
  -- harbour (04_harbour.md)
  | registerRequest (server : Bool) (tag : BitVec 12) (write : Bool) (len : Nat) (addr : Word64) (value : Word64)
  | memoryRequest (core : BitVec 5) (tag : BitVec 12) (write : Bool) (addr : Word64) (len : Nat) (data : List Byte)
  | doorbell (core : BitVec 5) (word : Fin 1024) (write aligned : Bool) (tail : Word32)
  | attachErr (k : Atoll) (retrained : Bool)
  | pcieLink (up : Bool) (width : BitVec 5)
  | planEntryStart (k : Atoll)
  | queueResume (n : QueueIx)
  | queueFlush (n : QueueIx)
  | queueHalt (n : QueueIx)
  | crHeadWrite (k : Atoll) (head : Word32)
  -- the sequencer (09_reefcode.md)
  | bundle (k : Atoll)
  | nop (k : Atoll)
  | jmp (k : Atoll) (tgt : BitVec 15)
  | br (k : Atoll) (tgt : BitVec 15) (p : BitVec 3) (pn : Bool)
  | jmpr (k : Atoll) (r : SReg)
  | call (k : Atoll) (tgt : BitVec 15)
  | ret (k : Atoll)
  | loop (k : Atoll) (count : CountOf 24) (fin : BitVec 15)
  | swell (k : Atoll) (phase : BitVec 12) (n : BitVec 8) (level : BitVec 4)
  | qclose (k : Atoll) (qreg : SReg)
  | fence (k : Atoll) (mask : BitVec 4)
  | add (k : Atoll) (rd rs1 : SReg) (b : SOperand)
  | sub (k : Atoll) (rd rs1 : SReg) (b : SOperand)
  | and (k : Atoll) (rd rs1 : SReg) (b : SOperand)
  | or (k : Atoll) (rd rs1 : SReg) (b : SOperand)
  | xor (k : Atoll) (rd rs1 : SReg) (b : SOperand)
  | shl (k : Atoll) (rd rs1 : SReg) (b : SOperand)
  | shr (k : Atoll) (rd rs1 : SReg) (b : SOperand)
  | sar (k : Atoll) (rd rs1 : SReg) (b : SOperand)
  | mul (k : Atoll) (rd rs1 : SReg) (b : SOperand)
  | mulhu (k : Atoll) (rd rs1 : SReg) (b : SOperand)
  | min (k : Atoll) (rd rs1 : SReg) (b : SOperand)
  | max (k : Atoll) (rd rs1 : SReg) (b : SOperand)
  | minu (k : Atoll) (rd rs1 : SReg) (b : SOperand)
  | maxu (k : Atoll) (rd rs1 : SReg) (b : SOperand)
  | li (k : Atoll) (rd : SReg) (b : SOperand)
  | orh (k : Atoll) (rd rs1 : SReg) (b : SOperand)
  | cmp (k : Atoll) (pred : BitVec 3) (cond : BitVec 3) (rs1 : SReg) (b : SOperand)
  | pget (k : Atoll) (rd : SReg) (b : SOperand)
  | ldl (k : Atoll) (rd rs1 : SReg) (b : SOperand)
  | stl (k : Atoll) (rd rs1 : SReg) (b : SOperand)
  | rds (k : Atoll) (rd : SReg) (b : SOperand)
  | hint (k : Atoll) (ramp : BitVec 3)
  -- the array (05_array.md)
  | mac (k : Atoll) (x : ArrayArgs)
  | l1 (k : Atoll) (x : ArrayArgs)
  | l2sq (k : Atoll) (x : ArrayArgs)
  | maxplus (k : Atoll) (x : ArrayArgs)
  | minplus (k : Atoll) (x : ArrayArgs)
  | cmpcount (k : Atoll) (x : ArrayArgs)
  | scout (k : Atoll) (x : ArrayArgs)
  | feederRefill (k : Atoll) (col : Bool) (feeder : Fin 1024) (delayed : Bool)
  | arrayOpEnd (k : Atoll)
  | ferryPiece (k : Atoll) (src : Option StraitIn) (off : BitVec 29) (tag : BitVec 4) (fnum : BitVec 16) (last : Bool) (data : List Byte)
  | fieldTest (k : Atoll)
  | testDone (k : Atoll) (failCol : Option (Fin 33))
  | iload (k : Atoll)
  | iloadDone (k : Atoll)
  | descriptorReread (k : Atoll) (desc : Word64)
  -- the vector engine (08_vector.md, 10_backward.md)
  | vadd (k : Atoll) (v : VOp)
  | vsub (k : Atoll) (v : VOp)
  | vmul (k : Atoll) (v : VOp)
  | vfma (k : Atoll) (v : VOp)
  | vdiv (k : Atoll) (v : VOp)
  | vsqrt (k : Atoll) (v : VOp)
  | vrsqrt (k : Atoll) (v : VOp)
  | vexp (k : Atoll) (v : VOp)
  | vlog (k : Atoll) (v : VOp)
  | vmax (k : Atoll) (v : VOp)
  | vmin (k : Atoll) (v : VOp)
  | vabs (k : Atoll) (v : VOp)
  | vneg (k : Atoll) (v : VOp)
  | vscalb (k : Atoll) (v : VOp)
  | vcmp (k : Atoll) (v : VOp)
  | vsel (k : Atoll) (v : VOp)
  | vplog (k : Atoll) (v : VOp)
  | vcvtw (k : Atoll) (v : VOp)
  | viota (k : Atoll) (v : VOp)
  | vld (k : Atoll) (v : VOp)
  | vst (k : Atoll) (v : VOp)
  | vred (k : Atoll) (v : VOp)
  | vxfin (k : Atoll) (v : VOp)
  | vnorm (k : Atoll) (v : VOp)
  | vscan (k : Atoll) (v : VOp)
  | vgather (k : Atoll) (v : VOp)
  | vscatter (k : Atoll) (v : VOp)
  | vsoftmax (k : Atoll) (v : VOp)
  | vlse (k : Atoll) (v : VOp)
  | vtload (k : Atoll) (v : VOp)
  | vfun (k : Atoll) (v : VOp)
  | vdfun (k : Atoll) (v : VOp)
  | vrand (k : Atoll) (v : VOp)
  | vdigest (k : Atoll) (v : VOp)
  | vlsq (k : Atoll) (v : VOp)
  | vlsqf (k : Atoll) (v : VOp)
  | vupdUpdate (k : Atoll) (v : VOp)
  | vupdFinish (k : Atoll) (v : VOp)
  | vdrain (k : Atoll) (d : DrainOp)
  -- streams and messages (12_streams.md, 14, 15)
  | streamIssue (k : Atoll) (ctr : BitVec 4) (r : SReg) (detach : Bool)
  | streamWait (k : Atoll) (ctr : BitVec 4) (r : SReg)
  | send (k : Atoll) (ctr : BitVec 4) (r : SReg) (now : Bool)
  | reduce (k : Atoll) (ctr : BitVec 4) (r : SReg) (now : Bool)
  | msgWait (k : Atoll) (ctr : BitVec 4) (r : SReg)
  | streamComplete (k : Atoll) (i : StreamIx)
  | streamFault (k : Atoll) (i : StreamIx)
  | faultServed (k : Atoll) (r : FaultIx)
  | fltResume (k : Atoll) (r : FaultIx)
  | fltAbort (k : Atoll) (r : FaultIx)
  | fltReissue (k : Atoll) (r : FaultIx)
  | fltAbandon (k : Atoll) (r : FaultIx)
  | voidwaitExpiry (k : Atoll)
  | skiffFlush (k : Atoll)
  | invVa (k : Atoll) (va : BitVec 52)
  | invAll (k : Atoll)
  | invDone (k : Atoll)
  | editsDone (k : Atoll)
  -- shoal memory (11_shoal_memory.md)
  | atomRead (addr : BitVec 41) (cls : MemClass) (noise : BurstNoise)
  | atomWrite (addr : BitVec 41) (cls : MemClass) (noise : BurstNoise) (data : List Byte)
  | scrubRead (k : Atoll) (c : Chan) (noise : BurstNoise)
  | ebbCopy (k : Atoll) (noise : List BurstNoise)
  | retrain (k : Atoll) (c : BitVec 10)
  | mapout (k : Atoll) (c : BitVec 10)
  | retire (k : Atoll)
  | migrated (k : Atoll)
  -- ports (13_ports.md)
  | linkRetrain (k : Atoll) (link : Fin 4) (passed : Bool)
  | dataFlit (port : BPort) (peer : Word64) (t : Trailer) (body : List Byte)
  | idleFlit (port : BPort) (peer : Word64) (t : Trailer)
  | flitNak (port : BPort) (peer : Word64) (ack : BitVec 12)
  | replayTimeout (port : BPort) (peer : Word64)
  | laneDrop (port : BPort) (lane : LaneIx)
  | echo (port : BPort) (peer : Word64) (data : BitVec 32)
  | echoReply (port : BPort) (peer : Word64) (roundTrip turnaround : Nat)
  | resetReq (port : BPort) (peer : Word64)
  | train (port : BPort) (lane : LaneIx) (i : TrainInfo)
  | peerUp (port : BPort) (peer : Word64)
  | peerDown (port : BPort) (peer : Word64)
  | laneExcluded (port : BPort) (lane : LaneIx) (c : LaneCause)
  | laneRetrain (port : BPort) (lane : LaneIx) (passed : Bool)
  | retrainLane (port : PortIx) (lane : LaneIx)
  | excludeLane (port : PortIx) (lane : LaneIx)
  | restoreLane (port : PortIx) (lane : LaneIx)
  | linkRestart (port : PortIx) (peer : Slot)
  | frame (port : PortIx) (f : Frame)
  | lldp (port : PortIx) (chassis portId : List Byte)
  | lldpSend (port : PortIx)
  | los (port : PortIx) (lane : Fin 8)
  | link (port : PortIx) (up : Bool)
  -- Sound transport (14_sound_transport.md)
  | soundData (port : PortIx) (h : SoundHdr) (payload : List Byte) (user : Word32)
  | ack (port : PortIx) (h : SoundHdr)
  | soundNak (port : PortIx) (h : SoundHdr)
  | connect (port : PortIx) (h : SoundHdr) (offboard : Bool) (ip : BitVec 128)
  | accept (port : PortIx) (h : SoundHdr)
  | refuse (port : PortIx) (h : SoundHdr)
  | notReady (port : PortIx) (h : SoundHdr)
  | close (port : PortIx) (h : SoundHdr)
  | reset (port : PortIx) (h : SoundHdr)
  | lagged (port : PortIx) (h : SoundHdr)
  | serve (port : PortIx) (h : SoundHdr) (member : CtxNo)
  | packetDepart (c : CtxNo)
  | stagingDrain (port : PortIx) (c : CtxNo)
  | retransmitTimeout (c : CtxNo)
  | grantReturn (c : CtxNo)
  | rampDone
  | ctxConnect (c : CtxNo)
  | ctxListen (c : CtxNo)
  | ctxClose (c : CtxNo)
  | admitAccept
  | admitRefuse
  | admitDefer
  -- reductions (15_reductions.md)
  | reductionClose (k : Atoll) (slot : Fin 64)
  | stepCmdClose (k : Atoll) (slot : Fin 64)
  | stepCmdExtend (k : Atoll) (slot : Fin 64)
  -- checkpoints (16_checkpoint.md)
  | layerDone (l : Layer) (ok : Bool)
  | layerPartner
  | layerFlash
  | layerStore
  | storeDurable
  | restore (src : BitVec 4) (slot : BitVec 16)
  | replicaAnswer (r : ReplicaInfo)
  | restoreDone
  | realign
  | keep
  | ckptAbort
  | fetch
  | next
  | ckptAccept
  -- power, heat and ageing (17_power.md)
  /-- `limited` names the atolls whose converters met their current limit in the window -/
  | limiterWindow (watts vin : Nat) (limited : List Atoll)
  | vinLow (vin : Nat)
  | shutdown (c : ShutdownCause)
  | senseFault
  | railFault (k : Atoll)
  | droop (k : Atoll)
  | droopRelease (k : Atoll)
  | throttle (k : Atoll) (temp : Int)
  | trip (k : Atoll) (temp : Int)
  | stackHot (s : Stack) (temp : Int)
  | coolant
  | coolRestored
  | reading (drifts : List Nat) (dieDrifts : List Nat)
  | ageRead
  | ageApply
  | ageDefer
  | pwrHostBeat
  -- reset, bring-up and trust (18_bringup.md)
  | powerOn
  | brdResetN (low : Bool) (samples : Nat)
  | watchdog
  | moduleReset
  | rstWdogKick (by' : Requester)
  | bringupStage (o : StageOutcome)
  | recLoad (src : Word64) (len : Word32) (image : Image)
  | recAbort
  | recBegin
  | mgmtRecData (word : Word32)
  | recEnd
  | recCtlAbort
  | quote
  | cert
  | quoteDone
  | secWinDataRead
  | entdaa (addr : BitVec 7)
  | setdasa (static addr : BitVec 7)
  | i3cPrivateWrite (bytes : List Byte)
  | i3cPrivateRead
  | mgmtAlertAck (bits : Word32)
  -- rows at the table's end
  | slowClockEdge (x : SlowSensors)
  | ferrySend (k : Atoll)
  | flitDiscard (port : BPort) (peer : Word64) (lane : LaneIx) (raw : List Byte)
  | otherTrip (d : OtherDie)
  | stackLost (l : LostInStop)
  | setpointReached (k : Atoll)
  | rowCopyDone (k : Atoll) (c : Chan) (bank : Fin 32)
  deriving DecidableEq, Repr

end Sys2Proof
end

