-- ==== Sys2Proof/Decode.lean ====
section
/-! DEFINITION. The opcode table gives its rows no bits: the commands arrive on the module's attachments, not as
words, so no word spells one. -/

namespace Sys2Proof

/-- The command a word spells by the table's bits: none, for the table gives no row any (log 97: DESIGN CHOICE, safe).
-/
def decodeTableWord (_nbits _w : Nat) : Option Instr := none

end Sys2Proof
end

