-- ==== Sys2Proof/Machine/Map.lean ====
section
/-! DEFINITION. Finite maps in one canonical form: association lists with strictly rising keys.
`find`, `ins` and `del` are the plain map; `get` and `put` are the map over a default, which lists no entry
equal to what an unlisted key reads as, so that equal contents are equal data. -/

namespace Sys2Proof.Machine

/-- Keys strictly rising from a lower bound. -/
def SMap.rising {α : Type} : Nat → SMap α → Bool
  | _, [] => true
  | b, (k, _) :: m => decide (b ≤ k) && SMap.rising (k + 1) m

/-- The entry of key `k`, if listed. -/
def SMap.find {α : Type} : SMap α → Nat → Option α
  | [], _ => none
  | (k, v) :: m, j => if k = j then some v else SMap.find m j

/-- `m` with key `j` listed as `v`. -/
def SMap.ins {α : Type} : SMap α → Nat → α → SMap α
  | [], j, v => [(j, v)]
  | (k, u) :: m, j, v =>
    if j < k then (j, v) :: (k, u) :: m
    else if k = j then (j, v) :: m
    else (k, u) :: SMap.ins m j v

/-- `m` with key `j` not listed. -/
def SMap.del {α : Type} : SMap α → Nat → SMap α
  | [], _ => []
  | (k, u) :: m, j => if k = j then SMap.del m j else (k, u) :: SMap.del m j

/-- What key `k` reads as, over the default `d`. -/
def SMap.get {α : Type} (d : Nat → α) (m : SMap α) (k : Nat) : α := (SMap.find m k).getD (d k)

/-- `m` with key `k` reading as `v`, over the default `d`: a value equal to the default is not listed. -/
def SMap.put {α : Type} [DecidableEq α] (d : Nat → α) (m : SMap α) (k : Nat) (v : α) : SMap α :=
  if v = d k then SMap.del m k else SMap.ins m k v

/-- No listed entry equals what its key reads as by default. -/
def SMap.sparse {α : Type} [DecidableEq α] (d : Nat → α) (m : SMap α) : Bool :=
  m.all fun e => decide (e.2 ≠ d e.1)

/-- The canonical form over the default `d`. -/
def SMap.wf {α : Type} [DecidableEq α] (d : Nat → α) (m : SMap α) : Bool :=
  SMap.rising 0 m && SMap.sparse d m

/-- `m` without the keys of `[lo, lo + n)`. -/
def SMap.clear {α : Type} (m : SMap α) (lo n : Nat) : SMap α :=
  m.filter fun e => decide (e.1 < lo ∨ lo + n ≤ e.1)

/-- The entries of `[lo, lo + n)`, their keys counted from 0. -/
def SMap.cut {α : Type} (m : SMap α) (lo n : Nat) : SMap α :=
  (m.filter fun e => decide (lo ≤ e.1 ∧ e.1 < lo + n)).map fun e => (e.1 - lo, e.2)

/-- `m` over the default `d` with the keys of `[lo, lo + n)` replaced by the entries `b`, whose keys count from `lo`. -/
def SMap.paste {α : Type} [DecidableEq α] (d : Nat → α) (m : SMap α) (lo n : Nat) (b : SMap α) : SMap α :=
  b.foldl (fun acc e => if e.1 < n then SMap.put d acc (lo + e.1) e.2 else acc) (SMap.clear m lo n)

/-- The `n` values read from key `k` on. -/
def SMap.getRange {α : Type} (d : Nat → α) (m : SMap α) (k : Nat) : Nat → List α
  | 0 => []
  | n + 1 => SMap.get d m k :: SMap.getRange d m (k + 1) n

/-- `m` with the values `vs` written from key `k` on. -/
def SMap.putRange {α : Type} [DecidableEq α] (d : Nat → α) (m : SMap α) (k : Nat) : List α → SMap α
  | [] => m
  | v :: vs => SMap.putRange d (SMap.put d m k v) (k + 1) vs

/-- The `n` bytes of `v`, least significant first (R6). -/
def bytesOf : Nat → Nat → List Byte
  | 0, _ => []
  | n + 1, v => BitVec.ofNat 8 v :: bytesOf n (v / 256)

/-- The number whose bytes, least significant first, are `bs` (R6). -/
def ofBytes : List Byte → Nat
  | [] => 0
  | b :: bs => b.toNat + 256 * ofBytes bs

/-- Bits `[hi:lo]` of a number (R6). -/
def bits (v hi lo : Nat) : Nat := v / 2 ^ lo % 2 ^ (hi + 1 - lo)

/-- `v` with its bits `[hi:lo]` replaced by `x`, cut to that width. -/
def withBits (v hi lo x : Nat) : Nat :=
  v - bits v hi lo * 2 ^ lo + x % 2 ^ (hi + 1 - lo) * 2 ^ lo

/-- Two's-complement reading of the low `w` bits of `v`. -/
def signed (w v : Nat) : Int :=
  let u := v % 2 ^ w
  if u < 2 ^ (w - 1) then (u : Int) else (u : Int) - (2 ^ w : Nat)

/-- The low `w` bits of an integer in two's complement. -/
def unsigned (w : Nat) (v : Int) : Nat := (v % (2 ^ w : Nat)).toNat

/-- `min (v + n) (2^w - 1)`: a counter of `w` bits that saturates. -/
def satAdd (w v n : Nat) : Nat := min (v + n) (2 ^ w - 1)

/-- Floor of the binary logarithm of `v`; 0 of 0. -/
def log2 (v : Nat) : Nat := v.log2

end Sys2Proof.Machine
end

