-- ==== Sys2Proof/Machine/Registers.lean ====
section
/-! DEFINITION. The register window (03_control_pages.md R58-R60): the page directory, the address of every
register and field the field maps of spec/ give, and per class the table of its registers with access codes
(R10) and reset values (R11). A value marked "meas" or "flash" is the one of log 5: DESIGN CHOICE, unsafe. -/

namespace Sys2Proof.Machine

/-- A field: the window offset of its register, and its bits [hi:lo] (R6, R7). -/
structure Fld where
  reg : Nat
  hi  : Nat
  lo  : Nat
  deriving DecidableEq, Repr

/-- A register of a class: its offset in the page; for a register that repeats, the step and how many; whether
it is 64 bits wide (R8); per access code of R10 the mask of its bits; its reset value by page instance; whether
a module reset leaves it alone (R424). -/
structure RegDesc where
  off    : Nat
  stride : Nat
  count  : Nat
  wide   : Bool
  rw     : Nat
  wo     : Nat
  st     : Nat
  gu     : Nat
  sc     : Nat
  all    : Nat
  keep   : Bool
  reset  : Nat → Nat

/-- Begin of page `i` of class `c` in the window (R58). -/
abbrev pageBase (c i : Nat) : Nat := c * 0x100000 + i * 0x1000

/-- Instances of a class of the page directory; 0 for a class it does not list (R60). -/
def classCount (c : Nat) : Nat :=
  if c ≤ 0x0B then 1 else if 0x10 ≤ c ∧ c ≤ 0x1B then 8 else if c = 0x20 then 48
  else if c = 0x30 ∨ c = 0x31 then 6 else if c = 0x32 then 1 else 0

/-- The listed classes in directory order (R60). -/
def classList : List Nat :=
  [0x00, 0x01, 0x02, 0x03, 0x04, 0x05, 0x06, 0x07, 0x08, 0x09, 0x0A, 0x0B,
   0x10, 0x11, 0x12, 0x13, 0x14, 0x15, 0x16, 0x17, 0x18, 0x19, 0x1A, 0x1B, 0x20, 0x30, 0x31, 0x32]

/-- Index in directory order of instance `i` of class `c`, 0 (HOLM) to 168 (SNDCTX) (R98). -/
def pageIx (c i : Nat) : Nat :=
  if c ≤ 0x0B then c else if c ≤ 0x1B then 12 + (c - 0x10) * 8 + i else if c = 0x20 then 108 + i
  else if c = 0x30 then 156 + i else if c = 0x31 then 162 + i else 168

/-- Class and instance of directory index `p` (R98). -/
def pageOfIx (p : Nat) : Nat × Nat :=
  if p < 12 then (p, 0) else if p < 108 then (0x10 + (p - 12) / 8, (p - 12) % 8) else if p < 156 then (0x20, p - 108)
  else if p < 162 then (0x30, p - 156) else if p < 168 then (0x31, p - 162) else (0x32, 0)

/-- Causeway route word of atoll `k` with every atoll in service (R307, R308): three bits per destination
atoll, the first hop; the own field holds `k`. -/
def routeReset (k : Nat) : Nat :=
  (List.range 8).foldl (fun a j =>
    let d := (j + 8 - k) % 8
    let h := if d = 0 then k else if d ≤ 2 then (k + 1) % 8 else if d ≤ 5 then (k + 4) % 8 else (k + 7) % 8
    a + h * 8 ^ j) 0

/-- TIDE_LEN (R55). -/
abbrev R.TIDE_LEN : Nat := 0x100080

/-- TIDE_LEN.LEN [19:0] ST. -/
def F.TIDE_LEN_LEN : Fld := ⟨R.TIDE_LEN, 19, 0⟩

/-- TIDE_POLICY (R55). -/
abbrev R.TIDE_POLICY : Nat := 0x100084

/-- TIDE_POLICY.MODE [0:0] ST. -/
def F.TIDE_POLICY_MODE : Fld := ⟨R.TIDE_POLICY, 0, 0⟩

/-- TIDE_GRACE (R55). -/
abbrev R.TIDE_GRACE : Nat := 0x100088

/-- TIDE_GRACE.PCT [4:0] ST. -/
def F.TIDE_GRACE_PCT : Fld := ⟨R.TIDE_GRACE, 4, 0⟩

/-- TIDE_REISSUE (R55). -/
abbrev R.TIDE_REISSUE : Nat := 0x10008C

/-- TIDE_REISSUE.MAX [3:0] ST. -/
def F.TIDE_REISSUE_MAX : Fld := ⟨R.TIDE_REISSUE, 3, 0⟩

/-- TIDE_COUNT (R55). -/
abbrev R.TIDE_COUNT : Nat := 0x100090

/-- TIDE_COUNT.COUNT [47:0] RO. -/
def F.TIDE_COUNT_COUNT : Fld := ⟨R.TIDE_COUNT, 47, 0⟩

/-- TIDE_PHASE (R55). -/
abbrev R.TIDE_PHASE : Nat := 0x100098

/-- TIDE_PHASE.QUANTUM [31:21] RO. -/
def F.TIDE_PHASE_QUANTUM : Fld := ⟨R.TIDE_PHASE, 31, 21⟩

/-- TIDE_PHASE.CYC [20:0] RO. -/
def F.TIDE_PHASE_CYC : Fld := ⟨R.TIDE_PHASE, 20, 0⟩

/-- TIDE_STAT (R55). -/
abbrev R.TIDE_STAT : Nat := 0x10009C

/-- TIDE_STAT.IN_LINE [8:8] RO. -/
def F.TIDE_STAT_IN_LINE : Fld := ⟨R.TIDE_STAT, 8, 8⟩

/-- TIDE_STAT.SOLO [7:7] RO. -/
def F.TIDE_STAT_SOLO : Fld := ⟨R.TIDE_STAT, 7, 7⟩

/-- TIDE_STAT.HELD [6:6] RO. -/
def F.TIDE_STAT_HELD : Fld := ⟨R.TIDE_STAT, 6, 6⟩

/-- TIDE_STAT.ALIGNED [5:5] RO. -/
def F.TIDE_STAT_ALIGNED : Fld := ⟨R.TIDE_STAT, 5, 5⟩

/-- TIDE_STAT.IS_LEADER [4:4] RO. -/
def F.TIDE_STAT_IS_LEADER : Fld := ⟨R.TIDE_STAT, 4, 4⟩

/-- TIDE_STAT.LEADER [3:0] RO. -/
def F.TIDE_STAT_LEADER : Fld := ⟨R.TIDE_STAT, 3, 0⟩

/-- TIDE_LEAD (R55). -/
abbrev R.TIDE_LEAD : Nat := 0x1000A0

/-- TIDE_LEAD.VALID [4:4] ST. -/
def F.TIDE_LEAD_VALID : Fld := ⟨R.TIDE_LEAD, 4, 4⟩

/-- TIDE_LEAD.SLOT [3:0] ST. -/
def F.TIDE_LEAD_SLOT : Fld := ⟨R.TIDE_LEAD, 3, 0⟩

/-- TIDE_OFFSET (R55). -/
abbrev R.TIDE_OFFSET : Nat := 0x1000A4

/-- TIDE_OFFSET.TRIM [31:16] RO. -/
def F.TIDE_OFFSET_TRIM : Fld := ⟨R.TIDE_OFFSET, 31, 16⟩

/-- TIDE_OFFSET.OFS [15:0] RO. -/
def F.TIDE_OFFSET_OFS : Fld := ⟨R.TIDE_OFFSET, 15, 0⟩

/-- TIDE_CNT_HELD (R55). -/
abbrev R.TIDE_CNT_HELD : Nat := 0x1000A8

/-- TIDE_CNT_HELD [31:0] RO. -/
def F.TIDE_CNT_HELD : Fld := ⟨R.TIDE_CNT_HELD, 31, 0⟩

/-- TIDE_CNT_QUANTA (R55). -/
abbrev R.TIDE_CNT_QUANTA : Nat := 0x1000AC

/-- TIDE_CNT_QUANTA [31:0] RO. -/
def F.TIDE_CNT_QUANTA : Fld := ⟨R.TIDE_CNT_QUANTA, 31, 0⟩

/-- TIDE_CNT_FAULT (R55). -/
abbrev R.TIDE_CNT_FAULT : Nat := 0x1000B0

/-- TIDE_CNT_FAULT [31:0] RO. -/
def F.TIDE_CNT_FAULT : Fld := ⟨R.TIDE_CNT_FAULT, 31, 0⟩

/-- TIDE_CNT_CUT (R55). -/
abbrev R.TIDE_CNT_CUT : Nat := 0x1000B4

/-- TIDE_CNT_CUT [31:0] RO. -/
def F.TIDE_CNT_CUT : Fld := ⟨R.TIDE_CNT_CUT, 31, 0⟩

/-- TIDE_CNT_FITWAIT (R55). -/
abbrev R.TIDE_CNT_FITWAIT : Nat := 0x1000B8

/-- TIDE_CNT_FITWAIT [31:0] RO. -/
def F.TIDE_CNT_FITWAIT : Fld := ⟨R.TIDE_CNT_FITWAIT, 31, 0⟩

/-- TIDE_CNT_OVERSIZE (R55). -/
abbrev R.TIDE_CNT_OVERSIZE : Nat := 0x1000BC

/-- TIDE_CNT_OVERSIZE [31:0] RO. -/
def F.TIDE_CNT_OVERSIZE : Fld := ⟨R.TIDE_CNT_OVERSIZE, 31, 0⟩

/-- TIDE_CNT_ABANDON (R55). -/
abbrev R.TIDE_CNT_ABANDON : Nat := 0x1000C0

/-- TIDE_CNT_ABANDON [31:0] RO. -/
def F.TIDE_CNT_ABANDON : Fld := ⟨R.TIDE_CNT_ABANDON, 31, 0⟩

/-- TIDE_CNT_STEP (R55). -/
abbrev R.TIDE_CNT_STEP : Nat := 0x1000C4

/-- TIDE_CNT_STEP [31:0] RO. -/
def F.TIDE_CNT_STEP : Fld := ⟨R.TIDE_CNT_STEP, 31, 0⟩

/-- PG_IDENT (R61). -/
abbrev R.PG_IDENT (p : Nat) : Nat := p

/-- PG_IDENT.HDR_VER [27:24] RO. -/
def F.PG_IDENT_HDR_VER (p : Nat) : Fld := ⟨(R.PG_IDENT p), 27, 24⟩

/-- PG_IDENT.CLASS [23:16] RO. -/
def F.PG_IDENT_CLASS (p : Nat) : Fld := ⟨(R.PG_IDENT p), 23, 16⟩

/-- PG_IDENT.INSTANCE [15:8] RO. -/
def F.PG_IDENT_INSTANCE (p : Nat) : Fld := ⟨(R.PG_IDENT p), 15, 8⟩

/-- PG_IDENT.LAYOUT [7:0] RO. -/
def F.PG_IDENT_LAYOUT (p : Nat) : Fld := ⟨(R.PG_IDENT p), 7, 0⟩

/-- PG_CAPS (R61). -/
abbrev R.PG_CAPS (p : Nat) : Nat := p + 0x4

/-- PG_CAPS.STAGED [31:31] RO. -/
def F.PG_CAPS_STAGED (p : Nat) : Fld := ⟨(R.PG_CAPS p), 31, 31⟩

/-- PG_CAPS.HOSTABLE [30:30] RO. -/
def F.PG_CAPS_HOSTABLE (p : Nat) : Fld := ⟨(R.PG_CAPS p), 30, 30⟩

/-- PG_CAPS.GUARDED [29:29] RO. -/
def F.PG_CAPS_GUARDED (p : Nat) : Fld := ⟨(R.PG_CAPS p), 29, 29⟩

/-- PG_CAPS.SLOW [28:28] RO. -/
def F.PG_CAPS_SLOW (p : Nat) : Fld := ⟨(R.PG_CAPS p), 28, 28⟩

/-- PG_CAPS.PAGE_CAPS [27:0] RO. -/
def F.PG_CAPS_PAGE_CAPS (p : Nat) : Fld := ⟨(R.PG_CAPS p), 27, 0⟩

/-- PG_STAGE_CTL (R61). -/
abbrev R.PG_STAGE_CTL (p : Nat) : Nat := p + 0x8

/-- PG_STAGE_CTL.RELEASE [8:8] WO. -/
def F.PG_STAGE_CTL_RELEASE (p : Nat) : Fld := ⟨(R.PG_STAGE_CTL p), 8, 8⟩

/-- PG_STAGE_CTL.BIND [4:4] WO. -/
def F.PG_STAGE_CTL_BIND (p : Nat) : Fld := ⟨(R.PG_STAGE_CTL p), 4, 4⟩

/-- PG_STAGE_CTL.TICKET [1:0] WO. -/
def F.PG_STAGE_CTL_TICKET (p : Nat) : Fld := ⟨(R.PG_STAGE_CTL p), 1, 0⟩

/-- PG_STAGE_STAT (R61). -/
abbrev R.PG_STAGE_STAT (p : Nat) : Nat := p + 0xC

/-- PG_STAGE_STAT.BOUND [31:31] RO. -/
def F.PG_STAGE_STAT_BOUND (p : Nat) : Fld := ⟨(R.PG_STAGE_STAT p), 31, 31⟩

/-- PG_STAGE_STAT.DIRTY [30:30] RO. -/
def F.PG_STAGE_STAT_DIRTY (p : Nat) : Fld := ⟨(R.PG_STAGE_STAT p), 30, 30⟩

/-- PG_STAGE_STAT.TICKET [29:28] RO. -/
def F.PG_STAGE_STAT_TICKET (p : Nat) : Fld := ⟨(R.PG_STAGE_STAT p), 29, 28⟩

/-- PG_STAGE_STAT.REFUSED [27:27] RO. -/
def F.PG_STAGE_STAT_REFUSED (p : Nat) : Fld := ⟨(R.PG_STAGE_STAT p), 27, 27⟩

/-- PG_STAGE_STAT.WRITES [15:0] RO. -/
def F.PG_STAGE_STAT_WRITES (p : Nat) : Fld := ⟨(R.PG_STAGE_STAT p), 15, 0⟩

/-- PG_MODE_SPLIT (R61). -/
abbrev R.PG_MODE_SPLIT (p : Nat) : Nat := p + 0x10

/-- PG_MODE_SPLIT.FELL [31:16] RO. -/
def F.PG_MODE_SPLIT_FELL (p : Nat) : Fld := ⟨(R.PG_MODE_SPLIT p), 31, 16⟩

/-- PG_MODE_SPLIT.HOST [15:0] ST. -/
def F.PG_MODE_SPLIT_HOST (p : Nat) : Fld := ⟨(R.PG_MODE_SPLIT p), 15, 0⟩

/-- PG_HOST_TIMEOUT (R62). -/
abbrev R.PG_HOST_TIMEOUT (p : Nat) : Nat := p + 0x14

/-- PG_HOST_TIMEOUT.TIDES [23:0] ST. -/
def F.PG_HOST_TIMEOUT_TIDES (p : Nat) : Fld := ⟨(R.PG_HOST_TIMEOUT p), 23, 0⟩

/-- PG_SRST (R62). -/
abbrev R.PG_SRST (p : Nat) : Nat := p + 0x18

/-- PG_SRST.REFUSED [2:2] RO. -/
def F.PG_SRST_REFUSED (p : Nat) : Fld := ⟨(R.PG_SRST p), 2, 2⟩

/-- PG_SRST.IDLE [1:1] RO. -/
def F.PG_SRST_IDLE (p : Nat) : Fld := ⟨(R.PG_SRST p), 1, 1⟩

/-- PG_SRST.SRST [0:0] WO, GU. -/
def F.PG_SRST_SRST (p : Nat) : Fld := ⟨(R.PG_SRST p), 0, 0⟩

/-- PG_UNLOCK (R62). -/
abbrev R.PG_UNLOCK (p : Nat) : Nat := p + 0x1C

/-- PG_UNLOCK.KEY [31:0] WO. -/
def F.PG_UNLOCK_KEY (p : Nat) : Fld := ⟨(R.PG_UNLOCK p), 31, 0⟩

/-- PG_LOCK_STAT (R62). -/
abbrev R.PG_LOCK_STAT (p : Nat) : Nat := p + 0x20

/-- PG_LOCK_STAT.BADKEY_CNT [15:8] RO. -/
def F.PG_LOCK_STAT_BADKEY_CNT (p : Nat) : Fld := ⟨(R.PG_LOCK_STAT p), 15, 8⟩

/-- PG_LOCK_STAT.BADKEY [2:2] RO. -/
def F.PG_LOCK_STAT_BADKEY (p : Nat) : Fld := ⟨(R.PG_LOCK_STAT p), 2, 2⟩

/-- PG_LOCK_STAT.OPEN [0:0] RO. -/
def F.PG_LOCK_STAT_OPEN (p : Nat) : Fld := ⟨(R.PG_LOCK_STAT p), 0, 0⟩

/-- PG_EVT_SEQ (R62). -/
abbrev R.PG_EVT_SEQ (p : Nat) : Nat := p + 0x24

/-- PG_EVT_SEQ.SEQ [31:0] RO. -/
def F.PG_EVT_SEQ_SEQ (p : Nat) : Fld := ⟨(R.PG_EVT_SEQ p), 31, 0⟩

/-- PG_EVT_CAUSE (R62). -/
abbrev R.PG_EVT_CAUSE (p : Nat) : Nat := p + 0x28

/-- PG_EVT_CAUSE.CAUSE [31:0] RO. -/
def F.PG_EVT_CAUSE_CAUSE (p : Nat) : Fld := ⟨(R.PG_EVT_CAUSE p), 31, 0⟩

/-- PG_EVT_ACK (R62). -/
abbrev R.PG_EVT_ACK (p : Nat) : Nat := p + 0x2C

/-- PG_EVT_ACK.SEQ [31:0] SQ. -/
def F.PG_EVT_ACK_SEQ (p : Nat) : Fld := ⟨(R.PG_EVT_ACK p), 31, 0⟩

/-- PG_EVT_MASK (R62). -/
abbrev R.PG_EVT_MASK (p : Nat) : Nat := p + 0x30

/-- PG_EVT_MASK.MASK [31:0] RW. -/
def F.PG_EVT_MASK_MASK (p : Nat) : Fld := ⟨(R.PG_EVT_MASK p), 31, 0⟩

/-- PG_EVT_TIDE_LO (R62). -/
abbrev R.PG_EVT_TIDE_LO (p : Nat) : Nat := p + 0x34

/-- PG_EVT_TIDE_LO.TIDE_LO [31:0] RO. -/
def F.PG_EVT_TIDE_LO_TIDE_LO (p : Nat) : Fld := ⟨(R.PG_EVT_TIDE_LO p), 31, 0⟩

/-- PG_EVT_TIDE_HI (R62). -/
abbrev R.PG_EVT_TIDE_HI (p : Nat) : Nat := p + 0x38

/-- PG_EVT_TIDE_HI.TIDE_HI [15:0] RO. -/
def F.PG_EVT_TIDE_HI_TIDE_HI (p : Nat) : Fld := ⟨(R.PG_EVT_TIDE_HI p), 15, 0⟩

/-- COMMIT_CMD (R80). -/
abbrev R.COMMIT_CMD (i : Nat) : Nat := 0x200100 + i * 0x40

/-- COMMIT_CMD.CMD [2:0] WO. -/
def F.COMMIT_CMD_CMD (i : Nat) : Fld := ⟨(R.COMMIT_CMD i), 2, 0⟩

/-- COMMIT_OPT (R80). -/
abbrev R.COMMIT_OPT (i : Nat) : Nat := 0x200104 + i * 0x40

/-- COMMIT_OPT.AT_TIDE [1:1] RW. -/
def F.COMMIT_OPT_AT_TIDE (i : Nat) : Fld := ⟨(R.COMMIT_OPT i), 1, 1⟩

/-- COMMIT_OPT.SCOPE [0:0] RW. -/
def F.COMMIT_OPT_SCOPE (i : Nat) : Fld := ⟨(R.COMMIT_OPT i), 0, 0⟩

/-- COMMIT_TIDE (R80). -/
abbrev R.COMMIT_TIDE (i : Nat) : Nat := 0x200108 + i * 0x40

/-- COMMIT_TIDE.TIDE [47:0] RW. -/
def F.COMMIT_TIDE_TIDE (i : Nat) : Fld := ⟨(R.COMMIT_TIDE i), 47, 0⟩

/-- COMMIT_STAT (R80). -/
abbrev R.COMMIT_STAT (i : Nat) : Nat := 0x200110 + i * 0x40

/-- COMMIT_STAT.PAGES [31:24] RO. -/
def F.COMMIT_STAT_PAGES (i : Nat) : Fld := ⟨(R.COMMIT_STAT i), 31, 24⟩

/-- COMMIT_STAT.RESULT [15:8] RO. -/
def F.COMMIT_STAT_RESULT (i : Nat) : Fld := ⟨(R.COMMIT_STAT i), 15, 8⟩

/-- COMMIT_STAT.STATE [2:0] RO. -/
def F.COMMIT_STAT_STATE (i : Nat) : Fld := ⟨(R.COMMIT_STAT i), 2, 0⟩

/-- COMMIT_FAIL (R80). -/
abbrev R.COMMIT_FAIL (i : Nat) : Nat := 0x200114 + i * 0x40

/-- COMMIT_FAIL.RULE [31:16] RO. -/
def F.COMMIT_FAIL_RULE (i : Nat) : Fld := ⟨(R.COMMIT_FAIL i), 31, 16⟩

/-- COMMIT_FAIL.CLASS [15:8] RO. -/
def F.COMMIT_FAIL_CLASS (i : Nat) : Fld := ⟨(R.COMMIT_FAIL i), 15, 8⟩

/-- COMMIT_FAIL.INSTANCE [7:0] RO. -/
def F.COMMIT_FAIL_INSTANCE (i : Nat) : Fld := ⟨(R.COMMIT_FAIL i), 7, 0⟩

/-- COMMIT_FAIL_AT (R80). -/
abbrev R.COMMIT_FAIL_AT (i : Nat) : Nat := 0x200118 + i * 0x40

/-- COMMIT_FAIL_AT.REMOTE [20:20] RO. -/
def F.COMMIT_FAIL_AT_REMOTE (i : Nat) : Fld := ⟨(R.COMMIT_FAIL_AT i), 20, 20⟩

/-- COMMIT_FAIL_AT.SLOT [19:16] RO. -/
def F.COMMIT_FAIL_AT_SLOT (i : Nat) : Fld := ⟨(R.COMMIT_FAIL_AT i), 19, 16⟩

/-- COMMIT_FAIL_AT.OFFSET [10:0] RO. -/
def F.COMMIT_FAIL_AT_OFFSET (i : Nat) : Fld := ⟨(R.COMMIT_FAIL_AT i), 10, 0⟩

/-- COMMIT_GEN (R80). -/
abbrev R.COMMIT_GEN (i : Nat) : Nat := 0x20011C + i * 0x40

/-- COMMIT_GEN.GEN [15:0] RO. -/
def F.COMMIT_GEN_GEN (i : Nat) : Fld := ⟨(R.COMMIT_GEN i), 15, 0⟩

/-- COMMIT_DONE_TIDE (R80). -/
abbrev R.COMMIT_DONE_TIDE (i : Nat) : Nat := 0x200120 + i * 0x40

/-- COMMIT_DONE_TIDE.TIDE [47:0] RO. -/
def F.COMMIT_DONE_TIDE_TIDE (i : Nat) : Fld := ⟨(R.COMMIT_DONE_TIDE i), 47, 0⟩

/-- COMMIT_RULE_IDX (R80). -/
abbrev R.COMMIT_RULE_IDX : Nat := 0x200200

/-- COMMIT_RULE_IDX.RECORD [11:0] RW. -/
def F.COMMIT_RULE_IDX_RECORD : Fld := ⟨R.COMMIT_RULE_IDX, 11, 0⟩

/-- COMMIT_RULE_COUNT (R80). -/
abbrev R.COMMIT_RULE_COUNT : Nat := 0x200204

/-- COMMIT_RULE_COUNT.COUNT [11:0] RO. -/
def F.COMMIT_RULE_COUNT_COUNT : Fld := ⟨R.COMMIT_RULE_COUNT, 11, 0⟩

/-- COMMIT_RULE_DATA (R80). -/
abbrev R.COMMIT_RULE_DATA (i : Nat) : Nat := 0x200208 + i * 0x4

/-- COMMIT_RULE_DATA [31:0] RO. -/
def F.COMMIT_RULE_DATA (i : Nat) : Fld := ⟨(R.COMMIT_RULE_DATA i), 31, 0⟩

/-- COMMIT_CNT_APPLIED (R80). -/
abbrev R.COMMIT_CNT_APPLIED : Nat := 0x200230

/-- COMMIT_CNT_APPLIED [31:0] RO. -/
def F.COMMIT_CNT_APPLIED : Fld := ⟨R.COMMIT_CNT_APPLIED, 31, 0⟩

/-- COMMIT_CNT_FAILED (R80). -/
abbrev R.COMMIT_CNT_FAILED : Nat := 0x200234

/-- COMMIT_CNT_FAILED [31:0] RO. -/
def F.COMMIT_CNT_FAILED : Fld := ⟨R.COMMIT_CNT_FAILED, 31, 0⟩

/-- HOLM_ID (R81). -/
abbrev R.HOLM_ID : Nat := 0x80

/-- HOLM_ID.PART [31:16] RO. -/
def F.HOLM_ID_PART : Fld := ⟨R.HOLM_ID, 31, 16⟩

/-- HOLM_ID.STEPPING [15:8] RO. -/
def F.HOLM_ID_STEPPING : Fld := ⟨R.HOLM_ID, 15, 8⟩

/-- HOLM_STATE (R81). -/
abbrev R.HOLM_STATE : Nat := 0x84

/-- HOLM_STATE.STATE [3:0] RO. -/
def F.HOLM_STATE_STATE : Fld := ⟨R.HOLM_STATE, 3, 0⟩

/-- HOLM_ATOLLS (R81). -/
abbrev R.HOLM_ATOLLS : Nat := 0x88

/-- HOLM_ATOLLS.LOST_CAUSE [19:16] RO. -/
def F.HOLM_ATOLLS_LOST_CAUSE : Fld := ⟨R.HOLM_ATOLLS, 19, 16⟩

/-- HOLM_ATOLLS.LOST [15:8] RO. -/
def F.HOLM_ATOLLS_LOST : Fld := ⟨R.HOLM_ATOLLS, 15, 8⟩

/-- HOLM_ATOLLS.IN_SERVICE [7:0] RO. -/
def F.HOLM_ATOLLS_IN_SERVICE : Fld := ⟨R.HOLM_ATOLLS, 7, 0⟩

/-- HOLM_SLOT (R81). -/
abbrev R.HOLM_SLOT : Nat := 0x8C

/-- HOLM_SLOT.ASSIGNED [8:8] RO. -/
def F.HOLM_SLOT_ASSIGNED : Fld := ⟨R.HOLM_SLOT, 8, 8⟩

/-- HOLM_SLOT.READING [5:4] RO. -/
def F.HOLM_SLOT_READING : Fld := ⟨R.HOLM_SLOT, 5, 4⟩

/-- HOLM_SLOT.SLOT [3:0] RO. -/
def F.HOLM_SLOT_SLOT : Fld := ⟨R.HOLM_SLOT, 3, 0⟩

/-- HOLM_BOARD (R81). -/
abbrev R.HOLM_BOARD : Nat := 0x90

/-- HOLM_BOARD.SIZE16 [16:16] RO. -/
def F.HOLM_BOARD_SIZE16 : Fld := ⟨R.HOLM_BOARD, 16, 16⟩

/-- HOLM_BOARD.PRESENT [15:0] RO. -/
def F.HOLM_BOARD_PRESENT : Fld := ⟨R.HOLM_BOARD, 15, 0⟩

/-- HOLM_BOOT (R81). -/
abbrev R.HOLM_BOOT : Nat := 0x94

/-- HOLM_BOOT.COUNT [31:0] RO. -/
def F.HOLM_BOOT_COUNT : Fld := ⟨R.HOLM_BOOT, 31, 0⟩

/-- HOLM_ACCESS_ERR (R81). -/
abbrev R.HOLM_ACCESS_ERR : Nat := 0x98

/-- HOLM_ACCESS_ERR.WRITE [31:31] RO. -/
def F.HOLM_ACCESS_ERR_WRITE : Fld := ⟨R.HOLM_ACCESS_ERR, 31, 31⟩

/-- HOLM_ACCESS_ERR.SIZE [30:30] RO. -/
def F.HOLM_ACCESS_ERR_SIZE : Fld := ⟨R.HOLM_ACCESS_ERR, 30, 30⟩

/-- HOLM_ACCESS_ERR.ADDR [25:0] RO. -/
def F.HOLM_ACCESS_ERR_ADDR : Fld := ⟨R.HOLM_ACCESS_ERR, 25, 0⟩

/-- HBR_QREGION (R99). -/
abbrev R.HBR_QREGION : Nat := 0xB00080

/-- HBR_QREGION.BASE [35:25] ST. -/
def F.HBR_QREGION_BASE : Fld := ⟨R.HBR_QREGION, 35, 25⟩

/-- HBR_QCMD (R99). -/
abbrev R.HBR_QCMD : Nat := 0xB00088

/-- HBR_QCMD.QUEUE [14:8] WO. -/
def F.HBR_QCMD_QUEUE : Fld := ⟨R.HBR_QCMD, 14, 8⟩

/-- HBR_QCMD.CMD [1:0] WO. -/
def F.HBR_QCMD_CMD : Fld := ⟨R.HBR_QCMD, 1, 0⟩

/-- HBR_IRQ_ROUTE (R99). -/
abbrev R.HBR_IRQ_ROUTE : Nat := 0xB0008C

/-- HBR_IRQ_ROUTE.BASE [26:16] ST. -/
def F.HBR_IRQ_ROUTE_BASE : Fld := ⟨R.HBR_IRQ_ROUTE, 26, 16⟩

/-- HBR_IRQ_ROUTE.HART [4:0] ST. -/
def F.HBR_IRQ_ROUTE_HART : Fld := ⟨R.HBR_IRQ_ROUTE, 4, 0⟩

/-- HBR_PCIE (R99). -/
abbrev R.HBR_PCIE : Nat := 0xB00090

/-- HBR_PCIE.UP [8:8] RO. -/
def F.HBR_PCIE_UP : Fld := ⟨R.HBR_PCIE, 8, 8⟩

/-- HBR_PCIE.WIDTH [5:1] RO. -/
def F.HBR_PCIE_WIDTH : Fld := ⟨R.HBR_PCIE, 5, 1⟩

/-- HBR_PCIE.WINDOW [0:0] ST, GU. -/
def F.HBR_PCIE_WINDOW : Fld := ⟨R.HBR_PCIE, 0, 0⟩

/-- HBR_ATTACH (R99). -/
abbrev R.HBR_ATTACH : Nat := 0xB00094

/-- HBR_ATTACH.DOWN [7:0] RO. -/
def F.HBR_ATTACH_DOWN : Fld := ⟨R.HBR_ATTACH, 7, 0⟩

/-- HBR_CR_BASE (R99). -/
abbrev R.HBR_CR_BASE (i : Nat) : Nat := 0xB00100 + i * 0x20

/-- HBR_CR_BASE.BASE [35:0] ST. -/
def F.HBR_CR_BASE_BASE (i : Nat) : Fld := ⟨(R.HBR_CR_BASE i), 35, 0⟩

/-- HBR_CR_SIZE (R99). -/
abbrev R.HBR_CR_SIZE (i : Nat) : Nat := 0xB00108 + i * 0x20

/-- HBR_CR_SIZE.EN [4:4] ST. -/
def F.HBR_CR_SIZE_EN (i : Nat) : Fld := ⟨(R.HBR_CR_SIZE i), 4, 4⟩

/-- HBR_CR_SIZE.LOG2 [3:0] ST. -/
def F.HBR_CR_SIZE_LOG2 (i : Nat) : Fld := ⟨(R.HBR_CR_SIZE i), 3, 0⟩

/-- HBR_CR_HEAD (R99). -/
abbrev R.HBR_CR_HEAD (i : Nat) : Nat := 0xB0010C + i * 0x20

/-- HBR_CR_HEAD.HEAD [31:0] RW. -/
def F.HBR_CR_HEAD_HEAD (i : Nat) : Fld := ⟨(R.HBR_CR_HEAD i), 31, 0⟩

/-- HBR_CR_TAIL (R99). -/
abbrev R.HBR_CR_TAIL (i : Nat) : Nat := 0xB00110 + i * 0x20

/-- HBR_CR_TAIL.TAIL [31:0] RO. -/
def F.HBR_CR_TAIL_TAIL (i : Nat) : Fld := ⟨(R.HBR_CR_TAIL i), 31, 0⟩

/-- HBR_CR_DROP (R99). -/
abbrev R.HBR_CR_DROP (i : Nat) : Nat := 0xB00114 + i * 0x20

/-- HBR_CR_DROP.DROP [31:0] RO. -/
def F.HBR_CR_DROP_DROP (i : Nat) : Fld := ⟨(R.HBR_CR_DROP i), 31, 0⟩

/-- HBR_QSTAT (R99). -/
abbrev R.HBR_QSTAT (i : Nat) : Nat := 0xB00400 + i * 0x4

/-- HBR_QSTAT.HALTED [31:31] RO. -/
def F.HBR_QSTAT_HALTED (i : Nat) : Fld := ⟨(R.HBR_QSTAT i), 31, 31⟩

/-- HBR_QSTAT.REJ [30:30] RO. -/
def F.HBR_QSTAT_REJ (i : Nat) : Fld := ⟨(R.HBR_QSTAT i), 30, 30⟩

/-- HBR_QSTAT.HEAD [28:16] RO. -/
def F.HBR_QSTAT_HEAD (i : Nat) : Fld := ⟨(R.HBR_QSTAT i), 28, 16⟩

/-- HBR_QSTAT.TAIL [12:0] RO. -/
def F.HBR_QSTAT_TAIL (i : Nat) : Fld := ⟨(R.HBR_QSTAT i), 12, 0⟩

/-- ARR_GEOM (R131). -/
abbrev R.ARR_GEOM (k : Nat) : Nat := 0x1100000 + k * 0x1000 + 0x80

/-- ARR_GEOM.COLS [26:16] RO. -/
def F.ARR_GEOM_COLS (k : Nat) : Fld := ⟨(R.ARR_GEOM k), 26, 16⟩

/-- ARR_GEOM.ROWS [10:0] RO. -/
def F.ARR_GEOM_ROWS (k : Nat) : Fld := ⟨(R.ARR_GEOM k), 10, 0⟩

/-- ARR_REPAIR (R131). -/
abbrev R.ARR_REPAIR (k : Nat) : Nat := 0x1100000 + k * 0x1000 + 0x84

/-- ARR_REPAIR.FIELD_FAIL [14:14] RO. -/
def F.ARR_REPAIR_FIELD_FAIL (k : Nat) : Fld := ⟨(R.ARR_REPAIR k), 14, 14⟩

/-- ARR_REPAIR.FAIL1 [13:8] RO. -/
def F.ARR_REPAIR_FAIL1 (k : Nat) : Fld := ⟨(R.ARR_REPAIR k), 13, 8⟩

/-- ARR_REPAIR.FAIL0 [5:0] RO. -/
def F.ARR_REPAIR_FAIL0 (k : Nat) : Fld := ⟨(R.ARR_REPAIR k), 5, 0⟩

/-- ARR_STAT (R131). -/
abbrev R.ARR_STAT (k : Nat) : Nat := 0x1100000 + k * 0x1000 + 0x88

/-- ARR_STAT.BANK1 [6:5] RO. -/
def F.ARR_STAT_BANK1 (k : Nat) : Fld := ⟨(R.ARR_STAT k), 6, 5⟩

/-- ARR_STAT.BANK0 [4:3] RO. -/
def F.ARR_STAT_BANK0 (k : Nat) : Fld := ⟨(R.ARR_STAT k), 4, 3⟩

/-- ARR_STAT.DRAIN_HELD [2:2] RO. -/
def F.ARR_STAT_DRAIN_HELD (k : Nat) : Fld := ⟨(R.ARR_STAT k), 2, 2⟩

/-- ARR_STAT.STARVED [1:1] RO. -/
def F.ARR_STAT_STARVED (k : Nat) : Fld := ⟨(R.ARR_STAT k), 1, 1⟩

/-- ARR_STAT.BUSY [0:0] RO. -/
def F.ARR_STAT_BUSY (k : Nat) : Fld := ⟨(R.ARR_STAT k), 0, 0⟩

/-- ARR_FAULT (R131). -/
abbrev R.ARR_FAULT (k : Nat) : Nat := 0x1100000 + k * 0x1000 + 0x8C

/-- ARR_FAULT.CODE [3:0] RO. -/
def F.ARR_FAULT_CODE (k : Nat) : Fld := ⟨(R.ARR_FAULT k), 3, 0⟩

/-- ARR_TEST (R131). -/
abbrev R.ARR_TEST (k : Nat) : Nat := 0x1100000 + k * 0x1000 + 0x90

/-- ARR_TEST.FAILCOL [13:8] RO. -/
def F.ARR_TEST_FAILCOL (k : Nat) : Fld := ⟨(R.ARR_TEST k), 13, 8⟩

/-- ARR_TEST.FAIL [2:2] RO. -/
def F.ARR_TEST_FAIL (k : Nat) : Fld := ⟨(R.ARR_TEST k), 2, 2⟩

/-- ARR_TEST.DONE [1:1] RO. -/
def F.ARR_TEST_DONE (k : Nat) : Fld := ⟨(R.ARR_TEST k), 1, 1⟩

/-- ARR_TEST.START [0:0] WO, GU. -/
def F.ARR_TEST_START (k : Nat) : Fld := ⟨(R.ARR_TEST k), 0, 0⟩

/-- ARR_STARVE_THR (R131). -/
abbrev R.ARR_STARVE_THR (k : Nat) : Nat := 0x1100000 + k * 0x1000 + 0x94

/-- ARR_STARVE_THR.CLOCKS [23:0] ST. -/
def F.ARR_STARVE_THR_CLOCKS (k : Nat) : Fld := ⟨(R.ARR_STARVE_THR k), 23, 0⟩

/-- ARR_STARVE_LAST (R131). -/
abbrev R.ARR_STARVE_LAST (k : Nat) : Nat := 0x1100000 + k * 0x1000 + 0x98

/-- ARR_STARVE_LAST [31:0] RO. -/
def F.ARR_STARVE_LAST (k : Nat) : Fld := ⟨(R.ARR_STARVE_LAST k), 31, 0⟩

/-- ARR_DRAIN_LAST (R131). -/
abbrev R.ARR_DRAIN_LAST (k : Nat) : Nat := 0x1100000 + k * 0x1000 + 0x9C

/-- ARR_DRAIN_LAST [31:0] RO. -/
def F.ARR_DRAIN_LAST (k : Nat) : Fld := ⟨(R.ARR_DRAIN_LAST k), 31, 0⟩

/-- ARR_STEPS_LAST (R131). -/
abbrev R.ARR_STEPS_LAST (k : Nat) : Nat := 0x1100000 + k * 0x1000 + 0xA0

/-- ARR_STEPS_LAST [31:0] RO. -/
def F.ARR_STEPS_LAST (k : Nat) : Fld := ⟨(R.ARR_STEPS_LAST k), 31, 0⟩

/-- ARR_CNT_STARVE (R131). -/
abbrev R.ARR_CNT_STARVE (k : Nat) : Nat := 0x1100000 + k * 0x1000 + 0xA8

/-- ARR_CNT_STARVE [63:0] RO. -/
def F.ARR_CNT_STARVE (k : Nat) : Fld := ⟨(R.ARR_CNT_STARVE k), 63, 0⟩

/-- ARR_CNT_DRAIN (R131). -/
abbrev R.ARR_CNT_DRAIN (k : Nat) : Nat := 0x1100000 + k * 0x1000 + 0xB0

/-- ARR_CNT_DRAIN [63:0] RO. -/
def F.ARR_CNT_DRAIN (k : Nat) : Fld := ⟨(R.ARR_CNT_DRAIN k), 63, 0⟩

/-- ARR_CNT_STEPS (R131). -/
abbrev R.ARR_CNT_STEPS (k : Nat) : Nat := 0x1100000 + k * 0x1000 + 0xB8

/-- ARR_CNT_STEPS [63:0] RO. -/
def F.ARR_CNT_STEPS (k : Nat) : Fld := ⟨(R.ARR_CNT_STEPS k), 63, 0⟩

/-- FEED_FERRY (R132). -/
abbrev R.FEED_FERRY (k : Nat) : Nat := 0x1200000 + k * 0x1000 + 0x80

/-- FEED_FERRY.SRC_PEER [11:11] ST. -/
def F.FEED_FERRY_SRC_PEER (k : Nat) : Fld := ⟨(R.FEED_FERRY k), 11, 11⟩

/-- FEED_FERRY.PEER_EN [10:10] ST. -/
def F.FEED_FERRY_PEER_EN (k : Nat) : Fld := ⟨(R.FEED_FERRY k), 10, 10⟩

/-- FEED_FERRY.PEER_PORT [8:8] ST. -/
def F.FEED_FERRY_PEER_PORT (k : Nat) : Fld := ⟨(R.FEED_FERRY k), 8, 8⟩

/-- FEED_FERRY.PEER_SLOT [7:4] ST. -/
def F.FEED_FERRY_PEER_SLOT (k : Nat) : Fld := ⟨(R.FEED_FERRY k), 7, 4⟩

/-- FEED_FERRY.ROLE [1:0] ST. -/
def F.FEED_FERRY_ROLE (k : Nat) : Fld := ⟨(R.FEED_FERRY k), 1, 0⟩

/-- FEED_FERRY_STAT (R132). -/
abbrev R.FEED_FERRY_STAT (k : Nat) : Nat := 0x1200000 + k * 0x1000 + 0x84

/-- FEED_FERRY_STAT.OUT_PEND [20:16] RO. -/
def F.FEED_FERRY_STAT_OUT_PEND (k : Nat) : Fld := ⟨(R.FEED_FERRY_STAT k), 20, 16⟩

/-- FEED_FERRY_STAT.ARRIVING [15:0] RO. -/
def F.FEED_FERRY_STAT_ARRIVING (k : Nat) : Fld := ⟨(R.FEED_FERRY_STAT k), 15, 0⟩

/-- FEED_FERRY_TAG (R132). -/
abbrev R.FEED_FERRY_TAG (k : Nat) (i : Nat) : Nat := 0x1200000 + k * 0x1000 + 0x100 + i * 0x4

/-- FEED_FERRY_TAG.VALID [31:31] RO. -/
def F.FEED_FERRY_TAG_VALID (k : Nat) (i : Nat) : Fld := ⟨(R.FEED_FERRY_TAG k i), 31, 31⟩

/-- FEED_FERRY_TAG.NUM [15:0] RO. -/
def F.FEED_FERRY_TAG_NUM (k : Nat) (i : Nat) : Fld := ⟨(R.FEED_FERRY_TAG k i), 15, 0⟩

/-- FEED_CNT_CONFLICT (R132). -/
abbrev R.FEED_CNT_CONFLICT (k : Nat) : Nat := 0x1200000 + k * 0x1000 + 0x88

/-- FEED_CNT_CONFLICT [31:0] RO. -/
def F.FEED_CNT_CONFLICT (k : Nat) : Fld := ⟨(R.FEED_CNT_CONFLICT k), 31, 0⟩

/-- FEED_QMIN_LAST (R132). -/
abbrev R.FEED_QMIN_LAST (k : Nat) : Nat := 0x1200000 + k * 0x1000 + 0x8C

/-- FEED_QMIN_LAST.QMIN [7:0] RO. -/
def F.FEED_QMIN_LAST_QMIN (k : Nat) : Fld := ⟨(R.FEED_QMIN_LAST k), 7, 0⟩

/-- FEED_CNT_FERRY_TX (R132). -/
abbrev R.FEED_CNT_FERRY_TX (k : Nat) : Nat := 0x1200000 + k * 0x1000 + 0x90

/-- FEED_CNT_FERRY_TX [63:0] RO. -/
def F.FEED_CNT_FERRY_TX (k : Nat) : Fld := ⟨(R.FEED_CNT_FERRY_TX k), 63, 0⟩

/-- FEED_CNT_FERRY_RX (R132). -/
abbrev R.FEED_CNT_FERRY_RX (k : Nat) : Nat := 0x1200000 + k * 0x1000 + 0x98

/-- FEED_CNT_FERRY_RX [63:0] RO. -/
def F.FEED_CNT_FERRY_RX (k : Nat) : Fld := ⟨(R.FEED_CNT_FERRY_RX k), 63, 0⟩

/-- FEED_CNT_ORPHAN (R132). -/
abbrev R.FEED_CNT_ORPHAN (k : Nat) : Nat := 0x1200000 + k * 0x1000 + 0xA0

/-- FEED_CNT_ORPHAN [31:0] RO. -/
def F.FEED_CNT_ORPHAN (k : Nat) : Fld := ⟨(R.FEED_CNT_ORPHAN k), 31, 0⟩

/-- VEC_STAT (R209). -/
abbrev R.VEC_STAT (k : Nat) : Nat := 0x1400000 + k * 0x1000 + 0x80

/-- VEC_STAT.MAIN_BUSY [9:9] RO. -/
def F.VEC_STAT_MAIN_BUSY (k : Nat) : Fld := ⟨(R.VEC_STAT k), 9, 9⟩

/-- VEC_STAT.DRAIN_BUSY [8:8] RO. -/
def F.VEC_STAT_DRAIN_BUSY (k : Nat) : Fld := ⟨(R.VEC_STAT k), 8, 8⟩

/-- VEC_STAT.TAB_VALID [3:0] RO. -/
def F.VEC_STAT_TAB_VALID (k : Nat) : Fld := ⟨(R.VEC_STAT k), 3, 0⟩

/-- VEC_FAULT (R209). -/
abbrev R.VEC_FAULT (k : Nat) : Nat := 0x1400000 + k * 0x1000 + 0x84

/-- VEC_FAULT.CODE [3:0] RO. -/
def F.VEC_FAULT_CODE (k : Nat) : Fld := ⟨(R.VEC_FAULT k), 3, 0⟩

/-- VEC_GCG_BASE (R209). -/
abbrev R.VEC_GCG_BASE (k : Nat) : Nat := 0x1400000 + k * 0x1000 + 0x88

/-- VEC_GCG_BASE.ADDR [51:0] ST. -/
def F.VEC_GCG_BASE_ADDR (k : Nat) : Fld := ⟨(R.VEC_GCG_BASE k), 51, 0⟩

/-- VEC_GCG (R209). -/
abbrev R.VEC_GCG (k : Nat) : Nat := 0x1400000 + k * 0x1000 + 0x90

/-- VEC_GCG.COUNT [12:0] ST. -/
def F.VEC_GCG_COUNT (k : Nat) : Fld := ⟨(R.VEC_GCG k), 12, 0⟩

/-- VEC_TAB (R209). -/
abbrev R.VEC_TAB (k : Nat) (i : Nat) : Nat := 0x1400000 + k * 0x1000 + 0x100 + i * 0x4

/-- VEC_TAB.VALID [31:31] RO. -/
def F.VEC_TAB_VALID (k : Nat) (i : Nat) : Fld := ⟨(R.VEC_TAB k i), 31, 31⟩

/-- VEC_TAB.TAG [15:0] RO. -/
def F.VEC_TAB_TAG (k : Nat) (i : Nat) : Fld := ⟨(R.VEC_TAB k i), 15, 0⟩

/-- VEC_MAIN_LAST (R209). -/
abbrev R.VEC_MAIN_LAST (k : Nat) : Nat := 0x1400000 + k * 0x1000 + 0xA0

/-- VEC_MAIN_LAST [31:0] RO. -/
def F.VEC_MAIN_LAST (k : Nat) : Fld := ⟨(R.VEC_MAIN_LAST k), 31, 0⟩

/-- VEC_DRAIN_LAST (R209). -/
abbrev R.VEC_DRAIN_LAST (k : Nat) : Nat := 0x1400000 + k * 0x1000 + 0xA4

/-- VEC_DRAIN_LAST [31:0] RO. -/
def F.VEC_DRAIN_LAST (k : Nat) : Fld := ⟨(R.VEC_DRAIN_LAST k), 31, 0⟩

/-- VEC_DWAIT_LAST (R209). -/
abbrev R.VEC_DWAIT_LAST (k : Nat) : Nat := 0x1400000 + k * 0x1000 + 0xA8

/-- VEC_DWAIT_LAST [31:0] RO. -/
def F.VEC_DWAIT_LAST (k : Nat) : Fld := ⟨(R.VEC_DWAIT_LAST k), 31, 0⟩

/-- VEC_CNT_FULLMASK (R209). -/
abbrev R.VEC_CNT_FULLMASK (k : Nat) : Nat := 0x1400000 + k * 0x1000 + 0xB0

/-- VEC_CNT_FULLMASK [31:0] RO. -/
def F.VEC_CNT_FULLMASK (k : Nat) : Fld := ⟨(R.VEC_CNT_FULLMASK k), 31, 0⟩

/-- VEC_CNT_OOB (R209). -/
abbrev R.VEC_CNT_OOB (k : Nat) : Nat := 0x1400000 + k * 0x1000 + 0xB4

/-- VEC_CNT_OOB [31:0] RO. -/
def F.VEC_CNT_OOB (k : Nat) : Fld := ⟨(R.VEC_CNT_OOB k), 31, 0⟩

/-- VEC_CNT_RANGE_LO (R209). -/
abbrev R.VEC_CNT_RANGE_LO (k : Nat) : Nat := 0x1400000 + k * 0x1000 + 0xB8

/-- VEC_CNT_RANGE_LO [31:0] RO. -/
def F.VEC_CNT_RANGE_LO (k : Nat) : Fld := ⟨(R.VEC_CNT_RANGE_LO k), 31, 0⟩

/-- VEC_CNT_RANGE_HI (R209). -/
abbrev R.VEC_CNT_RANGE_HI (k : Nat) : Nat := 0x1400000 + k * 0x1000 + 0xBC

/-- VEC_CNT_RANGE_HI [31:0] RO. -/
def F.VEC_CNT_RANGE_HI (k : Nat) : Fld := ⟨(R.VEC_CNT_RANGE_HI k), 31, 0⟩

/-- VEC_CNT_XA_OVF (R209). -/
abbrev R.VEC_CNT_XA_OVF (k : Nat) : Nat := 0x1400000 + k * 0x1000 + 0xC0

/-- VEC_CNT_XA_OVF [31:0] RO. -/
def F.VEC_CNT_XA_OVF (k : Nat) : Fld := ⟨(R.VEC_CNT_XA_OVF k), 31, 0⟩

/-- SEQ_STAT (R231). -/
abbrev R.SEQ_STAT (k : Nat) : Nat := 0x1500000 + k * 0x1000 + 0x80

/-- SEQ_STAT.LOOPS [21:19] RO. -/
def F.SEQ_STAT_LOOPS (k : Nat) : Fld := ⟨(R.SEQ_STAT k), 21, 19⟩

/-- SEQ_STAT.DEPTH [18:13] RO. -/
def F.SEQ_STAT_DEPTH (k : Nat) : Fld := ⟨(R.SEQ_STAT k), 18, 13⟩

/-- SEQ_STAT.QUEUE [12:9] RO. -/
def F.SEQ_STAT_QUEUE (k : Nat) : Fld := ⟨(R.SEQ_STAT k), 12, 9⟩

/-- SEQ_STAT.OPEN [8:8] RO. -/
def F.SEQ_STAT_OPEN (k : Nat) : Fld := ⟨(R.SEQ_STAT k), 8, 8⟩

/-- SEQ_STAT.STATE [3:0] RO. -/
def F.SEQ_STAT_STATE (k : Nat) : Fld := ⟨(R.SEQ_STAT k), 3, 0⟩

/-- SEQ_PC (R231). -/
abbrev R.SEQ_PC (k : Nat) : Nat := 0x1500000 + k * 0x1000 + 0x84

/-- SEQ_PC.PC [21:0] RO. -/
def F.SEQ_PC_PC (k : Nat) : Fld := ⟨(R.SEQ_PC k), 21, 0⟩

/-- SEQ_SLICE (R231). -/
abbrev R.SEQ_SLICE (k : Nat) : Nat := 0x1500000 + k * 0x1000 + 0x88

/-- SEQ_SLICE.RUNS [31:28] RO. -/
def F.SEQ_SLICE_RUNS (k : Nat) : Fld := ⟨(R.SEQ_SLICE k), 31, 28⟩

/-- SEQ_SLICE.PHASE [11:0] RO. -/
def F.SEQ_SLICE_PHASE (k : Nat) : Fld := ⟨(R.SEQ_SLICE k), 11, 0⟩

/-- SEQ_BUDGET (R231). -/
abbrev R.SEQ_BUDGET (k : Nat) : Nat := 0x1500000 + k * 0x1000 + 0x8C

/-- SEQ_BUDGET.BUDGET [25:0] RO. -/
def F.SEQ_BUDGET_BUDGET (k : Nat) : Fld := ⟨(R.SEQ_BUDGET k), 25, 0⟩

/-- SEQ_FAULT (R231). -/
abbrev R.SEQ_FAULT (k : Nat) : Nat := 0x1500000 + k * 0x1000 + 0x90

/-- SEQ_FAULT.BUNDLE [18:4] RO. -/
def F.SEQ_FAULT_BUNDLE (k : Nat) : Fld := ⟨(R.SEQ_FAULT k), 18, 4⟩

/-- SEQ_FAULT.CODE [3:0] RO. -/
def F.SEQ_FAULT_CODE (k : Nat) : Fld := ⟨(R.SEQ_FAULT k), 3, 0⟩

/-- SEQ_STALL_THR (R231). -/
abbrev R.SEQ_STALL_THR (k : Nat) : Nat := 0x1500000 + k * 0x1000 + 0x94

/-- SEQ_STALL_THR.CLOCKS [23:0] ST. -/
def F.SEQ_STALL_THR_CLOCKS (k : Nat) : Fld := ⟨(R.SEQ_STALL_THR k), 23, 0⟩

/-- RES_VAL (R231). -/
abbrev R.RES_VAL (k : Nat) (i : Nat) : Nat := 0x1500000 + k * 0x1000 + 0x100 + i * 0x10

/-- RES_VAL [63:0] RO. -/
def F.RES_VAL (k : Nat) (i : Nat) : Fld := ⟨(R.RES_VAL k i), 63, 0⟩

/-- RES_TAG (R231). -/
abbrev R.RES_TAG (k : Nat) (i : Nat) : Nat := 0x1500000 + k * 0x1000 + 0x108 + i * 0x10

/-- RES_TAG [31:0] RO. -/
def F.RES_TAG (k : Nat) (i : Nat) : Fld := ⟨(R.RES_TAG k i), 31, 0⟩

/-- SEQ_STALL_LAST (R231). -/
abbrev R.SEQ_STALL_LAST (k : Nat) : Nat := 0x1500000 + k * 0x1000 + 0x200

/-- SEQ_STALL_LAST [31:0] RO. -/
def F.SEQ_STALL_LAST (k : Nat) : Fld := ⟨(R.SEQ_STALL_LAST k), 31, 0⟩

/-- SEQ_BUNDLES_LAST (R231). -/
abbrev R.SEQ_BUNDLES_LAST (k : Nat) : Nat := 0x1500000 + k * 0x1000 + 0x204

/-- SEQ_BUNDLES_LAST [31:0] RO. -/
def F.SEQ_BUNDLES_LAST (k : Nat) : Fld := ⟨(R.SEQ_BUNDLES_LAST k), 31, 0⟩

/-- SEQ_CNT_SLICES (R231). -/
abbrev R.SEQ_CNT_SLICES (k : Nat) : Nat := 0x1500000 + k * 0x1000 + 0x208

/-- SEQ_CNT_SLICES [31:0] RO. -/
def F.SEQ_CNT_SLICES (k : Nat) : Fld := ⟨(R.SEQ_CNT_SLICES k), 31, 0⟩

/-- SEQ_CNT_FITWAIT (R231). -/
abbrev R.SEQ_CNT_FITWAIT (k : Nat) : Nat := 0x1500000 + k * 0x1000 + 0x20C

/-- SEQ_CNT_FITWAIT [31:0] RO. -/
def F.SEQ_CNT_FITWAIT (k : Nat) : Fld := ⟨(R.SEQ_CNT_FITWAIT k), 31, 0⟩

/-- SEQ_CNT_FAULT (R231). -/
abbrev R.SEQ_CNT_FAULT (k : Nat) : Nat := 0x1500000 + k * 0x1000 + 0x210

/-- SEQ_CNT_FAULT [31:0] RO. -/
def F.SEQ_CNT_FAULT (k : Nat) : Fld := ⟨(R.SEQ_CNT_FAULT k), 31, 0⟩

/-- SEQ_CNT_CUT (R231). -/
abbrev R.SEQ_CNT_CUT (k : Nat) : Nat := 0x1500000 + k * 0x1000 + 0x214

/-- SEQ_CNT_CUT [31:0] RO. -/
def F.SEQ_CNT_CUT (k : Nat) : Fld := ⟨(R.SEQ_CNT_CUT k), 31, 0⟩

/-- SEQ_CNT_OVERSIZE (R231). -/
abbrev R.SEQ_CNT_OVERSIZE (k : Nat) : Nat := 0x1500000 + k * 0x1000 + 0x218

/-- SEQ_CNT_OVERSIZE [31:0] RO. -/
def F.SEQ_CNT_OVERSIZE (k : Nat) : Fld := ⟨(R.SEQ_CNT_OVERSIZE k), 31, 0⟩

/-- SEQ_CNT_ABANDON (R231). -/
abbrev R.SEQ_CNT_ABANDON (k : Nat) : Nat := 0x1500000 + k * 0x1000 + 0x21C

/-- SEQ_CNT_ABANDON [31:0] RO. -/
def F.SEQ_CNT_ABANDON (k : Nat) : Fld := ⟨(R.SEQ_CNT_ABANDON k), 31, 0⟩

/-- ATL_ID (R233). -/
abbrev R.ATL_ID (k : Nat) : Nat := 0x1000000 + k * 0x1000 + 0x80

/-- ATL_ID.IN_SERVICE [8:8] RO. -/
def F.ATL_ID_IN_SERVICE (k : Nat) : Fld := ⟨(R.ATL_ID k), 8, 8⟩

/-- ATL_ID.ATOLL [2:0] RO. -/
def F.ATL_ID_ATOLL (k : Nat) : Fld := ⟨(R.ATL_ID k), 2, 0⟩

/-- ATL_ILOAD_SRC (R233). -/
abbrev R.ATL_ILOAD_SRC (k : Nat) : Nat := 0x1000000 + k * 0x1000 + 0x88

/-- ATL_ILOAD_SRC.ADDR [51:0] RW. -/
def F.ATL_ILOAD_SRC_ADDR (k : Nat) : Fld := ⟨(R.ATL_ILOAD_SRC k), 51, 0⟩

/-- ATL_ILOAD (R233). -/
abbrev R.ATL_ILOAD (k : Nat) : Nat := 0x1000000 + k * 0x1000 + 0x90

/-- ATL_ILOAD.GO [31:31] WO, GU. -/
def F.ATL_ILOAD_GO (k : Nat) : Fld := ⟨(R.ATL_ILOAD k), 31, 31⟩

/-- ATL_ILOAD.COUNT [29:15] RW. -/
def F.ATL_ILOAD_COUNT (k : Nat) : Fld := ⟨(R.ATL_ILOAD k), 29, 15⟩

/-- ATL_ILOAD.FIRST [14:0] RW. -/
def F.ATL_ILOAD_FIRST (k : Nat) : Fld := ⟨(R.ATL_ILOAD k), 14, 0⟩

/-- ATL_ILOAD_STAT (R233). -/
abbrev R.ATL_ILOAD_STAT (k : Nat) : Nat := 0x1000000 + k * 0x1000 + 0x94

/-- ATL_ILOAD_STAT.ERR [2:2] RO. -/
def F.ATL_ILOAD_STAT_ERR (k : Nat) : Fld := ⟨(R.ATL_ILOAD_STAT k), 2, 2⟩

/-- ATL_ILOAD_STAT.DONE [1:1] RO. -/
def F.ATL_ILOAD_STAT_DONE (k : Nat) : Fld := ⟨(R.ATL_ILOAD_STAT k), 1, 1⟩

/-- ATL_ILOAD_STAT.BUSY [0:0] RO. -/
def F.ATL_ILOAD_STAT_BUSY (k : Nat) : Fld := ⟨(R.ATL_ILOAD_STAT k), 0, 0⟩

/-- COVE_STAT (R249). -/
abbrev R.COVE_STAT (k : Nat) : Nat := 0x1300000 + k * 0x1000 + 0x80

/-- COVE_STAT.COL_SLABS [5:4] RO. -/
def F.COVE_STAT_COL_SLABS (k : Nat) : Fld := ⟨(R.COVE_STAT k), 5, 4⟩

/-- COVE_STAT.ROW_SLABS [3:2] RO. -/
def F.COVE_STAT_ROW_SLABS (k : Nat) : Fld := ⟨(R.COVE_STAT k), 3, 2⟩

/-- COVE_STAT.COL_BUSY [1:1] RO. -/
def F.COVE_STAT_COL_BUSY (k : Nat) : Fld := ⟨(R.COVE_STAT k), 1, 1⟩

/-- COVE_STAT.ROW_BUSY [0:0] RO. -/
def F.COVE_STAT_ROW_BUSY (k : Nat) : Fld := ⟨(R.COVE_STAT k), 0, 0⟩

/-- COVE_WGD_BASE (R249). -/
abbrev R.COVE_WGD_BASE (k : Nat) : Nat := 0x1300000 + k * 0x1000 + 0x88

/-- COVE_WGD_BASE.ADDR [51:0] ST. -/
def F.COVE_WGD_BASE_ADDR (k : Nat) : Fld := ⟨(R.COVE_WGD_BASE k), 51, 0⟩

/-- COVE_WGD_COUNT (R249). -/
abbrev R.COVE_WGD_COUNT (k : Nat) : Nat := 0x1300000 + k * 0x1000 + 0x90

/-- COVE_WGD_COUNT.COUNT [10:0] ST. -/
def F.COVE_WGD_COUNT_COUNT (k : Nat) : Fld := ⟨(R.COVE_WGD_COUNT k), 10, 0⟩

/-- COVE_UWR_LAST (R249). -/
abbrev R.COVE_UWR_LAST (k : Nat) : Nat := 0x1300000 + k * 0x1000 + 0x94

/-- COVE_UWR_LAST.RATIO [31:0] RO. -/
def F.COVE_UWR_LAST_RATIO (k : Nat) : Fld := ⟨(R.COVE_UWR_LAST k), 31, 0⟩

/-- COVE_UWR_INFO (R249). -/
abbrev R.COVE_UWR_INFO (k : Nat) : Nat := 0x1300000 + k * 0x1000 + 0x98

/-- COVE_UWR_INFO.LAYER [31:16] RO. -/
def F.COVE_UWR_INFO_LAYER (k : Nat) : Fld := ⟨(R.COVE_UWR_INFO k), 31, 16⟩

/-- COVE_UWR_INFO.STATUS [4:0] RO. -/
def F.COVE_UWR_INFO_STATUS (k : Nat) : Fld := ⟨(R.COVE_UWR_INFO k), 4, 0⟩

/-- COVE_UWR_BREACH (R249). -/
abbrev R.COVE_UWR_BREACH (k : Nat) : Nat := 0x1300000 + k * 0x1000 + 0x9C

/-- COVE_UWR_BREACH.LAYER [31:16] RO. -/
def F.COVE_UWR_BREACH_LAYER (k : Nat) : Fld := ⟨(R.COVE_UWR_BREACH k), 31, 16⟩

/-- COVE_UWR_BREACH.HIGH [1:1] RO. -/
def F.COVE_UWR_BREACH_HIGH (k : Nat) : Fld := ⟨(R.COVE_UWR_BREACH k), 1, 1⟩

/-- COVE_UWR_BREACH.LOW [0:0] RO. -/
def F.COVE_UWR_BREACH_LOW (k : Nat) : Fld := ⟨(R.COVE_UWR_BREACH k), 0, 0⟩

/-- COVE_FILL_LAST (R249). -/
abbrev R.COVE_FILL_LAST (k : Nat) : Nat := 0x1300000 + k * 0x1000 + 0xA0

/-- COVE_FILL_LAST [31:0] RO. -/
def F.COVE_FILL_LAST (k : Nat) : Fld := ⟨(R.COVE_FILL_LAST k), 31, 0⟩

/-- COVE_CNT_SLABS (R249). -/
abbrev R.COVE_CNT_SLABS (k : Nat) : Nat := 0x1300000 + k * 0x1000 + 0xA8

/-- COVE_CNT_SLABS [63:0] RO. -/
def F.COVE_CNT_SLABS (k : Nat) : Fld := ⟨(R.COVE_CNT_SLABS k), 63, 0⟩

/-- COVE_CNT_FINISH (R249). -/
abbrev R.COVE_CNT_FINISH (k : Nat) : Nat := 0x1300000 + k * 0x1000 + 0xB0

/-- COVE_CNT_FINISH [31:0] RO. -/
def F.COVE_CNT_FINISH (k : Nat) : Fld := ⟨(R.COVE_CNT_FINISH k), 31, 0⟩

/-- COVE_CNT_LOW (R249). -/
abbrev R.COVE_CNT_LOW (k : Nat) : Nat := 0x1300000 + k * 0x1000 + 0xB4

/-- COVE_CNT_LOW [31:0] RO. -/
def F.COVE_CNT_LOW (k : Nat) : Fld := ⟨(R.COVE_CNT_LOW k), 31, 0⟩

/-- COVE_CNT_HIGH (R249). -/
abbrev R.COVE_CNT_HIGH (k : Nat) : Nat := 0x1300000 + k * 0x1000 + 0xB8

/-- COVE_CNT_HIGH [31:0] RO. -/
def F.COVE_CNT_HIGH (k : Nat) : Fld := ⟨(R.COVE_CNT_HIGH k), 31, 0⟩

/-- COVE_CNT_PARTIAL (R249). -/
abbrev R.COVE_CNT_PARTIAL (k : Nat) : Nat := 0x1300000 + k * 0x1000 + 0xBC

/-- COVE_CNT_PARTIAL [31:0] RO. -/
def F.COVE_CNT_PARTIAL (k : Nat) : Fld := ⟨(R.COVE_CNT_PARTIAL k), 31, 0⟩

/-- COVE_CNT_SKIP (R249). -/
abbrev R.COVE_CNT_SKIP (k : Nat) : Nat := 0x1300000 + k * 0x1000 + 0xC0

/-- COVE_CNT_SKIP [31:0] RO. -/
def F.COVE_CNT_SKIP (k : Nat) : Fld := ⟨(R.COVE_CNT_SKIP k), 31, 0⟩

/-- MC_STAT (R274). -/
abbrev R.MC_STAT (k : Nat) : Nat := 0x1A00000 + k * 0x1000 + 0x80

/-- MC_STAT.MAPPED [31:28] RO. -/
def F.MC_STAT_MAPPED (k : Nat) : Fld := ⟨(R.MC_STAT k), 31, 28⟩

/-- MC_STAT.EBB [27:27] RO. -/
def F.MC_STAT_EBB (k : Nat) : Fld := ⟨(R.MC_STAT k), 27, 27⟩

/-- MC_STAT.WINDOW [26:26] RO. -/
def F.MC_STAT_WINDOW (k : Nat) : Fld := ⟨(R.MC_STAT k), 26, 26⟩

/-- MC_STAT.IN_SERVICE [25:16] RO. -/
def F.MC_STAT_IN_SERVICE (k : Nat) : Fld := ⟨(R.MC_STAT k), 25, 16⟩

/-- MC_STAT.RETIRED [10:0] RO. -/
def F.MC_STAT_RETIRED (k : Nat) : Fld := ⟨(R.MC_STAT k), 10, 0⟩

/-- MC_ALLOC_TOP (R274). -/
abbrev R.MC_ALLOC_TOP (k : Nat) : Nat := 0x1A00000 + k * 0x1000 + 0x88

/-- MC_ALLOC_TOP.TOP [37:0] RO. -/
def F.MC_ALLOC_TOP_TOP (k : Nat) : Fld := ⟨(R.MC_ALLOC_TOP k), 37, 0⟩

/-- MC_ECC (R274). -/
abbrev R.MC_ECC (k : Nat) : Nat := 0x1A00000 + k * 0x1000 + 0x90

/-- MC_ECC.MODE [0:0] ST. -/
def F.MC_ECC_MODE (k : Nat) : Fld := ⟨(R.MC_ECC k), 0, 0⟩

/-- MC_SCRUB (R274). -/
abbrev R.MC_SCRUB (k : Nat) : Nat := 0x1A00000 + k * 0x1000 + 0x94

/-- MC_SCRUB.PERIOD [19:0] ST. -/
def F.MC_SCRUB_PERIOD (k : Nat) : Fld := ⟨(R.MC_SCRUB k), 19, 0⟩

/-- MC_RETRAIN (R274). -/
abbrev R.MC_RETRAIN (k : Nat) : Nat := 0x1A00000 + k * 0x1000 + 0x98

/-- MC_RETRAIN.PERIOD [23:0] ST. -/
def F.MC_RETRAIN_PERIOD (k : Nat) : Fld := ⟨(R.MC_RETRAIN k), 23, 0⟩

/-- MC_ROW_THR (R274). -/
abbrev R.MC_ROW_THR (k : Nat) : Nat := 0x1A00000 + k * 0x1000 + 0x9C

/-- MC_ROW_THR.WINDOW [31:16] ST. -/
def F.MC_ROW_THR_WINDOW (k : Nat) : Fld := ⟨(R.MC_ROW_THR k), 31, 16⟩

/-- MC_ROW_THR.CE [7:0] ST. -/
def F.MC_ROW_THR_CE (k : Nat) : Fld := ⟨(R.MC_ROW_THR k), 7, 0⟩

/-- MC_EBB_PACE (R274). -/
abbrev R.MC_EBB_PACE (k : Nat) : Nat := 0x1A00000 + k * 0x1000 + 0xA0

/-- MC_EBB_PACE.GRANULES [15:0] ST. -/
def F.MC_EBB_PACE_GRANULES (k : Nat) : Fld := ⟨(R.MC_EBB_PACE k), 15, 0⟩

/-- MC_CMD (R274). -/
abbrev R.MC_CMD (k : Nat) : Nat := 0x1A00000 + k * 0x1000 + 0xA4

/-- MC_CMD.CMD [31:28] WO, GU. -/
def F.MC_CMD_CMD (k : Nat) : Fld := ⟨(R.MC_CMD k), 31, 28⟩

/-- MC_CMD.CHANNEL [9:0] WO, GU. -/
def F.MC_CMD_CHANNEL (k : Nat) : Fld := ⟨(R.MC_CMD k), 9, 0⟩

/-- MC_EBB (R274). -/
abbrev R.MC_EBB (k : Nat) : Nat := 0x1A00000 + k * 0x1000 + 0xA8

/-- MC_EBB.ACTIVE [31:31] RO. -/
def F.MC_EBB_ACTIVE (k : Nat) : Fld := ⟨(R.MC_EBB k), 31, 31⟩

/-- MC_EBB.LOST [30:30] RO. -/
def F.MC_EBB_LOST (k : Nat) : Fld := ⟨(R.MC_EBB k), 30, 30⟩

/-- MC_EBB.CHANNEL [29:20] RO. -/
def F.MC_EBB_CHANNEL (k : Nat) : Fld := ⟨(R.MC_EBB k), 29, 20⟩

/-- MC_EBB.CURSOR [19:0] RO. -/
def F.MC_EBB_CURSOR (k : Nat) : Fld := ⟨(R.MC_EBB k), 19, 0⟩

/-- MC_WINDOW (R274). -/
abbrev R.MC_WINDOW (k : Nat) : Nat := 0x1A00000 + k * 0x1000 + 0xAC

/-- MC_WINDOW.OPEN [31:31] RO. -/
def F.MC_WINDOW_OPEN (k : Nat) : Fld := ⟨(R.MC_WINDOW k), 31, 31⟩

/-- MC_WINDOW.CHANNEL [9:0] RO. -/
def F.MC_WINDOW_CHANNEL (k : Nat) : Fld := ⟨(R.MC_WINDOW k), 9, 0⟩

/-- MC_HOLD (R274). -/
abbrev R.MC_HOLD (k : Nat) : Nat := 0x1A00000 + k * 0x1000 + 0xB0

/-- MC_HOLD.MAX_LAST [25:16] RO. -/
def F.MC_HOLD_MAX_LAST (k : Nat) : Fld := ⟨(R.MC_HOLD k), 25, 16⟩

/-- MC_HOLD.OCC [9:0] RO. -/
def F.MC_HOLD_OCC (k : Nat) : Fld := ⟨(R.MC_HOLD k), 9, 0⟩

/-- MC_RETIRE_PEND (R274). -/
abbrev R.MC_RETIRE_PEND (k : Nat) : Nat := 0x1A00000 + k * 0x1000 + 0xB8

/-- MC_RETIRE_PEND.COUNT [63:48] RO. -/
def F.MC_RETIRE_PEND_COUNT (k : Nat) : Fld := ⟨(R.MC_RETIRE_PEND k), 63, 48⟩

/-- MC_RETIRE_PEND.PAGE [37:12] RO. -/
def F.MC_RETIRE_PEND_PAGE (k : Nat) : Fld := ⟨(R.MC_RETIRE_PEND k), 37, 12⟩

/-- MC_MAP (R274). -/
abbrev R.MC_MAP (k : Nat) (i : Nat) : Nat := 0x1A00000 + k * 0x1000 + 0xC0 + i * 0x4

/-- MC_MAP.VALID [31:31] RO. -/
def F.MC_MAP_VALID (k : Nat) (i : Nat) : Fld := ⟨(R.MC_MAP k i), 31, 31⟩

/-- MC_MAP.LOST [30:30] RO. -/
def F.MC_MAP_LOST (k : Nat) (i : Nat) : Fld := ⟨(R.MC_MAP k i), 30, 30⟩

/-- MC_MAP.CHANNEL [9:0] RO. -/
def F.MC_MAP_CHANNEL (k : Nat) (i : Nat) : Fld := ⟨(R.MC_MAP k i), 9, 0⟩

/-- MC_RUN_IDX (R274). -/
abbrev R.MC_RUN_IDX (k : Nat) : Nat := 0x1A00000 + k * 0x1000 + 0x100

/-- MC_RUN_IDX.INDEX [9:0] RW. -/
def F.MC_RUN_IDX_INDEX (k : Nat) : Fld := ⟨(R.MC_RUN_IDX k), 9, 0⟩

/-- MC_RUN (R274). -/
abbrev R.MC_RUN (k : Nat) : Nat := 0x1A00000 + k * 0x1000 + 0x104

/-- MC_RUN.VALID [31:31] RO. -/
def F.MC_RUN_VALID (k : Nat) : Fld := ⟨(R.MC_RUN k), 31, 31⟩

/-- MC_RUN.HOST [9:0] RO. -/
def F.MC_RUN_HOST (k : Nat) : Fld := ⟨(R.MC_RUN k), 9, 0⟩

/-- MC_CNT_CE (R274). -/
abbrev R.MC_CNT_CE (k : Nat) : Nat := 0x1A00000 + k * 0x1000 + 0x140

/-- MC_CNT_CE [63:0] RO. -/
def F.MC_CNT_CE (k : Nat) : Fld := ⟨(R.MC_CNT_CE k), 63, 0⟩

/-- MC_CNT_UE (R274). -/
abbrev R.MC_CNT_UE (k : Nat) : Nat := 0x1A00000 + k * 0x1000 + 0x148

/-- MC_CNT_UE [31:0] RO. -/
def F.MC_CNT_UE (k : Nat) : Fld := ⟨(R.MC_CNT_UE k), 31, 0⟩

/-- MC_CNT_RETRAIN (R274). -/
abbrev R.MC_CNT_RETRAIN (k : Nat) : Nat := 0x1A00000 + k * 0x1000 + 0x14C

/-- MC_CNT_RETRAIN [31:0] RO. -/
def F.MC_CNT_RETRAIN (k : Nat) : Fld := ⟨(R.MC_CNT_RETRAIN k), 31, 0⟩

/-- MC_CNT_SCRUB_CE (R274). -/
abbrev R.MC_CNT_SCRUB_CE (k : Nat) : Nat := 0x1A00000 + k * 0x1000 + 0x150

/-- MC_CNT_SCRUB_CE [31:0] RO. -/
def F.MC_CNT_SCRUB_CE (k : Nat) : Fld := ⟨(R.MC_CNT_SCRUB_CE k), 31, 0⟩

/-- MC_HOLD_LAST (R274). -/
abbrev R.MC_HOLD_LAST (k : Nat) : Nat := 0x1A00000 + k * 0x1000 + 0x154

/-- MC_HOLD_LAST [31:0] RO. -/
def F.MC_HOLD_LAST (k : Nat) : Fld := ⟨(R.MC_HOLD_LAST k), 31, 0⟩

/-- SHOAL_ID (R276). -/
abbrev R.SHOAL_ID (k : Nat) : Nat := 0x2000000 + k * 0x1000 + 0x80

/-- SHOAL_ID.STEPPING [23:16] RO. -/
def F.SHOAL_ID_STEPPING (k : Nat) : Fld := ⟨(R.SHOAL_ID k), 23, 16⟩

/-- SHOAL_ID.IN_SERVICE [8:8] RO. -/
def F.SHOAL_ID_IN_SERVICE (k : Nat) : Fld := ⟨(R.SHOAL_ID k), 8, 8⟩

/-- SHOAL_ID.STACK [5:0] RO. -/
def F.SHOAL_ID_STACK (k : Nat) : Fld := ⟨(R.SHOAL_ID k), 5, 0⟩

/-- SHOAL_CH_IDX (R276). -/
abbrev R.SHOAL_CH_IDX (k : Nat) : Nat := 0x2000000 + k * 0x1000 + 0x84

/-- SHOAL_CH_IDX.CHANNEL [6:0] RW. -/
def F.SHOAL_CH_IDX_CHANNEL (k : Nat) : Fld := ⟨(R.SHOAL_CH_IDX k), 6, 0⟩

/-- SHOAL_CH_STAT (R276). -/
abbrev R.SHOAL_CH_STAT (k : Nat) : Nat := 0x2000000 + k * 0x1000 + 0x88

/-- SHOAL_CH_STAT.STATE [31:30] RO. -/
def F.SHOAL_CH_STAT_STATE (k : Nat) : Fld := ⟨(R.SHOAL_CH_STAT k), 31, 30⟩

/-- SHOAL_CH_STAT.HALF [29:29] RO. -/
def F.SHOAL_CH_STAT_HALF (k : Nat) : Fld := ⟨(R.SHOAL_CH_STAT k), 29, 29⟩

/-- SHOAL_CH_STAT.SPARED [28:28] RO. -/
def F.SHOAL_CH_STAT_SPARED (k : Nat) : Fld := ⟨(R.SHOAL_CH_STAT k), 28, 28⟩

/-- SHOAL_CH_STAT.SPARE_FOR [27:23] RO. -/
def F.SHOAL_CH_STAT_SPARE_FOR (k : Nat) : Fld := ⟨(R.SHOAL_CH_STAT k), 27, 23⟩

/-- SHOAL_CH_STAT.ROWS [15:8] RO. -/
def F.SHOAL_CH_STAT_ROWS (k : Nat) : Fld := ⟨(R.SHOAL_CH_STAT k), 15, 8⟩

/-- SHOAL_CH_STAT.BANKS_OUT [7:0] RO. -/
def F.SHOAL_CH_STAT_BANKS_OUT (k : Nat) : Fld := ⟨(R.SHOAL_CH_STAT k), 7, 0⟩

/-- SHOAL_CH_AGE (R276). -/
abbrev R.SHOAL_CH_AGE (k : Nat) : Nat := 0x2000000 + k * 0x1000 + 0x8C

/-- SHOAL_CH_AGE.TIDES [23:0] RO. -/
def F.SHOAL_CH_AGE_TIDES (k : Nat) : Fld := ⟨(R.SHOAL_CH_AGE k), 23, 0⟩

/-- SHOAL_TEMP (R276). -/
abbrev R.SHOAL_TEMP (k : Nat) : Nat := 0x2000000 + k * 0x1000 + 0x90

/-- SHOAL_TEMP.EDGE [63:48] SC. -/
def F.SHOAL_TEMP_EDGE (k : Nat) : Fld := ⟨(R.SHOAL_TEMP k), 63, 48⟩

/-- SHOAL_TEMP.TEMP [15:0] SC. -/
def F.SHOAL_TEMP_TEMP (k : Nat) : Fld := ⟨(R.SHOAL_TEMP k), 15, 0⟩

/-- SHOAL_CNT_CE (R276). -/
abbrev R.SHOAL_CNT_CE (k : Nat) : Nat := 0x2000000 + k * 0x1000 + 0x98

/-- SHOAL_CNT_CE [63:0] RO. -/
def F.SHOAL_CNT_CE (k : Nat) : Fld := ⟨(R.SHOAL_CNT_CE k), 63, 0⟩

/-- SHOAL_CNT_UE (R276). -/
abbrev R.SHOAL_CNT_UE (k : Nat) : Nat := 0x2000000 + k * 0x1000 + 0xA0

/-- SHOAL_CNT_UE [31:0] RO. -/
def F.SHOAL_CNT_UE (k : Nat) : Fld := ⟨(R.SHOAL_CNT_UE k), 31, 0⟩

/-- SHOAL_CNT_CRC (R276). -/
abbrev R.SHOAL_CNT_CRC (k : Nat) : Nat := 0x2000000 + k * 0x1000 + 0xA4

/-- SHOAL_CNT_CRC [31:0] RO. -/
def F.SHOAL_CNT_CRC (k : Nat) : Fld := ⟨(R.SHOAL_CNT_CRC k), 31, 0⟩

/-- SHOAL_CNT_ROWS (R276). -/
abbrev R.SHOAL_CNT_ROWS (k : Nat) : Nat := 0x2000000 + k * 0x1000 + 0xA8

/-- SHOAL_CNT_ROWS [31:0] RO. -/
def F.SHOAL_CNT_ROWS (k : Nat) : Fld := ⟨(R.SHOAL_CNT_ROWS k), 31, 0⟩

/-- STRM_WHEEL (R301). -/
abbrev R.STRM_WHEEL (k : Nat) : Nat := 0x1700000 + k * 0x1000 + 0x80

/-- STRM_WHEEL [31:0] ST. -/
def F.STRM_WHEEL (k : Nat) : Fld := ⟨(R.STRM_WHEEL k), 31, 0⟩

/-- STRM_STAT (R301). -/
abbrev R.STRM_STAT (k : Nat) : Nat := 0x1700000 + k * 0x1000 + 0x84

/-- STRM_STAT.WAITING [14:8] RO. -/
def F.STRM_STAT_WAITING (k : Nat) : Fld := ⟨(R.STRM_STAT k), 14, 8⟩

/-- STRM_STAT.ACTIVE [6:0] RO. -/
def F.STRM_STAT_ACTIVE (k : Nat) : Fld := ⟨(R.STRM_STAT k), 6, 0⟩

/-- STRM_VOIDWAIT (R301). -/
abbrev R.STRM_VOIDWAIT (k : Nat) : Nat := 0x1700000 + k * 0x1000 + 0x88

/-- STRM_VOIDWAIT.TIDES [23:0] ST. -/
def F.STRM_VOIDWAIT_TIDES (k : Nat) : Fld := ⟨(R.STRM_VOIDWAIT k), 23, 0⟩

/-- STRM_FLT_IDX (R301). -/
abbrev R.STRM_FLT_IDX (k : Nat) : Nat := 0x1700000 + k * 0x1000 + 0x8C

/-- STRM_FLT_IDX.RECORD [3:0] RW. -/
def F.STRM_FLT_IDX_RECORD (k : Nat) : Fld := ⟨(R.STRM_FLT_IDX k), 3, 0⟩

/-- STRM_FLT_INFO (R301). -/
abbrev R.STRM_FLT_INFO (k : Nat) : Nat := 0x1700000 + k * 0x1000 + 0x90

/-- STRM_FLT_INFO.STATE [31:28] RO. -/
def F.STRM_FLT_INFO_STATE (k : Nat) : Fld := ⟨(R.STRM_FLT_INFO k), 31, 28⟩

/-- STRM_FLT_INFO.KIND [27:24] RO. -/
def F.STRM_FLT_INFO_KIND (k : Nat) : Fld := ⟨(R.STRM_FLT_INFO k), 27, 24⟩

/-- STRM_FLT_INFO.WRITE [23:23] RO. -/
def F.STRM_FLT_INFO_WRITE (k : Nat) : Fld := ⟨(R.STRM_FLT_INFO k), 23, 23⟩

/-- STRM_FLT_INFO.DETACH [22:22] RO. -/
def F.STRM_FLT_INFO_DETACH (k : Nat) : Fld := ⟨(R.STRM_FLT_INFO k), 22, 22⟩

/-- STRM_FLT_INFO.CTR [21:18] RO. -/
def F.STRM_FLT_INFO_CTR (k : Nat) : Fld := ⟨(R.STRM_FLT_INFO k), 21, 18⟩

/-- STRM_FLT_INFO.STREAM [5:0] RO. -/
def F.STRM_FLT_INFO_STREAM (k : Nat) : Fld := ⟨(R.STRM_FLT_INFO k), 5, 0⟩

/-- STRM_FLT_VA (R301). -/
abbrev R.STRM_FLT_VA (k : Nat) : Nat := 0x1700000 + k * 0x1000 + 0x98

/-- STRM_FLT_VA.VA [51:0] RO. -/
def F.STRM_FLT_VA_VA (k : Nat) : Fld := ⟨(R.STRM_FLT_VA k), 51, 0⟩

/-- STRM_FLT_CUR0 (R301). -/
abbrev R.STRM_FLT_CUR0 (k : Nat) : Nat := 0x1700000 + k * 0x1000 + 0xA0

/-- STRM_FLT_CUR0.I0 [31:0] RO. -/
def F.STRM_FLT_CUR0_I0 (k : Nat) : Fld := ⟨(R.STRM_FLT_CUR0 k), 31, 0⟩

/-- STRM_FLT_CUR14 (R301). -/
abbrev R.STRM_FLT_CUR14 (k : Nat) : Nat := 0x1700000 + k * 0x1000 + 0xA8

/-- STRM_FLT_CUR14.I4 [63:48] RO. -/
def F.STRM_FLT_CUR14_I4 (k : Nat) : Fld := ⟨(R.STRM_FLT_CUR14 k), 63, 48⟩

/-- STRM_FLT_CUR14.I3 [47:32] RO. -/
def F.STRM_FLT_CUR14_I3 (k : Nat) : Fld := ⟨(R.STRM_FLT_CUR14 k), 47, 32⟩

/-- STRM_FLT_CUR14.I2 [31:16] RO. -/
def F.STRM_FLT_CUR14_I2 (k : Nat) : Fld := ⟨(R.STRM_FLT_CUR14 k), 31, 16⟩

/-- STRM_FLT_CUR14.I1 [15:0] RO. -/
def F.STRM_FLT_CUR14_I1 (k : Nat) : Fld := ⟨(R.STRM_FLT_CUR14 k), 15, 0⟩

/-- STRM_FLT_CMD (R301). -/
abbrev R.STRM_FLT_CMD (k : Nat) : Nat := 0x1700000 + k * 0x1000 + 0xB0

/-- STRM_FLT_CMD.RECORD [11:8] WO, GU. -/
def F.STRM_FLT_CMD_RECORD (k : Nat) : Fld := ⟨(R.STRM_FLT_CMD k), 11, 8⟩

/-- STRM_FLT_CMD.CMD [3:0] WO, GU. -/
def F.STRM_FLT_CMD_CMD (k : Nat) : Fld := ⟨(R.STRM_FLT_CMD k), 3, 0⟩

/-- STRM_CNT_RD (R301). -/
abbrev R.STRM_CNT_RD (k : Nat) : Nat := 0x1700000 + k * 0x1000 + 0xC0

/-- STRM_CNT_RD [63:0] RO. -/
def F.STRM_CNT_RD (k : Nat) : Fld := ⟨(R.STRM_CNT_RD k), 63, 0⟩

/-- STRM_CNT_WR (R301). -/
abbrev R.STRM_CNT_WR (k : Nat) : Nat := 0x1700000 + k * 0x1000 + 0xC8

/-- STRM_CNT_WR [63:0] RO. -/
def F.STRM_CNT_WR (k : Nat) : Fld := ⟨(R.STRM_CNT_WR k), 63, 0⟩

/-- STRM_CNT_REMOTE (R301). -/
abbrev R.STRM_CNT_REMOTE (k : Nat) : Nat := 0x1700000 + k * 0x1000 + 0xD0

/-- STRM_CNT_REMOTE [63:0] RO. -/
def F.STRM_CNT_REMOTE (k : Nat) : Fld := ⟨(R.STRM_CNT_REMOTE k), 63, 0⟩

/-- STRM_CNT_SKIFF (R301). -/
abbrev R.STRM_CNT_SKIFF (k : Nat) : Nat := 0x1700000 + k * 0x1000 + 0xD8

/-- STRM_CNT_SKIFF [31:0] RO. -/
def F.STRM_CNT_SKIFF (k : Nat) : Fld := ⟨(R.STRM_CNT_SKIFF k), 31, 0⟩

/-- STRM_CNT_MERGE (R301). -/
abbrev R.STRM_CNT_MERGE (k : Nat) : Nat := 0x1700000 + k * 0x1000 + 0xDC

/-- STRM_CNT_MERGE [31:0] RO. -/
def F.STRM_CNT_MERGE (k : Nat) : Fld := ⟨(R.STRM_CNT_MERGE k), 31, 0⟩

/-- STRM_CNT_FAULT (R301). -/
abbrev R.STRM_CNT_FAULT (k : Nat) : Nat := 0x1700000 + k * 0x1000 + 0xE0

/-- STRM_CNT_FAULT [31:0] RO. -/
def F.STRM_CNT_FAULT (k : Nat) : Fld := ⟨(R.STRM_CNT_FAULT k), 31, 0⟩

/-- STRM_LEND_LAST (R301). -/
abbrev R.STRM_LEND_LAST (k : Nat) : Nat := 0x1700000 + k * 0x1000 + 0xE4

/-- STRM_LEND_LAST [31:0] RO. -/
def F.STRM_LEND_LAST (k : Nat) : Fld := ⟨(R.STRM_LEND_LAST k), 31, 0⟩

/-- LAG_TOP (R303). -/
abbrev R.LAG_TOP (k : Nat) : Nat := 0x1600000 + k * 0x1000 + 0x80

/-- LAG_TOP.TOP [29:0] RO. -/
def F.LAG_TOP_TOP (k : Nat) : Fld := ⟨(R.LAG_TOP k), 29, 0⟩

/-- LAG_PEND (R303). -/
abbrev R.LAG_PEND (k : Nat) : Nat := 0x1600000 + k * 0x1000 + 0x84

/-- LAG_PEND.LINES [22:0] RO. -/
def F.LAG_PEND_LINES (k : Nat) : Fld := ⟨(R.LAG_PEND k), 22, 0⟩

/-- LAG_CNT_CE (R303). -/
abbrev R.LAG_CNT_CE (k : Nat) : Nat := 0x1600000 + k * 0x1000 + 0x88

/-- LAG_CNT_CE [31:0] RO. -/
def F.LAG_CNT_CE (k : Nat) : Fld := ⟨(R.LAG_CNT_CE k), 31, 0⟩

/-- LAG_CNT_UE (R303). -/
abbrev R.LAG_CNT_UE (k : Nat) : Nat := 0x1600000 + k * 0x1000 + 0x8C

/-- LAG_CNT_UE [31:0] RO. -/
def F.LAG_CNT_UE (k : Nat) : Fld := ⟨(R.LAG_CNT_UE k), 31, 0⟩

/-- LAG_FLOWWAIT_LAST (R303). -/
abbrev R.LAG_FLOWWAIT_LAST (k : Nat) : Nat := 0x1600000 + k * 0x1000 + 0x90

/-- LAG_FLOWWAIT_LAST [31:0] RO. -/
def F.LAG_FLOWWAIT_LAST (k : Nat) : Fld := ⟨(R.LAG_FLOWWAIT_LAST k), 31, 0⟩

/-- XLAT_ROOT (R304). -/
abbrev R.XLAT_ROOT (k : Nat) : Nat := 0x1800000 + k * 0x1000 + 0x80

/-- XLAT_ROOT.ROOT [47:21] ST. -/
def F.XLAT_ROOT_ROOT (k : Nat) : Fld := ⟨(R.XLAT_ROOT k), 47, 21⟩

/-- XLAT_EDIT_BASE (R304). -/
abbrev R.XLAT_EDIT_BASE (k : Nat) : Nat := 0x1800000 + k * 0x1000 + 0x88

/-- XLAT_EDIT_BASE.ADDR [51:0] ST. -/
def F.XLAT_EDIT_BASE_ADDR (k : Nat) : Fld := ⟨(R.XLAT_EDIT_BASE k), 51, 0⟩

/-- XLAT_EDIT_COUNT (R304). -/
abbrev R.XLAT_EDIT_COUNT (k : Nat) : Nat := 0x1800000 + k * 0x1000 + 0x90

/-- XLAT_EDIT_COUNT.COUNT [10:0] ST. -/
def F.XLAT_EDIT_COUNT_COUNT (k : Nat) : Fld := ⟨(R.XLAT_EDIT_COUNT k), 10, 0⟩

/-- XLAT_POOL_BASE (R304). -/
abbrev R.XLAT_POOL_BASE (k : Nat) : Nat := 0x1800000 + k * 0x1000 + 0x98

/-- XLAT_POOL_BASE.ADDR [51:0] ST. -/
def F.XLAT_POOL_BASE_ADDR (k : Nat) : Fld := ⟨(R.XLAT_POOL_BASE k), 51, 0⟩

/-- XLAT_POOL_COUNT (R304). -/
abbrev R.XLAT_POOL_COUNT (k : Nat) : Nat := 0x1800000 + k * 0x1000 + 0xA0

/-- XLAT_POOL_COUNT.COUNT [12:0] ST. -/
def F.XLAT_POOL_COUNT_COUNT (k : Nat) : Fld := ⟨(R.XLAT_POOL_COUNT k), 12, 0⟩

/-- XLAT_POOL_NEXT (R304). -/
abbrev R.XLAT_POOL_NEXT (k : Nat) : Nat := 0x1800000 + k * 0x1000 + 0xA4

/-- XLAT_POOL_NEXT.NEXT [12:0] RO. -/
def F.XLAT_POOL_NEXT_NEXT (k : Nat) : Fld := ⟨(R.XLAT_POOL_NEXT k), 12, 0⟩

/-- XLAT_CMD (R304). -/
abbrev R.XLAT_CMD (k : Nat) : Nat := 0x1800000 + k * 0x1000 + 0xA8

/-- XLAT_CMD.VA [51:16] WO, GU. -/
def F.XLAT_CMD_VA (k : Nat) : Fld := ⟨(R.XLAT_CMD k), 51, 16⟩

/-- XLAT_CMD.CMD [1:0] WO, GU. -/
def F.XLAT_CMD_CMD (k : Nat) : Fld := ⟨(R.XLAT_CMD k), 1, 0⟩

/-- XLAT_STAT (R304). -/
abbrev R.XLAT_STAT (k : Nat) : Nat := 0x1800000 + k * 0x1000 + 0xB0

/-- XLAT_STAT.EDITING [1:1] RO. -/
def F.XLAT_STAT_EDITING (k : Nat) : Fld := ⟨(R.XLAT_STAT k), 1, 1⟩

/-- XLAT_STAT.INV_DONE [0:0] RO. -/
def F.XLAT_STAT_INV_DONE (k : Nat) : Fld := ⟨(R.XLAT_STAT k), 0, 0⟩

/-- XLAT_CNT_MISS (R304). -/
abbrev R.XLAT_CNT_MISS (k : Nat) : Nat := 0x1800000 + k * 0x1000 + 0xB8

/-- XLAT_CNT_MISS [63:0] RO. -/
def F.XLAT_CNT_MISS (k : Nat) : Fld := ⟨(R.XLAT_CNT_MISS k), 63, 0⟩

/-- XLAT_CNT_DEMAND (R304). -/
abbrev R.XLAT_CNT_DEMAND (k : Nat) : Nat := 0x1800000 + k * 0x1000 + 0xC0

/-- XLAT_CNT_DEMAND [31:0] RO. -/
def F.XLAT_CNT_DEMAND (k : Nat) : Fld := ⟨(R.XLAT_CNT_DEMAND k), 31, 0⟩

/-- CWY_STAT (R327). -/
abbrev R.CWY_STAT (k : Nat) : Nat := 0x1B00000 + k * 0x1000 + 0x80

/-- CWY_STAT.OPP1 [3:3] RO. -/
def F.CWY_STAT_OPP1 (k : Nat) : Fld := ⟨(R.CWY_STAT k), 3, 3⟩

/-- CWY_STAT.OPP0 [2:2] RO. -/
def F.CWY_STAT_OPP0 (k : Nat) : Fld := ⟨(R.CWY_STAT k), 2, 2⟩

/-- CWY_STAT.NEXT [1:1] RO. -/
def F.CWY_STAT_NEXT (k : Nat) : Fld := ⟨(R.CWY_STAT k), 1, 1⟩

/-- CWY_STAT.PREV [0:0] RO. -/
def F.CWY_STAT_PREV (k : Nat) : Fld := ⟨(R.CWY_STAT k), 0, 0⟩

/-- CWY_WHEEL (R327). -/
abbrev R.CWY_WHEEL (k : Nat) : Nat := 0x1B00000 + k * 0x1000 + 0x84

/-- CWY_WHEEL [31:0] ST. -/
def F.CWY_WHEEL (k : Nat) : Fld := ⟨(R.CWY_WHEEL k), 31, 0⟩

/-- CWY_ROUTE (R327). -/
abbrev R.CWY_ROUTE (k : Nat) : Nat := 0x1B00000 + k * 0x1000 + 0x88

/-- CWY_ROUTE [23:0] RO. -/
def F.CWY_ROUTE (k : Nat) : Fld := ⟨(R.CWY_ROUTE k), 23, 0⟩

/-- CWY_CNT_PREV (R327). -/
abbrev R.CWY_CNT_PREV (k : Nat) : Nat := 0x1B00000 + k * 0x1000 + 0x90

/-- CWY_CNT_PREV [63:0] RO. -/
def F.CWY_CNT_PREV (k : Nat) : Fld := ⟨(R.CWY_CNT_PREV k), 63, 0⟩

/-- CWY_CNT_NEXT (R327). -/
abbrev R.CWY_CNT_NEXT (k : Nat) : Nat := 0x1B00000 + k * 0x1000 + 0x98

/-- CWY_CNT_NEXT [63:0] RO. -/
def F.CWY_CNT_NEXT (k : Nat) : Fld := ⟨(R.CWY_CNT_NEXT k), 63, 0⟩

/-- CWY_CNT_OPP (R327). -/
abbrev R.CWY_CNT_OPP (k : Nat) : Nat := 0x1B00000 + k * 0x1000 + 0xA0

/-- CWY_CNT_OPP [63:0] RO. -/
def F.CWY_CNT_OPP (k : Nat) : Fld := ⟨(R.CWY_CNT_OPP k), 63, 0⟩

/-- CWY_CNT_FWD (R327). -/
abbrev R.CWY_CNT_FWD (k : Nat) : Nat := 0x1B00000 + k * 0x1000 + 0xA8

/-- CWY_CNT_FWD [63:0] RO. -/
def F.CWY_CNT_FWD (k : Nat) : Fld := ⟨(R.CWY_CNT_FWD k), 63, 0⟩

/-- CWY_CNT_RETRAIN (R327). -/
abbrev R.CWY_CNT_RETRAIN (k : Nat) : Nat := 0x1B00000 + k * 0x1000 + 0xB0

/-- CWY_CNT_RETRAIN [31:0] RO. -/
def F.CWY_CNT_RETRAIN (k : Nat) : Fld := ⟨(R.CWY_CNT_RETRAIN k), 31, 0⟩

/-- PORT_ID (R328). -/
abbrev R.PORT_ID (k : Nat) : Nat := 0x3000000 + k * 0x1000 + 0x80

/-- PORT_ID.LANES [13:8] RO. -/
def F.PORT_ID_LANES (k : Nat) : Fld := ⟨(R.PORT_ID k), 13, 8⟩

/-- PORT_ID.KIND [1:0] RO. -/
def F.PORT_ID_KIND (k : Nat) : Fld := ⟨(R.PORT_ID k), 1, 0⟩

/-- PORT_STAT (R328). -/
abbrev R.PORT_STAT (k : Nat) : Nat := 0x3000000 + k * 0x1000 + 0x84

/-- PORT_STAT.UP [31:31] RO. -/
def F.PORT_STAT_UP (k : Nat) : Fld := ⟨(R.PORT_STAT k), 31, 31⟩

/-- PORT_STAT.SWAPPED [30:30] RO. -/
def F.PORT_STAT_SWAPPED (k : Nat) : Fld := ⟨(R.PORT_STAT k), 30, 30⟩

/-- PORT_STAT.LOS [29:29] RO. -/
def F.PORT_STAT_LOS (k : Nat) : Fld := ⟨(R.PORT_STAT k), 29, 29⟩

/-- PORT_STAT.PEERS [20:16] RO. -/
def F.PORT_STAT_PEERS (k : Nat) : Fld := ⟨(R.PORT_STAT k), 20, 16⟩

/-- PORT_STAT.ACTIVE [5:0] RO. -/
def F.PORT_STAT_ACTIVE (k : Nat) : Fld := ⟨(R.PORT_STAT k), 5, 0⟩

/-- PORT_LANE_IDX (R328). -/
abbrev R.PORT_LANE_IDX (k : Nat) : Nat := 0x3000000 + k * 0x1000 + 0x88

/-- PORT_LANE_IDX.LANE [4:0] RW. -/
def F.PORT_LANE_IDX_LANE (k : Nat) : Fld := ⟨(R.PORT_LANE_IDX k), 4, 0⟩

/-- PORT_LANE (R328). -/
abbrev R.PORT_LANE (k : Nat) : Nat := 0x3000000 + k * 0x1000 + 0x8C

/-- PORT_LANE.RX [31:30] RO. -/
def F.PORT_LANE_RX (k : Nat) : Fld := ⟨(R.PORT_LANE k), 31, 30⟩

/-- PORT_LANE.TX [29:28] RO. -/
def F.PORT_LANE_TX (k : Nat) : Fld := ⟨(R.PORT_LANE k), 29, 28⟩

/-- PORT_LANE.CAUSE [27:25] RO. -/
def F.PORT_LANE_CAUSE (k : Nat) : Fld := ⟨(R.PORT_LANE k), 27, 25⟩

/-- PORT_LANE.POL [24:24] RO. -/
def F.PORT_LANE_POL (k : Nat) : Fld := ⟨(R.PORT_LANE k), 24, 24⟩

/-- PORT_LANE.PEER_SLOT [19:16] RO. -/
def F.PORT_LANE_PEER_SLOT (k : Nat) : Fld := ⟨(R.PORT_LANE k), 19, 16⟩

/-- PORT_LANE.PEER_PORT [15:15] RO. -/
def F.PORT_LANE_PEER_PORT (k : Nat) : Fld := ⟨(R.PORT_LANE k), 15, 15⟩

/-- PORT_LANE.PEER_LANE [14:10] RO. -/
def F.PORT_LANE_PEER_LANE (k : Nat) : Fld := ⟨(R.PORT_LANE k), 14, 10⟩

/-- PORT_LANE.CRC_LAST [9:0] RO. -/
def F.PORT_LANE_CRC_LAST (k : Nat) : Fld := ⟨(R.PORT_LANE k), 9, 0⟩

/-- PORT_PEER_IDX (R328). -/
abbrev R.PORT_PEER_IDX (k : Nat) : Nat := 0x3000000 + k * 0x1000 + 0x90

/-- PORT_PEER_IDX.SLOT [3:0] RW. -/
def F.PORT_PEER_IDX_SLOT (k : Nat) : Fld := ⟨(R.PORT_PEER_IDX k), 3, 0⟩

/-- PORT_PEER (R328). -/
abbrev R.PORT_PEER (k : Nat) : Nat := 0x3000000 + k * 0x1000 + 0x94

/-- PORT_PEER.STATE [31:30] RO. -/
def F.PORT_PEER_STATE (k : Nat) : Fld := ⟨(R.PORT_PEER k), 31, 30⟩

/-- PORT_PEER.TX_W [29:24] RO. -/
def F.PORT_PEER_TX_W (k : Nat) : Fld := ⟨(R.PORT_PEER k), 29, 24⟩

/-- PORT_PEER.RX_W [23:18] RO. -/
def F.PORT_PEER_RX_W (k : Nat) : Fld := ⟨(R.PORT_PEER k), 23, 18⟩

/-- PORT_PEER.STANDBY [17:14] RO. -/
def F.PORT_PEER_STANDBY (k : Nat) : Fld := ⟨(R.PORT_PEER k), 17, 14⟩

/-- PORT_PEER.CONFLICT [13:13] RO. -/
def F.PORT_PEER_CONFLICT (k : Nat) : Fld := ⟨(R.PORT_PEER k), 13, 13⟩

/-- PORT_PEER.DELAY [7:0] RO. -/
def F.PORT_PEER_DELAY (k : Nat) : Fld := ⟨(R.PORT_PEER k), 7, 0⟩

/-- PORT_LANE_THR (R328). -/
abbrev R.PORT_LANE_THR (k : Nat) : Nat := 0x3000000 + k * 0x1000 + 0x98

/-- PORT_LANE_THR.TIDES [23:16] ST. -/
def F.PORT_LANE_THR_TIDES (k : Nat) : Fld := ⟨(R.PORT_LANE_THR k), 23, 16⟩

/-- PORT_LANE_THR.ERRS [15:0] ST. -/
def F.PORT_LANE_THR_ERRS (k : Nat) : Fld := ⟨(R.PORT_LANE_THR k), 15, 0⟩

/-- PORT_RETRAIN (R328). -/
abbrev R.PORT_RETRAIN (k : Nat) : Nat := 0x3000000 + k * 0x1000 + 0x9C

/-- PORT_RETRAIN.PERIOD [23:0] ST. -/
def F.PORT_RETRAIN_PERIOD (k : Nat) : Fld := ⟨(R.PORT_RETRAIN k), 23, 0⟩

/-- PORT_CMD (R328). -/
abbrev R.PORT_CMD (k : Nat) : Nat := 0x3000000 + k * 0x1000 + 0xA0

/-- PORT_CMD.CMD [31:28] WO, GU. -/
def F.PORT_CMD_CMD (k : Nat) : Fld := ⟨(R.PORT_CMD k), 31, 28⟩

/-- PORT_CMD.LANE [12:8] WO, GU. -/
def F.PORT_CMD_LANE (k : Nat) : Fld := ⟨(R.PORT_CMD k), 12, 8⟩

/-- PORT_CMD.SLOT [3:0] WO, GU. -/
def F.PORT_CMD_SLOT (k : Nat) : Fld := ⟨(R.PORT_CMD k), 3, 0⟩

/-- PORT_MAC (R328). -/
abbrev R.PORT_MAC (k : Nat) : Nat := 0x3000000 + k * 0x1000 + 0xA8

/-- PORT_MAC.MAC [47:0] RO. -/
def F.PORT_MAC_MAC (k : Nat) : Fld := ⟨(R.PORT_MAC k), 47, 0⟩

/-- PORT_EXPECT (R328). -/
abbrev R.PORT_EXPECT (k : Nat) : Nat := 0x3000000 + k * 0x1000 + 0xB0

/-- PORT_EXPECT.VALID [32:32] ST. -/
def F.PORT_EXPECT_VALID (k : Nat) : Fld := ⟨(R.PORT_EXPECT k), 32, 32⟩

/-- PORT_EXPECT.ID [31:0] ST. -/
def F.PORT_EXPECT_ID (k : Nat) : Fld := ⟨(R.PORT_EXPECT k), 31, 0⟩

/-- PORT_PARTNER (R328). -/
abbrev R.PORT_PARTNER (k : Nat) : Nat := 0x3000000 + k * 0x1000 + 0xB8

/-- PORT_PARTNER.SEEN [32:32] RO. -/
def F.PORT_PARTNER_SEEN (k : Nat) : Fld := ⟨(R.PORT_PARTNER k), 32, 32⟩

/-- PORT_PARTNER.ID [31:0] RO. -/
def F.PORT_PARTNER_ID (k : Nat) : Fld := ⟨(R.PORT_PARTNER k), 31, 0⟩

/-- PORT_MTU (R328). -/
abbrev R.PORT_MTU (k : Nat) : Nat := 0x3000000 + k * 0x1000 + 0xC0

/-- PORT_MTU.BYTES [13:0] ST. -/
def F.PORT_MTU_BYTES (k : Nat) : Fld := ⟨(R.PORT_MTU k), 13, 0⟩

/-- PORT_LIGHT (R328). -/
abbrev R.PORT_LIGHT (k : Nat) : Nat := 0x3000000 + k * 0x1000 + 0xC8

/-- PORT_LIGHT.EDGE [63:48] SC. -/
def F.PORT_LIGHT_EDGE (k : Nat) : Fld := ⟨(R.PORT_LIGHT k), 63, 48⟩

/-- PORT_LIGHT.LOS [39:32] SC. -/
def F.PORT_LIGHT_LOS (k : Nat) : Fld := ⟨(R.PORT_LIGHT k), 39, 32⟩

/-- PORT_LIGHT.MINLANE [18:16] SC. -/
def F.PORT_LIGHT_MINLANE (k : Nat) : Fld := ⟨(R.PORT_LIGHT k), 18, 16⟩

/-- PORT_LIGHT.MINPWR [15:0] SC. -/
def F.PORT_LIGHT_MINPWR (k : Nat) : Fld := ⟨(R.PORT_LIGHT k), 15, 0⟩

/-- PORT_CNT_TX (R328). -/
abbrev R.PORT_CNT_TX (k : Nat) : Nat := 0x3000000 + k * 0x1000 + 0x100

/-- PORT_CNT_TX [63:0] RO. -/
def F.PORT_CNT_TX (k : Nat) : Fld := ⟨(R.PORT_CNT_TX k), 63, 0⟩

/-- PORT_CNT_RX (R328). -/
abbrev R.PORT_CNT_RX (k : Nat) : Nat := 0x3000000 + k * 0x1000 + 0x108

/-- PORT_CNT_RX [63:0] RO. -/
def F.PORT_CNT_RX (k : Nat) : Fld := ⟨(R.PORT_CNT_RX k), 63, 0⟩

/-- PORT_CNT_FEC_CE (R328). -/
abbrev R.PORT_CNT_FEC_CE (k : Nat) : Nat := 0x3000000 + k * 0x1000 + 0x110

/-- PORT_CNT_FEC_CE [63:0] RO. -/
def F.PORT_CNT_FEC_CE (k : Nat) : Fld := ⟨(R.PORT_CNT_FEC_CE k), 63, 0⟩

/-- PORT_CNT_CRC (R328). -/
abbrev R.PORT_CNT_CRC (k : Nat) : Nat := 0x3000000 + k * 0x1000 + 0x118

/-- PORT_CNT_CRC [31:0] RO. -/
def F.PORT_CNT_CRC (k : Nat) : Fld := ⟨(R.PORT_CNT_CRC k), 31, 0⟩

/-- PORT_CNT_REPLAY (R328). -/
abbrev R.PORT_CNT_REPLAY (k : Nat) : Nat := 0x3000000 + k * 0x1000 + 0x11C

/-- PORT_CNT_REPLAY [31:0] RO. -/
def F.PORT_CNT_REPLAY (k : Nat) : Fld := ⟨(R.PORT_CNT_REPLAY k), 31, 0⟩

/-- PORT_CNT_FEC_UE (R328). -/
abbrev R.PORT_CNT_FEC_UE (k : Nat) : Nat := 0x3000000 + k * 0x1000 + 0x120

/-- PORT_CNT_FEC_UE [31:0] RO. -/
def F.PORT_CNT_FEC_UE (k : Nat) : Fld := ⟨(R.PORT_CNT_FEC_UE k), 31, 0⟩

/-- PORT_CNT_DROP (R328). -/
abbrev R.PORT_CNT_DROP (k : Nat) : Nat := 0x3000000 + k * 0x1000 + 0x124

/-- PORT_CNT_DROP [31:0] RO. -/
def F.PORT_CNT_DROP (k : Nat) : Fld := ⟨(R.PORT_CNT_DROP k), 31, 0⟩

/-- PORT_CNT_MARK_LATE (R328). -/
abbrev R.PORT_CNT_MARK_LATE (k : Nat) : Nat := 0x3000000 + k * 0x1000 + 0x128

/-- PORT_CNT_MARK_LATE [31:0] RO. -/
def F.PORT_CNT_MARK_LATE (k : Nat) : Fld := ⟨(R.PORT_CNT_MARK_LATE k), 31, 0⟩

/-- PORT_CNT_EXCLUDE (R328). -/
abbrev R.PORT_CNT_EXCLUDE (k : Nat) : Nat := 0x3000000 + k * 0x1000 + 0x12C

/-- PORT_CNT_EXCLUDE [31:0] RO. -/
def F.PORT_CNT_EXCLUDE (k : Nat) : Fld := ⟨(R.PORT_CNT_EXCLUDE k), 31, 0⟩

/-- SND_STAT (R351). -/
abbrev R.SND_STAT (k : Nat) : Nat := 0x3100000 + k * 0x1000 + 0x80

/-- SND_STAT.OVERLOAD [31:31] RO. -/
def F.SND_STAT_OVERLOAD (k : Nat) : Fld := ⟨(R.SND_STAT k), 31, 31⟩

/-- SND_STAT.OCC [23:16] RO. -/
def F.SND_STAT_OCC (k : Nat) : Fld := ⟨(R.SND_STAT k), 23, 16⟩

/-- SND_STAT.ACTIVE [15:0] RO. -/
def F.SND_STAT_ACTIVE (k : Nat) : Fld := ⟨(R.SND_STAT k), 15, 0⟩

/-- SND_POOL (R351). -/
abbrev R.SND_POOL (k : Nat) : Nat := 0x3100000 + k * 0x1000 + 0x84

/-- SND_POOL.FREE [23:0] RO. -/
def F.SND_POOL_FREE (k : Nat) : Fld := ⟨(R.SND_POOL k), 23, 0⟩

/-- SND_RESV (R351). -/
abbrev R.SND_RESV (k : Nat) : Nat := 0x3100000 + k * 0x1000 + 0x88

/-- SND_RESV.SHARE [5:0] ST. -/
def F.SND_RESV_SHARE (k : Nat) : Fld := ⟨(R.SND_RESV k), 5, 0⟩

/-- SND_RTO (R351). -/
abbrev R.SND_RTO (k : Nat) : Nat := 0x3100000 + k * 0x1000 + 0x8C

/-- SND_RTO.CYCLES [19:0] ST. -/
def F.SND_RTO_CYCLES (k : Nat) : Fld := ⟨(R.SND_RTO k), 19, 0⟩

/-- SND_RETRY (R351). -/
abbrev R.SND_RETRY (k : Nat) : Nat := 0x3100000 + k * 0x1000 + 0x90

/-- SND_RETRY.MAX [3:0] ST. -/
def F.SND_RETRY_MAX (k : Nat) : Fld := ⟨(R.SND_RETRY k), 3, 0⟩

/-- SND_GRANT_IDLE (R351). -/
abbrev R.SND_GRANT_IDLE (k : Nat) : Nat := 0x3100000 + k * 0x1000 + 0x94

/-- SND_GRANT_IDLE.TIDES [7:0] ST. -/
def F.SND_GRANT_IDLE_TIDES (k : Nat) : Fld := ⟨(R.SND_GRANT_IDLE k), 7, 0⟩

/-- SND_UDP (R351). -/
abbrev R.SND_UDP (k : Nat) : Nat := 0x3100000 + k * 0x1000 + 0x98

/-- SND_UDP.PORT [15:0] ST. -/
def F.SND_UDP_PORT (k : Nat) : Fld := ⟨(R.SND_UDP k), 15, 0⟩

/-- SND_TC (R351). -/
abbrev R.SND_TC (k : Nat) : Nat := 0x3100000 + k * 0x1000 + 0x9C

/-- SND_TC.RED [15:8] ST. -/
def F.SND_TC_RED (k : Nat) : Fld := ⟨(R.SND_TC k), 15, 8⟩

/-- SND_TC.NORM [7:0] ST. -/
def F.SND_TC_NORM (k : Nat) : Fld := ⟨(R.SND_TC k), 7, 0⟩

/-- SND_IP (R351). -/
abbrev R.SND_IP (k : Nat) (i : Nat) : Nat := 0x3100000 + k * 0x1000 + 0xA0 + i * 0x4

/-- SND_IP [31:0] ST. -/
def F.SND_IP (k : Nat) (i : Nat) : Fld := ⟨(R.SND_IP k i), 31, 0⟩

/-- SND_CNT_TX (R351). -/
abbrev R.SND_CNT_TX (k : Nat) : Nat := 0x3100000 + k * 0x1000 + 0xB0

/-- SND_CNT_TX [63:0] RO. -/
def F.SND_CNT_TX (k : Nat) : Fld := ⟨(R.SND_CNT_TX k), 63, 0⟩

/-- SND_CNT_RX (R351). -/
abbrev R.SND_CNT_RX (k : Nat) : Nat := 0x3100000 + k * 0x1000 + 0xB8

/-- SND_CNT_RX [63:0] RO. -/
def F.SND_CNT_RX (k : Nat) : Fld := ⟨(R.SND_CNT_RX k), 63, 0⟩

/-- SND_CNT_RETX (R351). -/
abbrev R.SND_CNT_RETX (k : Nat) : Nat := 0x3100000 + k * 0x1000 + 0xC0

/-- SND_CNT_RETX [31:0] RO. -/
def F.SND_CNT_RETX (k : Nat) : Fld := ⟨(R.SND_CNT_RETX k), 31, 0⟩

/-- SND_CNT_BAD (R351). -/
abbrev R.SND_CNT_BAD (k : Nat) : Nat := 0x3100000 + k * 0x1000 + 0xC4

/-- SND_CNT_BAD [31:0] RO. -/
def F.SND_CNT_BAD (k : Nat) : Fld := ⟨(R.SND_CNT_BAD k), 31, 0⟩

/-- SND_CNT_OVL_EPI (R351). -/
abbrev R.SND_CNT_OVL_EPI (k : Nat) : Nat := 0x3100000 + k * 0x1000 + 0xC8

/-- SND_CNT_OVL_EPI [31:0] RO. -/
def F.SND_CNT_OVL_EPI (k : Nat) : Fld := ⟨(R.SND_CNT_OVL_EPI k), 31, 0⟩

/-- SND_CNT_OVL_TIDES (R351). -/
abbrev R.SND_CNT_OVL_TIDES (k : Nat) : Nat := 0x3100000 + k * 0x1000 + 0xCC

/-- SND_CNT_OVL_TIDES [31:0] RO. -/
def F.SND_CNT_OVL_TIDES (k : Nat) : Fld := ⟨(R.SND_CNT_OVL_TIDES k), 31, 0⟩

/-- SND_CNT_CATCHUP (R351). -/
abbrev R.SND_CNT_CATCHUP (k : Nat) : Nat := 0x3100000 + k * 0x1000 + 0xD0

/-- SND_CNT_CATCHUP [31:0] RO. -/
def F.SND_CNT_CATCHUP (k : Nat) : Fld := ⟨(R.SND_CNT_CATCHUP k), 31, 0⟩

/-- SNDCTX_BASE (R353). -/
abbrev R.SNDCTX_BASE : Nat := 0x3200080

/-- SNDCTX_BASE.ADDR [51:0] ST. -/
def F.SNDCTX_BASE_ADDR : Fld := ⟨R.SNDCTX_BASE, 51, 0⟩

/-- SNDCTX_COUNT (R353). -/
abbrev R.SNDCTX_COUNT : Nat := 0x3200088

/-- SNDCTX_COUNT.COUNT [20:0] ST. -/
def F.SNDCTX_COUNT_COUNT : Fld := ⟨R.SNDCTX_COUNT, 20, 0⟩

/-- SNDCTX_TRK_BASE (R353). -/
abbrev R.SNDCTX_TRK_BASE : Nat := 0x3200090

/-- SNDCTX_TRK_BASE.ADDR [51:0] ST. -/
def F.SNDCTX_TRK_BASE_ADDR : Fld := ⟨R.SNDCTX_TRK_BASE, 51, 0⟩

/-- SNDCTX_GRP_BASE (R353). -/
abbrev R.SNDCTX_GRP_BASE : Nat := 0x3200098

/-- SNDCTX_GRP_BASE.ADDR [51:0] ST. -/
def F.SNDCTX_GRP_BASE_ADDR : Fld := ⟨R.SNDCTX_GRP_BASE, 51, 0⟩

/-- SNDCTX_GRP_COUNT (R353). -/
abbrev R.SNDCTX_GRP_COUNT : Nat := 0x32000A0

/-- SNDCTX_GRP_COUNT.COUNT [12:0] ST. -/
def F.SNDCTX_GRP_COUNT_COUNT : Fld := ⟨R.SNDCTX_GRP_COUNT, 12, 0⟩

/-- SNDCTX_STAT (R353). -/
abbrev R.SNDCTX_STAT : Nat := 0x32000A4

/-- SNDCTX_STAT.PHASE [31:30] RO. -/
def F.SNDCTX_STAT_PHASE : Fld := ⟨R.SNDCTX_STAT, 31, 30⟩

/-- SNDCTX_STAT.OPEN [20:0] RO. -/
def F.SNDCTX_STAT_OPEN : Fld := ⟨R.SNDCTX_STAT, 20, 0⟩

/-- SNDCTX_ADMIT (R353). -/
abbrev R.SNDCTX_ADMIT : Nat := 0x32000A8

/-- SNDCTX_ADMIT.HINT [7:0] ST. -/
def F.SNDCTX_ADMIT_HINT : Fld := ⟨R.SNDCTX_ADMIT, 7, 0⟩

/-- SNDCTX_RAMP (R353). -/
abbrev R.SNDCTX_RAMP : Nat := 0x32000AC

/-- SNDCTX_RAMP.LEFT [10:0] RO. -/
def F.SNDCTX_RAMP_LEFT : Fld := ⟨R.SNDCTX_RAMP, 10, 0⟩

/-- SNDCTX_ADMIT_HEAD (R353). -/
abbrev R.SNDCTX_ADMIT_HEAD : Nat := 0x32000B0

/-- SNDCTX_ADMIT_HEAD.PORT [63:60] RO. -/
def F.SNDCTX_ADMIT_HEAD_PORT : Fld := ⟨R.SNDCTX_ADMIT_HEAD, 63, 60⟩

/-- SNDCTX_ADMIT_HEAD.SLOT [59:56] RO. -/
def F.SNDCTX_ADMIT_HEAD_SLOT : Fld := ⟨R.SNDCTX_ADMIT_HEAD, 59, 56⟩

/-- SNDCTX_ADMIT_HEAD.OFFBOARD [55:55] RO. -/
def F.SNDCTX_ADMIT_HEAD_OFFBOARD : Fld := ⟨R.SNDCTX_ADMIT_HEAD, 55, 55⟩

/-- SNDCTX_ADMIT_HEAD.PEER_CTX [39:20] RO. -/
def F.SNDCTX_ADMIT_HEAD_PEER_CTX : Fld := ⟨R.SNDCTX_ADMIT_HEAD, 39, 20⟩

/-- SNDCTX_ADMIT_HEAD.CTX [19:0] RO. -/
def F.SNDCTX_ADMIT_HEAD_CTX : Fld := ⟨R.SNDCTX_ADMIT_HEAD, 19, 0⟩

/-- SNDCTX_ADMIT_CMD (R353). -/
abbrev R.SNDCTX_ADMIT_CMD : Nat := 0x32000B8

/-- SNDCTX_ADMIT_CMD.CMD [31:28] WO, GU. -/
def F.SNDCTX_ADMIT_CMD_CMD : Fld := ⟨R.SNDCTX_ADMIT_CMD, 31, 28⟩

/-- SNDCTX_CMD (R353). -/
abbrev R.SNDCTX_CMD : Nat := 0x32000BC

/-- SNDCTX_CMD.CMD [31:28] WO, GU. -/
def F.SNDCTX_CMD_CMD : Fld := ⟨R.SNDCTX_CMD, 31, 28⟩

/-- SNDCTX_CMD.CTX [19:0] WO, GU. -/
def F.SNDCTX_CMD_CTX : Fld := ⟨R.SNDCTX_CMD, 19, 0⟩

/-- SNDCTX_TRK_USED (R353). -/
abbrev R.SNDCTX_TRK_USED : Nat := 0x32000C0

/-- SNDCTX_TRK_USED.USED [20:0] RO. -/
def F.SNDCTX_TRK_USED_USED : Fld := ⟨R.SNDCTX_TRK_USED, 20, 0⟩

/-- SNDCTX_ADMIT_Q (R353). -/
abbrev R.SNDCTX_ADMIT_Q : Nat := 0x32000C4

/-- SNDCTX_ADMIT_Q.COUNT [8:0] RO. -/
def F.SNDCTX_ADMIT_Q_COUNT : Fld := ⟨R.SNDCTX_ADMIT_Q, 8, 0⟩

/-- SNDCTX_CNT_MISS (R353). -/
abbrev R.SNDCTX_CNT_MISS : Nat := 0x32000C8

/-- SNDCTX_CNT_MISS [63:0] RO. -/
def F.SNDCTX_CNT_MISS : Fld := ⟨R.SNDCTX_CNT_MISS, 63, 0⟩

/-- SNDCTX_CNT_ADMIT (R353). -/
abbrev R.SNDCTX_CNT_ADMIT : Nat := 0x32000D0

/-- SNDCTX_CNT_ADMIT [31:0] RO. -/
def F.SNDCTX_CNT_ADMIT : Fld := ⟨R.SNDCTX_CNT_ADMIT, 31, 0⟩

/-- SNDCTX_CNT_NOTREADY (R353). -/
abbrev R.SNDCTX_CNT_NOTREADY : Nat := 0x32000D4

/-- SNDCTX_CNT_NOTREADY [31:0] RO. -/
def F.SNDCTX_CNT_NOTREADY : Fld := ⟨R.SNDCTX_CNT_NOTREADY, 31, 0⟩

/-- SNDCTX_CNT_REFUSE (R353). -/
abbrev R.SNDCTX_CNT_REFUSE : Nat := 0x32000D8

/-- SNDCTX_CNT_REFUSE [31:0] RO. -/
def F.SNDCTX_CNT_REFUSE : Fld := ⟨R.SNDCTX_CNT_REFUSE, 31, 0⟩

/-- STEP_LAND (R370). -/
abbrev R.STEP_LAND (k : Nat) : Nat := 0x1900000 + k * 0x1000 + 0x80

/-- STEP_LAND.ADDR [51:0] ST. -/
def F.STEP_LAND_ADDR (k : Nat) : Fld := ⟨(R.STEP_LAND k), 51, 0⟩

/-- STEP_STAT (R370). -/
abbrev R.STEP_STAT (k : Nat) : Nat := 0x1900000 + k * 0x1000 + 0x88

/-- STEP_STAT.WAITING [23:16] RO. -/
def F.STEP_STAT_WAITING (k : Nat) : Fld := ⟨(R.STEP_STAT k), 23, 16⟩

/-- STEP_STAT.OPEN [15:8] RO. -/
def F.STEP_STAT_OPEN (k : Nat) : Fld := ⟨(R.STEP_STAT k), 15, 8⟩

/-- STEP_STAT.CACHED [7:0] RO. -/
def F.STEP_STAT_CACHED (k : Nat) : Fld := ⟨(R.STEP_STAT k), 7, 0⟩

/-- STEP_CMD (R370). -/
abbrev R.STEP_CMD (k : Nat) : Nat := 0x1900000 + k * 0x1000 + 0x8C

/-- STEP_CMD.CMD [31:28] WO, GU. -/
def F.STEP_CMD_CMD (k : Nat) : Fld := ⟨(R.STEP_CMD k), 31, 28⟩

/-- STEP_CMD.SLOT [5:0] WO, GU. -/
def F.STEP_CMD_SLOT (k : Nat) : Fld := ⟨(R.STEP_CMD k), 5, 0⟩

/-- STEP_WAIT_HEAD (R370). -/
abbrev R.STEP_WAIT_HEAD (k : Nat) : Nat := 0x1900000 + k * 0x1000 + 0x90

/-- STEP_WAIT_HEAD.SLOT [57:52] RO. -/
def F.STEP_WAIT_HEAD_SLOT (k : Nat) : Fld := ⟨(R.STEP_WAIT_HEAD k), 57, 52⟩

/-- STEP_WAIT_HEAD.DESC [51:0] RO. -/
def F.STEP_WAIT_HEAD_DESC (k : Nat) : Fld := ⟨(R.STEP_WAIT_HEAD k), 51, 0⟩

/-- STEP_CNT_CLOSE (R370). -/
abbrev R.STEP_CNT_CLOSE (k : Nat) : Nat := 0x1900000 + k * 0x1000 + 0x98

/-- STEP_CNT_CLOSE [31:0] RO. -/
def F.STEP_CNT_CLOSE (k : Nat) : Fld := ⟨(R.STEP_CNT_CLOSE k), 31, 0⟩

/-- STEP_CNT_LATE (R370). -/
abbrev R.STEP_CNT_LATE (k : Nat) : Nat := 0x1900000 + k * 0x1000 + 0x9C

/-- STEP_CNT_LATE [31:0] RO. -/
def F.STEP_CNT_LATE (k : Nat) : Fld := ⟨(R.STEP_CNT_LATE k), 31, 0⟩

/-- STEP_CNT_FOLD (R370). -/
abbrev R.STEP_CNT_FOLD (k : Nat) : Nat := 0x1900000 + k * 0x1000 + 0xA0

/-- STEP_CNT_FOLD [31:0] RO. -/
def F.STEP_CNT_FOLD (k : Nat) : Fld := ⟨(R.STEP_CNT_FOLD k), 31, 0⟩

/-- STEP_CNT_DROP (R370). -/
abbrev R.STEP_CNT_DROP (k : Nat) : Nat := 0x1900000 + k * 0x1000 + 0xA4

/-- STEP_CNT_DROP [31:0] RO. -/
def F.STEP_CNT_DROP (k : Nat) : Fld := ⟨(R.STEP_CNT_DROP k), 31, 0⟩

/-- STEP_CNT_STALE (R370). -/
abbrev R.STEP_CNT_STALE (k : Nat) : Nat := 0x1900000 + k * 0x1000 + 0xA8

/-- STEP_CNT_STALE [31:0] RO. -/
def F.STEP_CNT_STALE (k : Nat) : Fld := ⟨(R.STEP_CNT_STALE k), 31, 0⟩

/-- STEP_CNT_EARLY (R370). -/
abbrev R.STEP_CNT_EARLY (k : Nat) : Nat := 0x1900000 + k * 0x1000 + 0xAC

/-- STEP_CNT_EARLY [31:0] RO. -/
def F.STEP_CNT_EARLY (k : Nat) : Fld := ⟨(R.STEP_CNT_EARLY k), 31, 0⟩

/-- STEP_CNT_DUP (R370). -/
abbrev R.STEP_CNT_DUP (k : Nat) : Nat := 0x1900000 + k * 0x1000 + 0xB0

/-- STEP_CNT_DUP [31:0] RO. -/
def F.STEP_CNT_DUP (k : Nat) : Fld := ⟨(R.STEP_CNT_DUP k), 31, 0⟩

/-- STEP_CNT_MISSING (R370). -/
abbrev R.STEP_CNT_MISSING (k : Nat) : Nat := 0x1900000 + k * 0x1000 + 0xB4

/-- STEP_CNT_MISSING [31:0] RO. -/
def F.STEP_CNT_MISSING (k : Nat) : Fld := ⟨(R.STEP_CNT_MISSING k), 31, 0⟩

/-- CKPT_CTL (R388). -/
abbrev R.CKPT_CTL : Nat := 0x900080

/-- CKPT_CTL.SUPERSEDE [11:11] ST. -/
def F.CKPT_CTL_SUPERSEDE : Fld := ⟨R.CKPT_CTL, 11, 11⟩

/-- CKPT_CTL.LAYERS [10:8] ST. -/
def F.CKPT_CTL_LAYERS : Fld := ⟨R.CKPT_CTL, 10, 8⟩

/-- CKPT_ARM (R388). -/
abbrev R.CKPT_ARM : Nat := 0x900084

/-- CKPT_ARM.GO [0:0] ST. -/
def F.CKPT_ARM_GO : Fld := ⟨R.CKPT_ARM, 0, 0⟩

/-- CKPT_SNAP_OFS (R388). -/
abbrev R.CKPT_SNAP_OFS : Nat := 0x900088

/-- CKPT_SNAP_OFS.OFS [37:26] ST. -/
def F.CKPT_SNAP_OFS_OFS : Fld := ⟨R.CKPT_SNAP_OFS, 37, 26⟩

/-- CKPT_SNAP_SIZE (R388). -/
abbrev R.CKPT_SNAP_SIZE : Nat := 0x900090

/-- CKPT_SNAP_SIZE.SIZE [11:0] ST. -/
def F.CKPT_SNAP_SIZE_SIZE : Fld := ⟨R.CKPT_SNAP_SIZE, 11, 0⟩

/-- CKPT_PART_OFS (R388). -/
abbrev R.CKPT_PART_OFS : Nat := 0x900098

/-- CKPT_PART_OFS.OFS [37:26] ST. -/
def F.CKPT_PART_OFS_OFS : Fld := ⟨R.CKPT_PART_OFS, 37, 26⟩

/-- CKPT_PART_SIZE (R388). -/
abbrev R.CKPT_PART_SIZE : Nat := 0x9000A0

/-- CKPT_PART_SIZE.SIZE [11:0] ST. -/
def F.CKPT_PART_SIZE_SIZE : Fld := ⟨R.CKPT_PART_SIZE, 11, 0⟩

/-- CKPT_LIST_BASE (R388). -/
abbrev R.CKPT_LIST_BASE : Nat := 0x9000A8

/-- CKPT_LIST_BASE.ADDR [51:0] ST. -/
def F.CKPT_LIST_BASE_ADDR : Fld := ⟨R.CKPT_LIST_BASE, 51, 0⟩

/-- CKPT_LIST_COUNT (R388). -/
abbrev R.CKPT_LIST_COUNT : Nat := 0x9000B0

/-- CKPT_LIST_COUNT.COUNT [15:0] ST. -/
def F.CKPT_LIST_COUNT_COUNT : Fld := ⟨R.CKPT_LIST_COUNT, 15, 0⟩

/-- CKPT_CURSOR_BASE (R388). -/
abbrev R.CKPT_CURSOR_BASE : Nat := 0x9000B8

/-- CKPT_CURSOR_BASE.ADDR [51:0] ST. -/
def F.CKPT_CURSOR_BASE_ADDR : Fld := ⟨R.CKPT_CURSOR_BASE, 51, 0⟩

/-- CKPT_STORE_BASE (R388). -/
abbrev R.CKPT_STORE_BASE : Nat := 0x9000C0

/-- CKPT_STORE_BASE.ADDR [63:0] ST. -/
def F.CKPT_STORE_BASE_ADDR : Fld := ⟨R.CKPT_STORE_BASE, 63, 0⟩

/-- CKPT_STORE_LEN (R388). -/
abbrev R.CKPT_STORE_LEN : Nat := 0x9000C8

/-- CKPT_STORE_LEN.BYTES [63:0] ST. -/
def F.CKPT_STORE_LEN_BYTES : Fld := ⟨R.CKPT_STORE_LEN, 63, 0⟩

/-- CKPT_PCTX (R388). -/
abbrev R.CKPT_PCTX : Nat := 0x9000D0

/-- CKPT_PCTX.CTX [19:0] ST. -/
def F.CKPT_PCTX_CTX : Fld := ⟨R.CKPT_PCTX, 19, 0⟩

/-- CKPT_RCTX (R388). -/
abbrev R.CKPT_RCTX : Nat := 0x9000D4

/-- CKPT_RCTX.CTX [19:0] ST. -/
def F.CKPT_RCTX_CTX : Fld := ⟨R.CKPT_RCTX, 19, 0⟩

/-- CKPT_PARTNER (R388). -/
abbrev R.CKPT_PARTNER : Nat := 0x9000D8

/-- CKPT_PARTNER.VALID [4:4] ST. -/
def F.CKPT_PARTNER_VALID : Fld := ⟨R.CKPT_PARTNER, 4, 4⟩

/-- CKPT_PARTNER.SLOT [3:0] ST. -/
def F.CKPT_PARTNER_SLOT : Fld := ⟨R.CKPT_PARTNER, 3, 0⟩

/-- CKPT_FEED (R388). -/
abbrev R.CKPT_FEED : Nat := 0x9000DC

/-- CKPT_FEED.B [15:0] ST. -/
def F.CKPT_FEED_B : Fld := ⟨R.CKPT_FEED, 15, 0⟩

/-- CKPT_STAT (R388). -/
abbrev R.CKPT_STAT : Nat := 0x9000E0

/-- CKPT_STAT.STATE [31:28] RO. -/
def F.CKPT_STAT_STATE : Fld := ⟨R.CKPT_STAT, 31, 28⟩

/-- CKPT_STAT.SAFE [27:27] RO. -/
def F.CKPT_STAT_SAFE : Fld := ⟨R.CKPT_STAT, 27, 27⟩

/-- CKPT_STAT.CO_FED [26:26] RO. -/
def F.CKPT_STAT_CO_FED : Fld := ⟨R.CKPT_STAT, 26, 26⟩

/-- CKPT_STAT.DEEPEST [25:23] RO. -/
def F.CKPT_STAT_DEEPEST : Fld := ⟨R.CKPT_STAT, 25, 23⟩

/-- CKPT_STAT.CAUSE [22:20] RO. -/
def F.CKPT_STAT_CAUSE : Fld := ⟨R.CKPT_STAT, 22, 20⟩

/-- CKPT_STAT.PSLOT [19:16] RO. -/
def F.CKPT_STAT_PSLOT : Fld := ⟨R.CKPT_STAT, 19, 16⟩

/-- CKPT_STAT.STORE [7:6] RO. -/
def F.CKPT_STAT_STORE : Fld := ⟨R.CKPT_STAT, 7, 6⟩

/-- CKPT_STAT.FLASH [5:4] RO. -/
def F.CKPT_STAT_FLASH : Fld := ⟨R.CKPT_STAT, 5, 4⟩

/-- CKPT_STAT.PARTNER [3:2] RO. -/
def F.CKPT_STAT_PARTNER : Fld := ⟨R.CKPT_STAT, 3, 2⟩

/-- CKPT_STAT.STACKS [1:0] RO. -/
def F.CKPT_STAT_STACKS : Fld := ⟨R.CKPT_STAT, 1, 0⟩

/-- CKPT_ID (R388). -/
abbrev R.CKPT_ID : Nat := 0x9000E8

/-- CKPT_ID.ID [47:0] RO. -/
def F.CKPT_ID_ID : Fld := ⟨R.CKPT_ID, 47, 0⟩

/-- CKPT_SAFE_ID (R388). -/
abbrev R.CKPT_SAFE_ID : Nat := 0x9000F0

/-- CKPT_SAFE_ID.ID [47:0] RO. -/
def F.CKPT_SAFE_ID_ID : Fld := ⟨R.CKPT_SAFE_ID, 47, 0⟩

/-- CKPT_STOP_LAST (R388). -/
abbrev R.CKPT_STOP_LAST : Nat := 0x9000F8

/-- CKPT_STOP_LAST.TIDES [63:48] RO. -/
def F.CKPT_STOP_LAST_TIDES : Fld := ⟨R.CKPT_STOP_LAST, 63, 48⟩

/-- CKPT_STOP_LAST.CYCLES [31:0] RO. -/
def F.CKPT_STOP_LAST_CYCLES : Fld := ⟨R.CKPT_STOP_LAST, 31, 0⟩

/-- CKPT_PMAX (R388). -/
abbrev R.CKPT_PMAX : Nat := 0x900100

/-- CKPT_PMAX.BYTES [63:0] RO. -/
def F.CKPT_PMAX_BYTES : Fld := ⟨R.CKPT_PMAX, 63, 0⟩

/-- CKPT_CMD (R388). -/
abbrev R.CKPT_CMD : Nat := 0x900108

/-- CKPT_CMD.CMD [31:28] WO, GU. -/
def F.CKPT_CMD_CMD : Fld := ⟨R.CKPT_CMD, 31, 28⟩

/-- CKPT_CMD.SRC [27:24] WO, GU. -/
def F.CKPT_CMD_SRC : Fld := ⟨R.CKPT_CMD, 27, 24⟩

/-- CKPT_CMD.SLOT [15:0] WO, GU. -/
def F.CKPT_CMD_SLOT : Fld := ⟨R.CKPT_CMD, 15, 0⟩

/-- CKPT_CNT_SNAP (R388). -/
abbrev R.CKPT_CNT_SNAP : Nat := 0x900110

/-- CKPT_CNT_SNAP [31:0] RO. -/
def F.CKPT_CNT_SNAP : Fld := ⟨R.CKPT_CNT_SNAP, 31, 0⟩

/-- CKPT_CNT_REFUSED (R388). -/
abbrev R.CKPT_CNT_REFUSED : Nat := 0x900114

/-- CKPT_CNT_REFUSED [31:0] RO. -/
def F.CKPT_CNT_REFUSED : Fld := ⟨R.CKPT_CNT_REFUSED, 31, 0⟩

/-- CKPT_CNT_MISMATCH (R388). -/
abbrev R.CKPT_CNT_MISMATCH : Nat := 0x900118

/-- CKPT_CNT_MISMATCH [31:0] RO. -/
def F.CKPT_CNT_MISMATCH : Fld := ⟨R.CKPT_CNT_MISMATCH, 31, 0⟩

/-- CKPT_CNT_BAD (R388). -/
abbrev R.CKPT_CNT_BAD : Nat := 0x90011C

/-- CKPT_CNT_BAD [31:0] RO. -/
def F.CKPT_CNT_BAD : Fld := ⟨R.CKPT_CNT_BAD, 31, 0⟩

/-- CKPT_CNT_UNCHECKED (R388). -/
abbrev R.CKPT_CNT_UNCHECKED : Nat := 0x900120

/-- CKPT_CNT_UNCHECKED [31:0] RO. -/
def F.CKPT_CNT_UNCHECKED : Fld := ⟨R.CKPT_CNT_UNCHECKED, 31, 0⟩

/-- CKPT_CNT_UNMAPPED (R388). -/
abbrev R.CKPT_CNT_UNMAPPED : Nat := 0x900124

/-- CKPT_CNT_UNMAPPED [31:0] RO. -/
def F.CKPT_CNT_UNMAPPED : Fld := ⟨R.CKPT_CNT_UNMAPPED, 31, 0⟩

/-- CKPT_CNT_REALIGN (R388). -/
abbrev R.CKPT_CNT_REALIGN : Nat := 0x900128

/-- CKPT_CNT_REALIGN [31:0] RO. -/
def F.CKPT_CNT_REALIGN : Fld := ⟨R.CKPT_CNT_REALIGN, 31, 0⟩

/-- FLASH_SLOT_SIZE (R391). -/
abbrev R.FLASH_SLOT_SIZE : Nat := 0x800080

/-- FLASH_SLOT_SIZE.SIZE [16:0] ST, GU. -/
def F.FLASH_SLOT_SIZE_SIZE : Fld := ⟨R.FLASH_SLOT_SIZE, 16, 0⟩

/-- FLASH_STAT (R391). -/
abbrev R.FLASH_STAT : Nat := 0x800084

/-- FLASH_STAT.VALID [31:16] RO. -/
def F.FLASH_STAT_VALID : Fld := ⟨R.FLASH_STAT, 31, 16⟩

/-- FLASH_STAT.SLOTS [15:0] RO. -/
def F.FLASH_STAT_SLOTS : Fld := ⟨R.FLASH_STAT, 15, 0⟩

/-- FLASH_SLOT_IDX (R391). -/
abbrev R.FLASH_SLOT_IDX : Nat := 0x800088

/-- FLASH_SLOT_IDX.SLOT [15:0] RW. -/
def F.FLASH_SLOT_IDX_SLOT : Fld := ⟨R.FLASH_SLOT_IDX, 15, 0⟩

/-- FLASH_SLOT (R391). -/
abbrev R.FLASH_SLOT : Nat := 0x800090

/-- FLASH_SLOT.VALID [63:63] RO. -/
def F.FLASH_SLOT_VALID : Fld := ⟨R.FLASH_SLOT, 63, 63⟩

/-- FLASH_SLOT.WRITING [62:62] RO. -/
def F.FLASH_SLOT_WRITING : Fld := ⟨R.FLASH_SLOT, 62, 62⟩

/-- FLASH_SLOT.READING [61:61] RO. -/
def F.FLASH_SLOT_READING : Fld := ⟨R.FLASH_SLOT, 61, 61⟩

/-- FLASH_SLOT.ID [47:0] RO. -/
def F.FLASH_SLOT_ID : Fld := ⟨R.FLASH_SLOT, 47, 0⟩

/-- FLASH_CNT_WR (R391). -/
abbrev R.FLASH_CNT_WR : Nat := 0x800098

/-- FLASH_CNT_WR [63:0] RO. -/
def F.FLASH_CNT_WR : Fld := ⟨R.FLASH_CNT_WR, 63, 0⟩

/-- FLASH_CNT_RD (R391). -/
abbrev R.FLASH_CNT_RD : Nat := 0x8000A0

/-- FLASH_CNT_RD [63:0] RO. -/
def F.FLASH_CNT_RD : Fld := ⟨R.FLASH_CNT_RD, 63, 0⟩

/-- FLASH_CNT_ERR (R391). -/
abbrev R.FLASH_CNT_ERR : Nat := 0x8000A8

/-- FLASH_CNT_ERR [31:0] RO. -/
def F.FLASH_CNT_ERR : Fld := ⟨R.FLASH_CNT_ERR, 31, 0⟩

/-- PWR_CAP (R417). -/
abbrev R.PWR_CAP : Nat := 0x300080

/-- PWR_CAP.WATTS [12:0] ST. -/
def F.PWR_CAP_WATTS : Fld := ⟨R.PWR_CAP, 12, 0⟩

/-- PWR_POLICY (R417). -/
abbrev R.PWR_POLICY : Nat := 0x300084

/-- PWR_POLICY.DROOP_MV [23:16] ST. -/
def F.PWR_POLICY_DROOP_MV : Fld := ⟨R.PWR_POLICY, 23, 16⟩

/-- PWR_POLICY.OVER_TOL [15:8] ST. -/
def F.PWR_POLICY_OVER_TOL : Fld := ⟨R.PWR_POLICY, 15, 8⟩

/-- PWR_INPUT (R417). -/
abbrev R.PWR_INPUT : Nat := 0x300088

/-- PWR_INPUT.EDGE [63:48] SC. -/
def F.PWR_INPUT_EDGE : Fld := ⟨R.PWR_INPUT, 63, 48⟩

/-- PWR_INPUT.VIN [47:32] SC. -/
def F.PWR_INPUT_VIN : Fld := ⟨R.PWR_INPUT, 47, 32⟩

/-- PWR_INPUT.IIN [31:16] SC. -/
def F.PWR_INPUT_IIN : Fld := ⟨R.PWR_INPUT, 31, 16⟩

/-- PWR_INPUT.PIN [15:0] SC. -/
def F.PWR_INPUT_PIN : Fld := ⟨R.PWR_INPUT, 15, 0⟩

/-- PWR_STAT (R417). -/
abbrev R.PWR_STAT : Nat := 0x300090

/-- PWR_STAT.ETA [21:12] RO. -/
def F.PWR_STAT_ETA : Fld := ⟨R.PWR_STAT, 21, 12⟩

/-- PWR_STAT.SENSE_LOCAL [3:3] RO. -/
def F.PWR_STAT_SENSE_LOCAL : Fld := ⟨R.PWR_STAT, 3, 3⟩

/-- PWR_STAT.CAP_BELOW_FLOOR [2:2] RO. -/
def F.PWR_STAT_CAP_BELOW_FLOOR : Fld := ⟨R.PWR_STAT, 2, 2⟩

/-- PWR_STAT.VIN_LOW [1:1] RO. -/
def F.PWR_STAT_VIN_LOW : Fld := ⟨R.PWR_STAT, 1, 1⟩

/-- PWR_STAT.HOST_ACTIVE [0:0] RO. -/
def F.PWR_STAT_HOST_ACTIVE : Fld := ⟨R.PWR_STAT, 0, 0⟩

/-- PWR_BUDGET (R417). -/
abbrev R.PWR_BUDGET : Nat := 0x300094

/-- PWR_BUDGET.ATOLLS [31:16] RO. -/
def F.PWR_BUDGET_ATOLLS : Fld := ⟨R.PWR_BUDGET, 31, 16⟩

/-- PWR_BUDGET.OTHER [15:0] RO. -/
def F.PWR_BUDGET_OTHER : Fld := ⟨R.PWR_BUDGET, 15, 0⟩

/-- PWR_HOST_BEAT (R417). -/
abbrev R.PWR_HOST_BEAT : Nat := 0x300098

/-- PWR_HOST_BEAT [31:0] WO. -/
def F.PWR_HOST_BEAT : Fld := ⟨R.PWR_HOST_BEAT, 31, 0⟩

/-- PWR_E_IN (R417). -/
abbrev R.PWR_E_IN : Nat := 0x3000A0

/-- PWR_E_IN [63:0] RO. -/
def F.PWR_E_IN : Fld := ⟨R.PWR_E_IN, 63, 0⟩

/-- PWR_PH_IDX (R417). -/
abbrev R.PWR_PH_IDX : Nat := 0x3000A8

/-- PWR_PH_IDX.ATOLL [14:12] RW. -/
def F.PWR_PH_IDX_ATOLL : Fld := ⟨R.PWR_PH_IDX, 14, 12⟩

/-- PWR_PH_IDX.TAG [11:0] RW. -/
def F.PWR_PH_IDX_TAG : Fld := ⟨R.PWR_PH_IDX, 11, 0⟩

/-- PWR_PH_EST (R417). -/
abbrev R.PWR_PH_EST : Nat := 0x3000AC

/-- PWR_PH_EST [31:0] RO. -/
def F.PWR_PH_EST : Fld := ⟨R.PWR_PH_EST, 31, 0⟩

/-- PWR_PH_CNT (R417). -/
abbrev R.PWR_PH_CNT : Nat := 0x3000B0

/-- PWR_PH_CNT [31:0] RO. -/
def F.PWR_PH_CNT : Fld := ⟨R.PWR_PH_CNT, 31, 0⟩

/-- PWR_ATL_SET (R417). -/
abbrev R.PWR_ATL_SET (i : Nat) : Nat := 0x300100 + i * 0x10

/-- PWR_ATL_SET.REASON [31:28] RO. -/
def F.PWR_ATL_SET_REASON (i : Nat) : Fld := ⟨(R.PWR_ATL_SET i), 31, 28⟩

/-- PWR_ATL_SET.FLOOR_PT [27:24] RO. -/
def F.PWR_ATL_SET_FLOOR_PT (i : Nat) : Fld := ⟨(R.PWR_ATL_SET i), 27, 24⟩

/-- PWR_ATL_SET.PT [23:20] RO. -/
def F.PWR_ATL_SET_PT (i : Nat) : Fld := ⟨(R.PWR_ATL_SET i), 23, 20⟩

/-- PWR_ATL_SET.TOP_PT [19:16] RO. -/
def F.PWR_ATL_SET_TOP_PT (i : Nat) : Fld := ⟨(R.PWR_ATL_SET i), 19, 16⟩

/-- PWR_ATL_SET.MHZ [11:0] RO. -/
def F.PWR_ATL_SET_MHZ (i : Nat) : Fld := ⟨(R.PWR_ATL_SET i), 11, 0⟩

/-- PWR_ATL_ALLOC (R417). -/
abbrev R.PWR_ATL_ALLOC (i : Nat) : Nat := 0x300104 + i * 0x10

/-- PWR_ATL_ALLOC.DEMAND [31:16] RO. -/
def F.PWR_ATL_ALLOC_DEMAND (i : Nat) : Fld := ⟨(R.PWR_ATL_ALLOC i), 31, 16⟩

/-- PWR_ATL_ALLOC.ALLOC [15:0] RO. -/
def F.PWR_ATL_ALLOC_ALLOC (i : Nat) : Fld := ⟨(R.PWR_ATL_ALLOC i), 15, 0⟩

/-- PWR_HSET (R417). -/
abbrev R.PWR_HSET (i : Nat) : Nat := 0x300108 + i * 0x10

/-- PWR_HSET.VALID [4:4] RW. -/
def F.PWR_HSET_VALID (i : Nat) : Fld := ⟨(R.PWR_HSET i), 4, 4⟩

/-- PWR_HSET.PT [3:0] RW. -/
def F.PWR_HSET_PT (i : Nat) : Fld := ⟨(R.PWR_HSET i), 3, 0⟩

/-- PWR_ATL_SWELL (R417). -/
abbrev R.PWR_ATL_SWELL (i : Nat) : Nat := 0x30010C + i * 0x10

/-- PWR_ATL_SWELL.LEVEL [23:20] RO. -/
def F.PWR_ATL_SWELL_LEVEL (i : Nat) : Fld := ⟨(R.PWR_ATL_SWELL i), 23, 20⟩

/-- PWR_ATL_SWELL.PHASE [19:8] RO. -/
def F.PWR_ATL_SWELL_PHASE (i : Nat) : Fld := ⟨(R.PWR_ATL_SWELL i), 19, 8⟩

/-- PWR_ATL_SWELL.IN [7:0] RO. -/
def F.PWR_ATL_SWELL_IN (i : Nat) : Fld := ⟨(R.PWR_ATL_SWELL i), 7, 0⟩

/-- PWR_THR_EPI (R417). -/
abbrev R.PWR_THR_EPI (i : Nat) : Nat := 0x300200 + i * 0x20

/-- PWR_THR_EPI [31:0] RO. -/
def F.PWR_THR_EPI (i : Nat) : Fld := ⟨(R.PWR_THR_EPI i), 31, 0⟩

/-- PWR_THR_TIDES (R417). -/
abbrev R.PWR_THR_TIDES (i : Nat) : Nat := 0x300204 + i * 0x20

/-- PWR_THR_TIDES [31:0] RO. -/
def F.PWR_THR_TIDES (i : Nat) : Fld := ⟨(R.PWR_THR_TIDES i), 31, 0⟩

/-- PWR_THR_LAST (R417). -/
abbrev R.PWR_THR_LAST (i : Nat) : Nat := 0x300208 + i * 0x20

/-- PWR_THR_LAST [31:0] RO. -/
def F.PWR_THR_LAST (i : Nat) : Fld := ⟨(R.PWR_THR_LAST i), 31, 0⟩

/-- PWR_THR_STRETCH (R417). -/
abbrev R.PWR_THR_STRETCH (i : Nat) : Nat := 0x300210 + i * 0x20

/-- PWR_THR_STRETCH [63:0] RO. -/
def F.PWR_THR_STRETCH (i : Nat) : Fld := ⟨(R.PWR_THR_STRETCH i), 63, 0⟩

/-- PWR_E_ATL (R417). -/
abbrev R.PWR_E_ATL (i : Nat) : Nat := 0x300340 + i * 0x8

/-- PWR_E_ATL [63:0] RO. -/
def F.PWR_E_ATL (i : Nat) : Fld := ⟨(R.PWR_E_ATL i), 63, 0⟩

/-- PWR_E_STK (R417). -/
abbrev R.PWR_E_STK (i : Nat) : Nat := 0x300380 + i * 0x8

/-- PWR_E_STK [63:0] RO. -/
def F.PWR_E_STK (i : Nat) : Fld := ⟨(R.PWR_E_STK i), 63, 0⟩

/-- PWR_E_PORT (R417). -/
abbrev R.PWR_E_PORT (i : Nat) : Nat := 0x3003C0 + i * 0x8

/-- PWR_E_PORT [63:0] RO. -/
def F.PWR_E_PORT (i : Nat) : Fld := ⟨(R.PWR_E_PORT i), 63, 0⟩

/-- PWR_E_HBR (R417). -/
abbrev R.PWR_E_HBR : Nat := 0x3003F0

/-- PWR_E_HBR [63:0] RO. -/
def F.PWR_E_HBR : Fld := ⟨R.PWR_E_HBR, 63, 0⟩

/-- PWR_E_HOLM (R417). -/
abbrev R.PWR_E_HOLM : Nat := 0x3003F8

/-- PWR_E_HOLM [63:0] RO. -/
def F.PWR_E_HOLM : Fld := ⟨R.PWR_E_HOLM, 63, 0⟩

/-- PWR_E_QUEUE (R417). -/
abbrev R.PWR_E_QUEUE (i : Nat) : Nat := 0x300400 + i * 0x8

/-- PWR_E_QUEUE [63:0] RO. -/
def F.PWR_E_QUEUE (i : Nat) : Fld := ⟨(R.PWR_E_QUEUE i), 63, 0⟩

/-- THERM_LIM (R418). -/
abbrev R.THERM_LIM : Nat := 0x400080

/-- THERM_LIM.STOP [23:16] RO. -/
def F.THERM_LIM_STOP : Fld := ⟨R.THERM_LIM, 23, 16⟩

/-- THERM_LIM.STACK_THR [15:8] ST. -/
def F.THERM_LIM_STACK_THR : Fld := ⟨R.THERM_LIM, 15, 8⟩

/-- THERM_LIM.THROTTLE [7:0] ST. -/
def F.THERM_LIM_THROTTLE : Fld := ⟨R.THERM_LIM, 7, 0⟩

/-- THERM_STAT (R418). -/
abbrev R.THERM_STAT : Nat := 0x400084

/-- THERM_STAT.TRIPPED [19:12] RO. -/
def F.THERM_STAT_TRIPPED : Fld := ⟨R.THERM_STAT, 19, 12⟩

/-- THERM_STAT.OTHER_TRIP [11:11] RO. -/
def F.THERM_STAT_OTHER_TRIP : Fld := ⟨R.THERM_STAT, 11, 11⟩

/-- THERM_STAT.COOLANT_STOP [10:10] RO. -/
def F.THERM_STAT_COOLANT_STOP : Fld := ⟨R.THERM_STAT, 10, 10⟩

/-- THERM_STAT.COOL_OK [9:9] RO. -/
def F.THERM_STAT_COOL_OK : Fld := ⟨R.THERM_STAT, 9, 9⟩

/-- THERM_STAT.STACK_LOST [8:8] RO. -/
def F.THERM_STAT_STACK_LOST : Fld := ⟨R.THERM_STAT, 8, 8⟩

/-- THERM_STAT.THROTTLED [7:0] RO. -/
def F.THERM_STAT_THROTTLED : Fld := ⟨R.THERM_STAT, 7, 0⟩

/-- THERM_ATL (R418). -/
abbrev R.THERM_ATL (i : Nat) : Nat := 0x400100 + i * 0x8

/-- THERM_ATL.EDGE [63:48] SC. -/
def F.THERM_ATL_EDGE (i : Nat) : Fld := ⟨(R.THERM_ATL i), 63, 48⟩

/-- THERM_ATL.MAX [47:32] SC. -/
def F.THERM_ATL_MAX (i : Nat) : Fld := ⟨(R.THERM_ATL i), 47, 32⟩

/-- THERM_ATL.TEMP [15:0] SC. -/
def F.THERM_ATL_TEMP (i : Nat) : Fld := ⟨(R.THERM_ATL i), 15, 0⟩

/-- THERM_HBR (R418). -/
abbrev R.THERM_HBR : Nat := 0x400140

/-- THERM_HBR.EDGE [63:48] SC. -/
def F.THERM_HBR_EDGE : Fld := ⟨R.THERM_HBR, 63, 48⟩

/-- THERM_HBR.MAX [47:32] SC. -/
def F.THERM_HBR_MAX : Fld := ⟨R.THERM_HBR, 47, 32⟩

/-- THERM_HBR.TEMP [15:0] SC. -/
def F.THERM_HBR_TEMP : Fld := ⟨R.THERM_HBR, 15, 0⟩

/-- THERM_HOLM (R418). -/
abbrev R.THERM_HOLM : Nat := 0x400148

/-- THERM_HOLM.EDGE [63:48] SC. -/
def F.THERM_HOLM_EDGE : Fld := ⟨R.THERM_HOLM, 63, 48⟩

/-- THERM_HOLM.MAX [47:32] SC. -/
def F.THERM_HOLM_MAX : Fld := ⟨R.THERM_HOLM, 47, 32⟩

/-- THERM_HOLM.TEMP [15:0] SC. -/
def F.THERM_HOLM_TEMP : Fld := ⟨R.THERM_HOLM, 15, 0⟩

/-- THERM_PORT (R418). -/
abbrev R.THERM_PORT (i : Nat) : Nat := 0x400150 + i * 0x8

/-- THERM_PORT.EDGE [63:48] SC. -/
def F.THERM_PORT_EDGE (i : Nat) : Fld := ⟨(R.THERM_PORT i), 63, 48⟩

/-- THERM_PORT.MAX [47:32] SC. -/
def F.THERM_PORT_MAX (i : Nat) : Fld := ⟨(R.THERM_PORT i), 47, 32⟩

/-- THERM_PORT.TEMP [15:0] SC. -/
def F.THERM_PORT_TEMP (i : Nat) : Fld := ⟨(R.THERM_PORT i), 15, 0⟩

/-- THERM_COOL_TIDE (R418). -/
abbrev R.THERM_COOL_TIDE : Nat := 0x400180

/-- THERM_COOL_TIDE.TIDE [47:0] RO. -/
def F.THERM_COOL_TIDE_TIDE : Fld := ⟨R.THERM_COOL_TIDE, 47, 0⟩

/-- THERM_CNT_TRIP (R418). -/
abbrev R.THERM_CNT_TRIP : Nat := 0x400188

/-- THERM_CNT_TRIP [31:0] RO. -/
def F.THERM_CNT_TRIP : Fld := ⟨R.THERM_CNT_TRIP, 31, 0⟩

/-- THERM_CNT_COOL (R418). -/
abbrev R.THERM_CNT_COOL : Nat := 0x40018C

/-- THERM_CNT_COOL [31:0] RO. -/
def F.THERM_CNT_COOL : Fld := ⟨R.THERM_CNT_COOL, 31, 0⟩

/-- AGE_STAT (R419). -/
abbrev R.AGE_STAT : Nat := 0x500080

/-- AGE_STAT.PENDING [2:2] RO. -/
def F.AGE_STAT_PENDING : Fld := ⟨R.AGE_STAT, 2, 2⟩

/-- AGE_STAT.WORST [1:1] RO. -/
def F.AGE_STAT_WORST : Fld := ⟨R.AGE_STAT, 1, 1⟩

/-- AGE_STAT.BASE_FIRST [0:0] RO. -/
def F.AGE_STAT_BASE_FIRST : Fld := ⟨R.AGE_STAT, 0, 0⟩

/-- AGE_GUARD (R419). -/
abbrev R.AGE_GUARD : Nat := 0x500084

/-- AGE_GUARD.WORST_MV [15:8] ST, GU. -/
def F.AGE_GUARD_WORST_MV : Fld := ⟨R.AGE_GUARD, 15, 8⟩

/-- AGE_GUARD.BASE_MV [7:0] ST, GU. -/
def F.AGE_GUARD_BASE_MV : Fld := ⟨R.AGE_GUARD, 7, 0⟩

/-- AGE_HIST (R419). -/
abbrev R.AGE_HIST : Nat := 0x500088

/-- AGE_HIST.TIDES [47:0] RO. -/
def F.AGE_HIST_TIDES : Fld := ⟨R.AGE_HIST, 47, 0⟩

/-- AGE_LAST (R419). -/
abbrev R.AGE_LAST : Nat := 0x500090

/-- AGE_LAST.TIDE [47:0] RO. -/
def F.AGE_LAST_TIDE : Fld := ⟨R.AGE_LAST, 47, 0⟩

/-- AGE_CMD (R419). -/
abbrev R.AGE_CMD : Nat := 0x500098

/-- AGE_CMD.CMD [3:0] WO, GU. -/
def F.AGE_CMD_CMD : Fld := ⟨R.AGE_CMD, 3, 0⟩

/-- AGE_ATL (R419). -/
abbrev R.AGE_ATL (i : Nat) : Nat := 0x500100 + i * 0x8

/-- AGE_ATL.DRIFT [31:24] RO. -/
def F.AGE_ATL_DRIFT (i : Nat) : Fld := ⟨(R.AGE_ATL i), 31, 24⟩

/-- AGE_ATL.PLANNED [23:16] RO. -/
def F.AGE_ATL_PLANNED (i : Nat) : Fld := ⟨(R.AGE_ATL i), 23, 16⟩

/-- AGE_ATL.GUARD [15:8] RO. -/
def F.AGE_ATL_GUARD (i : Nat) : Fld := ⟨(R.AGE_ATL i), 15, 8⟩

/-- AGE_ATL.TOP_PT [3:0] RO. -/
def F.AGE_ATL_TOP_PT (i : Nat) : Fld := ⟨(R.AGE_ATL i), 3, 0⟩

/-- AGE_ATL_PEND (R419). -/
abbrev R.AGE_ATL_PEND (i : Nat) : Nat := 0x500104 + i * 0x8

/-- AGE_ATL_PEND.GUARD [15:8] RO. -/
def F.AGE_ATL_PEND_GUARD (i : Nat) : Fld := ⟨(R.AGE_ATL_PEND i), 15, 8⟩

/-- AGE_ATL_PEND.TOP_PT [3:0] RO. -/
def F.AGE_ATL_PEND_TOP_PT (i : Nat) : Fld := ⟨(R.AGE_ATL_PEND i), 3, 0⟩

/-- AGE_DIE (R419). -/
abbrev R.AGE_DIE (i : Nat) : Nat := 0x500140 + i * 0x4

/-- AGE_DIE.DRIFT [31:24] RO. -/
def F.AGE_DIE_DRIFT (i : Nat) : Fld := ⟨(R.AGE_DIE i), 31, 24⟩

/-- AGE_DIE.GUARD [15:8] RO. -/
def F.AGE_DIE_GUARD (i : Nat) : Fld := ⟨(R.AGE_DIE i), 15, 8⟩

/-- AGE_PLAN_IDX (R419). -/
abbrev R.AGE_PLAN_IDX : Nat := 0x500180

/-- AGE_PLAN_IDX.PT [7:4] RW. -/
def F.AGE_PLAN_IDX_PT : Fld := ⟨R.AGE_PLAN_IDX, 7, 4⟩

/-- AGE_PLAN_IDX.ATOLL [2:0] RW. -/
def F.AGE_PLAN_IDX_ATOLL : Fld := ⟨R.AGE_PLAN_IDX, 2, 0⟩

/-- AGE_PLAN (R419). -/
abbrev R.AGE_PLAN : Nat := 0x500184

/-- AGE_PLAN.V_NOM [31:16] RO. -/
def F.AGE_PLAN_V_NOM : Fld := ⟨R.AGE_PLAN, 31, 16⟩

/-- AGE_PLAN.V [15:0] RO. -/
def F.AGE_PLAN_V : Fld := ⟨R.AGE_PLAN, 15, 0⟩

/-- RST_CAUSE (R442). -/
abbrev R.RST_CAUSE : Nat := 0x600080

/-- RST_CAUSE.WDOG_RUN [9:8] RO. -/
def F.RST_CAUSE_WDOG_RUN : Fld := ⟨R.RST_CAUSE, 9, 8⟩

/-- RST_CAUSE.CAUSE [7:0] RO. -/
def F.RST_CAUSE_CAUSE : Fld := ⟨R.RST_CAUSE, 7, 0⟩

/-- RST_BRING (R442). -/
abbrev R.RST_BRING : Nat := 0x600084

/-- RST_BRING.FAILED [7:7] RO. -/
def F.RST_BRING_FAILED : Fld := ⟨R.RST_BRING, 7, 7⟩

/-- RST_BRING.STAGE [3:0] RO. -/
def F.RST_BRING_STAGE : Fld := ⟨R.RST_BRING, 3, 0⟩

/-- RST_STAGE_T (R442). -/
abbrev R.RST_STAGE_T (i : Nat) : Nat := 0x600088 + i * 0x4

/-- RST_STAGE_T [31:0] RO. -/
def F.RST_STAGE_T (i : Nat) : Fld := ⟨(R.RST_STAGE_T i), 31, 0⟩

/-- RST_CMD (R442). -/
abbrev R.RST_CMD : Nat := 0x6000B0

/-- RST_CMD.CMD [3:0] WO, GU. -/
def F.RST_CMD_CMD : Fld := ⟨R.RST_CMD, 3, 0⟩

/-- RST_WDOG (R442). -/
abbrev R.RST_WDOG : Nat := 0x6000B4

/-- RST_WDOG.PERIOD [15:0] ST. -/
def F.RST_WDOG_PERIOD : Fld := ⟨R.RST_WDOG, 15, 0⟩

/-- RST_WDOG_KICK (R442). -/
abbrev R.RST_WDOG_KICK : Nat := 0x6000B8

/-- RST_WDOG_KICK [31:0] WO. -/
def F.RST_WDOG_KICK : Fld := ⟨R.RST_WDOG_KICK, 31, 0⟩

/-- RST_SLOT (R442). -/
abbrev R.RST_SLOT : Nat := 0x6000BC

/-- RST_SLOT.VALID [4:4] ST, GU. -/
def F.RST_SLOT_VALID : Fld := ⟨R.RST_SLOT, 4, 4⟩

/-- RST_SLOT.SLOT [3:0] ST, GU. -/
def F.RST_SLOT_SLOT : Fld := ⟨R.RST_SLOT, 3, 0⟩

/-- RST_STRAP (R442). -/
abbrev R.RST_STRAP : Nat := 0x6000C0

/-- RST_STRAP.RATIO [11:0] RO. -/
def F.RST_STRAP_RATIO : Fld := ⟨R.RST_STRAP, 11, 0⟩

/-- RST_CNT_GLITCH (R442). -/
abbrev R.RST_CNT_GLITCH : Nat := 0x6000C4

/-- RST_CNT_GLITCH [31:0] RO. -/
def F.RST_CNT_GLITCH : Fld := ⟨R.RST_CNT_GLITCH, 31, 0⟩

/-- RST_CNT_RESET (R442). -/
abbrev R.RST_CNT_RESET : Nat := 0x6000C8

/-- RST_CNT_RESET [31:0] RO. -/
def F.RST_CNT_RESET : Fld := ⟨R.RST_CNT_RESET, 31, 0⟩

/-- RST_CNT_WDOG (R442). -/
abbrev R.RST_CNT_WDOG : Nat := 0x6000CC

/-- RST_CNT_WDOG [31:0] RO. -/
def F.RST_CNT_WDOG : Fld := ⟨R.RST_CNT_WDOG, 31, 0⟩

/-- RST_CNT_SRST (R442). -/
abbrev R.RST_CNT_SRST : Nat := 0x6000D0

/-- RST_CNT_SRST [31:0] RO. -/
def F.RST_CNT_SRST : Fld := ⟨R.RST_CNT_SRST, 31, 0⟩

/-- SEC_STAT (R443). -/
abbrev R.SEC_STAT : Nat := 0x700080

/-- SEC_STAT.ID_OK [7:7] RO. -/
def F.SEC_STAT_ID_OK : Fld := ⟨R.SEC_STAT, 7, 7⟩

/-- SEC_STAT.QUOTE_BUSY [6:6] RO. -/
def F.SEC_STAT_QUOTE_BUSY : Fld := ⟨R.SEC_STAT, 6, 6⟩

/-- SEC_STAT.QUOTE_VALID [5:5] RO. -/
def F.SEC_STAT_QUOTE_VALID : Fld := ⟨R.SEC_STAT, 5, 5⟩

/-- SEC_STAT.PEND [4:4] RO. -/
def F.SEC_STAT_PEND : Fld := ⟨R.SEC_STAT, 4, 4⟩

/-- SEC_KEYS (R443). -/
abbrev R.SEC_KEYS : Nat := 0x700084

/-- SEC_KEYS.USED [2:0] RO. -/
def F.SEC_KEYS_USED : Fld := ⟨R.SEC_KEYS, 2, 0⟩

/-- SEC_COMP_IDX (R443). -/
abbrev R.SEC_COMP_IDX : Nat := 0x700088

/-- SEC_COMP_IDX.COMP [2:0] RW. -/
def F.SEC_COMP_IDX_COMP : Fld := ⟨R.SEC_COMP_IDX, 2, 0⟩

/-- SEC_COMP (R443). -/
abbrev R.SEC_COMP : Nat := 0x70008C

/-- SEC_COMP.VERSION [31:0] RO. -/
def F.SEC_COMP_VERSION : Fld := ⟨R.SEC_COMP, 31, 0⟩

/-- SEC_MEAS (R443). -/
abbrev R.SEC_MEAS (i : Nat) : Nat := 0x700090 + i * 0x4

/-- SEC_MEAS [31:0] RO. -/
def F.SEC_MEAS (i : Nat) : Fld := ⟨(R.SEC_MEAS i), 31, 0⟩

/-- SEC_NONCE (R443). -/
abbrev R.SEC_NONCE (i : Nat) : Nat := 0x7000D0 + i * 0x4

/-- SEC_NONCE [31:0] RW. -/
def F.SEC_NONCE (i : Nat) : Fld := ⟨(R.SEC_NONCE i), 31, 0⟩

/-- SEC_CMD (R443). -/
abbrev R.SEC_CMD : Nat := 0x7000F0

/-- SEC_CMD.CMD [3:0] WO, GU. -/
def F.SEC_CMD_CMD : Fld := ⟨R.SEC_CMD, 3, 0⟩

/-- SEC_WIN_IDX (R443). -/
abbrev R.SEC_WIN_IDX : Nat := 0x7000F4

/-- SEC_WIN_IDX.WORD [11:0] RW. -/
def F.SEC_WIN_IDX_WORD : Fld := ⟨R.SEC_WIN_IDX, 11, 0⟩

/-- SEC_WIN_LEN (R443). -/
abbrev R.SEC_WIN_LEN : Nat := 0x7000F8

/-- SEC_WIN_LEN.BYTES [15:0] RO. -/
def F.SEC_WIN_LEN_BYTES : Fld := ⟨R.SEC_WIN_LEN, 15, 0⟩

/-- SEC_WIN_DATA (R443). -/
abbrev R.SEC_WIN_DATA : Nat := 0x7000FC

/-- SEC_WIN_DATA [31:0] RO. -/
def F.SEC_WIN_DATA : Fld := ⟨R.SEC_WIN_DATA, 31, 0⟩

/-- SEC_IDHASH (R443). -/
abbrev R.SEC_IDHASH (i : Nat) : Nat := 0x700100 + i * 0x4

/-- SEC_IDHASH [31:0] RO. -/
def F.SEC_IDHASH (i : Nat) : Fld := ⟨(R.SEC_IDHASH i), 31, 0⟩

/-- MGMT_ADDR (R444). -/
abbrev R.MGMT_ADDR : Nat := 0xA00080

/-- MGMT_ADDR.DYN [14:8] RO. -/
def F.MGMT_ADDR_DYN : Fld := ⟨R.MGMT_ADDR, 14, 8⟩

/-- MGMT_ADDR.DYN_VALID [7:7] RO. -/
def F.MGMT_ADDR_DYN_VALID : Fld := ⟨R.MGMT_ADDR, 7, 7⟩

/-- MGMT_ADDR.STATIC [6:0] ST. -/
def F.MGMT_ADDR_STATIC : Fld := ⟨R.MGMT_ADDR, 6, 0⟩

/-- MGMT_ALERT_CAUSE (R444). -/
abbrev R.MGMT_ALERT_CAUSE : Nat := 0xA00084

/-- MGMT_ALERT_CAUSE.ID_FAIL [6:6] RO. -/
def F.MGMT_ALERT_CAUSE_ID_FAIL : Fld := ⟨R.MGMT_ALERT_CAUSE, 6, 6⟩

/-- MGMT_ALERT_CAUSE.SENSE_FAULT [5:5] RO. -/
def F.MGMT_ALERT_CAUSE_SENSE_FAULT : Fld := ⟨R.MGMT_ALERT_CAUSE, 5, 5⟩

/-- MGMT_ALERT_CAUSE.ATOLL_LOST [4:4] RO. -/
def F.MGMT_ALERT_CAUSE_ATOLL_LOST : Fld := ⟨R.MGMT_ALERT_CAUSE, 4, 4⟩

/-- MGMT_ALERT_CAUSE.TRIP [3:3] RO. -/
def F.MGMT_ALERT_CAUSE_TRIP : Fld := ⟨R.MGMT_ALERT_CAUSE, 3, 3⟩

/-- MGMT_ALERT_CAUSE.COOLANT [2:2] RO. -/
def F.MGMT_ALERT_CAUSE_COOLANT : Fld := ⟨R.MGMT_ALERT_CAUSE, 2, 2⟩

/-- MGMT_ALERT_CAUSE.RAIL_FAULT [1:1] RO. -/
def F.MGMT_ALERT_CAUSE_RAIL_FAULT : Fld := ⟨R.MGMT_ALERT_CAUSE, 1, 1⟩

/-- MGMT_ALERT_CAUSE.STATE [0:0] RO. -/
def F.MGMT_ALERT_CAUSE_STATE : Fld := ⟨R.MGMT_ALERT_CAUSE, 0, 0⟩

/-- MGMT_ALERT_MASK (R444). -/
abbrev R.MGMT_ALERT_MASK : Nat := 0xA00088

/-- MGMT_ALERT_MASK [31:0] RW. -/
def F.MGMT_ALERT_MASK : Fld := ⟨R.MGMT_ALERT_MASK, 31, 0⟩

/-- MGMT_ALERT_ACK (R444). -/
abbrev R.MGMT_ALERT_ACK : Nat := 0xA0008C

/-- MGMT_ALERT_ACK [31:0] WO. -/
def F.MGMT_ALERT_ACK : Fld := ⟨R.MGMT_ALERT_ACK, 31, 0⟩

/-- MGMT_SERIAL (R444). -/
abbrev R.MGMT_SERIAL : Nat := 0xA00090

/-- MGMT_SERIAL [63:0] RO. -/
def F.MGMT_SERIAL : Fld := ⟨R.MGMT_SERIAL, 63, 0⟩

/-- MGMT_REC_CTL (R444). -/
abbrev R.MGMT_REC_CTL : Nat := 0xA00098

/-- MGMT_REC_CTL.CMD [31:28] WO, GU. -/
def F.MGMT_REC_CTL_CMD : Fld := ⟨R.MGMT_REC_CTL, 31, 28⟩

/-- MGMT_REC_DATA (R444). -/
abbrev R.MGMT_REC_DATA : Nat := 0xA0009C

/-- MGMT_REC_DATA [31:0] WO. -/
def F.MGMT_REC_DATA : Fld := ⟨R.MGMT_REC_DATA, 31, 0⟩

/-- MGMT_REC_STAT (R444). -/
abbrev R.MGMT_REC_STAT : Nat := 0xA000A0

/-- MGMT_REC_STAT.STATE [31:28] RO. -/
def F.MGMT_REC_STAT_STATE : Fld := ⟨R.MGMT_REC_STAT, 31, 28⟩

/-- MGMT_REC_STAT.RESULT [27:24] RO. -/
def F.MGMT_REC_STAT_RESULT : Fld := ⟨R.MGMT_REC_STAT, 27, 24⟩

/-- MGMT_REC_STAT.NEED [23:20] RO. -/
def F.MGMT_REC_STAT_NEED : Fld := ⟨R.MGMT_REC_STAT, 23, 20⟩

/-- MGMT_CNT_DENIED (R444). -/
abbrev R.MGMT_CNT_DENIED : Nat := 0xA000A4

/-- MGMT_CNT_DENIED [31:0] RO. -/
def F.MGMT_CNT_DENIED : Fld := ⟨R.MGMT_CNT_DENIED, 31, 0⟩

/-- Registers of the TIDE page. -/
def tideRegs : List RegDesc :=
  [
   -- TIDE_LEN
   ⟨0x080, 0, 1, false, 0x0, 0x0, 0xFFFFF, 0x0, 0x0, 0xFFFFF, false, fun _ => 0x30D4⟩,
   -- TIDE_POLICY
   ⟨0x084, 0, 1, false, 0x0, 0x0, 0x1, 0x0, 0x0, 0x1, false, fun _ => 0x0⟩,
   -- TIDE_GRACE
   ⟨0x088, 0, 1, false, 0x0, 0x0, 0x1F, 0x0, 0x0, 0x1F, false, fun _ => 0x5⟩,
   -- TIDE_REISSUE
   ⟨0x08C, 0, 1, false, 0x0, 0x0, 0xF, 0x0, 0x0, 0xF, false, fun _ => 0x3⟩,
   -- TIDE_COUNT
   ⟨0x090, 0, 1, true, 0x0, 0x0, 0x0, 0x0, 0x0, 0xFFFFFFFFFFFF, false, fun _ => 0x0⟩,
   -- TIDE_PHASE
   ⟨0x098, 0, 1, false, 0x0, 0x0, 0x0, 0x0, 0x0, 0xFFFFFFFF, false, fun _ => 0x0⟩,
   -- TIDE_STAT
   ⟨0x09C, 0, 1, false, 0x0, 0x0, 0x0, 0x0, 0x0, 0x1FF, false, fun _ => 0x80⟩,
   -- TIDE_LEAD
   ⟨0x0A0, 0, 1, false, 0x0, 0x0, 0x1F, 0x0, 0x0, 0x1F, false, fun _ => 0x0⟩,
   -- TIDE_OFFSET
   ⟨0x0A4, 0, 1, false, 0x0, 0x0, 0x0, 0x0, 0x0, 0xFFFFFFFF, false, fun _ => 0x0⟩,
   -- TIDE_CNT_HELD
   ⟨0x0A8, 0, 1, false, 0x0, 0x0, 0x0, 0x0, 0x0, 0xFFFFFFFF, true, fun _ => 0x0⟩,
   -- TIDE_CNT_QUANTA
   ⟨0x0AC, 0, 1, false, 0x0, 0x0, 0x0, 0x0, 0x0, 0xFFFFFFFF, true, fun _ => 0x0⟩,
   -- TIDE_CNT_FAULT
   ⟨0x0B0, 0, 1, false, 0x0, 0x0, 0x0, 0x0, 0x0, 0xFFFFFFFF, true, fun _ => 0x0⟩,
   -- TIDE_CNT_CUT
   ⟨0x0B4, 0, 1, false, 0x0, 0x0, 0x0, 0x0, 0x0, 0xFFFFFFFF, true, fun _ => 0x0⟩,
   -- TIDE_CNT_FITWAIT
   ⟨0x0B8, 0, 1, false, 0x0, 0x0, 0x0, 0x0, 0x0, 0xFFFFFFFF, true, fun _ => 0x0⟩,
   -- TIDE_CNT_OVERSIZE
   ⟨0x0BC, 0, 1, false, 0x0, 0x0, 0x0, 0x0, 0x0, 0xFFFFFFFF, true, fun _ => 0x0⟩,
   -- TIDE_CNT_ABANDON
   ⟨0x0C0, 0, 1, false, 0x0, 0x0, 0x0, 0x0, 0x0, 0xFFFFFFFF, true, fun _ => 0x0⟩,
   -- TIDE_CNT_STEP
   ⟨0x0C4, 0, 1, false, 0x0, 0x0, 0x0, 0x0, 0x0, 0xFFFFFFFF, true, fun _ => 0x0⟩]

/-- Registers of the common header. -/
def headerRegs : List RegDesc :=
  [
   -- PG_IDENT
   ⟨0x000, 0, 1, false, 0x0, 0x0, 0x0, 0x0, 0x0, 0xFFFFFFF, false, fun _ => 0x1000000⟩,
   -- PG_CAPS
   ⟨0x004, 0, 1, false, 0x0, 0x0, 0x0, 0x0, 0x0, 0xFFFFFFFF, false, fun _ => 0x0⟩,
   -- PG_STAGE_CTL
   ⟨0x008, 0, 1, false, 0x0, 0x113, 0x0, 0x0, 0x0, 0x113, false, fun _ => 0x0⟩,
   -- PG_STAGE_STAT
   ⟨0x00C, 0, 1, false, 0x0, 0x0, 0x0, 0x0, 0x0, 0xF800FFFF, false, fun _ => 0x0⟩,
   -- PG_MODE_SPLIT
   ⟨0x010, 0, 1, false, 0x0, 0x0, 0xFFFF, 0x0, 0x0, 0xFFFFFFFF, false, fun _ => 0x0⟩,
   -- PG_HOST_TIMEOUT
   ⟨0x014, 0, 1, false, 0x0, 0x0, 0xFFFFFF, 0x0, 0x0, 0xFFFFFF, false, fun _ => 0x0⟩,
   -- PG_SRST
   ⟨0x018, 0, 1, false, 0x0, 0x1, 0x0, 0x1, 0x0, 0x7, false, fun _ => 0x0⟩,
   -- PG_UNLOCK
   ⟨0x01C, 0, 1, false, 0x0, 0xFFFFFFFF, 0x0, 0x0, 0x0, 0xFFFFFFFF, false, fun _ => 0x0⟩,
   -- PG_LOCK_STAT
   ⟨0x020, 0, 1, false, 0x0, 0x0, 0x0, 0x0, 0x0, 0xFF05, false, fun _ => 0x0⟩,
   -- PG_EVT_SEQ
   ⟨0x024, 0, 1, false, 0x0, 0x0, 0x0, 0x0, 0x0, 0xFFFFFFFF, false, fun _ => 0x0⟩,
   -- PG_EVT_CAUSE
   ⟨0x028, 0, 1, false, 0x0, 0x0, 0x0, 0x0, 0x0, 0xFFFFFFFF, false, fun _ => 0x0⟩,
   -- PG_EVT_ACK
   ⟨0x02C, 0, 1, false, 0x0, 0xFFFFFFFF, 0x0, 0x0, 0x0, 0xFFFFFFFF, false, fun _ => 0x0⟩,
   -- PG_EVT_MASK
   ⟨0x030, 0, 1, false, 0xFFFFFFFF, 0x0, 0x0, 0x0, 0x0, 0xFFFFFFFF, false, fun _ => 0x0⟩,
   -- PG_EVT_TIDE_LO
   ⟨0x034, 0, 1, false, 0x0, 0x0, 0x0, 0x0, 0x0, 0xFFFFFFFF, false, fun _ => 0x0⟩,
   -- PG_EVT_TIDE_HI
   ⟨0x038, 0, 1, false, 0x0, 0x0, 0x0, 0x0, 0x0, 0xFFFF, false, fun _ => 0x0⟩]

/-- Registers of the COMMIT page. -/
def commitRegs : List RegDesc :=
  [
   -- COMMIT_CMD
   ⟨0x100, 64, 4, false, 0x0, 0x7, 0x0, 0x0, 0x0, 0x7, false, fun _ => 0x0⟩,
   -- COMMIT_OPT
   ⟨0x104, 64, 4, false, 0x3, 0x0, 0x0, 0x0, 0x0, 0x3, false, fun _ => 0x0⟩,
   -- COMMIT_TIDE
   ⟨0x108, 64, 4, true, 0xFFFFFFFFFFFF, 0x0, 0x0, 0x0, 0x0, 0xFFFFFFFFFFFF, false, fun _ => 0x0⟩,
   -- COMMIT_STAT
   ⟨0x110, 64, 4, false, 0x0, 0x0, 0x0, 0x0, 0x0, 0xFF00FF07, false, fun _ => 0x0⟩,
   -- COMMIT_FAIL
   ⟨0x114, 64, 4, false, 0x0, 0x0, 0x0, 0x0, 0x0, 0xFFFFFFFF, false, fun _ => 0x0⟩,
   -- COMMIT_FAIL_AT
   ⟨0x118, 64, 4, false, 0x0, 0x0, 0x0, 0x0, 0x0, 0x1F07FF, false, fun _ => 0x0⟩,
   -- COMMIT_GEN
   ⟨0x11C, 64, 4, false, 0x0, 0x0, 0x0, 0x0, 0x0, 0xFFFF, false, fun _ => 0x0⟩,
   -- COMMIT_DONE_TIDE
   ⟨0x120, 64, 4, true, 0x0, 0x0, 0x0, 0x0, 0x0, 0xFFFFFFFFFFFF, false, fun _ => 0x0⟩,
   -- COMMIT_RULE_IDX
   ⟨0x200, 0, 1, false, 0xFFF, 0x0, 0x0, 0x0, 0x0, 0xFFF, false, fun _ => 0x0⟩,
   -- COMMIT_RULE_COUNT
   ⟨0x204, 0, 1, false, 0x0, 0x0, 0x0, 0x0, 0x0, 0xFFF, false, fun _ => 0x38⟩,
   -- COMMIT_RULE_DATA
   ⟨0x208, 4, 8, false, 0x0, 0x0, 0x0, 0x0, 0x0, 0xFFFFFFFF, false, fun _ => 0x0⟩,
   -- COMMIT_CNT_APPLIED
   ⟨0x230, 0, 1, false, 0x0, 0x0, 0x0, 0x0, 0x0, 0xFFFFFFFF, true, fun _ => 0x0⟩,
   -- COMMIT_CNT_FAILED
   ⟨0x234, 0, 1, false, 0x0, 0x0, 0x0, 0x0, 0x0, 0xFFFFFFFF, true, fun _ => 0x0⟩]

/-- Registers of the HOLM page. -/
def holmRegs : List RegDesc :=
  [
   -- HOLM_ID
   ⟨0x080, 0, 1, false, 0x0, 0x0, 0x0, 0x0, 0x0, 0xFFFFFF00, false, fun _ => 0x8640000⟩,
   -- HOLM_STATE
   ⟨0x084, 0, 1, false, 0x0, 0x0, 0x0, 0x0, 0x0, 0xF, false, fun _ => 0x0⟩,
   -- HOLM_ATOLLS
   ⟨0x088, 0, 1, false, 0x0, 0x0, 0x0, 0x0, 0x0, 0xFFFFF, false, fun _ => 0xFF⟩,
   -- HOLM_SLOT
   ⟨0x08C, 0, 1, false, 0x0, 0x0, 0x0, 0x0, 0x0, 0x13F, false, fun _ => 0x0⟩,
   -- HOLM_BOARD
   ⟨0x090, 0, 1, false, 0x0, 0x0, 0x0, 0x0, 0x0, 0x1FFFF, false, fun _ => 0x10000⟩,
   -- HOLM_BOOT
   ⟨0x094, 0, 1, false, 0x0, 0x0, 0x0, 0x0, 0x0, 0xFFFFFFFF, false, fun _ => 0x0⟩,
   -- HOLM_ACCESS_ERR
   ⟨0x098, 0, 1, false, 0x0, 0x0, 0x0, 0x0, 0x0, 0xC3FFFFFF, false, fun _ => 0x0⟩]

/-- Registers of the HBR page. -/
def hbrRegs : List RegDesc :=
  [
   -- HBR_QREGION
   ⟨0x080, 0, 1, true, 0x0, 0x0, 0xFFE000000, 0x0, 0x0, 0xFFE000000, false, fun _ => 0x0⟩,
   -- HBR_QCMD
   ⟨0x088, 0, 1, false, 0x0, 0x7F03, 0x0, 0x0, 0x0, 0x7F03, false, fun _ => 0x0⟩,
   -- HBR_IRQ_ROUTE
   ⟨0x08C, 0, 1, false, 0x0, 0x0, 0x7FF001F, 0x0, 0x0, 0x7FF001F, false, fun _ => 0x0⟩,
   -- HBR_PCIE
   ⟨0x090, 0, 1, false, 0x0, 0x0, 0x1, 0x1, 0x0, 0x13F, false, fun _ => 0x0⟩,
   -- HBR_ATTACH
   ⟨0x094, 0, 1, false, 0x0, 0x0, 0x0, 0x0, 0x0, 0xFF, false, fun _ => 0x0⟩,
   -- HBR_CR_BASE
   ⟨0x100, 32, 8, true, 0x0, 0x0, 0xFFFFFFFFF, 0x0, 0x0, 0xFFFFFFFFF, false, fun _ => 0x0⟩,
   -- HBR_CR_SIZE
   ⟨0x108, 32, 8, false, 0x0, 0x0, 0x1F, 0x0, 0x0, 0x1F, false, fun _ => 0x0⟩,
   -- HBR_CR_HEAD
   ⟨0x10C, 32, 8, false, 0xFFFFFFFF, 0x0, 0x0, 0x0, 0x0, 0xFFFFFFFF, false, fun _ => 0x0⟩,
   -- HBR_CR_TAIL
   ⟨0x110, 32, 8, false, 0x0, 0x0, 0x0, 0x0, 0x0, 0xFFFFFFFF, false, fun _ => 0x0⟩,
   -- HBR_CR_DROP
   ⟨0x114, 32, 8, false, 0x0, 0x0, 0x0, 0x0, 0x0, 0xFFFFFFFF, false, fun _ => 0x0⟩,
   -- HBR_QSTAT
   ⟨0x400, 4, 128, false, 0x0, 0x0, 0x0, 0x0, 0x0, 0xDFFF1FFF, false, fun _ => 0x0⟩]

/-- Registers of the ARR page. -/
def arrRegs : List RegDesc :=
  [
   -- ARR_GEOM
   ⟨0x080, 0, 1, false, 0x0, 0x0, 0x0, 0x0, 0x0, 0x7FF07FF, false, fun _ => 0x4000400⟩,
   -- ARR_REPAIR
   ⟨0x084, 0, 1, false, 0x0, 0x0, 0x0, 0x0, 0x0, 0x7F3F, false, fun _ => 0x3F3F⟩,
   -- ARR_STAT
   ⟨0x088, 0, 1, false, 0x0, 0x0, 0x0, 0x0, 0x0, 0x7F, false, fun _ => 0x0⟩,
   -- ARR_FAULT
   ⟨0x08C, 0, 1, false, 0x0, 0x0, 0x0, 0x0, 0x0, 0xF, false, fun _ => 0x0⟩,
   -- ARR_TEST
   ⟨0x090, 0, 1, false, 0x0, 0x1, 0x0, 0x1, 0x0, 0x3F07, false, fun _ => 0x3F00⟩,
   -- ARR_STARVE_THR
   ⟨0x094, 0, 1, false, 0x0, 0x0, 0xFFFFFF, 0x0, 0x0, 0xFFFFFF, false, fun _ => 0x0⟩,
   -- ARR_STARVE_LAST
   ⟨0x098, 0, 1, false, 0x0, 0x0, 0x0, 0x0, 0x0, 0xFFFFFFFF, false, fun _ => 0x0⟩,
   -- ARR_DRAIN_LAST
   ⟨0x09C, 0, 1, false, 0x0, 0x0, 0x0, 0x0, 0x0, 0xFFFFFFFF, false, fun _ => 0x0⟩,
   -- ARR_STEPS_LAST
   ⟨0x0A0, 0, 1, false, 0x0, 0x0, 0x0, 0x0, 0x0, 0xFFFFFFFF, false, fun _ => 0x0⟩,
   -- ARR_CNT_STARVE
   ⟨0x0A8, 0, 1, true, 0x0, 0x0, 0x0, 0x0, 0x0, 0xFFFFFFFFFFFFFFFF, true, fun _ => 0x0⟩,
   -- ARR_CNT_DRAIN
   ⟨0x0B0, 0, 1, true, 0x0, 0x0, 0x0, 0x0, 0x0, 0xFFFFFFFFFFFFFFFF, true, fun _ => 0x0⟩,
   -- ARR_CNT_STEPS
   ⟨0x0B8, 0, 1, true, 0x0, 0x0, 0x0, 0x0, 0x0, 0xFFFFFFFFFFFFFFFF, true, fun _ => 0x0⟩]

/-- Registers of the FEED page. -/
def feedRegs : List RegDesc :=
  [
   -- FEED_FERRY
   ⟨0x080, 0, 1, false, 0x0, 0x0, 0xDF3, 0x0, 0x0, 0xDF3, false, fun k => (if k = 0 then 1 else if k = 7 then 3 else 2)⟩,
   -- FEED_FERRY_STAT
   ⟨0x084, 0, 1, false, 0x0, 0x0, 0x0, 0x0, 0x0, 0x1FFFFF, false, fun _ => 0x0⟩,
   -- FEED_FERRY_TAG
   ⟨0x100, 4, 16, false, 0x0, 0x0, 0x0, 0x0, 0x0, 0x8000FFFF, false, fun _ => 0x0⟩,
   -- FEED_CNT_CONFLICT
   ⟨0x088, 0, 1, false, 0x0, 0x0, 0x0, 0x0, 0x0, 0xFFFFFFFF, true, fun _ => 0x0⟩,
   -- FEED_QMIN_LAST
   ⟨0x08C, 0, 1, false, 0x0, 0x0, 0x0, 0x0, 0x0, 0xFF, false, fun _ => 0x80⟩,
   -- FEED_CNT_FERRY_TX
   ⟨0x090, 0, 1, true, 0x0, 0x0, 0x0, 0x0, 0x0, 0xFFFFFFFFFFFFFFFF, true, fun _ => 0x0⟩,
   -- FEED_CNT_FERRY_RX
   ⟨0x098, 0, 1, true, 0x0, 0x0, 0x0, 0x0, 0x0, 0xFFFFFFFFFFFFFFFF, true, fun _ => 0x0⟩,
   -- FEED_CNT_ORPHAN
   ⟨0x0A0, 0, 1, false, 0x0, 0x0, 0x0, 0x0, 0x0, 0xFFFFFFFF, true, fun _ => 0x0⟩]

/-- Registers of the VEC page. -/
def vecRegs : List RegDesc :=
  [
   -- VEC_STAT
   ⟨0x080, 0, 1, false, 0x0, 0x0, 0x0, 0x0, 0x0, 0x30F, false, fun _ => 0x0⟩,
   -- VEC_FAULT
   ⟨0x084, 0, 1, false, 0x0, 0x0, 0x0, 0x0, 0x0, 0xF, false, fun _ => 0x0⟩,
   -- VEC_GCG_BASE
   ⟨0x088, 0, 1, true, 0x0, 0x0, 0xFFFFFFFFFFFFF, 0x0, 0x0, 0xFFFFFFFFFFFFF, false, fun _ => 0x0⟩,
   -- VEC_GCG
   ⟨0x090, 0, 1, false, 0x0, 0x0, 0x1FFF, 0x0, 0x0, 0x1FFF, false, fun _ => 0x0⟩,
   -- VEC_TAB
   ⟨0x100, 4, 4, false, 0x0, 0x0, 0x0, 0x0, 0x0, 0x8000FFFF, false, fun _ => 0x0⟩,
   -- VEC_MAIN_LAST
   ⟨0x0A0, 0, 1, false, 0x0, 0x0, 0x0, 0x0, 0x0, 0xFFFFFFFF, false, fun _ => 0x0⟩,
   -- VEC_DRAIN_LAST
   ⟨0x0A4, 0, 1, false, 0x0, 0x0, 0x0, 0x0, 0x0, 0xFFFFFFFF, false, fun _ => 0x0⟩,
   -- VEC_DWAIT_LAST
   ⟨0x0A8, 0, 1, false, 0x0, 0x0, 0x0, 0x0, 0x0, 0xFFFFFFFF, false, fun _ => 0x0⟩,
   -- VEC_CNT_FULLMASK
   ⟨0x0B0, 0, 1, false, 0x0, 0x0, 0x0, 0x0, 0x0, 0xFFFFFFFF, true, fun _ => 0x0⟩,
   -- VEC_CNT_OOB
   ⟨0x0B4, 0, 1, false, 0x0, 0x0, 0x0, 0x0, 0x0, 0xFFFFFFFF, true, fun _ => 0x0⟩,
   -- VEC_CNT_RANGE_LO
   ⟨0x0B8, 0, 1, false, 0x0, 0x0, 0x0, 0x0, 0x0, 0xFFFFFFFF, true, fun _ => 0x0⟩,
   -- VEC_CNT_RANGE_HI
   ⟨0x0BC, 0, 1, false, 0x0, 0x0, 0x0, 0x0, 0x0, 0xFFFFFFFF, true, fun _ => 0x0⟩,
   -- VEC_CNT_XA_OVF
   ⟨0x0C0, 0, 1, false, 0x0, 0x0, 0x0, 0x0, 0x0, 0xFFFFFFFF, true, fun _ => 0x0⟩]

/-- Registers of the SEQ page. -/
def seqRegs : List RegDesc :=
  [
   -- SEQ_STAT
   ⟨0x080, 0, 1, false, 0x0, 0x0, 0x0, 0x0, 0x0, 0x3FFF0F, false, fun _ => 0x0⟩,
   -- SEQ_PC
   ⟨0x084, 0, 1, false, 0x0, 0x0, 0x0, 0x0, 0x0, 0x3FFFFF, false, fun _ => 0x0⟩,
   -- SEQ_SLICE
   ⟨0x088, 0, 1, false, 0x0, 0x0, 0x0, 0x0, 0x0, 0xF0000FFF, false, fun _ => 0x0⟩,
   -- SEQ_BUDGET
   ⟨0x08C, 0, 1, false, 0x0, 0x0, 0x0, 0x0, 0x0, 0x3FFFFFF, false, fun _ => 0x0⟩,
   -- SEQ_FAULT
   ⟨0x090, 0, 1, false, 0x0, 0x0, 0x0, 0x0, 0x0, 0x7FFFF, false, fun _ => 0x0⟩,
   -- SEQ_STALL_THR
   ⟨0x094, 0, 1, false, 0x0, 0x0, 0xFFFFFF, 0x0, 0x0, 0xFFFFFF, false, fun _ => 0x0⟩,
   -- RES_VAL
   ⟨0x100, 16, 16, true, 0x0, 0x0, 0x0, 0x0, 0x0, 0xFFFFFFFFFFFFFFFF, false, fun _ => 0x0⟩,
   -- RES_TAG
   ⟨0x108, 16, 16, false, 0x0, 0x0, 0x0, 0x0, 0x0, 0xFFFFFFFF, false, fun _ => 0x0⟩,
   -- SEQ_STALL_LAST
   ⟨0x200, 0, 1, false, 0x0, 0x0, 0x0, 0x0, 0x0, 0xFFFFFFFF, false, fun _ => 0x0⟩,
   -- SEQ_BUNDLES_LAST
   ⟨0x204, 0, 1, false, 0x0, 0x0, 0x0, 0x0, 0x0, 0xFFFFFFFF, false, fun _ => 0x0⟩,
   -- SEQ_CNT_SLICES
   ⟨0x208, 0, 1, false, 0x0, 0x0, 0x0, 0x0, 0x0, 0xFFFFFFFF, true, fun _ => 0x0⟩,
   -- SEQ_CNT_FITWAIT
   ⟨0x20C, 0, 1, false, 0x0, 0x0, 0x0, 0x0, 0x0, 0xFFFFFFFF, true, fun _ => 0x0⟩,
   -- SEQ_CNT_FAULT
   ⟨0x210, 0, 1, false, 0x0, 0x0, 0x0, 0x0, 0x0, 0xFFFFFFFF, true, fun _ => 0x0⟩,
   -- SEQ_CNT_CUT
   ⟨0x214, 0, 1, false, 0x0, 0x0, 0x0, 0x0, 0x0, 0xFFFFFFFF, true, fun _ => 0x0⟩,
   -- SEQ_CNT_OVERSIZE
   ⟨0x218, 0, 1, false, 0x0, 0x0, 0x0, 0x0, 0x0, 0xFFFFFFFF, true, fun _ => 0x0⟩,
   -- SEQ_CNT_ABANDON
   ⟨0x21C, 0, 1, false, 0x0, 0x0, 0x0, 0x0, 0x0, 0xFFFFFFFF, true, fun _ => 0x0⟩]

/-- Registers of the ATL page. -/
def atlRegs : List RegDesc :=
  [
   -- ATL_ID
   ⟨0x080, 0, 1, false, 0x0, 0x0, 0x0, 0x0, 0x0, 0x107, false, fun k => k + 0x100⟩,
   -- ATL_ILOAD_SRC
   ⟨0x088, 0, 1, true, 0xFFFFFFFFFFFFF, 0x0, 0x0, 0x0, 0x0, 0xFFFFFFFFFFFFF, false, fun _ => 0x0⟩,
   -- ATL_ILOAD
   ⟨0x090, 0, 1, false, 0x3FFFFFFF, 0x80000000, 0x0, 0x80000000, 0x0, 0xBFFFFFFF, false, fun _ => 0x0⟩,
   -- ATL_ILOAD_STAT
   ⟨0x094, 0, 1, false, 0x0, 0x0, 0x0, 0x0, 0x0, 0x7, false, fun _ => 0x0⟩]

/-- Registers of the COVE page. -/
def coveRegs : List RegDesc :=
  [
   -- COVE_STAT
   ⟨0x080, 0, 1, false, 0x0, 0x0, 0x0, 0x0, 0x0, 0x3F, false, fun _ => 0x0⟩,
   -- COVE_WGD_BASE
   ⟨0x088, 0, 1, true, 0x0, 0x0, 0xFFFFFFFFFFFFF, 0x0, 0x0, 0xFFFFFFFFFFFFF, false, fun _ => 0x0⟩,
   -- COVE_WGD_COUNT
   ⟨0x090, 0, 1, false, 0x0, 0x0, 0x7FF, 0x0, 0x0, 0x7FF, false, fun _ => 0x0⟩,
   -- COVE_UWR_LAST
   ⟨0x094, 0, 1, false, 0x0, 0x0, 0x0, 0x0, 0x0, 0xFFFFFFFF, false, fun _ => 0x0⟩,
   -- COVE_UWR_INFO
   ⟨0x098, 0, 1, false, 0x0, 0x0, 0x0, 0x0, 0x0, 0xFFFF001F, false, fun _ => 0x0⟩,
   -- COVE_UWR_BREACH
   ⟨0x09C, 0, 1, false, 0x0, 0x0, 0x0, 0x0, 0x0, 0xFFFF0003, false, fun _ => 0x0⟩,
   -- COVE_FILL_LAST
   ⟨0x0A0, 0, 1, false, 0x0, 0x0, 0x0, 0x0, 0x0, 0xFFFFFFFF, false, fun _ => 0x0⟩,
   -- COVE_CNT_SLABS
   ⟨0x0A8, 0, 1, true, 0x0, 0x0, 0x0, 0x0, 0x0, 0xFFFFFFFFFFFFFFFF, true, fun _ => 0x0⟩,
   -- COVE_CNT_FINISH
   ⟨0x0B0, 0, 1, false, 0x0, 0x0, 0x0, 0x0, 0x0, 0xFFFFFFFF, true, fun _ => 0x0⟩,
   -- COVE_CNT_LOW
   ⟨0x0B4, 0, 1, false, 0x0, 0x0, 0x0, 0x0, 0x0, 0xFFFFFFFF, true, fun _ => 0x0⟩,
   -- COVE_CNT_HIGH
   ⟨0x0B8, 0, 1, false, 0x0, 0x0, 0x0, 0x0, 0x0, 0xFFFFFFFF, true, fun _ => 0x0⟩,
   -- COVE_CNT_PARTIAL
   ⟨0x0BC, 0, 1, false, 0x0, 0x0, 0x0, 0x0, 0x0, 0xFFFFFFFF, true, fun _ => 0x0⟩,
   -- COVE_CNT_SKIP
   ⟨0x0C0, 0, 1, false, 0x0, 0x0, 0x0, 0x0, 0x0, 0xFFFFFFFF, true, fun _ => 0x0⟩]

/-- Registers of the MC page. -/
def mcRegs : List RegDesc :=
  [
   -- MC_STAT
   ⟨0x080, 0, 1, false, 0x0, 0x0, 0x0, 0x0, 0x0, 0xFFFF07FF, false, fun _ => 0x3000000⟩,
   -- MC_ALLOC_TOP
   ⟨0x088, 0, 1, true, 0x0, 0x0, 0x0, 0x0, 0x0, 0x3FFFFFFFFF, false, fun _ => 0x2D40000000⟩,
   -- MC_ECC
   ⟨0x090, 0, 1, false, 0x0, 0x0, 0x1, 0x0, 0x0, 0x1, false, fun _ => 0x0⟩,
   -- MC_SCRUB
   ⟨0x094, 0, 1, false, 0x0, 0x0, 0xFFFFF, 0x0, 0x0, 0xFFFFF, false, fun _ => 0x1000⟩,
   -- MC_RETRAIN
   ⟨0x098, 0, 1, false, 0x0, 0x0, 0xFFFFFF, 0x0, 0x0, 0xFFFFFF, false, fun _ => 0x100000⟩,
   -- MC_ROW_THR
   ⟨0x09C, 0, 1, false, 0x0, 0x0, 0xFFFF00FF, 0x0, 0x0, 0xFFFF00FF, false, fun _ => 0xFFFF0010⟩,
   -- MC_EBB_PACE
   ⟨0x0A0, 0, 1, false, 0x0, 0x0, 0xFFFF, 0x0, 0x0, 0xFFFF, false, fun _ => 0x100⟩,
   -- MC_CMD
   ⟨0x0A4, 0, 1, false, 0x0, 0xF00003FF, 0x0, 0xF00003FF, 0x0, 0xF00003FF, false, fun _ => 0x0⟩,
   -- MC_EBB
   ⟨0x0A8, 0, 1, false, 0x0, 0x0, 0x0, 0x0, 0x0, 0xFFFFFFFF, false, fun _ => 0x0⟩,
   -- MC_WINDOW
   ⟨0x0AC, 0, 1, false, 0x0, 0x0, 0x0, 0x0, 0x0, 0x800003FF, false, fun _ => 0x0⟩,
   -- MC_HOLD
   ⟨0x0B0, 0, 1, false, 0x0, 0x0, 0x0, 0x0, 0x0, 0x3FF03FF, false, fun _ => 0x0⟩,
   -- MC_RETIRE_PEND
   ⟨0x0B8, 0, 1, true, 0x0, 0x0, 0x0, 0x0, 0x0, 0xFFFF003FFFFFF000, false, fun _ => 0x0⟩,
   -- MC_MAP
   ⟨0x0C0, 4, 12, false, 0x0, 0x0, 0x0, 0x0, 0x0, 0xC00003FF, false, fun _ => 0x0⟩,
   -- MC_RUN_IDX
   ⟨0x100, 0, 1, false, 0x3FF, 0x0, 0x0, 0x0, 0x0, 0x3FF, false, fun _ => 0x0⟩,
   -- MC_RUN
   ⟨0x104, 0, 1, false, 0x0, 0x0, 0x0, 0x0, 0x0, 0x800003FF, false, fun _ => 0x0⟩,
   -- MC_CNT_CE
   ⟨0x140, 0, 1, true, 0x0, 0x0, 0x0, 0x0, 0x0, 0xFFFFFFFFFFFFFFFF, true, fun _ => 0x0⟩,
   -- MC_CNT_UE
   ⟨0x148, 0, 1, false, 0x0, 0x0, 0x0, 0x0, 0x0, 0xFFFFFFFF, true, fun _ => 0x0⟩,
   -- MC_CNT_RETRAIN
   ⟨0x14C, 0, 1, false, 0x0, 0x0, 0x0, 0x0, 0x0, 0xFFFFFFFF, true, fun _ => 0x0⟩,
   -- MC_CNT_SCRUB_CE
   ⟨0x150, 0, 1, false, 0x0, 0x0, 0x0, 0x0, 0x0, 0xFFFFFFFF, true, fun _ => 0x0⟩,
   -- MC_HOLD_LAST
   ⟨0x154, 0, 1, false, 0x0, 0x0, 0x0, 0x0, 0x0, 0xFFFFFFFF, false, fun _ => 0x0⟩]

/-- Registers of the SHOAL page. -/
def shoalRegs : List RegDesc :=
  [
   -- SHOAL_ID
   ⟨0x080, 0, 1, false, 0x0, 0x0, 0x0, 0x0, 0x0, 0xFF013F, false, fun k => k + 0x100⟩,
   -- SHOAL_CH_IDX
   ⟨0x084, 0, 1, false, 0x7F, 0x0, 0x0, 0x0, 0x0, 0x7F, false, fun _ => 0x0⟩,
   -- SHOAL_CH_STAT
   ⟨0x088, 0, 1, false, 0x0, 0x0, 0x0, 0x0, 0x0, 0xFF80FFFF, false, fun _ => 0xF800000⟩,
   -- SHOAL_CH_AGE
   ⟨0x08C, 0, 1, false, 0x0, 0x0, 0x0, 0x0, 0x0, 0xFFFFFF, false, fun _ => 0x0⟩,
   -- SHOAL_TEMP
   ⟨0x090, 0, 1, true, 0x0, 0x0, 0x0, 0x0, 0xFFFF00000000FFFF, 0xFFFF00000000FFFF, false, fun _ => 0x0⟩,
   -- SHOAL_CNT_CE
   ⟨0x098, 0, 1, true, 0x0, 0x0, 0x0, 0x0, 0x0, 0xFFFFFFFFFFFFFFFF, true, fun _ => 0x0⟩,
   -- SHOAL_CNT_UE
   ⟨0x0A0, 0, 1, false, 0x0, 0x0, 0x0, 0x0, 0x0, 0xFFFFFFFF, true, fun _ => 0x0⟩,
   -- SHOAL_CNT_CRC
   ⟨0x0A4, 0, 1, false, 0x0, 0x0, 0x0, 0x0, 0x0, 0xFFFFFFFF, true, fun _ => 0x0⟩,
   -- SHOAL_CNT_ROWS
   ⟨0x0A8, 0, 1, false, 0x0, 0x0, 0x0, 0x0, 0x0, 0xFFFFFFFF, true, fun _ => 0x0⟩]

/-- Registers of the STRM page. -/
def strmRegs : List RegDesc :=
  [
   -- STRM_WHEEL
   ⟨0x080, 0, 1, false, 0x0, 0x0, 0xFFFFFFFF, 0x0, 0x0, 0xFFFFFFFF, false, fun _ => 0x12041204⟩,
   -- STRM_STAT
   ⟨0x084, 0, 1, false, 0x0, 0x0, 0x0, 0x0, 0x0, 0x7F7F, false, fun _ => 0x0⟩,
   -- STRM_VOIDWAIT
   ⟨0x088, 0, 1, false, 0x0, 0x0, 0xFFFFFF, 0x0, 0x0, 0xFFFFFF, false, fun _ => 0x2000⟩,
   -- STRM_FLT_IDX
   ⟨0x08C, 0, 1, false, 0xF, 0x0, 0x0, 0x0, 0x0, 0xF, false, fun _ => 0x0⟩,
   -- STRM_FLT_INFO
   ⟨0x090, 0, 1, false, 0x0, 0x0, 0x0, 0x0, 0x0, 0xFFFC003F, false, fun _ => 0x0⟩,
   -- STRM_FLT_VA
   ⟨0x098, 0, 1, true, 0x0, 0x0, 0x0, 0x0, 0x0, 0xFFFFFFFFFFFFF, false, fun _ => 0x0⟩,
   -- STRM_FLT_CUR0
   ⟨0x0A0, 0, 1, false, 0x0, 0x0, 0x0, 0x0, 0x0, 0xFFFFFFFF, false, fun _ => 0x0⟩,
   -- STRM_FLT_CUR14
   ⟨0x0A8, 0, 1, true, 0x0, 0x0, 0x0, 0x0, 0x0, 0xFFFFFFFFFFFFFFFF, false, fun _ => 0x0⟩,
   -- STRM_FLT_CMD
   ⟨0x0B0, 0, 1, false, 0x0, 0xF0F, 0x0, 0xF0F, 0x0, 0xF0F, false, fun _ => 0x0⟩,
   -- STRM_CNT_RD
   ⟨0x0C0, 0, 1, true, 0x0, 0x0, 0x0, 0x0, 0x0, 0xFFFFFFFFFFFFFFFF, true, fun _ => 0x0⟩,
   -- STRM_CNT_WR
   ⟨0x0C8, 0, 1, true, 0x0, 0x0, 0x0, 0x0, 0x0, 0xFFFFFFFFFFFFFFFF, true, fun _ => 0x0⟩,
   -- STRM_CNT_REMOTE
   ⟨0x0D0, 0, 1, true, 0x0, 0x0, 0x0, 0x0, 0x0, 0xFFFFFFFFFFFFFFFF, true, fun _ => 0x0⟩,
   -- STRM_CNT_SKIFF
   ⟨0x0D8, 0, 1, false, 0x0, 0x0, 0x0, 0x0, 0x0, 0xFFFFFFFF, true, fun _ => 0x0⟩,
   -- STRM_CNT_MERGE
   ⟨0x0DC, 0, 1, false, 0x0, 0x0, 0x0, 0x0, 0x0, 0xFFFFFFFF, true, fun _ => 0x0⟩,
   -- STRM_CNT_FAULT
   ⟨0x0E0, 0, 1, false, 0x0, 0x0, 0x0, 0x0, 0x0, 0xFFFFFFFF, true, fun _ => 0x0⟩,
   -- STRM_LEND_LAST
   ⟨0x0E4, 0, 1, false, 0x0, 0x0, 0x0, 0x0, 0x0, 0xFFFFFFFF, false, fun _ => 0x0⟩]

/-- Registers of the LAG page. -/
def lagRegs : List RegDesc :=
  [
   -- LAG_TOP
   ⟨0x080, 0, 1, false, 0x0, 0x0, 0x0, 0x0, 0x0, 0x3FFFFFFF, false, fun _ => 0x20000000⟩,
   -- LAG_PEND
   ⟨0x084, 0, 1, false, 0x0, 0x0, 0x0, 0x0, 0x0, 0x7FFFFF, false, fun _ => 0x0⟩,
   -- LAG_CNT_CE
   ⟨0x088, 0, 1, false, 0x0, 0x0, 0x0, 0x0, 0x0, 0xFFFFFFFF, true, fun _ => 0x0⟩,
   -- LAG_CNT_UE
   ⟨0x08C, 0, 1, false, 0x0, 0x0, 0x0, 0x0, 0x0, 0xFFFFFFFF, true, fun _ => 0x0⟩,
   -- LAG_FLOWWAIT_LAST
   ⟨0x090, 0, 1, false, 0x0, 0x0, 0x0, 0x0, 0x0, 0xFFFFFFFF, false, fun _ => 0x0⟩]

/-- Registers of the XLAT page. -/
def xlatRegs : List RegDesc :=
  [
   -- XLAT_ROOT
   ⟨0x080, 0, 1, true, 0x0, 0x0, 0xFFFFFFE00000, 0x0, 0x0, 0xFFFFFFE00000, false, fun _ => 0x0⟩,
   -- XLAT_EDIT_BASE
   ⟨0x088, 0, 1, true, 0x0, 0x0, 0xFFFFFFFFFFFFF, 0x0, 0x0, 0xFFFFFFFFFFFFF, false, fun _ => 0x0⟩,
   -- XLAT_EDIT_COUNT
   ⟨0x090, 0, 1, false, 0x0, 0x0, 0x7FF, 0x0, 0x0, 0x7FF, false, fun _ => 0x0⟩,
   -- XLAT_POOL_BASE
   ⟨0x098, 0, 1, true, 0x0, 0x0, 0xFFFFFFFFFFFFF, 0x0, 0x0, 0xFFFFFFFFFFFFF, false, fun _ => 0x0⟩,
   -- XLAT_POOL_COUNT
   ⟨0x0A0, 0, 1, false, 0x0, 0x0, 0x1FFF, 0x0, 0x0, 0x1FFF, false, fun _ => 0x0⟩,
   -- XLAT_POOL_NEXT
   ⟨0x0A4, 0, 1, false, 0x0, 0x0, 0x0, 0x0, 0x0, 0x1FFF, false, fun _ => 0x0⟩,
   -- XLAT_CMD
   ⟨0x0A8, 0, 1, true, 0x0, 0xFFFFFFFFF0003, 0x0, 0xFFFFFFFFF0003, 0x0, 0xFFFFFFFFF0003, false, fun _ => 0x0⟩,
   -- XLAT_STAT
   ⟨0x0B0, 0, 1, false, 0x0, 0x0, 0x0, 0x0, 0x0, 0x3, false, fun _ => 0x1⟩,
   -- XLAT_CNT_MISS
   ⟨0x0B8, 0, 1, true, 0x0, 0x0, 0x0, 0x0, 0x0, 0xFFFFFFFFFFFFFFFF, true, fun _ => 0x0⟩,
   -- XLAT_CNT_DEMAND
   ⟨0x0C0, 0, 1, false, 0x0, 0x0, 0x0, 0x0, 0x0, 0xFFFFFFFF, true, fun _ => 0x0⟩]

/-- Registers of the CWY page. -/
def cwyRegs : List RegDesc :=
  [
   -- CWY_STAT
   ⟨0x080, 0, 1, false, 0x0, 0x0, 0x0, 0x0, 0x0, 0xF, false, fun _ => 0xF⟩,
   -- CWY_WHEEL
   ⟨0x084, 0, 1, false, 0x0, 0x0, 0xFFFFFFFF, 0x0, 0x0, 0xFFFFFFFF, false, fun _ => 0xD191D191⟩,
   -- CWY_ROUTE
   ⟨0x088, 0, 1, false, 0x0, 0x0, 0x0, 0x0, 0x0, 0xFFFFFF, false, fun k => routeReset k⟩,
   -- CWY_CNT_PREV
   ⟨0x090, 0, 1, true, 0x0, 0x0, 0x0, 0x0, 0x0, 0xFFFFFFFFFFFFFFFF, true, fun _ => 0x0⟩,
   -- CWY_CNT_NEXT
   ⟨0x098, 0, 1, true, 0x0, 0x0, 0x0, 0x0, 0x0, 0xFFFFFFFFFFFFFFFF, true, fun _ => 0x0⟩,
   -- CWY_CNT_OPP
   ⟨0x0A0, 0, 1, true, 0x0, 0x0, 0x0, 0x0, 0x0, 0xFFFFFFFFFFFFFFFF, true, fun _ => 0x0⟩,
   -- CWY_CNT_FWD
   ⟨0x0A8, 0, 1, true, 0x0, 0x0, 0x0, 0x0, 0x0, 0xFFFFFFFFFFFFFFFF, true, fun _ => 0x0⟩,
   -- CWY_CNT_RETRAIN
   ⟨0x0B0, 0, 1, false, 0x0, 0x0, 0x0, 0x0, 0x0, 0xFFFFFFFF, true, fun _ => 0x0⟩]

/-- Registers of the PORT page, first half. -/
def portRegsA : List RegDesc :=
  [
   -- PORT_ID
   ⟨0x080, 0, 1, false, 0x0, 0x0, 0x0, 0x0, 0x0, 0x3F03, false, fun k => (if k < 2 then 32 else 8) * 2 ^ 8 + (k / 2)⟩,
   -- PORT_STAT
   ⟨0x084, 0, 1, false, 0x0, 0x0, 0x0, 0x0, 0x0, 0xE01F003F, false, fun _ => 0x0⟩,
   -- PORT_LANE_IDX
   ⟨0x088, 0, 1, false, 0x1F, 0x0, 0x0, 0x0, 0x0, 0x1F, false, fun _ => 0x0⟩,
   -- PORT_LANE
   ⟨0x08C, 0, 1, false, 0x0, 0x0, 0x0, 0x0, 0x0, 0xFF0FFFFF, false, fun _ => 0x0⟩,
   -- PORT_PEER_IDX
   ⟨0x090, 0, 1, false, 0xF, 0x0, 0x0, 0x0, 0x0, 0xF, false, fun _ => 0x0⟩,
   -- PORT_PEER
   ⟨0x094, 0, 1, false, 0x0, 0x0, 0x0, 0x0, 0x0, 0xFFFFE0FF, false, fun _ => 0x0⟩,
   -- PORT_LANE_THR
   ⟨0x098, 0, 1, false, 0x0, 0x0, 0xFFFFFF, 0x0, 0x0, 0xFFFFFF, false, fun k => (if k < 2 then 4 else 0) * 2 ^ 16 + (if k < 2 then 64 else 0)⟩,
   -- PORT_RETRAIN
   ⟨0x09C, 0, 1, false, 0x0, 0x0, 0xFFFFFF, 0x0, 0x0, 0xFFFFFF, false, fun k => (if k < 2 then 0x10000 else 0)⟩,
   -- PORT_CMD
   ⟨0x0A0, 0, 1, false, 0x0, 0xF0001F0F, 0x0, 0xF0001F0F, 0x0, 0xF0001F0F, false, fun _ => 0x0⟩,
   -- PORT_MAC
   ⟨0x0A8, 0, 1, true, 0x0, 0x0, 0x0, 0x0, 0x0, 0xFFFFFFFFFFFF, false, fun _ => 0x0⟩,
   -- PORT_EXPECT
   ⟨0x0B0, 0, 1, true, 0x0, 0x0, 0x1FFFFFFFF, 0x0, 0x0, 0x1FFFFFFFF, false, fun _ => 0x0⟩]

/-- Registers of the PORT page, second half. -/
def portRegsB : List RegDesc :=
  [
   -- PORT_PARTNER
   ⟨0x0B8, 0, 1, true, 0x0, 0x0, 0x0, 0x0, 0x0, 0x1FFFFFFFF, false, fun _ => 0x0⟩,
   -- PORT_MTU
   ⟨0x0C0, 0, 1, false, 0x0, 0x0, 0x3FFF, 0x0, 0x0, 0x3FFF, false, fun k => (if k < 2 then 0 else 9216)⟩,
   -- PORT_LIGHT
   ⟨0x0C8, 0, 1, true, 0x0, 0x0, 0x0, 0x0, 0xFFFF00FF0007FFFF, 0xFFFF00FF0007FFFF, false, fun _ => 0x0⟩,
   -- PORT_CNT_TX
   ⟨0x100, 0, 1, true, 0x0, 0x0, 0x0, 0x0, 0x0, 0xFFFFFFFFFFFFFFFF, true, fun _ => 0x0⟩,
   -- PORT_CNT_RX
   ⟨0x108, 0, 1, true, 0x0, 0x0, 0x0, 0x0, 0x0, 0xFFFFFFFFFFFFFFFF, true, fun _ => 0x0⟩,
   -- PORT_CNT_FEC_CE
   ⟨0x110, 0, 1, true, 0x0, 0x0, 0x0, 0x0, 0x0, 0xFFFFFFFFFFFFFFFF, true, fun _ => 0x0⟩,
   -- PORT_CNT_CRC
   ⟨0x118, 0, 1, false, 0x0, 0x0, 0x0, 0x0, 0x0, 0xFFFFFFFF, true, fun _ => 0x0⟩,
   -- PORT_CNT_REPLAY
   ⟨0x11C, 0, 1, false, 0x0, 0x0, 0x0, 0x0, 0x0, 0xFFFFFFFF, true, fun _ => 0x0⟩,
   -- PORT_CNT_FEC_UE
   ⟨0x120, 0, 1, false, 0x0, 0x0, 0x0, 0x0, 0x0, 0xFFFFFFFF, true, fun _ => 0x0⟩,
   -- PORT_CNT_DROP
   ⟨0x124, 0, 1, false, 0x0, 0x0, 0x0, 0x0, 0x0, 0xFFFFFFFF, true, fun _ => 0x0⟩,
   -- PORT_CNT_MARK_LATE
   ⟨0x128, 0, 1, false, 0x0, 0x0, 0x0, 0x0, 0x0, 0xFFFFFFFF, true, fun _ => 0x0⟩,
   -- PORT_CNT_EXCLUDE
   ⟨0x12C, 0, 1, false, 0x0, 0x0, 0x0, 0x0, 0x0, 0xFFFFFFFF, true, fun _ => 0x0⟩]

/-- Registers of the PORT page. -/
def portRegs : List RegDesc := portRegsA ++ portRegsB

/-- Registers of the SND page. -/
def sndRegs : List RegDesc :=
  [
   -- SND_STAT
   ⟨0x080, 0, 1, false, 0x0, 0x0, 0x0, 0x0, 0x0, 0x80FFFFFF, false, fun _ => 0x0⟩,
   -- SND_POOL
   ⟨0x084, 0, 1, false, 0x0, 0x0, 0x0, 0x0, 0x0, 0xFFFFFF, false, fun k => (if k < 2 then 262144 else 65536)⟩,
   -- SND_RESV
   ⟨0x088, 0, 1, false, 0x0, 0x0, 0x3F, 0x0, 0x0, 0x3F, false, fun _ => 0x8⟩,
   -- SND_RTO
   ⟨0x08C, 0, 1, false, 0x0, 0x0, 0xFFFFF, 0x0, 0x0, 0xFFFFF, false, fun k => (if k < 2 then 5000 else 50000)⟩,
   -- SND_RETRY
   ⟨0x090, 0, 1, false, 0x0, 0x0, 0xF, 0x0, 0x0, 0xF, false, fun _ => 0xF⟩,
   -- SND_GRANT_IDLE
   ⟨0x094, 0, 1, false, 0x0, 0x0, 0xFF, 0x0, 0x0, 0xFF, false, fun _ => 0x4⟩,
   -- SND_UDP
   ⟨0x098, 0, 1, false, 0x0, 0x0, 0xFFFF, 0x0, 0x0, 0xFFFF, false, fun k => (if k < 2 then 0 else 19776)⟩,
   -- SND_TC
   ⟨0x09C, 0, 1, false, 0x0, 0x0, 0xFFFF, 0x0, 0x0, 0xFFFF, false, fun _ => 0x0⟩,
   -- SND_IP
   ⟨0x0A0, 4, 4, false, 0x0, 0x0, 0xFFFFFFFF, 0x0, 0x0, 0xFFFFFFFF, false, fun _ => 0x0⟩,
   -- SND_CNT_TX
   ⟨0x0B0, 0, 1, true, 0x0, 0x0, 0x0, 0x0, 0x0, 0xFFFFFFFFFFFFFFFF, true, fun _ => 0x0⟩,
   -- SND_CNT_RX
   ⟨0x0B8, 0, 1, true, 0x0, 0x0, 0x0, 0x0, 0x0, 0xFFFFFFFFFFFFFFFF, true, fun _ => 0x0⟩,
   -- SND_CNT_RETX
   ⟨0x0C0, 0, 1, false, 0x0, 0x0, 0x0, 0x0, 0x0, 0xFFFFFFFF, true, fun _ => 0x0⟩,
   -- SND_CNT_BAD
   ⟨0x0C4, 0, 1, false, 0x0, 0x0, 0x0, 0x0, 0x0, 0xFFFFFFFF, true, fun _ => 0x0⟩,
   -- SND_CNT_OVL_EPI
   ⟨0x0C8, 0, 1, false, 0x0, 0x0, 0x0, 0x0, 0x0, 0xFFFFFFFF, true, fun _ => 0x0⟩,
   -- SND_CNT_OVL_TIDES
   ⟨0x0CC, 0, 1, false, 0x0, 0x0, 0x0, 0x0, 0x0, 0xFFFFFFFF, true, fun _ => 0x0⟩,
   -- SND_CNT_CATCHUP
   ⟨0x0D0, 0, 1, false, 0x0, 0x0, 0x0, 0x0, 0x0, 0xFFFFFFFF, true, fun _ => 0x0⟩]

/-- Registers of the SNDCTX page. -/
def sndctxRegs : List RegDesc :=
  [
   -- SNDCTX_BASE
   ⟨0x080, 0, 1, true, 0x0, 0x0, 0xFFFFFFFFFFFFF, 0x0, 0x0, 0xFFFFFFFFFFFFF, false, fun _ => 0x0⟩,
   -- SNDCTX_COUNT
   ⟨0x088, 0, 1, false, 0x0, 0x0, 0x1FFFFF, 0x0, 0x0, 0x1FFFFF, false, fun _ => 0x0⟩,
   -- SNDCTX_TRK_BASE
   ⟨0x090, 0, 1, true, 0x0, 0x0, 0xFFFFFFFFFFFFF, 0x0, 0x0, 0xFFFFFFFFFFFFF, false, fun _ => 0x0⟩,
   -- SNDCTX_GRP_BASE
   ⟨0x098, 0, 1, true, 0x0, 0x0, 0xFFFFFFFFFFFFF, 0x0, 0x0, 0xFFFFFFFFFFFFF, false, fun _ => 0x0⟩,
   -- SNDCTX_GRP_COUNT
   ⟨0x0A0, 0, 1, false, 0x0, 0x0, 0x1FFF, 0x0, 0x0, 0x1FFF, false, fun _ => 0x0⟩,
   -- SNDCTX_STAT
   ⟨0x0A4, 0, 1, false, 0x0, 0x0, 0x0, 0x0, 0x0, 0xC01FFFFF, false, fun _ => 0x0⟩,
   -- SNDCTX_ADMIT
   ⟨0x0A8, 0, 1, false, 0x0, 0x0, 0xFF, 0x0, 0x0, 0xFF, false, fun _ => 0x8⟩,
   -- SNDCTX_RAMP
   ⟨0x0AC, 0, 1, false, 0x0, 0x0, 0x0, 0x0, 0x0, 0x7FF, false, fun _ => 0x400⟩,
   -- SNDCTX_ADMIT_HEAD
   ⟨0x0B0, 0, 1, true, 0x0, 0x0, 0x0, 0x0, 0x0, 0xFF8000FFFFFFFFFF, false, fun _ => 0x0⟩,
   -- SNDCTX_ADMIT_CMD
   ⟨0x0B8, 0, 1, false, 0x0, 0xF0000000, 0x0, 0xF0000000, 0x0, 0xF0000000, false, fun _ => 0x0⟩,
   -- SNDCTX_CMD
   ⟨0x0BC, 0, 1, false, 0x0, 0xF00FFFFF, 0x0, 0xF00FFFFF, 0x0, 0xF00FFFFF, false, fun _ => 0x0⟩,
   -- SNDCTX_TRK_USED
   ⟨0x0C0, 0, 1, false, 0x0, 0x0, 0x0, 0x0, 0x0, 0x1FFFFF, false, fun _ => 0x0⟩,
   -- SNDCTX_ADMIT_Q
   ⟨0x0C4, 0, 1, false, 0x0, 0x0, 0x0, 0x0, 0x0, 0x1FF, false, fun _ => 0x0⟩,
   -- SNDCTX_CNT_MISS
   ⟨0x0C8, 0, 1, true, 0x0, 0x0, 0x0, 0x0, 0x0, 0xFFFFFFFFFFFFFFFF, true, fun _ => 0x0⟩,
   -- SNDCTX_CNT_ADMIT
   ⟨0x0D0, 0, 1, false, 0x0, 0x0, 0x0, 0x0, 0x0, 0xFFFFFFFF, true, fun _ => 0x0⟩,
   -- SNDCTX_CNT_NOTREADY
   ⟨0x0D4, 0, 1, false, 0x0, 0x0, 0x0, 0x0, 0x0, 0xFFFFFFFF, true, fun _ => 0x0⟩,
   -- SNDCTX_CNT_REFUSE
   ⟨0x0D8, 0, 1, false, 0x0, 0x0, 0x0, 0x0, 0x0, 0xFFFFFFFF, true, fun _ => 0x0⟩]

/-- Registers of the STEP page. -/
def stepRegs : List RegDesc :=
  [
   -- STEP_LAND
   ⟨0x080, 0, 1, true, 0x0, 0x0, 0xFFFFFFFFFFFFF, 0x0, 0x0, 0xFFFFFFFFFFFFF, false, fun _ => 0x0⟩,
   -- STEP_STAT
   ⟨0x088, 0, 1, false, 0x0, 0x0, 0x0, 0x0, 0x0, 0xFFFFFF, false, fun _ => 0x0⟩,
   -- STEP_CMD
   ⟨0x08C, 0, 1, false, 0x0, 0xF000003F, 0x0, 0xF000003F, 0x0, 0xF000003F, false, fun _ => 0x0⟩,
   -- STEP_WAIT_HEAD
   ⟨0x090, 0, 1, true, 0x0, 0x0, 0x0, 0x0, 0x0, 0x3FFFFFFFFFFFFFF, false, fun _ => 0x0⟩,
   -- STEP_CNT_CLOSE
   ⟨0x098, 0, 1, false, 0x0, 0x0, 0x0, 0x0, 0x0, 0xFFFFFFFF, true, fun _ => 0x0⟩,
   -- STEP_CNT_LATE
   ⟨0x09C, 0, 1, false, 0x0, 0x0, 0x0, 0x0, 0x0, 0xFFFFFFFF, true, fun _ => 0x0⟩,
   -- STEP_CNT_FOLD
   ⟨0x0A0, 0, 1, false, 0x0, 0x0, 0x0, 0x0, 0x0, 0xFFFFFFFF, true, fun _ => 0x0⟩,
   -- STEP_CNT_DROP
   ⟨0x0A4, 0, 1, false, 0x0, 0x0, 0x0, 0x0, 0x0, 0xFFFFFFFF, true, fun _ => 0x0⟩,
   -- STEP_CNT_STALE
   ⟨0x0A8, 0, 1, false, 0x0, 0x0, 0x0, 0x0, 0x0, 0xFFFFFFFF, true, fun _ => 0x0⟩,
   -- STEP_CNT_EARLY
   ⟨0x0AC, 0, 1, false, 0x0, 0x0, 0x0, 0x0, 0x0, 0xFFFFFFFF, true, fun _ => 0x0⟩,
   -- STEP_CNT_DUP
   ⟨0x0B0, 0, 1, false, 0x0, 0x0, 0x0, 0x0, 0x0, 0xFFFFFFFF, true, fun _ => 0x0⟩,
   -- STEP_CNT_MISSING
   ⟨0x0B4, 0, 1, false, 0x0, 0x0, 0x0, 0x0, 0x0, 0xFFFFFFFF, true, fun _ => 0x0⟩]

/-- Registers of the CKPT page, first half. -/
def ckptRegsA : List RegDesc :=
  [
   -- CKPT_CTL
   ⟨0x080, 0, 1, false, 0x0, 0x0, 0xF00, 0x0, 0x0, 0xF00, false, fun _ => 0x200⟩,
   -- CKPT_ARM
   ⟨0x084, 0, 1, false, 0x0, 0x0, 0x1, 0x0, 0x0, 0x1, false, fun _ => 0x0⟩,
   -- CKPT_SNAP_OFS
   ⟨0x088, 0, 1, true, 0x0, 0x0, 0x3FFC000000, 0x0, 0x0, 0x3FFC000000, false, fun _ => 0x0⟩,
   -- CKPT_SNAP_SIZE
   ⟨0x090, 0, 1, false, 0x0, 0x0, 0xFFF, 0x0, 0x0, 0xFFF, false, fun _ => 0x0⟩,
   -- CKPT_PART_OFS
   ⟨0x098, 0, 1, true, 0x0, 0x0, 0x3FFC000000, 0x0, 0x0, 0x3FFC000000, false, fun _ => 0x0⟩,
   -- CKPT_PART_SIZE
   ⟨0x0A0, 0, 1, false, 0x0, 0x0, 0xFFF, 0x0, 0x0, 0xFFF, false, fun _ => 0x0⟩,
   -- CKPT_LIST_BASE
   ⟨0x0A8, 0, 1, true, 0x0, 0x0, 0xFFFFFFFFFFFFF, 0x0, 0x0, 0xFFFFFFFFFFFFF, false, fun _ => 0x0⟩,
   -- CKPT_LIST_COUNT
   ⟨0x0B0, 0, 1, false, 0x0, 0x0, 0xFFFF, 0x0, 0x0, 0xFFFF, false, fun _ => 0x0⟩,
   -- CKPT_CURSOR_BASE
   ⟨0x0B8, 0, 1, true, 0x0, 0x0, 0xFFFFFFFFFFFFF, 0x0, 0x0, 0xFFFFFFFFFFFFF, false, fun _ => 0x0⟩,
   -- CKPT_STORE_BASE
   ⟨0x0C0, 0, 1, true, 0x0, 0x0, 0xFFFFFFFFFFFFFFFF, 0x0, 0x0, 0xFFFFFFFFFFFFFFFF, false, fun _ => 0x0⟩,
   -- CKPT_STORE_LEN
   ⟨0x0C8, 0, 1, true, 0x0, 0x0, 0xFFFFFFFFFFFFFFFF, 0x0, 0x0, 0xFFFFFFFFFFFFFFFF, false, fun _ => 0x0⟩,
   -- CKPT_PCTX
   ⟨0x0D0, 0, 1, false, 0x0, 0x0, 0xFFFFF, 0x0, 0x0, 0xFFFFF, false, fun _ => 0x0⟩,
   -- CKPT_RCTX
   ⟨0x0D4, 0, 1, false, 0x0, 0x0, 0xFFFFF, 0x0, 0x0, 0xFFFFF, false, fun _ => 0x0⟩,
   -- CKPT_PARTNER
   ⟨0x0D8, 0, 1, false, 0x0, 0x0, 0x1F, 0x0, 0x0, 0x1F, false, fun _ => 0x0⟩]

/-- Registers of the CKPT page, second half. -/
def ckptRegsB : List RegDesc :=
  [
   -- CKPT_FEED
   ⟨0x0DC, 0, 1, false, 0x0, 0x0, 0xFFFF, 0x0, 0x0, 0xFFFF, false, fun _ => 0x0⟩,
   -- CKPT_STAT
   ⟨0x0E0, 0, 1, false, 0x0, 0x0, 0x0, 0x0, 0x0, 0xFFFF00FF, false, fun _ => 0x0⟩,
   -- CKPT_ID
   ⟨0x0E8, 0, 1, true, 0x0, 0x0, 0x0, 0x0, 0x0, 0xFFFFFFFFFFFF, false, fun _ => 0x0⟩,
   -- CKPT_SAFE_ID
   ⟨0x0F0, 0, 1, true, 0x0, 0x0, 0x0, 0x0, 0x0, 0xFFFFFFFFFFFF, false, fun _ => 0x0⟩,
   -- CKPT_STOP_LAST
   ⟨0x0F8, 0, 1, true, 0x0, 0x0, 0x0, 0x0, 0x0, 0xFFFF0000FFFFFFFF, false, fun _ => 0x0⟩,
   -- CKPT_PMAX
   ⟨0x100, 0, 1, true, 0x0, 0x0, 0x0, 0x0, 0x0, 0xFFFFFFFFFFFFFFFF, false, fun _ => 0x0⟩,
   -- CKPT_CMD
   ⟨0x108, 0, 1, false, 0x0, 0xFF00FFFF, 0x0, 0xFF00FFFF, 0x0, 0xFF00FFFF, false, fun _ => 0x0⟩,
   -- CKPT_CNT_SNAP
   ⟨0x110, 0, 1, false, 0x0, 0x0, 0x0, 0x0, 0x0, 0xFFFFFFFF, true, fun _ => 0x0⟩,
   -- CKPT_CNT_REFUSED
   ⟨0x114, 0, 1, false, 0x0, 0x0, 0x0, 0x0, 0x0, 0xFFFFFFFF, true, fun _ => 0x0⟩,
   -- CKPT_CNT_MISMATCH
   ⟨0x118, 0, 1, false, 0x0, 0x0, 0x0, 0x0, 0x0, 0xFFFFFFFF, true, fun _ => 0x0⟩,
   -- CKPT_CNT_BAD
   ⟨0x11C, 0, 1, false, 0x0, 0x0, 0x0, 0x0, 0x0, 0xFFFFFFFF, true, fun _ => 0x0⟩,
   -- CKPT_CNT_UNCHECKED
   ⟨0x120, 0, 1, false, 0x0, 0x0, 0x0, 0x0, 0x0, 0xFFFFFFFF, true, fun _ => 0x0⟩,
   -- CKPT_CNT_UNMAPPED
   ⟨0x124, 0, 1, false, 0x0, 0x0, 0x0, 0x0, 0x0, 0xFFFFFFFF, true, fun _ => 0x0⟩,
   -- CKPT_CNT_REALIGN
   ⟨0x128, 0, 1, false, 0x0, 0x0, 0x0, 0x0, 0x0, 0xFFFFFFFF, true, fun _ => 0x0⟩]

/-- Registers of the CKPT page. -/
def ckptRegs : List RegDesc := ckptRegsA ++ ckptRegsB

/-- Registers of the FLASH page. -/
def flashRegs : List RegDesc :=
  [
   -- FLASH_SLOT_SIZE
   ⟨0x080, 0, 1, false, 0x0, 0x0, 0x1FFFF, 0x1FFFF, 0x0, 0x1FFFF, false, fun _ => 0x0⟩,
   -- FLASH_STAT
   ⟨0x084, 0, 1, false, 0x0, 0x0, 0x0, 0x0, 0x0, 0xFFFFFFFF, false, fun _ => 0x0⟩,
   -- FLASH_SLOT_IDX
   ⟨0x088, 0, 1, false, 0xFFFF, 0x0, 0x0, 0x0, 0x0, 0xFFFF, false, fun _ => 0x0⟩,
   -- FLASH_SLOT
   ⟨0x090, 0, 1, true, 0x0, 0x0, 0x0, 0x0, 0x0, 0xE000FFFFFFFFFFFF, false, fun _ => 0x0⟩,
   -- FLASH_CNT_WR
   ⟨0x098, 0, 1, true, 0x0, 0x0, 0x0, 0x0, 0x0, 0xFFFFFFFFFFFFFFFF, true, fun _ => 0x0⟩,
   -- FLASH_CNT_RD
   ⟨0x0A0, 0, 1, true, 0x0, 0x0, 0x0, 0x0, 0x0, 0xFFFFFFFFFFFFFFFF, true, fun _ => 0x0⟩,
   -- FLASH_CNT_ERR
   ⟨0x0A8, 0, 1, false, 0x0, 0x0, 0x0, 0x0, 0x0, 0xFFFFFFFF, true, fun _ => 0x0⟩]

/-- Registers of the PWR page, first half. -/
def pwrRegsA : List RegDesc :=
  [
   -- PWR_CAP
   ⟨0x080, 0, 1, false, 0x0, 0x0, 0x1FFF, 0x0, 0x0, 0x1FFF, false, fun _ => 0x1194⟩,
   -- PWR_POLICY
   ⟨0x084, 0, 1, false, 0x0, 0x0, 0xFFFF00, 0x0, 0x0, 0xFFFF00, false, fun _ => 0x190400⟩,
   -- PWR_INPUT
   ⟨0x088, 0, 1, true, 0x0, 0x0, 0x0, 0x0, 0xFFFFFFFFFFFFFFFF, 0xFFFFFFFFFFFFFFFF, false, fun _ => 0xD2F000000000⟩,
   -- PWR_STAT
   ⟨0x090, 0, 1, false, 0x0, 0x0, 0x0, 0x0, 0x0, 0x3FF00F, false, fun _ => 0x0⟩,
   -- PWR_BUDGET
   ⟨0x094, 0, 1, false, 0x0, 0x0, 0x0, 0x0, 0x0, 0xFFFFFFFF, false, fun _ => 0x0⟩,
   -- PWR_HOST_BEAT
   ⟨0x098, 0, 1, false, 0x0, 0xFFFFFFFF, 0x0, 0x0, 0x0, 0xFFFFFFFF, false, fun _ => 0x0⟩,
   -- PWR_E_IN
   ⟨0x0A0, 0, 1, true, 0x0, 0x0, 0x0, 0x0, 0x0, 0xFFFFFFFFFFFFFFFF, true, fun _ => 0x0⟩,
   -- PWR_PH_IDX
   ⟨0x0A8, 0, 1, false, 0x7FFF, 0x0, 0x0, 0x0, 0x0, 0x7FFF, false, fun _ => 0x0⟩,
   -- PWR_PH_EST
   ⟨0x0AC, 0, 1, false, 0x0, 0x0, 0x0, 0x0, 0x0, 0xFFFFFFFF, false, fun _ => 0x0⟩,
   -- PWR_PH_CNT
   ⟨0x0B0, 0, 1, false, 0x0, 0x0, 0x0, 0x0, 0x0, 0xFFFFFFFF, false, fun _ => 0x0⟩,
   -- PWR_ATL_SET
   ⟨0x100, 16, 8, false, 0x0, 0x0, 0x0, 0x0, 0x0, 0xFFFF0FFF, false, fun _ => 0xF0EE0834⟩,
   -- PWR_ATL_ALLOC
   ⟨0x104, 16, 8, false, 0x0, 0x0, 0x0, 0x0, 0x0, 0xFFFFFFFF, false, fun _ => 0x0⟩]

/-- Registers of the PWR page, second half. -/
def pwrRegsB : List RegDesc :=
  [
   -- PWR_HSET
   ⟨0x108, 16, 8, false, 0x1F, 0x0, 0x0, 0x0, 0x0, 0x1F, false, fun _ => 0x0⟩,
   -- PWR_ATL_SWELL
   ⟨0x10C, 16, 8, false, 0x0, 0x0, 0x0, 0x0, 0x0, 0xFFFFFF, false, fun _ => 0x0⟩,
   -- PWR_THR_EPI
   ⟨0x200, 32, 9, false, 0x0, 0x0, 0x0, 0x0, 0x0, 0xFFFFFFFF, true, fun _ => 0x0⟩,
   -- PWR_THR_TIDES
   ⟨0x204, 32, 9, false, 0x0, 0x0, 0x0, 0x0, 0x0, 0xFFFFFFFF, true, fun _ => 0x0⟩,
   -- PWR_THR_LAST
   ⟨0x208, 32, 9, false, 0x0, 0x0, 0x0, 0x0, 0x0, 0xFFFFFFFF, false, fun _ => 0x0⟩,
   -- PWR_THR_STRETCH
   ⟨0x210, 32, 9, true, 0x0, 0x0, 0x0, 0x0, 0x0, 0xFFFFFFFFFFFFFFFF, true, fun _ => 0x0⟩,
   -- PWR_E_ATL
   ⟨0x340, 8, 8, true, 0x0, 0x0, 0x0, 0x0, 0x0, 0xFFFFFFFFFFFFFFFF, true, fun _ => 0x0⟩,
   -- PWR_E_STK
   ⟨0x380, 8, 8, true, 0x0, 0x0, 0x0, 0x0, 0x0, 0xFFFFFFFFFFFFFFFF, true, fun _ => 0x0⟩,
   -- PWR_E_PORT
   ⟨0x3C0, 8, 6, true, 0x0, 0x0, 0x0, 0x0, 0x0, 0xFFFFFFFFFFFFFFFF, true, fun _ => 0x0⟩,
   -- PWR_E_HBR
   ⟨0x3F0, 0, 1, true, 0x0, 0x0, 0x0, 0x0, 0x0, 0xFFFFFFFFFFFFFFFF, true, fun _ => 0x0⟩,
   -- PWR_E_HOLM
   ⟨0x3F8, 0, 1, true, 0x0, 0x0, 0x0, 0x0, 0x0, 0xFFFFFFFFFFFFFFFF, true, fun _ => 0x0⟩,
   -- PWR_E_QUEUE
   ⟨0x400, 8, 128, true, 0x0, 0x0, 0x0, 0x0, 0x0, 0xFFFFFFFFFFFFFFFF, true, fun _ => 0x0⟩]

/-- Registers of the PWR page. -/
def pwrRegs : List RegDesc := pwrRegsA ++ pwrRegsB

/-- Registers of the THERM page. -/
def thermRegs : List RegDesc :=
  [
   -- THERM_LIM
   ⟨0x080, 0, 1, false, 0x0, 0x0, 0xFFFF, 0x0, 0x0, 0xFFFFFF, false, fun _ => 0x735F64⟩,
   -- THERM_STAT
   ⟨0x084, 0, 1, false, 0x0, 0x0, 0x0, 0x0, 0x0, 0xFFFFF, false, fun _ => 0x200⟩,
   -- THERM_ATL
   ⟨0x100, 8, 8, true, 0x0, 0x0, 0x0, 0x0, 0xFFFFFFFF0000FFFF, 0xFFFFFFFF0000FFFF, false, fun _ => 0x0⟩,
   -- THERM_HBR
   ⟨0x140, 0, 1, true, 0x0, 0x0, 0x0, 0x0, 0xFFFFFFFF0000FFFF, 0xFFFFFFFF0000FFFF, false, fun _ => 0x0⟩,
   -- THERM_HOLM
   ⟨0x148, 0, 1, true, 0x0, 0x0, 0x0, 0x0, 0xFFFFFFFF0000FFFF, 0xFFFFFFFF0000FFFF, false, fun _ => 0x0⟩,
   -- THERM_PORT
   ⟨0x150, 8, 6, true, 0x0, 0x0, 0x0, 0x0, 0xFFFFFFFF0000FFFF, 0xFFFFFFFF0000FFFF, false, fun _ => 0x0⟩,
   -- THERM_COOL_TIDE
   ⟨0x180, 0, 1, true, 0x0, 0x0, 0x0, 0x0, 0x0, 0xFFFFFFFFFFFF, false, fun _ => 0x0⟩,
   -- THERM_CNT_TRIP
   ⟨0x188, 0, 1, false, 0x0, 0x0, 0x0, 0x0, 0x0, 0xFFFFFFFF, true, fun _ => 0x0⟩,
   -- THERM_CNT_COOL
   ⟨0x18C, 0, 1, false, 0x0, 0x0, 0x0, 0x0, 0x0, 0xFFFFFFFF, true, fun _ => 0x0⟩]

/-- Registers of the AGE page. -/
def ageRegs : List RegDesc :=
  [
   -- AGE_STAT
   ⟨0x080, 0, 1, false, 0x0, 0x0, 0x0, 0x0, 0x0, 0x7, false, fun _ => 0x0⟩,
   -- AGE_GUARD
   ⟨0x084, 0, 1, false, 0x0, 0x0, 0xFFFF, 0xFFFF, 0x0, 0xFFFF, false, fun _ => 0x320F⟩,
   -- AGE_HIST
   ⟨0x088, 0, 1, true, 0x0, 0x0, 0x0, 0x0, 0x0, 0xFFFFFFFFFFFF, false, fun _ => 0x0⟩,
   -- AGE_LAST
   ⟨0x090, 0, 1, true, 0x0, 0x0, 0x0, 0x0, 0x0, 0xFFFFFFFFFFFF, false, fun _ => 0x0⟩,
   -- AGE_CMD
   ⟨0x098, 0, 1, false, 0x0, 0xF, 0x0, 0xF, 0x0, 0xF, false, fun _ => 0x0⟩,
   -- AGE_ATL
   ⟨0x100, 8, 8, false, 0x0, 0x0, 0x0, 0x0, 0x0, 0xFFFFFF0F, false, fun _ => 0xF0E⟩,
   -- AGE_ATL_PEND
   ⟨0x104, 8, 8, false, 0x0, 0x0, 0x0, 0x0, 0x0, 0xFF0F, false, fun _ => 0x0⟩,
   -- AGE_DIE
   ⟨0x140, 4, 8, false, 0x0, 0x0, 0x0, 0x0, 0x0, 0xFF00FF00, false, fun _ => 0xF00⟩,
   -- AGE_PLAN_IDX
   ⟨0x180, 0, 1, false, 0xF7, 0x0, 0x0, 0x0, 0x0, 0xF7, false, fun _ => 0x0⟩,
   -- AGE_PLAN
   ⟨0x184, 0, 1, false, 0x0, 0x0, 0x0, 0x0, 0x0, 0xFFFFFFFF, false, fun _ => 0x0⟩]

/-- Registers of the RST page. -/
def rstRegs : List RegDesc :=
  [
   -- RST_CAUSE
   ⟨0x080, 0, 1, false, 0x0, 0x0, 0x0, 0x0, 0x0, 0x3FF, false, fun _ => 0x1⟩,
   -- RST_BRING
   ⟨0x084, 0, 1, false, 0x0, 0x0, 0x0, 0x0, 0x0, 0x8F, false, fun _ => 0x0⟩,
   -- RST_STAGE_T
   ⟨0x088, 4, 9, false, 0x0, 0x0, 0x0, 0x0, 0x0, 0xFFFFFFFF, false, fun _ => 0x0⟩,
   -- RST_CMD
   ⟨0x0B0, 0, 1, false, 0x0, 0xF, 0x0, 0xF, 0x0, 0xF, false, fun _ => 0x0⟩,
   -- RST_WDOG
   ⟨0x0B4, 0, 1, false, 0x0, 0x0, 0xFFFF, 0x0, 0x0, 0xFFFF, false, fun _ => 0x100⟩,
   -- RST_WDOG_KICK
   ⟨0x0B8, 0, 1, false, 0x0, 0xFFFFFFFF, 0x0, 0x0, 0x0, 0xFFFFFFFF, false, fun _ => 0x0⟩,
   -- RST_SLOT
   ⟨0x0BC, 0, 1, false, 0x0, 0x0, 0x1F, 0x1F, 0x0, 0x1F, false, fun _ => 0x0⟩,
   -- RST_STRAP
   ⟨0x0C0, 0, 1, false, 0x0, 0x0, 0x0, 0x0, 0x0, 0xFFF, false, fun _ => 0x0⟩,
   -- RST_CNT_GLITCH
   ⟨0x0C4, 0, 1, false, 0x0, 0x0, 0x0, 0x0, 0x0, 0xFFFFFFFF, true, fun _ => 0x0⟩,
   -- RST_CNT_RESET
   ⟨0x0C8, 0, 1, false, 0x0, 0x0, 0x0, 0x0, 0x0, 0xFFFFFFFF, true, fun _ => 0x0⟩,
   -- RST_CNT_WDOG
   ⟨0x0CC, 0, 1, false, 0x0, 0x0, 0x0, 0x0, 0x0, 0xFFFFFFFF, true, fun _ => 0x0⟩,
   -- RST_CNT_SRST
   ⟨0x0D0, 0, 1, false, 0x0, 0x0, 0x0, 0x0, 0x0, 0xFFFFFFFF, true, fun _ => 0x0⟩]

/-- Registers of the SEC page. -/
def secRegs : List RegDesc :=
  [
   -- SEC_STAT
   ⟨0x080, 0, 1, false, 0x0, 0x0, 0x0, 0x0, 0x0, 0xF0, false, fun _ => 0x80⟩,
   -- SEC_KEYS
   ⟨0x084, 0, 1, false, 0x0, 0x0, 0x0, 0x0, 0x0, 0x7, false, fun _ => 0x0⟩,
   -- SEC_COMP_IDX
   ⟨0x088, 0, 1, false, 0x7, 0x0, 0x0, 0x0, 0x0, 0x7, false, fun _ => 0x1⟩,
   -- SEC_COMP
   ⟨0x08C, 0, 1, false, 0x0, 0x0, 0x0, 0x0, 0x0, 0xFFFFFFFF, false, fun _ => 0x0⟩,
   -- SEC_MEAS
   ⟨0x090, 4, 16, false, 0x0, 0x0, 0x0, 0x0, 0x0, 0xFFFFFFFF, false, fun _ => 0x0⟩,
   -- SEC_NONCE
   ⟨0x0D0, 4, 8, false, 0xFFFFFFFF, 0x0, 0x0, 0x0, 0x0, 0xFFFFFFFF, false, fun _ => 0x0⟩,
   -- SEC_CMD
   ⟨0x0F0, 0, 1, false, 0x0, 0xF, 0x0, 0xF, 0x0, 0xF, false, fun _ => 0x0⟩,
   -- SEC_WIN_IDX
   ⟨0x0F4, 0, 1, false, 0xFFF, 0x0, 0x0, 0x0, 0x0, 0xFFF, false, fun _ => 0x0⟩,
   -- SEC_WIN_LEN
   ⟨0x0F8, 0, 1, false, 0x0, 0x0, 0x0, 0x0, 0x0, 0xFFFF, false, fun _ => 0x0⟩,
   -- SEC_WIN_DATA
   ⟨0x0FC, 0, 1, false, 0x0, 0x0, 0x0, 0x0, 0x0, 0xFFFFFFFF, false, fun _ => 0x0⟩,
   -- SEC_IDHASH
   ⟨0x100, 4, 16, false, 0x0, 0x0, 0x0, 0x0, 0x0, 0xFFFFFFFF, false, fun _ => 0x0⟩]

/-- Registers of the MGMT page. -/
def mgmtRegs : List RegDesc :=
  [
   -- MGMT_ADDR
   ⟨0x080, 0, 1, false, 0x0, 0x0, 0x7F, 0x0, 0x0, 0x7FFF, false, fun _ => 0x3A⟩,
   -- MGMT_ALERT_CAUSE
   ⟨0x084, 0, 1, false, 0x0, 0x0, 0x0, 0x0, 0x0, 0x7F, false, fun _ => 0x0⟩,
   -- MGMT_ALERT_MASK
   ⟨0x088, 0, 1, false, 0xFFFFFFFF, 0x0, 0x0, 0x0, 0x0, 0xFFFFFFFF, false, fun _ => 0x0⟩,
   -- MGMT_ALERT_ACK
   ⟨0x08C, 0, 1, false, 0x0, 0xFFFFFFFF, 0x0, 0x0, 0x0, 0xFFFFFFFF, false, fun _ => 0x0⟩,
   -- MGMT_SERIAL
   ⟨0x090, 0, 1, true, 0x0, 0x0, 0x0, 0x0, 0x0, 0xFFFFFFFFFFFFFFFF, false, fun _ => 0x0⟩,
   -- MGMT_REC_CTL
   ⟨0x098, 0, 1, false, 0x0, 0xF0000000, 0x0, 0xF0000000, 0x0, 0xF0000000, false, fun _ => 0x0⟩,
   -- MGMT_REC_DATA
   ⟨0x09C, 0, 1, false, 0x0, 0xFFFFFFFF, 0x0, 0x0, 0x0, 0xFFFFFFFF, false, fun _ => 0x0⟩,
   -- MGMT_REC_STAT
   ⟨0x0A0, 0, 1, false, 0x0, 0x0, 0x0, 0x0, 0x0, 0xFFF00000, false, fun _ => 0x0⟩,
   -- MGMT_CNT_DENIED
   ⟨0x0A4, 0, 1, false, 0x0, 0x0, 0x0, 0x0, 0x0, 0xFFFFFFFF, true, fun _ => 0x0⟩]

/-- The live registers of a class beside the header (R60). -/
def classRegs (c : Nat) : List RegDesc :=
  match c with
  | 0x00 => holmRegs
  | 0x01 => tideRegs
  | 0x02 => commitRegs
  | 0x03 => pwrRegs
  | 0x04 => thermRegs
  | 0x05 => ageRegs
  | 0x06 => rstRegs
  | 0x07 => secRegs
  | 0x08 => flashRegs
  | 0x09 => ckptRegs
  | 0x0A => mgmtRegs
  | 0x0B => hbrRegs
  | 0x10 => atlRegs
  | 0x11 => arrRegs
  | 0x12 => feedRegs
  | 0x13 => coveRegs
  | 0x14 => vecRegs
  | 0x15 => seqRegs
  | 0x16 => lagRegs
  | 0x17 => strmRegs
  | 0x18 => xlatRegs
  | 0x19 => stepRegs
  | 0x1A => mcRegs
  | 0x1B => cwyRegs
  | 0x20 => shoalRegs
  | 0x30 => portRegs
  | 0x31 => sndRegs
  | 0x32 => sndctxRegs
  | _ => []

/-- Does the descriptor hold the page offset `off`; if so the index of the register. -/
def RegDesc.at? (d : RegDesc) (off : Nat) : Option Nat :=
  if d.off ≤ off ∧ d.count = 1 ∧ off = d.off then some 0
  else if d.off < off ∧ 1 < d.count ∧ (off - d.off) % d.stride = 0 ∧ (off - d.off) / d.stride < d.count then
    some ((off - d.off) / d.stride)
  else if off = d.off then some 0 else none

/-- Layout version 1 on every page; class and instance (03_control_pages.md, PG_IDENT). -/
def identReset (c i : Nat) : Nat := 2 ^ 24 + c * 2 ^ 16 + i * 2 ^ 8 + 1

/-- Classes with a function that has a host mode (R449). -/
def hostable (c : Nat) : Bool :=
  c == 0x01 || c == 0x03 || c == 0x05 || c == 0x09 || c == 0x10 || c == 0x17 || c == 0x19 || c == 0x1A ||
  c == 0x30 || c == 0x32

/-- The HOST bits each class assigns (R449). -/
def hostBits (c : Nat) : Nat :=
  if c = 0x1A then 0x7 else if c = 0x09 then 0xF else if hostable c then 0x1 else 0

/-- PG_CAPS of a page: STAGED, GUARDED and SLOW follow from its registers, HOSTABLE from R449; PAGE_CAPS names the
distance operations and GQ2 on ARR (05_array.md) and the drain pipe on VEC (08_vector.md). The ATL page reads STAGED 1
as its chapter says (09_reefcode.md, log 22: DEDUCED, unsafe). -/
def capsReset (c i : Nat) : Nat :=
  let l := classRegs c
  let has (f : RegDesc → Nat) : Bool := l.any fun d => decide (f d ≠ 0)
  (if has RegDesc.st || c == 0x10 then 2 ^ 31 else 0) + (if hostable c then 2 ^ 30 else 0) +
  (if has RegDesc.gu then 2 ^ 29 else 0) +
  (if has RegDesc.sc && (c != 0x30 || decide (4 ≤ i)) then 2 ^ 28 else 0) +
  (if c = 0x11 then 3 else if c = 0x14 then 1 else 0)

/-- The register at page offset `off` of instance `i` of class `c`: its descriptor and the offset it begins at. -/
def regAt (c off : Nat) : Option RegDesc :=
  (if off < 0x80 then headerRegs else classRegs c).find? fun d => (d.at? off).isSome

/-- Class, instance and page offset of a window offset (R58). -/
def splitAddr (a : Nat) : Nat × Nat × Nat := (a / 0x100000, a % 0x100000 / 0x1000, a % 0x1000)

/-- What the register at window offset `a` holds after a power-on reset (R11); 0 where no register lies. -/
def resetWord (a : Nat) : Word64 :=
  let c := a / 0x100000
  let i := a % 0x100000 / 0x1000
  let off := a % 0x1000
  if off = 0 then BitVec.ofNat 64 (identReset c i)
  else if off = 4 then BitVec.ofNat 64 (capsReset c i)
  else match regAt c off with
    | some d => BitVec.ofNat 64 (d.reset i)
    | none => 0

/-- Every register of a page as (descriptor, its window offset). -/
def pageRegs (c i : Nat) : List (RegDesc × Nat) :=
  (headerRegs ++ classRegs c).flatMap fun d =>
    (List.range d.count).map fun n => (d, pageBase c i + d.off + n * d.stride)

end Sys2Proof.Machine
end

