-- ==== Sys2Proof/Machine/State.lean ====
section
/-! DEFINITION. The machine's state: the registers of the window, the state of every engine that no register
shows, the queue of waiting commands and the record of what the module sends out. Plain data. -/

namespace Sys2Proof.Machine

/-- Why the machine stops with a fault. No command does: the manual leaves no command's behaviour undefined (R14), and
an error is an event, a register or a completion (log 28: DEDUCED, unsafe). -/
inductive Fault where
  deriving DecidableEq, Repr

/-- Why a command has no meaning (log 28: DEDUCED, unsafe). -/
inductive Refusal where
  /-- Raised by an arm of `exec` whose command is not modelled; safe. -/
  | notModelled (mnemonic : String)
  deriving DecidableEq, Repr

/-- An exact rational, `num / den`, with `den` above 0 (R16: pseudocode arithmetic is exact). -/
structure Q where
  num : Int
  den : Nat
  deriving DecidableEq, Repr

/-- A flit but for its sequence number: TYPE, START, END, INFO and body (R312). -/
structure Flit where
  ty    : Nat
  start : Bool
  fin   : Bool
  info  : Nat
  body  : List Byte
  deriving DecidableEq, Repr

/-- What leaves the module: on the command attachment (R86, R98), the strait links (R312-R319), the ferry, the
Ethernet ports and Sound (R331), PCIe, the I3C bus and its pins. -/
inductive Msg where
  /-- event message turned into an interrupt: page index, hart, identity, PG_EVT_SEQ (R86, R98) -/
  | irq (page hart ident seq : Nat)
  /-- completion: type (R86 TYPE), tag, poison flag, the request's address, data -/
  | completion (type tag : Nat) (poison : Bool) (addr : Nat) (data : List Byte)
  /-- a request forwarded to the server over PCIe (R83) -/
  | outbound (write : Bool) (addr len : Nat)
  /-- a register window access completed: requester-side value (R59) -/
  | regRead (off : Nat) (value : Nat)
  /-- a copy of a tide mark on lane `lane` of a bundle, whose trailer carries `ack` (R317, R318); a peer is named by its
  module's serial -/
  | mark (port peer lane ack : Nat) (b : MarkBody)
  /-- a message of the board protocol; the COMMIT flits that carry it are on their bundles (R319) -/
  | prepare (init gen target : Nat) (records : List CommitRecord)
  | vote (init gen target voter : Nat) (pass : Bool) (rule cls inst off : Nat)
  | decision (init gen target : Nat) (go : Bool)
  /-- ferry piece from atoll `from'` to atoll `to'` (R127), or to a peer (R129) -/
  | ferry (from' to' : Nat) (off tag fnum : Nat) (last : Bool) (data : List Byte)
  /-- a flit on lane `lane` of the bundle to the module with serial `peer` (R312, R313) -/
  | flit (port peer lane seq ack : Nat) (nak : Bool) (f : Flit)
  /-- a CTRL flit on that bundle: OP, lane, ECHO data (R312) -/
  | ctrl (port peer op lane data : Nat)
  /-- TRAIN flits on transmitters of a B port, each naming the port and lane it leaves on: serial, slot (16: none) and slot
  reading; and, on every transmitter, what each receiver hears: port, lane, and the far end's serial, port and lane (R314) -/
  | train (port : Nat) (lanes : List Nat) (serial slot reading : Nat)
  | hears (l : List (Nat × Nat × Nat × Nat × Nat))
  /-- a Sound packet: port, kind, context, peer context, psn, msg, offset, ack psn, grant, payload (R331); the flits or the
  frame that carry it stand before it -/
  | sound (port kind ctx peer psn msg off ack grant : Nat) (flags : Nat) (data : List Byte)
  /-- an atom's request answered to its requester (R253, R258): poisoned, or the bytes read -/
  | atom (addr : Nat) (write poison : Bool) (data : List Byte)
  /-- an Ethernet frame on a K or F port (R326, R333) -/
  | frame (port : Nat) (bytes : List Byte)
  | linkStart (port : Nat)
  | neighborAdvert (port : Nat) (target : Nat)
  /-- ALERT_N driven low or released (R442) -/
  | alert (low : Bool)
  /-- an I3C read's bytes (R441) -/
  | i3c (data : List Byte)
  /-- message-signalled interrupt to the server (R410) -/
  | msix (vector : Nat)
  /-- rail isolated or off (R26, R410): atolls 0-7, stacks 16-63, port dies 64-69, harbour 72, holm 73 -/
  | railOff (die : Nat)
  | railsOff
  deriving DecidableEq, Repr

/-! ### The tide (02_tide.md) -/

/-- A received mark of the running tide (R38, R41). -/
structure MarkGot where
  slot : Nat
  n    : Nat
  hold : Bool
  deriving DecidableEq, Repr

/-- What the module keeps of a peer slot (R49-R53, R318). -/
structure PeerSt where
  /-- consecutive mark points with a mark (R50), to 8 -/
  heard     : Nat
  /-- a mark 0 came in the running tide -/
  thisTide  : Bool
  /-- the peer's IN_LINE flag -/
  inLine    : Bool
  leads     : Bool
  /-- consecutive tides with a late mark, and without one (R318) -/
  lateRun   : Nat
  onTimeRun : Nat
  lateNow   : Bool
  /-- tides of alignment in a row as the leader's lower slot (R53) -/
  aligned   : Nat
  deriving DecidableEq, Repr

/-- A peer of which nothing has been heard. -/
def PeerSt.none : PeerSt := ⟨0, false, false, false, 0, 0, false, 0⟩

/-- The leader's last mark 0: tide count, LEN, grace quanta (R49, R52). -/
structure LeadMark where
  count : Nat
  len   : Nat
  g     : Nat
  ofs   : Int
  deriving DecidableEq, Repr

structure TideSt where
  /-- tide 0 has begun (R31, R433) -/
  running   : Bool := false
  /-- slacks that have passed -/
  slacks    : Nat := 0
  /-- reference cycles since the last slack (R30) -/
  phase     : Nat := 0
  /-- marks sent in this tide (R38) -/
  sent      : Nat := 0
  /-- held quantum of the current tide (TIDE_PHASE.QUANTUM) -/
  quantum   : Nat := 0
  /-- marks received in this tide -/
  got       : List MarkGot := []
  /-- own hold bits of marks 0, 1, … of this tide, oldest first -/
  own       : List Bool := []
  /-- rate correction ρ (R51) -/
  rho       : Int := 0
  /-- trim of the current tide and of the next (R51) -/
  trim      : Int := 0
  trimNext  : Int := 0
  /-- the follower's offset was measured in this tide -/
  measured  : Bool := false
  /-- consecutive aligned tides (R52, R53) -/
  alignRun  : Nat := 0
  /-- an unaligned module starts no slice until three aligned tides (R52) -/
  unaligned : Bool := false
  /-- cycles by which a step lengthens the current tide (R52) -/
  stepBy    : Int := 0
  /-- consecutive tides without the leader's mark 0 (R53) -/
  lost      : Nat := 0
  lead      : Option LeadMark := none
  /-- peers by slot -/
  peers     : SMap PeerSt := []
  deriving DecidableEq, Repr

/-! ### Waiting for the harbour and for bound pages (19_modes.md) -/

/-- An event of a host-mode function waiting for the harbour (R452): page, HOST bit, what it is about, the tide
it was raised in. -/
structure HostWait where
  page : Nat
  bit  : Nat
  what : Nat
  tide : Nat
  deriving DecidableEq, Repr

/-- A self-mode action that applies through ticket 3 (R76): a map-out becoming MAPPED, pages retired, a re-plan. -/
inductive SelfAct where
  | mapped (k : Atoll)
  | retire (k : Atoll) (page : Nat)
  | replan
  deriving DecidableEq, Repr

/-- A self-mode action waiting, with the tide its wait for a bound page began, if it has (R455), and whether
ticket 3 is bound for it and armed for the next slack. -/
structure SelfWait where
  act   : SelfAct
  since : Option Nat
  bound : Bool
  deriving DecidableEq, Repr

/-- A vote received (R77): slot, pass, and what failed. -/
structure VoteGot where
  slot : Nat
  pass : Bool
  rule : Nat
  cls  : Nat
  inst : Nat
  off  : Nat
  deriving DecidableEq, Repr

/-- What a ticket holds beside its registers (R70, R77, R78). -/
structure TicketSt where
  /-- tide whose slack it applies at, once armed or voting -/
  target    : Nat
  /-- the board protocol runs on it: as its initiator, or on ticket 2 -/
  board     : Bool
  /-- initiator slot and generation of the board tag -/
  init      : Nat
  gen       : Nat
  /-- records of a PREPARE received so far, and how many there are -/
  gather    : List CommitRecord
  total     : Nat
  votes     : List VoteGot
  /-- the decision held: go or abort -/
  decided   : Option Bool
  votedPass : Bool
  /-- whole tides since the initiator was heard, and whether it was heard in the running one (R78) -/
  silent    : Nat
  heardNow  : Bool
  /-- staged values already discarded (R78) -/
  discarded : Bool
  /-- an ABORT by command, repeated in the marks up to the tide before its target: generation, target (R77) -/
  again     : Option (Nat × Nat)
  /-- peers its PREPARE was sent to (R77) -/
  asked     : List Nat
  deriving DecidableEq, Repr

def TicketSt.none : TicketSt := ⟨0, false, 0, 0, [], 0, [], .none, false, 0, false, false, .none, []⟩

/-! ### Formats and exact accumulation -/

/-- A special state of an exact sum (R191). -/
inductive Special where
  | none | posInf | negInf | nan
  deriving DecidableEq, Repr

/-- An exact accumulator XA (R191). -/
structure XaSt where
  sum     : Q
  count   : Nat
  special : Special
  /-- every term added since it was cleared is −0 -/
  allNeg  : Bool
  /-- marked by VLSQ under R208 -/
  marked  : Bool
  deriving DecidableEq, Repr

def XaSt.zero : XaSt := ⟨⟨0, 1⟩, 0, .none, true, false⟩

/-! ### The sequencer (09_reefcode.md) -/

/-- A loop level (R219): index of the LOOP bundle, last bundle of the body, iterations in all and completed, call
depth. -/
structure LoopLevel where
  start : Nat
  fin   : Nat
  count : Nat
  done  : Nat
  depth : Nat
  deriving DecidableEq, Repr

/-- The scalar state a slice snapshot takes (R225) (log 4: DESIGN CHOICE, unsafe). -/
structure SeqRegs where
  pc     : Nat := 0
  s      : SMap Word64 := []
  p      : SMap (BitVec 4096) := []
  rstack : List Nat := []
  lstack : List LoopLevel := []
  sc     : SMap Word32 := []
  mc     : SMap Word32 := []
  deriving DecidableEq, Repr

/-- Counts and CUR_MAX a slice or a detached stream made under a Q-descriptor (R175, R176). -/
structure QDelta where
  addr   : Nat
  q      : Nat
  ovf    : Nat
  van    : Nat
  nan    : Nat
  inv    : Nat
  /-- largest finite abs(x / c), exact -/
  max    : Q
  deriving DecidableEq, Repr

/-- A deferred send or reduction of the open slice (R227). -/
structure Deferred where
  reduce : Bool
  ctr    : Nat
  desc   : Nat
  deriving DecidableEq, Repr

/-- A VUPD FINISH held to the slice's publication (R248): record address, XI, and the two sums as they stood
at its issue. -/
structure FinishHeld where
  addr : Nat
  xi   : Nat
  sd   : XaSt
  sw   : XaSt
  deriving DecidableEq, Repr

/-- A PUBLISH that waits for its slice to finish (R227): its flags, slot, value and tag, and whether it came in a
bundle. -/
structure Publish where
  record : Bool
  result : Bool
  rslot  : Nat
  val    : Nat
  tag    : Nat
  whole  : Bool
  deriving DecidableEq, Repr

/-- A slice from its SLICE bundle to its end (R225-R228). -/
structure SliceSt where
  phase    : Nat
  budget   : Nat
  snap     : SeqRegs
  runs     : Nat := 0
  cuts     : Nat := 0
  /-- it has waited for slack, which is counted once (R48) -/
  waited   : Bool := false
  /-- array clocks of the atoll at the pass of the fit test, at the last start or resume, and used before that -/
  clk0     : Nat := 0
  start    : Nat := 0
  used     : Nat := 0
  /-- clocks stalled since the pass -/
  stall    : Nat := 0
  qcloses  : List Nat := []
  defers   : List Deferred := []
  deltas   : List QDelta := []
  /-- advance of each stream record's CTR (R206): record, new counter -/
  gcg      : List (Nat × Nat) := []
  finishes : List FinishHeld := []
  /-- detached completions per stream counter since the snapshot (R227) -/
  detached : SMap Nat := []
  publish  : Option Publish := none
  deriving DecidableEq, Repr

/-- Where a slice stands between its SLICE bundle and its end. -/
inductive SliceRun where
  /-- at its fit test (R33) -/
  | fitWait
  /-- running from the pass of its fit test -/
  | running
  /-- halted by a CUT and saved (R42): the idle bank was saved too; the save is not yet charged to a tide (R43) -/
  | cut (idle fresh : Bool)
  /-- resumed: its save and restore run, until the atoll's hold phase (R42, R43) -/
  | resuming (idle : Bool)
  /-- to be reissued from its snapshot at the next slack (R37) -/
  | reissue
  /-- voided: held until the walk of `va` for a write or a read succeeds (R299), with the tides waited -/
  | voided (va : Nat) (write : Bool) (tides : Nat)
  deriving DecidableEq, Repr

/-- What a scalar slot does once its operands are read. -/
inductive ScalarOut where
  | reg (rd : SReg) (v : Nat)
  | pred (p : Nat) (v : Bool)
  | store (a v : Nat)
  /-- the load met a double-bit error (R281) -/
  | lagErr
  deriving DecidableEq, Repr

structure SeqSt where
  r        : SeqRegs := {}
  /-- plan entry running: queue q, USER (R93, R213) -/
  entry    : Option (Nat × Nat) := none
  slice    : Option SliceSt := none
  /-- the slice's standing, where there is a slice or one waits -/
  run      : Option SliceRun := none
  /-- TIDE_FAULTs in a row of the slice at this PC (R37) -/
  faults   : Nat := 0
  /-- instruction store: bundle index ↦ bundle (R215, R231) -/
  istore   : SMap (BitVec 1024) := []
  /-- a load armed or running: source, first, count (R231) -/
  iload    : Option (Nat × Nat × Nat) := none
  /-- the bundle stalls under AWAIT for this descriptor (R174) -/
  await    : Option Nat := none
  /-- array clocks passed on this atoll, in halves (R13, R407) -/
  halfClk  : Nat := 0
  /-- the sequencer is stalled at a bundle; its clocks count -/
  stalled  : Bool := false
  /-- stall clocks and bundles of the running tide (R468) -/
  stallNow : Nat := 0
  bundles  : Nat := 0
  /-- the SLICE of the bundle at the PC has passed its fit test at slack; the bundle's other slots have not acted -/
  passed   : Bool := false
  /-- the unit slots of the bundle at the PC have acted while its PUBLISH waits: what its scalar slots then did -/
  acted    : Option (List ScalarOut) := none
  /-- no slice starts before this phase: clocks charged at the tide's start (R43), the field test (R124) -/
  hold     : Nat := 0
  deriving DecidableEq, Repr

/-! ### The array, feeders, cove and ferry (05_array.md, 10_backward.md) -/

/-- State of an accumulator bank (R111). -/
inductive BankState where
  | free | live | released
  deriving DecidableEq, Repr

structure BankSt where
  state : BankState
  /-- region of the last operation that wrote it (R115) -/
  rows  : Nat
  cols  : Nat
  /-- groups read since it was released, each with the array clock of its read (R116) -/
  read  : List (Nat × Nat)
  /-- T: advancing clock in which cell (0, 0) completed the last step of its last operation, one that ended with RELEASE or
  DISCARD (R115) -/
  endAt : Option Nat := none
  deriving DecidableEq, Repr

/-- One side's feeders of an operation, with the values of the registers its slot names (R222). -/
structure SideSt where
  slot  : FeedSlot
  /-- s[AREG] and s[SREG] of the feeder slot, or of the cove where it feeds the side (R236) -/
  areg  : Nat
  sreg  : Nat
  qdesc : Nat
  creg  : Nat
  /-- fed by the cove, and in transpose mode (R235) -/
  cove  : Bool
  trans : Bool
  deriving DecidableEq, Repr

/-- An operation of the array queue (R105, R221). `op` as the array slot encodes it. -/
structure ArrOp where
  op      : Nat
  a       : ArraySlot
  /-- formats of the row and the column side: the array slot's, for a SCOUT its descriptors' (R221) -/
  fmtR    : Nat
  fmtC    : Nat
  row     : SideSt
  col     : SideSt
  /-- steps of the main operation, and K indices of its privileged pass, four steps each (R106, R167) -/
  len     : Nat
  poss    : List Nat
  /-- steps each feeder has fetched: key side × 1,024 + feeder -/
  fed     : SMap Nat
  /-- element codes fetched, key (side × 1,024 + feeder) × 65,536 + k -/
  codes   : SMap Nat
  /-- block scale codes fetched, key (side × 1,024 + feeder) × 65,536 + block -/
  scales  : SMap Nat
  /-- privileged values of wide-source feeders, BF16 codes, key as codes (R166) -/
  privs   : SMap Nat
  /-- advancing clocks since step 0 entered cell (0, 0); steps entered is its minimum with the length -/
  clk     : Nat
  started : Bool
  /-- its step 0 fell due right behind the operation before (R105) -/
  behind  : Bool
  /-- its END has set its bank's state (R114) -/
  filed   : Bool := false
  /-- clocks of it whose work the accumulator words hold (R130) -/
  base    : Nat := 0
  deriving DecidableEq, Repr

/-- A region queued for the ferry (R126): lagoon ranges left to send, tag, number. -/
structure FerryOut where
  ranges : List (Nat × Nat)
  tag    : Nat
  fnum   : Nat
  deriving DecidableEq, Repr

structure ArrSt where
  /-- array clocks, and those of them in which the array moved (R104) -/
  time     : Nat := 0
  adv      : Nat := 0
  /-- failed physical islet columns of the map in force (R123) -/
  fails    : List Nat := []
  /-- accumulator words: key bank × 2^20 + row × 1,024 + column (R111) -/
  acc      : SMap Word32 := []
  bank0    : BankSt := ⟨.free, 1024, 1024, [], none⟩
  bank1    : BankSt := ⟨.free, 1024, 1024, [], none⟩
  queue    : List ArrOp := []
  /-- field test armed, running (R124) -/
  testArm  : Bool := false
  testRun  : Bool := false
  /-- physical islet columns the self-test or the field test found, in flash (R123, R124) -/
  badCols  : List Nat := []
  ferryOut : List FerryOut := []
  starveNow : Nat := 0
  drainNow : Nat := 0
  stepsNow : Nat := 0
  qmin     : Nat := 128
  /-- array clocks left of the replay of a resumed slice's fill (R130) -/
  replay   : Nat := 0
  /-- slabs filled by the row and the column cove in the running tide (R239) -/
  fillNow  : Nat := 0
  deriving DecidableEq, Repr

/-! ### The vector engine (08_vector.md) -/

/-- A table pair held in a slot (R199). -/
structure TabSt where
  lo    : Word32
  w     : Int
  modes : Nat
  fEdge : List Word32
  dEdge : List Word32
  fSeg  : List Word32
  dSeg  : List Word32
  deriving DecidableEq, Repr

/-- A cached stream record (R206): index, the 32 bytes as a number. -/
structure GcgRec where
  k    : Nat
  word : Nat
  deriving DecidableEq, Repr

/-- A cached Q-descriptor (R177): address, its 128 bytes as a number, whether it differs from memory, and the tide
AWAIT was set in. -/
structure QCache where
  addr  : Nat
  word  : Nat
  dirty : Bool
  await : Nat
  deriving DecidableEq, Repr

structure VecSt where
  /-- vector register words: key register × 4,096 + word (R183) -/
  v       : SMap Word32 := []
  xa      : SMap XaSt := []
  /-- table pairs: slot ↦ pair -/
  tab     : SMap (Option TabSt) := []
  gcg     : List GcgRec := []
  qcache  : List QCache := []
  /-- clocks each pipe issued and the drain pipe waited in the running tide, and those still to come: of the drain pipe in
  order, waiting (true) or issuing (R185, R189, R468) -/
  mainNow : Nat := 0
  drainNow : Nat := 0
  dwaitNow : Nat := 0
  mainOwed : Nat := 0
  drainOwed : List (Bool × Nat) := []
  /-- a VDRAIN that waits at a LIVE group: the operation, its first group, groups it has read (R117) -/
  drained : Option (DrainOp × Nat × Nat) := none
  deriving DecidableEq, Repr

/-! ### Lagoon, streams, translation (12_streams.md) -/

/-- A stream of the engine (R282-R288). -/
structure StreamSt where
  slot   : Nat
  ctr    : Nat
  detach : Bool
  /-- descriptor address and its 128 bytes as a number -/
  addr   : Nat
  desc   : Nat
  /-- why the descriptor could not be taken: fault kind and address -/
  bad    : Option (Nat × Nat)
  /-- waits for NOT_BEFORE -/
  waits  : Bool
  /-- element index of the cursor -/
  cursor : Nat
  /-- stopped by a fault: its kind, address and whether it was a write; recorded in a fault record (R296) -/
  fault  : Option (Nat × Nat × Bool)
  recorded : Bool
  /-- payload gathered for a Sound context (R282) -/
  out    : List Byte
  /-- completed, waiting for earlier streams of its counter (R284) -/
  done   : Bool
  /-- pending lagoon lines it still marks (R287) -/
  lines  : List Nat
  /-- counts and maximum of a detached converting stream (R286) -/
  delta  : Option QDelta
  deriving DecidableEq, Repr

/-- State of a fault record (R296-R300). -/
inductive FltState where
  | free | waitSelf | waitHost | resumed | aborted | cancelled
  deriving DecidableEq, Repr

structure FltRec where
  state  : FltState
  kind   : Nat
  write  : Bool
  detach : Bool
  ctr    : Nat
  stream : Nat
  va     : Nat
  i0     : Nat
  i1     : Nat
  i2     : Nat
  i3     : Nat
  i4     : Nat
  tide   : Nat
  deriving DecidableEq, Repr

def FltRec.none : FltRec := ⟨.free, 0, false, false, 0, 0, 0, 0, 0, 0, 0, 0, 0⟩

/-- An edit being written, as the check at apply read it (R295): VA word, PA word, level-2 and level-3 tables. -/
structure EditRec where
  va : Nat
  pa : Nat
  t2 : Nat
  t3 : Nat
  deriving DecidableEq, Repr

structure StrmSt where
  /-- lagoon bytes (R278) -/
  lag      : SMap Byte := []
  /-- lagoon words with a double-bit error (R281) -/
  lagBad   : List Nat := []
  /-- lagoon words with a single-bit error (R281) -/
  lagOne   : List Nat := []
  streams  : List StreamSt := []
  flt      : SMap FltRec := []
  /-- skiff writes held: atom, byte offset, byte (R292) -/
  merge    : List (Nat × List (Nat × Byte)) := []
  /-- cached leaves and pointers, most recent first (R294): level, index of that level, entry -/
  tlb      : List (Nat × Nat × Nat) := []
  /-- lagoon ranges for whose pending lines a consumer waits (R287) -/
  flowWait : List (Nat × Nat) := []
  flowNow  : Nat := 0
  lendNow  : Nat := 0
  deriving DecidableEq, Repr

/-! ### Shoal memory (11_shoal_memory.md) -/

/-- State of a channel (R262-R269). -/
inductive ChState where
  | ok | retrain | ebb | mapped
  deriving DecidableEq, Repr

/-- A memory request of the harbour, while it waits for a channel, for room on its link or for the end of a stop (R87,
R263, R377): the core that sent it, tag, harbour address, length, bytes to write. `bell` is set for a doorbell that waits
for that core's earlier writes: its word of the aperture and its tail (R88). -/
structure MemReq where
  core  : Nat
  tag   : Nat
  write : Bool
  addr  : Nat
  len   : Nat
  data  : List Byte
  bell  : Option (Nat × Nat) := none
  deriving DecidableEq, Repr

/-- Who is told of a request that was held: the requester of an atom, the harbour for the memory request it is part of,
or no one outside the module. -/
inductive HeldFor where
  | atom | harbour (r : MemReq) | module
  deriving DecidableEq, Repr

/-- A request that waits in a channel's hold, or for room in it at its requester (R263). -/
structure HeldReq where
  write : Bool
  addr  : Nat
  data  : List Byte
  noise : BurstNoise
  who   : HeldFor := .atom
  deriving DecidableEq, Repr

/-- A channel (R262-R270). -/
structure ChSt where
  state     : ChState
  half      : Bool
  /-- unreadable: its reads return poisoned -/
  lost      : Bool
  /-- the pin the spare replaces -/
  spare     : Option Nat
  /-- failing, waiting for its migration (R266) -/
  failing   : Bool
  /-- slacks that had passed at its last training -/
  trained   : Nat
  urgent    : Bool
  requested : Bool
  /-- RETRAIN_NEED raised and not yet answered -/
  needRaised : Bool
  /-- requests that wait for the channel, and for a bank whose row is being copied (R263, R264, R270) -/
  hold      : List HeldReq
  /-- rows remapped; by bank, spares used or bad -/
  rows      : Nat
  spares    : SMap Nat
  /-- remapped rows: key bank × 4,096 + row ↦ spare -/
  remap     : SMap Nat
  /-- corrected reads tracked: row key ↦ slack counts of the corrected reads (R270), at most 64 rows -/
  tracked   : List (Nat × List Nat)
  /-- row copies under way: row keys -/
  copying   : List Nat
  deriving DecidableEq, Repr

def ChSt.ok : ChSt := ⟨.ok, false, false, none, false, 0, false, false, false, [], 0, [], [], [], []⟩

/-- A map-out made (R267): channel, source lost, hosts of runs 0, 1, …. -/
structure MapOut where
  chan  : Nat
  lost  : Bool
  hosts : List Nat
  deriving DecidableEq, Repr

/-- A migration under way (R268). -/
structure EbbSt where
  chan    : Nat
  lost    : Bool
  cursor  : Nat
  hosts   : List Nat
  written : List Nat
  /-- copies left in this tide -/
  left    : Nat
  /-- all granules copied; waits to become MAPPED -/
  done    : Bool
  deriving DecidableEq, Repr

structure McSt where
  chans   : SMap ChSt := []
  maps    : List MapOut := []
  ebb     : Option EbbSt := none
  /-- open window: channel -/
  window  : Option Nat := none
  /-- scrub cursor: channel-local atom (R261) -/
  scrub   : SMap Nat := []
  retired : List Nat := []
  /-- pages marked for retirement, oldest first, with the tide (R271) -/
  pend    : List (Nat × Nat) := []
  /-- reference cycles of the running tide with a non-empty hold; the highest occupancy of a hold in it -/
  holdNow : Nat := 0
  holdMax : Nat := 0
  /-- channels to migrate next, in order -/
  waiting : List Nat := []
  /-- a migration ended at this slack: the next begins at the one after (R269) -/
  ended   : Bool := false
  /-- wheel position of each channel (R289) -/
  wheel   : SMap Nat := []
  /-- reference cycle of each channel's last scrub read (R261) -/
  scrubAt : SMap Nat := []
  deriving DecidableEq, Repr

/-! ### Reductions (15_reductions.md) -/

/-- A step of a reduction at a rank, from its REDUCE until its counter is raised (R360-R369). -/
structure RedStep where
  step     : Nat
  anchor   : Nat
  deadline : Nat
  /-- message counter raised under R369 -/
  ctr      : Nat
  /-- ranks whose contribution has landed, each with the tide it landed in -/
  landed   : List (Nat × Nat)
  /-- its close is held for the harbour, since that tide; closes at the next slack, which begins that tide -/
  held     : Option Nat
  closeAt  : Option Nat
  closed   : Bool
  /-- owners whose count record landed or was written MISSING -/
  counts   : List Nat
  deriving DecidableEq, Repr

/-- A cached reduction descriptor (R359): address, its 128 bytes as a number, its steps, the contributions that landed
for steps not opened yet (step, rank, tide), and those of the last closed step that completed late (R364). -/
structure RedSt where
  addr    : Nat
  word    : Nat
  steps   : List RedStep
  early   : List (Nat × Nat × Nat)
  late    : List Nat
  /-- ranks that were on time at the last close -/
  prev    : List Nat
  deriving DecidableEq, Repr

/-- A transfer that landed where no cached descriptor has its region yet: offset, length, USER, tide. -/
structure Unclaimed where
  roff : Nat
  len  : Nat
  user : Nat
  tide : Nat
  deriving DecidableEq, Repr

structure StepSt where
  /-- descriptor cache: slot ↦ descriptor -/
  red       : SMap (Option RedSt) := []
  /-- slots by use, most recent first -/
  order     : List Nat := []
  /-- REDUCEs waiting for a step to close (R360): message counter, descriptor -/
  waiting   : List (Nat × Nat) := []
  unclaimed : List Unclaimed := []
  deriving DecidableEq, Repr

/-! ### An atoll -/

/-- Power-control state of an atoll (17_power.md). -/
structure AtlPwr where
  /-- pending SWELLs: tide, phase tag, level (R400) -/
  swells  : List (Nat × Nat × Nat) := []
  /-- energy estimates (R399): tag, FP32 code in pJ per clock, samples; most recently updated first -/
  est     : List (Nat × Nat × Nat) := []
  /-- slices that passed their fit test in the tide: tag, budget (R398, R401) -/
  passed  : List (Nat × Nat) := []
  /-- samples of slices that ended in the tide: tag, clocks, point they ran at (R399) -/
  phases  : List (Nat × Nat × Nat) := []
  /-- array clocks that had passed at the last slack, and cycles of the tide an entry of each queue ran in (R395) -/
  clk0    : Nat := 0
  ran     : SMap Nat := []
  /-- demand of the predicted phases at the top point and allocation of the tide, W (R398) -/
  base    : Q := ⟨0, 1⟩
  alloc   : Q := ⟨0, 1⟩
  /-- points that THERM (3) and VIN_LOW (5) hold the atoll to, over slacks (R403, R408) -/
  reasons : List (Nat × Nat) := []
  droop   : Bool := false
  /-- point the clock runs at: the lower of the old and the new setpoint until a change is complete (R397) -/
  runPt   : Nat := 14
  deriving DecidableEq, Repr

structure AtollSt where
  seq  : SeqSt := {}
  arr  : ArrSt := {}
  vec  : VecSt := {}
  strm : StrmSt := {}
  mc   : McSt := {}
  step : StepSt := {}
  pwr  : AtlPwr := {}
  /-- completion records waiting for the ring (R96), each as 60 bytes -/
  hold : List (List Byte) := []
  /-- attachment link retrain failures (R89) -/
  attach : Nat := 0
  /-- a retraining of the attachment link that is down is tried since the last slack (R89) -/
  retry  : Bool := false
  /-- causeway module retrain failures, four modules (R311) -/
  links : List Nat := [0, 0, 0, 0]
  deriving DecidableEq, Repr

/-! ### Ports and Sound (13_ports.md, 14_sound_transport.md) -/

/-- A direction of a strait lane (R321). -/
inductive LaneState where
  | off | active | standby | excluded
  deriving DecidableEq, Repr

/-- The far end of a lane's pair: the module by its serial, its port and lane (R314). -/
structure FarEnd where
  serial : Nat
  port   : Nat
  lane   : Nat
  deriving DecidableEq, Repr

/-- A lane of a B port (R312-R322); each direction is discovered on its own. -/
structure LaneSt where
  rx       : LaneState
  tx       : LaneState
  cause    : Nat
  pol      : Bool
  /-- the transmitter heard on the receiver, and the receiver at which the transmitter lands (R314) -/
  rxFrom   : Option FarEnd
  txTo     : Option FarEnd
  /-- CRC failures in this tide and in the last; consecutive tides above the threshold -/
  crc      : Nat
  crcLast  : Nat
  bad      : Nat
  /-- excluded: a retraining was asked for; a direction passed, and rejoins at the next slack -/
  asked    : Bool
  rxBack   : Bool
  txBack   : Bool
  /-- tide of its exclusion or of its last retraining (R322) -/
  since    : Nat
  deriving DecidableEq, Repr

def LaneSt.off : LaneSt := ⟨.off, .off, 0, false, .none, .none, 0, 0, 0, false, false, false, 0⟩

/-- State of a bundle to a peer (R314). -/
inductive BundleState where
  | none | up | late | down
  deriving DecidableEq, Repr

/-- A bundle to a peer on a B port (R313-R316). -/
structure BundleSt where
  state    : BundleState := .none
  /-- slot the peer reports, 16 none (R314, R316, R317) -/
  slot     : Nat := 16
  /-- widths in force since the last slack (R321) -/
  txw      : Nat := 0
  rxw      : Nat := 0
  /-- link delay in reference cycles, if measured (R314) -/
  delay    : Option Nat := Option.none
  /-- to be retrained (R313, R322), as the harbour asked -/
  retrain  : Bool := false
  asked    : Bool := false
  /-- next SEQ to send, next expected -/
  seqTx    : Nat := 0
  seqRx    : Nat := 0
  /-- sequenced flits not acknowledged, by SEQ, and those that wait for room among the 256 -/
  unacked  : List (Nat × Flit) := []
  queue    : List Flit := []
  /-- resends in a row without ACK advancing, and the reference cycle from which the next timeout runs -/
  resends  : Nat := 0
  ackAt    : Nat := 0
  /-- body bytes of a packet partly received -/
  asm      : List Byte := []
  /-- flits sent so far, which the active lanes take in turn -/
  turn     : Nat := 0
  /-- tide count and quantum of the last mark received (R318) -/
  marked   : Option (Nat × Nat) := Option.none
  deriving DecidableEq, Repr

/-- No bundle. -/
def BundleSt.none : BundleSt := {}

/-- A message of a context, from its issue to its completion (R336-R338). -/
structure SoundMsg where
  msg     : Nat
  /-- issuing atoll and message counter; whether it raises one -/
  atoll   : Nat
  ctr     : Nat
  counted : Bool
  /-- its source: a lagoon or a device virtual address of the issuing atoll, or the bytes themselves -/
  lag     : Bool
  src     : Nat
  body    : Option (List Byte)
  len     : Nat
  roff    : Nat
  user    : Nat
  /-- bytes departed -/
  sent    : Nat
  /-- a catch-up serve: the member it goes to (R349) -/
  dst     : Option Nat
  /-- the tracker entry it holds (R336) -/
  entry   : Option Nat := none
  /-- PSN and tide of its first departure, and how often it was resent (R336) -/
  firstPsn : Nat := 0
  tide    : Nat := 0
  retries : Nat := 0
  /-- completed, or failed -/
  ended   : Option Bool
  /-- PSN of its last packet, once departed -/
  lastPsn : Nat := 0
  deriving DecidableEq, Repr

/-- The message holds a tracker entry. -/
def SoundMsg.tracked (m : SoundMsg) : Bool := m.entry.isSome

/-- A group member in catch-up (R349), at its source: member key, first message it lacks, the first message no server
has been asked for, candidates asked. -/
structure CatchSt where
  key     : Nat
  missing : Nat
  upto    : Nat
  tried   : List Nat
  deriving DecidableEq, Repr

/-- A packet sent and not acknowledged (R346). -/
structure SentPkt where
  psn  : Nat
  msg  : Nat
  off  : Nat
  len  : Nat
  tide : Nat
  deriving DecidableEq, Repr

/-- What the module keeps of a context beside its 128 bytes (R338-R349). -/
structure CtxRun where
  /-- messages in the order issued -/
  queue   : List SoundMsg := []
  unacked : List SentPkt := []
  /-- reference cycle from which its retransmission timeout runs (R346) -/
  ackAt   : Nat := 0
  /-- credits granted to the peer in all, and those granted and not returned, in 256-byte units (R340) -/
  granted : Nat := 0
  held    : Nat := 0
  /-- packets in staging, oldest first, in 256-byte units -/
  staged  : List Nat := []
  /-- message partly received: offset of its first byte, bytes so far -/
  rxRoff  : Nat := 0
  rxLen   : Nat := 0
  /-- tides its credit has lain unspent; a packet departed in this tide -/
  idle    : Nat := 0
  busy    : Bool := false
  /-- reference cycle since which its next packet has waited for credit -/
  waitFrom : Option Nat := none
  /-- CONNECT is sent again at this tide (R350) -/
  retryAt : Option Nat := none
  /-- group source: last PSN acknowledged and credits granted by member; members in catch-up -/
  acks    : SMap Nat := []
  grants  : SMap Nat := []
  catchup : List CatchSt := []
  /-- messages settled that a member in catch-up may still lack -/
  kept    : List SoundMsg := []
  deriving DecidableEq, Repr

/-- A context of which the module keeps nothing. -/
def CtxRun.none : CtxRun := {}

/-- A CONNECT that waits for the harbour (R351). -/
structure Admission where
  port : PortIx
  hdr  : SoundHdr
  offboard : Bool
  ip   : Nat
  tide : Nat
  deriving DecidableEq, Repr

structure PortSt where
  lanes   : SMap LaneSt := []
  /-- bundles by the serial of the peer's module -/
  bundles : SMap BundleSt := []
  /-- tide of the next LLDP frame (R326) -/
  lldpAt  : Nat := 0
  /-- credit held by RED contexts, 256-byte units (R341) -/
  usedRed : Nat := 0
  /-- deficits of sending and of draining: context ↦ bytes (R342) -/
  drr     : SMap Nat := []
  drrIn   : SMap Nat := []
  /-- bytes sent, and drained, while RED contexts waited: RED, others (R342) -/
  shareTx : Nat × Nat := (0, 0)
  shareRx : Nat × Nat := (0, 0)
  /-- full and other tides in a row (R344) -/
  fullRun : Nat := 0
  lightRun : Nat := 0
  /-- occupancy summed over the tide's reference cycles, and those cycles (R344) -/
  occSum  : Q := ⟨0, 1⟩
  occCyc  : Nat := 0
  deriving DecidableEq, Repr

structure SoundSt where
  run      : SMap CtxRun := []
  /-- tracker entries in use (R336) -/
  trk      : List Nat := []
  /-- contexts cached, most recent first: number, its 128 bytes as a number (R334) -/
  cache    : List (Nat × Nat) := []
  /-- CONNECTs waiting for the harbour, oldest first (R351) -/
  admissions : List Admission := []
  /-- admissions in this tide -/
  admitted : Nat := 0
  /-- payloads accepted during a snapshot stop, which land when it ends (R377): context, header, bytes, USER -/
  later    : List (Nat × SoundHdr × List Byte × Nat) := []
  deriving DecidableEq, Repr

/-! ### Checkpoints, power, heat, wear, reset, trust -/

/-- A stop under way (R376-R378): the reference cycle it began at, its length so far known, P_max. -/
structure StopSt where
  begun : Nat
  len   : Nat
  pmax  : Nat
  deriving DecidableEq, Repr

/-- A piece of protected state as a manifest record names it (R375): atoll whose share holds it, VA, length, offset in
the share, TENSOR, COMPARE, fold digest. -/
structure Piece where
  share  : Nat
  va     : Nat
  len    : Nat
  off    : Nat
  tensor : Nat
  cmp    : Bool
  digest : Nat
  deriving DecidableEq, Repr

/-- A restore (R385-R387): source layer, flash slot, ID, stream-record pieces loaded, pieces waiting for the replica,
mismatches held for the harbour, oldest first, and whether the realignment is held. -/
structure RestoreSt where
  src     : Nat
  slot    : Nat
  id      : Nat
  streams : List Piece
  waiting : List Piece
  held    : List (Piece × ReplicaInfo)
  realign : Bool
  deriving DecidableEq, Repr

structure CkptSt where
  stop     : Option StopSt := none
  restore  : Option RestoreSt := none
  /-- the partner of this checkpoint, if chosen; the harbour is to name it (R383); PARTNER is to start once it has -/
  partner  : Option Nat := none
  needs    : Bool := false
  asked    : Bool := false
  /-- flash slot being written; the store's bytes are all written (R381) -/
  fslot    : Option Nat := none
  stored   : Bool := false
  /-- flash slots: VALID, WRITING, READING, ID (R391) -/
  flash    : SMap (Bool × Bool × Bool × Nat) := []
  /-- bytes of flash slots, of the store window and of the copy the partner holds: key atoll × 2^38 + offset -/
  flashMem : SMap (SMap Byte) := []
  storeMem : SMap Byte := []
  partMem  : SMap Byte := []
  /-- IDs the partner and the store hold -/
  partId   : Option Nat := none
  storeId  : Option Nat := none
  /-- atolls whose shares read back good at the last bring-up (R385) -/
  good     : List Nat := []
  /-- slot whose copy the partner shares hold (R380) -/
  keeps    : Option Nat := none
  deriving DecidableEq, Repr

structure PwrSt where
  /-- no slack has come since READY (R398) -/
  first    : Bool := true
  /-- tide of the harbour's last beat, and whether its timeout has passed since (R416) -/
  beat     : Nat := 0
  expired  : Bool := false
  /-- reasons whose episode is under way, and those that bound in this tide (R406) -/
  episodes : List Nat := []
  bound    : List Nat := []
  /-- stacks above STACK_THR (R409) -/
  hot      : List Nat := []
  deriving DecidableEq, Repr

structure AgeSt where
  /-- plan voltages in force, mV, key atoll × 16 + point; 0 is a withdrawn point (R396) -/
  v        : SMap Nat := []
  /-- a reading asked for, and one under way (R412) -/
  asked    : Bool := false
  reading  : Bool := false
  /-- a plan due: guards of the atolls, of the other dies (R413, R417); the guards whose points are still to be withdrawn,
  which a DEFER does not take back -/
  pending  : Option (List Nat × List Nat) := none
  withdraw : Option (List Nat) := none
  /-- history count in flash (R412), and drifts the other dies' guards were made for -/
  hist     : Nat := 0
  dieWas   : SMap Nat := []
  deriving DecidableEq, Repr

/-- A firmware component held in flash (R434, R435): version, key used, measurement, valid. -/
structure ImageSt where
  version : Nat
  key     : Nat
  meas    : Nat
  valid   : Bool
  deriving DecidableEq, Repr

structure RstSt where
  /-- input good; module reset asserted -/
  power    : Bool := true
  asserted : Bool := false
  /-- BRD_RESET_N low, samples so far -/
  brdLow   : Bool := false
  /-- reference cycles since release (R433) -/
  since    : Nat := 0
  /-- watchdog armed, reference cycle of its last kick, runs -/
  wdog     : Bool := false
  kick     : Nat := 0
  /-- mark points since tide 0 (R433) -/
  marks    : Nat := 0
  /-- component a recovery waits for -/
  need     : Nat := 0
  images   : SMap ImageSt := []
  /-- images loaded at bring-up (R437) -/
  loaded   : SMap ImageSt := []
  /-- image being received over I3C: bytes so far -/
  recv     : Option (List Byte) := none
  /-- REC_SRC and REC_LEN of the BAR0 mailbox (R436) -/
  recSrc   : Word64 := 0
  recLen   : Word32 := 0
  /-- update stored, to be loaded at the next reset (R437) -/
  pending  : List Nat := []
  /-- SEC window bytes (R439) -/
  window   : List Byte := []
  /-- nonce of the quote being made -/
  nonce    : List Byte := []
  /-- I3C register offset (R441) -/
  i3cOff   : Nat := 0
  /-- atolls to take out of service at the next module reset (R26, R27) -/
  losing   : List (Nat × Nat) := []
  /-- pages under soft reset (R429) -/
  srst     : List Nat := []
  alert    : Bool := false
  deriving DecidableEq, Repr

/-! ### The module -/

structure State where
  /-- commands waiting, first in, first out -/
  pending    : List Instr := []
  /-- what the module sent out, oldest first -/
  sent       : List Msg := []
  /-- counter of the free values taken (log 3: DESIGN CHOICE, unsafe) -/
  freshCount : Nat := 0
  /-- reference cycles since input good -/
  now        : Nat := 0
  /-- registers that differ from their reset value: window offset ↦ value (R58) -/
  regs       : SMap Word64 := []
  /-- staged writes accepted since the page was bound: window offset ↦ value (R71) -/
  staged     : SMap Word64 := []
  /-- slow-clock edges so far, modulo 65,536 (R68) -/
  slowEdges  : Nat := 0
  /-- pages with an interrupt pending (R98) -/
  irqPend    : List Nat := []
  /-- memory requests of the harbour that wait, in arrival order -/
  memWait    : List MemReq := []
  waits      : List HostWait := []
  selfActs   : List SelfWait := []
  tickets    : Vector TicketSt 4 := Vector.replicate 4 TicketSt.none
  tide       : TideSt := {}
  atolls     : Vector AtollSt 8 := Vector.replicate 8 {}
  ports      : Vector PortSt 6 := Vector.replicate 6 {}
  sound      : SoundSt := {}
  /-- stack bytes by place: (atoll × 768 + channel) × 2^28 + channel-local offset (R252, R255) -/
  mem        : SMap Byte := []
  /-- poisoned atoms, by place / 128 (R259) -/
  poison     : SMap Bool := []
  ckpt       : CkptSt := {}
  pwr        : PwrSt := {}
  age        : AgeSt := {}
  rst        : RstSt := {}
  deriving DecidableEq, Repr

/-- The module right after a power-on reset (R11, R422, R428): every register at its reset value, every engine idle and
empty, no command waiting (log 4: DESIGN CHOICE, unsafe) (log 98: DESIGN CHOICE, safe). -/
def State.reset : State := {}

end Sys2Proof.Machine
end

