-- ==== Sys2Proof/Machine/Ops.lean ====
section
/-! DEFINITION. The named operations over the register window and the events of its pages: one home for every read
and write of a register or field, raising an event (R63), delivering it (R98), and the waits of functions in host
mode (R449-R452). -/

namespace Sys2Proof.Machine

open Host (Outcome)

/-! ### Registers and fields -/

/-- The value the register at window offset `a` holds. -/
def State.rd (s : State) (a : Nat) : Nat := (SMap.get resetWord s.regs a).toNat

/-- `s` with the register at window offset `a` holding `v`. -/
def State.wr (s : State) (a v : Nat) : State :=
  { s with regs := SMap.put resetWord s.regs a (BitVec.ofNat 64 v) }

/-- A field's value. -/
def State.fld (s : State) (f : Fld) : Nat := bits (s.rd f.reg) f.hi f.lo

/-- `s` with field `f` holding `v`, cut to the field's width. -/
def State.setFld (s : State) (f : Fld) (v : Nat) : State := s.wr f.reg (withBits (s.rd f.reg) f.hi f.lo v)

/-- A counter field risen by `n`, saturating at its width. -/
def State.bump (s : State) (f : Fld) (n : Nat := 1) : State := s.setFld f (satAdd (f.hi + 1 - f.lo) (s.fld f) n)

/-- A one-bit field as a truth value. -/
def State.flag (s : State) (f : Fld) : Bool := s.fld f == 1

/-- `s` after sending `m` out of the module. -/
def State.emit (s : State) (m : Msg) : State := { s with sent := s.sent ++ [m] }

/-- `s` after sending each of `ms`. -/
def State.emits (s : State) (ms : List Msg) : State := { s with sent := s.sent ++ ms }

/-- Atoll `k`. -/
def State.atl (s : State) (k : Atoll) : AtollSt := s.atolls[k]

/-- `s` with atoll `k` changed by `f`. -/
def State.onAtl (s : State) (k : Atoll) (f : AtollSt → AtollSt) : State :=
  { s with atolls := s.atolls.set k (f s.atolls[k]) }

/-- `s` with the sequencer, the array, the vector engine, the stream engine, the memory controller, the step engine
or the power state of atoll `k` changed. -/
def State.onSeq (s : State) (k : Atoll) (f : SeqSt → SeqSt) : State := s.onAtl k fun a => { a with seq := f a.seq }
def State.onArr (s : State) (k : Atoll) (f : ArrSt → ArrSt) : State := s.onAtl k fun a => { a with arr := f a.arr }
def State.onVec (s : State) (k : Atoll) (f : VecSt → VecSt) : State := s.onAtl k fun a => { a with vec := f a.vec }
def State.onStrm (s : State) (k : Atoll) (f : StrmSt → StrmSt) : State := s.onAtl k fun a => { a with strm := f a.strm }
def State.onMc (s : State) (k : Atoll) (f : McSt → McSt) : State := s.onAtl k fun a => { a with mc := f a.mc }
def State.onStep (s : State) (k : Atoll) (f : StepSt → StepSt) : State := s.onAtl k fun a => { a with step := f a.step }
def State.onPwr (s : State) (k : Atoll) (f : AtlPwr → AtlPwr) : State := s.onAtl k fun a => { a with pwr := f a.pwr }

/-- Port die `p`. -/
def State.port (s : State) (p : PortIx) : PortSt := s.ports[p]

/-- `s` with port die `p` changed by `f`. -/
def State.onPort (s : State) (p : PortIx) (f : PortSt → PortSt) : State :=
  { s with ports := s.ports.set p (f s.ports[p]) }

/-- `s` with ticket `t` changed by `f`. -/
def State.onTicket (s : State) (t : Ticket) (f : TicketSt → TicketSt) : State :=
  { s with tickets := s.tickets.set t (f s.tickets[t]) }

/-- `s` with the tide's state changed by `f`. -/
def State.onTide (s : State) (f : TideSt → TideSt) : State := { s with tide := f s.tide }

/-- Apply `f` for each element of a list in turn. -/
def State.each {α : Type} (s : State) (l : List α) (f : State → α → State) : State := l.foldl f s

/-- The eight atolls in ascending number. -/
def allAtolls : List Atoll := [0, 1, 2, 3, 4, 5, 6, 7]

/-- The six port dies in directory order. -/
def allPorts : List PortIx := [0, 1, 2, 3, 4, 5]

/-- The two strait ports. -/
def bPorts : List PortIx := [0, 1]

/-- Atoll `k` is in service (HOLM_ATOLLS). -/
def State.inService (s : State) (k : Nat) : Bool := (s.fld F.HOLM_ATOLLS_IN_SERVICE).testBit k

/-- The atolls in service, ascending. -/
def State.serving (s : State) : List Atoll := allAtolls.filter fun k => s.inService k

/-- The lowest atoll in service, whose translator serves the tables of the module's single pages (log 66: DESIGN CHOICE,
unsafe). -/
def State.hub (s : State) : Atoll := s.serving.headD 0

/-- The page's atoll, or the atoll of its stack, is out of service (R61). -/
def State.pageLost (s : State) (c i : Nat) : Bool :=
  (0x10 ≤ c && c ≤ 0x1B && !s.inService i) || (c == 0x20 && !s.inService (i / 6))

/-- A truth value as a bit. -/
def bit (b : Bool) : Nat := if b then 1 else 0

/-- The current tide count (R31). -/
def State.tideNo (s : State) : Nat := s.fld F.TIDE_COUNT_COUNT

/-- The module is READY (HOLM_STATE 1). -/
def State.ready (s : State) : Bool := s.fld F.HOLM_STATE_STATE == 1

/-- The module has a board slot: its strap gave a code, or the harbour assigned one (R431, R432). -/
def State.hasSlot (s : State) : Bool := s.fld F.HOLM_SLOT_READING == 0 || s.flag F.HOLM_SLOT_ASSIGNED

/-- Present peers by slot, the module's own left out (R50); none for a module without a slot, which takes no part in a
board (R432). -/
def State.boardPeers (s : State) : List Nat :=
  if s.hasSlot then
    (List.range 16).filter fun i => (s.fld F.HOLM_BOARD_PRESENT).testBit i && i != s.fld F.HOLM_SLOT_SLOT
  else []

/-- Take a free value: the counter it is drawn from, and `s` with the counter moved on (log 3: DESIGN CHOICE, unsafe).
-/
def State.fresh (s : State) : Nat × State := (s.freshCount, { s with freshCount := s.freshCount + 1 })

/-! ### Events (R63-R65, R98) -/

/-- Send the page's event message if no interrupt is pending on it (R98). -/
def State.deliver (s : State) (c i : Nat) : State :=
  let p := pageIx c i
  if p ∈ s.irqPend then s
  else
    { s with irqPend := p :: s.irqPend }.emit
      (.irq p (s.fld F.HBR_IRQ_ROUTE_HART) (s.fld F.HBR_IRQ_ROUTE_BASE + p) (s.fld (F.PG_EVT_SEQ_SEQ (pageBase c i))))

/-- Count an event on the page and record its tide (R63). -/
def State.countEvent (s : State) (c i : Nat) : State :=
  let p := pageBase c i
  let q := s.fld (F.PG_EVT_SEQ_SEQ p)
  let s := s.setFld (F.PG_EVT_SEQ_SEQ p) (if q = 0xFFFFFFFF then 1 else q + 1)
  let s := s.setFld (F.PG_EVT_TIDE_LO_TIDE_LO p) (s.tideNo % 2 ^ 32)
  s.setFld (F.PG_EVT_TIDE_HI_TIDE_HI p) (s.tideNo / 2 ^ 32)

/-- Raise the event of cause bit `b` on instance `i` of class `c`: count it, set its cause bit, deliver it unless
masked (R63, R65, R98). -/
def State.raise (s : State) (c i b : Nat) : State :=
  let p := pageBase c i
  let s := s.countEvent c i
  let cause := s.fld (F.PG_EVT_CAUSE_CAUSE p)
  let s := s.setFld (F.PG_EVT_CAUSE_CAUSE p) (cause ||| 2 ^ b)
  if (s.fld (F.PG_EVT_MASK_MASK p)).testBit b then s else s.deliver c i

/-- Raise a header event of R63: set sticky field `f`, count and deliver it; it has no mask bit (R65). -/
def State.raiseHdr (s : State) (c i : Nat) (f : Fld) : State :=
  let s := s.countEvent c i
  (s.setFld f 1).deliver c i

/-- Raise an event where `b` holds. -/
def State.raiseIf (s : State) (b : Bool) (c i bit : Nat) : State := if b then s.raise c i bit else s

/-! ### Host mode (R449-R452) -/

/-- HOST bit `b` of instance `i` of class `c` is set. -/
def State.hosted (s : State) (c i b : Nat) : Bool := (s.fld (F.PG_MODE_SPLIT_HOST (pageBase c i))).testBit b

/-- An event of a host-mode function begins to wait for the harbour (R452). -/
def State.awaitHost (s : State) (c i b what : Nat) : State :=
  { s with waits := s.waits ++ [⟨pageIx c i, b, what, s.tideNo⟩] }

/-- The event of `(page, bit, what)` no longer waits. -/
def State.answered (s : State) (c i b what : Nat) : State :=
  { s with waits := s.waits.filter fun w => !(w.page == pageIx c i && w.bit == b && w.what == what) }

/-- The event of `(page, bit, what)` waits for the harbour. -/
def State.awaits (s : State) (c i b what : Nat) : Bool :=
  s.waits.any fun w => w.page == pageIx c i && w.bit == b && w.what == what

/-- Set FELL bit of HOST bit `b` and raise the header event (R63, R452). -/
def State.fell (s : State) (c i b : Nat) : State :=
  let f := F.PG_MODE_SPLIT_FELL (pageBase c i)
  let v := s.fld f
  let s := s.countEvent c i
  (s.setFld f (v ||| 2 ^ b)).deliver c i

/-! ### Tables of a page -/

/-- Staged values of a page discarded, so that staged copies equal live (R71). -/
def State.unstage (s : State) (c i : Nat) : State :=
  { s with staged := s.staged.filter fun e => decide (e.1 / 0x1000 * 0x1000 ≠ pageBase c i) }

/-- Field of `n` bytes at byte `b` of a record held as a number. -/
def byteFld (w b n : Nat) : Nat := bits w (8 * (b + n) - 1) (8 * b)

/-- The record with that field set. -/
def setByteFld (w b n x : Nat) : Nat := withBits w (8 * (b + n) - 1) (8 * b) x

end Sys2Proof.Machine
end

