-- ==== Sys2Proof/Machine/Alerts.lean ====
section
/-! DEFINITION. ALERT_N and its causes (18_bringup.md R442, R445), and HOLM_STATE, whose changes are events and alerts
(03_control_pages.md R82). -/

namespace Sys2Proof.Machine

/-- A set cause is unmasked: ALERT_N is low (R442). -/
def State.alertLow (s : State) : Bool :=
  s.rd R.MGMT_ALERT_CAUSE &&& (0xFFFFFFFF ^^^ (s.rd R.MGMT_ALERT_MASK % 2 ^ 32)) != 0

/-- ALERT_N follows its causes; its assertion raises ALERT (R442, R445). -/
def State.alertPin (s : State) : State :=
  let low := s.alertLow
  if low = s.rst.alert then s
  else
    let s := { s with rst := { s.rst with alert := low } }.emit (.alert low)
    s.raiseIf low 0x0A 0 2

/-- Alert cause bit `b` is set: 0 STATE, 1 RAIL_FAULT, 2 COOLANT, 3 TRIP, 4 ATOLL_LOST, 5 SENSE_FAULT, 6 ID_FAIL. -/
def State.alertCause (s : State) (b : Nat) : State :=
  (s.wr R.MGMT_ALERT_CAUSE (s.rd R.MGMT_ALERT_CAUSE ||| 2 ^ b)).alertPin

/-- Causes that persist, which an acknowledgement sets again at once (R442; log 76: DEDUCED, unsafe). -/
def State.alertHeld (s : State) : List Nat :=
  (if s.fld F.HOLM_STATE_STATE = 3 then [0] else []) ++
  (if s.flag F.THERM_STAT_COOLANT_STOP then [2] else []) ++
  (if s.fld F.THERM_STAT_TRIPPED ≠ 0 then [3] else []) ++
  (if s.flag F.PWR_STAT_SENSE_LOCAL then [5] else [])

/-- MGMT_ALERT_ACK: the acknowledged causes clear, and those that persist are set again (R442). -/
def State.alertAck (s : State) (v : Nat) : State :=
  let s := (s.wr R.MGMT_ALERT_CAUSE (s.rd R.MGMT_ALERT_CAUSE &&& (0xFFFFFFFF ^^^ (v % 2 ^ 32)))).alertPin
  s.each s.alertHeld State.alertCause

/-- HOLM_STATE: 0 BRINGUP, 1 READY, 2 WAIT_FIRMWARE, 3 HALTED_FAULT. -/
def State.holmState (s : State) (v : Nat) : State :=
  if s.fld F.HOLM_STATE_STATE = v then s
  else (((s.setFld F.HOLM_STATE_STATE v).raise 0x00 0 0).alertCause 0)

end Sys2Proof.Machine
end

