-- ==== Sys2Proof/Config.lean ====
section
/-! DEFINITION. What the spec leaves open: free values, constants with no body, so that nothing can be proved of
which value they take. -/

namespace Sys2Proof

/-- A free value of `w` bits, drawn at count `n` (log 3: DESIGN CHOICE, unsafe). -/
opaque Config.freeBits (w n : Nat) : BitVec w

/-- Word `w` of catalogue record `r` as the firmware image holds it: the chapters give no operand fields (log 71: DESIGN
CHOICE, safe). -/
opaque Config.ruleWord (r w : Nat) : BitVec 32

/-- The 32 bytes of a request tracker entry that records these fields (R336): the spec gives the fields and no layout
(log 52: DESIGN CHOICE, safe). -/
opaque Config.trackerEntry (fields : List Nat) : BitVec 256

/-- The MAC address by which a K or F port reaches an IPv6 address, and the time to live of its LLDP frames: R333 and
R326 give none (log 116: PRESUMED, unsafe). -/
opaque Config.nextHopMac (ip : Nat) : BitVec 48
opaque Config.lldpTtl : BitVec 16

/-- Version, ROM key and measurement of the factory's image of firmware component `c` (R434). -/
opaque Config.factoryVersion (c : Nat) : BitVec 32
opaque Config.factoryKey (c : Nat) : Fin 3
opaque Config.factoryMeas (c : Nat) : BitVec 512

/-- SHA-512 of Welvaod key `k` as the holm ROM holds it (R435). -/
opaque Config.romKey (k : Nat) : BitVec 512

/-- Bytes of the flash area of firmware component `c` (R435, R391). -/
opaque Config.areaSize (c : Nat) : BitVec 40

/-- RSA signature of a message digest under the device identity, whose private key no register reads (R438, R439). -/
opaque Config.identitySign (digest : BitVec 512) : BitVec 4096

/-- The device certificate: its length and its bytes (R438). -/
opaque Config.certLength : BitVec 16
opaque Config.certByte (i : Nat) : BitVec 8

end Sys2Proof
end

