-- ==== Sys2Proof/Machine/Num.lean ====
section
/-! DEFINITION. Exact arithmetic and one rounding (R16, R186): rationals, the floating formats of R137, IEEE values,
round to nearest with ties to even, and square root, exp, ln and cosine by enclosing intervals. -/

namespace Sys2Proof.Machine

/-! ### Exact rationals -/

namespace Q

/-- The integer `n`. -/
def ofInt (n : Int) : Q := ⟨n, 1⟩
def zero : Q := ⟨0, 1⟩
def one : Q := ⟨1, 1⟩
/-- Lowest terms: equal numbers are equal data. -/
def norm (a : Q) : Q :=
  let g := Nat.gcd a.num.natAbs a.den
  if g ≤ 1 then (if a.num = 0 then ⟨0, 1⟩ else a) else ⟨a.num / g, a.den / g⟩
def add (a b : Q) : Q :=
  if a.den = b.den then ⟨a.num + b.num, a.den⟩ else ⟨a.num * b.den + b.num * a.den, a.den * b.den⟩
def neg (a : Q) : Q := ⟨-a.num, a.den⟩
def sub (a b : Q) : Q := add a (neg b)
def mul (a b : Q) : Q := ⟨a.num * b.num, a.den * b.den⟩
/-- `1 / a`; 0 of 0, which no caller divides by. -/
def inv (a : Q) : Q := if a.num = 0 then zero else ⟨a.num.sign * a.den, a.num.natAbs⟩
def div (a b : Q) : Q := mul a (inv b)
def abs (a : Q) : Q := ⟨a.num.natAbs, a.den⟩
def lt (a b : Q) : Bool := decide (a.num * b.den < b.num * a.den)
def le (a b : Q) : Bool := decide (a.num * b.den ≤ b.num * a.den)
def eq (a b : Q) : Bool := decide (a.num * b.den = b.num * a.den)
def isZero (a : Q) : Bool := decide (a.num = 0)
def max (a b : Q) : Q := if lt a b then b else a
/-- `2 ^ e`. -/
def pow2 (e : Int) : Q := if 0 ≤ e then ⟨(2 ^ e.toNat : Nat), 1⟩ else ⟨1, 2 ^ (-e).toNat⟩
/-- `a × 2 ^ e`. -/
def scale (a : Q) (e : Int) : Q := if 0 ≤ e then ⟨a.num * (2 ^ e.toNat : Nat), a.den⟩ else ⟨a.num, a.den * 2 ^ (-e).toNat⟩
def floor (a : Q) : Int := a.num / (a.den : Int)
def ceil (a : Q) : Int := -(-a.num / (a.den : Int))
/-- Floor of the binary logarithm of a positive rational. -/
def log2 (a : Q) : Int :=
  let e : Int := (a.num.natAbs.log2 : Int) - (a.den.log2 : Int)
  if le (pow2 e) (abs a) then e else e - 1
/-- Nearest integer, ties to even (R16). -/
def rint (a : Q) : Int :=
  let f := floor a
  let r := sub (mul a ⟨2, 1⟩) (ofInt (2 * f))   -- twice the remainder, in [0, 2)
  if lt r one then f else if lt one r then f + 1 else if f % 2 = 0 then f else f + 1

end Q

/-! ### Floating formats (R137) -/

/-- A floating format: exponent and mantissa bits, bias, code of the largest finite value, canonical NaN code, and
whether it has infinities. -/
structure FFmt where
  ebits   : Nat
  mbits   : Nat
  bias    : Nat
  maxCode : Nat
  nan     : Nat
  hasInf  : Bool
  deriving DecidableEq, Repr

def fp32 : FFmt := ⟨8, 23, 127, 0x7F7FFFFF, 0x7FC00000, true⟩
def fp16 : FFmt := ⟨5, 10, 15, 0x7BFF, 0x7E00, true⟩
def bf16 : FFmt := ⟨8, 7, 127, 0x7F7F, 0x7FC0, true⟩
def e4m3 : FFmt := ⟨4, 3, 7, 0x7E, 0x7F, false⟩
def e5m2 : FFmt := ⟨5, 2, 15, 0x7B, 0x7F, true⟩
def e2m3 : FFmt := ⟨2, 3, 1, 0x1F, 0, false⟩
def e3m2 : FFmt := ⟨3, 2, 3, 0x1F, 0, false⟩
def e2m1 : FFmt := ⟨2, 1, 1, 0x7, 0, false⟩

/-- Bits of the format below its sign. -/
def FFmt.sign (f : FFmt) : Nat := f.ebits + f.mbits

/-- The finite value of non-negative code `c` (R137). -/
def FFmt.mag (f : FFmt) (c : Nat) : Q :=
  let e := c / 2 ^ f.mbits
  let m := c % 2 ^ f.mbits
  if e = 0 then Q.scale ⟨m, 1⟩ (1 - f.bias - f.mbits)
  else Q.scale ⟨(2 ^ f.mbits + m : Nat), 1⟩ ((e : Int) - f.bias - f.mbits)

/-- A real value or IEEE special: a finite value is its sign and magnitude, so that zeros keep their sign. -/
inductive Val where
  | nan
  | inf (neg : Bool)
  | fin (neg : Bool) (mag : Q)
  deriving DecidableEq, Repr

/-- The value of code `c` of a floating format (R137). -/
def FFmt.val (f : FFmt) (c : Nat) : Val :=
  let neg := c.testBit f.sign
  let m := c % 2 ^ f.sign
  if m ≤ f.maxCode then .fin neg (f.mag m)
  else if f.hasInf && m == f.maxCode + 1 then .inf neg
  else .nan

/-- Code of a positive magnitude rounded to nearest, ties to even, the exponent range unbounded above. -/
def FFmt.roundMag (f : FFmt) (q : Q) : Nat :=
  if q.isZero then 0
  else
    let e := max q.log2 (1 - (f.bias : Int))
    let k := (Q.scale q (f.mbits - e)).rint.toNat
    ((e + f.bias - 1).toNat) * 2 ^ f.mbits + k

/-- `rne(v, fmt)` for an IEEE format: its code (R16, R186). -/
def FFmt.enc (f : FFmt) (v : Val) : Nat :=
  match v with
  | .nan => f.nan
  | .inf neg => (if neg then 2 ^ f.sign else 0) + f.maxCode + 1
  | .fin neg m =>
    let c := f.roundMag m
    (if neg then 2 ^ f.sign else 0) + (if c ≤ f.maxCode then c else f.maxCode + 1)

namespace Val

/-- A finite value, a zero positive. -/
def ofQ (q : Q) : Val := .fin (decide (q.num < 0)) q.abs

/-- The signed rational of a finite value, 0 of a special. -/
def toQ : Val → Q
  | .fin neg m => if neg then m.neg else m
  | _ => Q.zero

def isNan : Val → Bool
  | .nan => true
  | _ => false
def isInf : Val → Bool
  | .inf _ => true
  | _ => false
def isZero : Val → Bool
  | .fin _ m => m.isZero
  | _ => false
/-- Sign bit. -/
def neg? : Val → Bool
  | .nan => false
  | .inf n => n
  | .fin n _ => n
def negate : Val → Val
  | .nan => .nan
  | .inf n => .inf !n
  | .fin n m => .fin (!n) m
def abs : Val → Val
  | .nan => .nan
  | .inf _ => .inf false
  | .fin _ m => .fin false m

/-- Exact sum; a zero sum is −0 only of two −0. -/
def add (a b : Val) : Val :=
  match a, b with
  | .nan, _ => .nan
  | _, .nan => .nan
  | .inf x, .inf y => if x = y then .inf x else .nan
  | .inf x, _ => .inf x
  | _, .inf y => .inf y
  | .fin x m, .fin y n =>
    let q := Q.add (if x then m.neg else m) (if y then n.neg else n)
    if q.isZero then .fin (x && y) Q.zero else ofQ q

def sub (a b : Val) : Val := add a b.negate

/-- Exact product; ∞ × 0 is NaN. -/
def mul (a b : Val) : Val :=
  match a, b with
  | .nan, _ => .nan
  | _, .nan => .nan
  | .inf x, .inf y => .inf (x != y)
  | .inf x, .fin y m => if m.isZero then .nan else .inf (x != y)
  | .fin x m, .inf y => if m.isZero then .nan else .inf (x != y)
  | .fin x m, .fin y n => .fin (x != y) (Q.mul m n)

/-- Exact quotient; 0 / 0 and ∞ / ∞ are NaN, a finite value over zero is infinite. -/
def div (a b : Val) : Val :=
  match a, b with
  | .nan, _ => .nan
  | _, .nan => .nan
  | .inf _, .inf _ => .nan
  | .inf x, .fin y _ => .inf (x != y)
  | .fin x _, .inf y => .fin (x != y) Q.zero
  | .fin x m, .fin y n =>
    if n.isZero then (if m.isZero then .nan else .inf (x != y)) else .fin (x != y) (Q.div m n)

/-- IEEE order: less, of two values neither NaN. -/
def ltv (a b : Val) : Bool :=
  match a, b with
  | .nan, _ => false
  | _, .nan => false
  | .inf x, .inf y => x && !y
  | .inf x, .fin _ _ => x
  | .fin _ _, .inf y => !y
  | .fin x m, .fin y n => Q.lt (if x then m.neg else m) (if y then n.neg else n)

/-- IEEE equality: zeros of either sign are equal, NaN equals nothing. -/
def eqv (a b : Val) : Bool :=
  match a, b with
  | .inf x, .inf y => x == y
  | .fin x m, .fin y n => Q.eq (if x then m.neg else m) (if y then n.neg else n)
  | _, _ => false

/-- The larger; NaN of a NaN; max(+0, −0) is +0 (R121, R186). -/
def maxv (a b : Val) : Val :=
  if a.isNan || b.isNan then .nan
  else if a.ltv b then b else if b.ltv a then a
  else if a.isZero && b.isZero then .fin (a.neg? && b.neg?) Q.zero else a

/-- The smaller; NaN of a NaN; min(+0, −0) is −0 (R121, R186). -/
def minv (a b : Val) : Val :=
  if a.isNan || b.isNan then .nan
  else if a.ltv b then a else if b.ltv a then b
  else if a.isZero && b.isZero then .fin (a.neg? || b.neg?) Q.zero else a

/-- `a × 2 ^ k`. -/
def scalb (a : Val) (k : Int) : Val :=
  match a with
  | .fin n m => .fin n (Q.scale m k)
  | v => v

end Val

/-! ### Roots -/

/-- Integer square root by bisection on bits: the largest `r < 2 ^ b` with `r × r ≤ n`. -/
def isqrtBits (n : Nat) : Nat → Nat → Nat
  | 0, r => r
  | b + 1, r => if (r + 2 ^ b) * (r + 2 ^ b) ≤ n then isqrtBits n b (r + 2 ^ b) else isqrtBits n b r

/-- Integer square root. -/
def isqrt (n : Nat) : Nat := isqrtBits n (n.log2 / 2 + 1) 0

/-- A rational that rounds as √q does in every format of at most 40 mantissa bits: √q to 80 significant bits or
more, with one sticky bit below where it is not exact. -/
def sqrtQ (q : Q) : Q :=
  if q.isZero then Q.zero
  else
    let h : Int := q.log2 / 2
    let sh : Int := 2 * (80 - h)
    let x := Q.scale q sh
    let n := x.floor.toNat
    let r := isqrt n
    let exact := decide (r * r = n) && Q.eq x ⟨n, 1⟩
    Q.scale ⟨2 * r + (if exact then 0 else 1), 2⟩ (-(80 - h))

/-- √v (R186): √−0 is −0, a negative operand gives NaN. -/
def Val.sqrt (v : Val) : Val :=
  match v with
  | .nan => .nan
  | .inf n => if n then .nan else .inf false
  | .fin n m => if m.isZero then .fin n Q.zero else if n then .nan else .fin false (sqrtQ m)

/-- 1/√v (R186): 1/√−0 is −∞. -/
def Val.rsqrt (v : Val) : Val :=
  match v with
  | .nan => .nan
  | .inf n => if n then .nan else .fin false Q.zero
  | .fin n m => if m.isZero then .inf n else if n then .nan else .fin false (sqrtQ m.inv)

/-! ### Transcendental functions, by intervals of fixed-point bounds (log 30: DESIGN CHOICE, unsafe) -/

/-- Bounds `lo / 2^P ≤ x ≤ hi / 2^P`. -/
structure Iv where
  lo : Int
  hi : Int

/-- Fraction bits of the bounds. -/
abbrev ivP : Nat := 420

namespace Iv

def ofQ (q : Q) : Iv := let x := Q.scale q ivP; ⟨x.floor, x.ceil⟩
def add (a b : Iv) : Iv := ⟨a.lo + b.lo, a.hi + b.hi⟩
def neg (a : Iv) : Iv := ⟨-a.hi, -a.lo⟩
/-- `n / 2^P` rounded down and up. -/
def dn (n : Int) : Int := n / (2 ^ ivP : Nat)
def up (n : Int) : Int := -((-n) / (2 ^ ivP : Nat))
def mul (a b : Iv) : Iv :=
  let p1 := a.lo * b.lo
  let p2 := a.lo * b.hi
  let p3 := a.hi * b.lo
  let p4 := a.hi * b.hi
  ⟨dn (min (min p1 p2) (min p3 p4)), up (max (max p1 p2) (max p3 p4))⟩
def divNat (a : Iv) (n : Nat) : Iv := ⟨a.lo / (n : Int), -((-a.hi) / (n : Int))⟩
def one : Iv := ⟨(2 ^ ivP : Nat), (2 ^ ivP : Nat)⟩
/-- Reciprocal of an interval above 0. -/
def recip (a : Iv) : Iv :=
  ⟨(2 ^ (2 * ivP) : Nat) / a.hi, -((-((2 ^ (2 * ivP) : Nat) : Int)) / a.lo)⟩
/-- Widen both ends by `n` units. -/
def widen (a : Iv) (n : Int) : Iv := ⟨a.lo - n, a.hi + n⟩
def sqrt (a : Iv) : Iv :=
  ⟨isqrt ((max a.lo 0).toNat * 2 ^ ivP), isqrt (a.hi.toNat * 2 ^ ivP) + 1⟩
def loQ (a : Iv) : Q := ⟨a.lo, 2 ^ ivP⟩
def hiQ (a : Iv) : Q := ⟨a.hi, 2 ^ ivP⟩

/-- `Σ y^i / i!` from term `t` on, `n` terms. -/
def expTerms (y : Iv) : Nat → Nat → Iv → Iv → Iv
  | 0, _, _, acc => acc.widen 4
  | n + 1, i, t, acc =>
    let t' := (mul t y).divNat i
    expTerms y n (i + 1) t' (add acc t')

/-- Square `n` times. -/
def squares : Nat → Iv → Iv
  | 0, a => a
  | n + 1, a => squares n (mul a a)

/-- exp of a rational in [0, 1,024): halved ten times, then squared ten times. -/
def expPos (q : Q) : Iv := squares 10 (expTerms (ofQ (Q.scale q (-10))) 110 1 one one)

/-- exp of a rational of magnitude below 1,024. -/
def exp (q : Q) : Iv := if q.num < 0 then recip (expPos q.neg) else expPos q

/-- `Σ z^(2i+1) / (2i+1)` with alternating signs where `alt`. -/
def oddTerms (z2 : Iv) (alt : Bool) : Nat → Nat → Iv → Iv → Iv
  | 0, _, _, acc => acc.widen 4
  | n + 1, i, t, acc =>
    let x := t.divNat (2 * i + 1)
    oddTerms z2 alt n (i + 1) (mul t z2) (add acc (if alt && i % 2 == 1 then neg x else x))

/-- atanh of a rational of magnitude at most 1/3. -/
def atanh (q : Q) : Iv := let z := ofQ q; oddTerms (mul z z) false 140 0 z ⟨0, 0⟩

/-- atan of a rational of magnitude at most 1/5. -/
def atan (q : Q) : Iv := let z := ofQ q; oddTerms (mul z z) true 100 0 z ⟨0, 0⟩

def scaleInt (a : Iv) (n : Int) : Iv := if 0 ≤ n then ⟨a.lo * n, a.hi * n⟩ else ⟨a.hi * n, a.lo * n⟩

/-- ln of a positive rational: its binary exponent times ln 2, plus twice atanh. -/
def ln (q : Q) : Iv :=
  let e := q.log2
  let f := Q.scale q (-e)
  let a := atanh (Q.div (Q.sub f Q.one) (Q.add f Q.one)).norm
  add (scaleInt (atanh ⟨1, 3⟩) (2 * e)) (scaleInt a 2)

/-- π by Machin's formula. -/
def pi : Iv := add (scaleInt (atan ⟨1, 5⟩) 16) (scaleInt (atan ⟨1, 239⟩) (-4))

/-- cos and sin terms: `Σ (−1)^i y^(2i+s) / (2i+s)!`. -/
def trigTerms (y2 : Iv) : Nat → Nat → Iv → Iv → Iv
  | 0, _, _, acc => acc.widen 4
  | n + 1, i, t, acc =>
    let t' := neg ((mul t y2).divNat (i * (i + 1)))
    trigTerms y2 n (i + 2) t' (add acc t')

def cosSmall (y : Iv) : Iv := trigTerms (mul y y) 60 1 one one
def sinSmall (y : Iv) : Iv := trigTerms (mul y y) 60 2 y y

/-- cos(2πu) for a rational `u` in [0, 1), by quadrants. -/
def cos2pi (u : Q) : Iv :=
  let t := Q.mul ⟨4, 1⟩ u
  let q := t.floor
  let y := mul (ofQ (Q.scale (Q.sub t (Q.ofInt q)) (-1))) pi
  if q = 0 then cosSmall y else if q = 1 then neg (sinSmall y) else if q = 2 then neg (cosSmall y) else sinSmall y

end Iv

/-- Round an enclosed real, taken at its lower bound: the bounds lie within 2^-400 of each other (log 30: DESIGN CHOICE,
unsafe). -/
def FFmt.encIv (f : FFmt) (iv : Iv) : Nat := f.enc (Val.ofQ iv.loQ)

/-- `rne(exp x)` (R186). -/
def FFmt.exp (f : FFmt) (x : Val) : Nat :=
  match x with
  | .nan => f.nan
  | .inf n => if n then 0 else f.maxCode + 1
  | .fin n m =>
    if m.isZero then f.enc (.fin false Q.one)
    else if Q.lt ⟨200, 1⟩ m then (if n then 0 else f.maxCode + 1)
    else
      f.encIv (Iv.exp (if n then m.neg else m))

/-- `rne(ln x)` (R186): ln(±0) is −∞, a negative operand gives NaN. -/
def FFmt.ln (f : FFmt) (x : Val) : Nat :=
  match x with
  | .nan => f.nan
  | .inf n => if n then f.nan else f.maxCode + 1
  | .fin n m =>
    if m.isZero then 2 ^ f.sign + f.maxCode + 1
    else if n then f.nan
    else if Q.eq m Q.one then 0
    else f.encIv (Iv.ln m)

/-- The magnitude of an FP32 code below its sign. -/
def f32 (c : Nat) : Val := fp32.val c

end Sys2Proof.Machine
end

