-- ==== Sys2Proof/Machine/Formats.lean ====
section
/-! DEFINITION. Number formats (06_formats.md): the 4-bit codes of R135, element values, packing, conversion with
its flags (R144-R147), and exact accumulation (R148-R153) with the distance operations (R119-R121). -/

namespace Sys2Proof.Machine

/-! ### The codes of R135 -/

/-- Bits of an element (R135, R141); 0 for the reserved code. -/
def fmtBits (c : Nat) : Nat :=
  if c = 0 then 32 else if c = 1 ∨ c = 2 then 16
  else if c = 3 ∨ c = 4 ∨ c = 5 ∨ c = 6 ∨ c = 11 ∨ c = 12 then 8
  else if c = 7 ∨ c = 8 then 6 else if c = 9 ∨ c = 10 then 4 else if c = 13 then 3 else if c = 14 then 2 else 0

/-- The format has a block scale: MX formats and GQ (R149). -/
def blockScaled (c : Nat) : Bool := (5 ≤ c && c ≤ 8) || c == 10 || c == 11 || c == 13 || c == 14

/-- GQ3 or GQ2, which have a channel scale (R140). -/
def isGq (c : Nat) : Bool := c == 13 || c == 14

/-- The floating element format of a code, if it is one (R137). -/
def floatOf (c : Nat) : Option FFmt :=
  if c = 0 then some fp32 else if c = 1 then some fp16 else if c = 2 then some bf16
  else if c = 3 ∨ c = 5 then some e4m3 else if c = 4 ∨ c = 6 then some e5m2
  else if c = 7 then some e2m3 else if c = 8 then some e3m2 else if c = 9 ∨ c = 10 then some e2m1 else none

/-- IEEE targets of R144: FP32, FP16, BF16. -/
def isIeee (c : Nat) : Bool := c ≤ 2

/-- The value of element code `x` of format `c`, its block scale apart (R137-R139). -/
def elemVal (c x : Nat) : Val :=
  match floatOf c with
  | some f => f.val x
  | none =>
    if c = 11 then .ofQ (Q.scale ⟨signed 8 x, 1⟩ (-6))
    else if c = 12 then .ofQ ⟨signed 8 x, 1⟩
    else if c = 13 then
      let m := x % 4
      if m = 0 then .fin false Q.zero else .fin (x.testBit 2) ⟨(2 ^ (m - 1) : Nat), 1⟩
    else if c = 14 then
      if x % 4 = 1 then .fin false Q.one else if x % 4 = 3 then .fin true Q.one else .fin false Q.zero
    else .fin false Q.zero

/-- Block exponent of a block scale code, none for the NaN code (R140). -/
def scaleExp (sc : Nat) : Option Int := if sc = 0xFF then none else some ((sc : Int) - 127)

/-- The value of an element with its block scale (R119, R142). -/
def scaledVal (c x sc : Nat) : Val :=
  if blockScaled c then
    match scaleExp sc with
    | none => .nan
    | some e => (elemVal c x).scalb e
  else elemVal c x

/-- emax of a format for R147 and R171. -/
def emaxOf (c : Nat) : Int :=
  if c = 5 ∨ c = 3 then 8 else if c = 6 ∨ c = 4 then 15 else if c = 7 then 2 else if c = 8 then 4
  else if c = 9 ∨ c = 10 then 2 else if c = 13 then 2 else if c = 12 then 6 else if c = 1 then 15
  else if c = 2 ∨ c = 0 then 127 else 0

/-! ### Packing (R141) -/

/-- Element `n` of a run of `bits`-bit elements in the bytes `bs`. -/
def unpackElem (w : Nat) (bs : List Byte) (n : Nat) : Nat :=
  ofBytes ((bs.drop (n * w / 8)).take ((n * w % 8 + w + 7) / 8)) / 2 ^ (n * w % 8) % 2 ^ w

/-- The bytes of a run of element codes of `w` bits, packed little-endian. -/
def packElems (w : Nat) (xs : List Nat) : List Byte :=
  bytesOf ((xs.length * w + 7) / 8) (xs.foldr (fun x acc => x % 2 ^ w + acc * 2 ^ w) 0)

/-! ### Conversion (R144-R147) -/

/-- The flag of a conversion (R144). -/
inductive CvtFlag where
  | ok | ovf | van | nan
  deriving DecidableEq, Repr

/-- Round a finite magnitude into GQ3: the magnitude code (R145). -/
def gq3Round (v : Q) : Nat :=
  if Q.le v ⟨1, 2⟩ then 0 else if Q.lt v ⟨3, 2⟩ then 1 else if Q.le v ⟨3, 1⟩ then 2 else 3

/-- Largest finite magnitude of a target (R144). -/
def maxfOf (c : Nat) : Q :=
  match floatOf c with
  | some f => f.mag f.maxCode
  | none =>
    if c = 11 then ⟨127, 64⟩ else if c = 12 then ⟨127, 1⟩ else if c = 13 then ⟨4, 1⟩ else if c = 14 then Q.one else Q.zero

/-- The code of a saturated result, or of an infinity where the target has one (the overflow column of R144). -/
def overflowCode (c : Nat) (neg : Bool) : Nat :=
  match floatOf c with
  | some f =>
    (if neg then 2 ^ f.sign else 0) + (if isIeee c then f.maxCode + 1 else f.maxCode)
  | none =>
    if c = 11 ∨ c = 12 then (if neg then 0x81 else 0x7F)
    else if c = 13 then (if neg then 7 else 3)
    else if c = 14 then (if neg then 3 else 1) else 0

/-- The code of a finite quotient not beyond the target's range, and whether it is a zero. -/
def roundCode (c : Nat) (neg : Bool) (v : Q) : Nat × Bool :=
  match floatOf c with
  | some f => let m := f.roundMag v; ((if neg then 2 ^ f.sign else 0) + m, m == 0)
  | none =>
    if c = 11 ∨ c = 12 then
      let n := (Q.scale v (if c = 11 then 6 else 0)).rint
      (unsigned 8 (if neg then -n else n), n == 0)
    else if c = 13 then
      let m := gq3Round v
      (if m = 0 then 0 else (if neg then 4 else 0) + m, m == 0)
    else if c = 14 then
      if Q.le v ⟨1, 2⟩ then (0, true) else (if neg then 3 else 1, false)
    else (0, true)

/-- A BF16 channel scale is positive, finite and normal (R140). -/
def scaleGood (c : Nat) : Bool := decide (0x80 ≤ c ∧ c ≤ 0x7F7F)

/-- Convert `x` into format `fmt` with block exponent `xe` and BF16 channel scale `c` (R144, R140): the code and
the flag. A NaN into a block-scaled target writes code 0; its block's scale is 0xFF. -/
def convert (fmt : Nat) (x : Val) (xe : Int) (c : Nat) : Nat × CvtFlag :=
  if fmtBits fmt = 0 then (0, if x.isZero then .ok else .van)        -- R181: nothing it can produce
  else
  match x with
  | .nan =>
    (match floatOf fmt with
     | some f => if blockScaled fmt then 0 else f.nan
     | none => 0, .nan)
  | _ =>
    if isGq fmt && !scaleGood c then (0, if x.isZero then .ok else .van)
    else
      match x with
      | .inf n =>
        if isIeee fmt then (overflowCode fmt n, .ok)
        else if fmt = 4 ∨ fmt = 6 then ((if n then 0x80 else 0) + 0x7C, .ok)
        else (overflowCode fmt n, .ovf)
      | .fin n m =>
        let v := Q.scale (if isGq fmt then Q.div m (bf16.mag c) else m) (-xe)
        if isIeee fmt then
          let r := (floatOf fmt).elim 0 fun f => f.enc (.fin n v)
          let inf := (floatOf fmt).elim false fun f => r % 2 ^ f.sign == f.maxCode + 1
          let z := (floatOf fmt).elim false fun f => r % 2 ^ f.sign == 0
          (r, if inf then .ovf else if z && !m.isZero then .van else .ok)
        else if Q.lt (maxfOf fmt) v then (overflowCode fmt n, .ovf)
        else
          let (r, z) := roundCode fmt n v
          (r, if z && !m.isZero then .van else .ok)
      | .nan => (0, .nan)

/-- abs(x / c) of a finite magnitude, where it is finite; the channel scale counts for GQ targets only (R144, R159). -/
def absQuot (fmt c : Nat) (m : Q) : Option Q :=
  if isGq fmt then
    match bf16.val c with
    | .fin _ d => if d.isZero then none else some (Q.div m d)
    | .inf _ => some Q.zero
    | .nan => none
  else some m

/-- Largest finite abs(x / c) of a block (R147, R170). -/
def finiteMax (fmt c : Nat) (xs : List Val) : Q :=
  xs.foldl (fun a x => match x with
    | .fin _ m => (match absQuot fmt c m with | some q => Q.max a q | none => a)
    | _ => a) Q.zero

/-- Clamp an exponent to [−127, 127]. -/
def clamp127 (e : Int) : Int := max (-127) (min 127 e)

/-- The maximum rule: a block's exponent from the block itself (R147). -/
def maxRule (fmt c : Nat) (xs : List Val) : Int :=
  let a := finiteMax fmt c xs
  if a.isZero then -127 else clamp127 (a.log2 - emaxOf fmt)

/-! ### Exact accumulation (R148-R153) -/

/-- Sum of products of a group: products finite, an infinity present, or NaN (R151). -/
def productsOf (ps : List (Val × Val)) : List Val := ps.map fun e => e.1.mul e.2

/-- One group of the multiply-add (R151, R152): `acc` the bank word, `ps` the pairs as element values, `xe` the sum
of the block exponents, none where a block scale is NaN. -/
def macGroup (acc : Nat) (ps : List (Val × Val)) (xe : Option Int) : Nat :=
  let prods := productsOf ps
  let a := fp32.val acc
  match xe with
  | none => fp32.nan
  | some e =>
    if a.isNan || prods.any Val.isNan then fp32.nan
    else if prods.any Val.isInf then
      let pos := prods.any fun p => p.isInf && !p.neg?
      let neg := prods.any fun p => p.isInf && p.neg?
      if pos && neg then fp32.nan
      else if a.isInf && a.neg? != neg then fp32.nan
      else fp32.enc (.inf neg)
    else if a.isInf then acc
    else
      let sum := prods.foldl (fun q p => Q.add q p.toQ) Q.zero
      let t := Q.add a.toQ (Q.scale sum e)
      if t.isZero then
        if a.neg? && a.isZero && prods.all (fun p => p.isZero && p.neg?) then 0x80000000 else 0
      else fp32.enc (Val.ofQ t)

/-- One product of the integer path, clamped (R153). -/
def macInt (acc a b : Nat) : Nat :=
  let t := signed 32 acc + signed 8 a * signed 8 b
  unsigned 32 (max (-(2 ^ 31 : Nat) : Int) (min ((2 ^ 31 - 1 : Nat) : Int) t))

/-- One element pair of a distance or comparison operation (R120, R121): `op` 1 L1, 2 L2SQ, 3 MAXPLUS, 4 MINPLUS,
5 CMPCOUNT as the array slot encodes them. -/
def distStep (op acc : Nat) (a b : Val) : Nat :=
  if op = 5 then (if b.ltv a then min (acc + 1) (2 ^ 32 - 1) else acc)
  else
    let w := fp32.val acc
    if w.isNan || a.isNan || b.isNan then fp32.nan
    else if op = 1 then fp32.enc (w.add (a.sub b).abs)
    else if op = 2 then fp32.enc (w.add ((a.sub b).mul (a.sub b)))
    else
      let t := fp32.val (fp32.enc (a.add b))
      if t.isNan then fp32.nan
      else fp32.enc (if op = 3 then w.maxv t else w.minv t)

/-- Initial word of an operation with INIT = ZERO (R113). -/
def initWord (op : Nat) : Nat := if op = 3 then 0xFF800000 else if op = 4 then 0x7F800000 else 0

/-! ### Pairs and rates (R106-R108, R119) -/

/-- {E4M3, E5M2, MXFP8, MXFP6}. -/
def fp8Class (c : Nat) : Bool := 3 ≤ c && c ≤ 8
/-- {FP4 E2M1, MXFP4, GQ3}. -/
def fp4Class (c : Nat) : Bool := c == 9 || c == 10 || c == 13
/-- INT8 or MXINT8. -/
def intClass (c : Nat) : Bool := c == 11 || c == 12

/-- The array refuses the pair for every operation (R108). -/
def pairRefused (a b : Nat) : Bool :=
  a == 0 || b == 0 || a == 15 || b == 15 || (a == 1 && b == 2) || (a == 2 && b == 1) || (intClass a != intClass b)

/-- Four times E, the element pairs a step of a multiply-add carries (R107): 1 for BF16 and FP16. -/
def rate4 (a b : Nat) : Nat :=
  if a = 1 ∨ a = 2 ∨ b = 1 ∨ b = 2 then 1
  else if (a = 14 ∧ b = 10) ∨ (a = 10 ∧ b = 14) then 16
  else if (fp4Class a || a == 14) && (fp4Class b || b == 14) then 8
  else 4

/-- Four times E of an operation: the distance operations use E = 1, or 1/4 with BF16 (R119). -/
def opRate4 (op a b : Nat) : Nat := if op = 0 then rate4 a b else if a = 2 ∨ b = 2 then 1 else 4

/-- Steps of an operation of `k` elements (R106). -/
def stepsOf (op a b k : Nat) : Nat := let e := opRate4 op a b; if e = 1 then 4 * k else (4 * k + e - 1) / e

/-- Why the array refuses an operation: ARR_FAULT.CODE, 0 none (R108, R119). -/
def arrRefusal (op a b n cols : Nat) : Nat :=
  if cols < n then 1 else if pairRefused a b then 2 else if op ≠ 0 ∧ (a = 1 ∨ b = 1) then 3 else 0

end Sys2Proof.Machine
end

