-- ==== Sys2Proof/Machine/Memory.lean ====
section
/-! DEFINITION. Device memory (11_shoal_memory.md): the interleave, the places of mapped-out and migrating channels,
reads and writes with poison, the harbour's carve-out, the lagoon, and the translation of device virtual addresses
(12_streams.md). -/

namespace Sys2Proof.Machine

/-! ### Places -/

/-- Bytes of one atoll's device-physical range: 192 GiB (R254). -/
abbrev atollSpan : Nat := 0x30_0000_0000
/-- Local offset at which the carve-out share begins (R254). -/
abbrev carveLocal : Nat := 0x2D_4000_0000
/-- Local offset at which the substitute reserve begins (R254). -/
abbrev reserveLocal : Nat := 0x2F_4000_0000
/-- Bytes of a channel: 256 MiB (R252). -/
abbrev chanSpan : Nat := 0x1000_0000
/-- Channel-local offset at which the reserve begins (R255). -/
abbrev reserveChan : Nat := 0xFC0_0000

/-- Atoll channel and channel-local offset of local offset `l` (R255). -/
def interleave (l : Nat) : Nat × Nat :=
  let g := l / 512
  let r := g / 768
  ((g % 768 + r * 197 % 768) % 768, r * 512 + l % 512)

/-- Where granule row of offset `o` lies once its channel's runs are hosted by `hosts` (R267). -/
def hostedAt (hosts : List Nat) (o : Nat) : Nat × Nat :=
  let row := o / 512
  (hosts.getD (row / 8192) 0, reserveChan + row % 8192 * 512 + o % 512)

/-- The granule at row index `row` of a migrating channel already goes to its new place (R268). -/
def EbbSt.moved (e : EbbSt) (row : Nat) : Bool := decide (row < e.cursor) || e.written.contains row

/-- Follow map-outs and the migration from channel `c`, offset `o`; `fuel` bounds the chain of hosts, at most
twelve (R267). -/
def McSt.resolve (m : McSt) : Nat → Nat → Nat → Nat × Nat
  | 0, c, o => (c, o)
  | fuel + 1, c, o =>
    match m.maps.find? fun x => x.chan == c with
    | some x => let (c', o') := hostedAt x.hosts o; McSt.resolve m fuel c' o'
    | none =>
      match m.ebb with
      | some e =>
        if e.chan = c ∧ e.moved (o / 512) then let (c', o') := hostedAt e.hosts o; McSt.resolve m fuel c' o' else (c, o)
      | none => (c, o)

/-- Place number of offset `o` of channel `c` of atoll `k`. -/
def placeOf (k c o : Nat) : Nat := (k * 768 + c) * chanSpan + o

/-- Atoll `n` as an index (its low three bits). -/
def atollOf (n : Nat) : Atoll := ⟨n % 8, Nat.mod_lt _ (by decide)⟩

/-! ### The causeway (R307-R309) -/

/-- Count `n` bytes carried from atoll `i` to atoll `j`, hop by hop along the routes in force, at most `fuel` hops
(R307, R308; bytes are those of the data carried, log 92: DESIGN CHOICE, unsafe). `first` tells the atoll they come
from. -/
def State.carried (s : State) (j n : Nat) (first : Bool) : Nat → Nat → State
  | 0, _ => s
  | fuel + 1, x =>
    if x = j then s
    else
      let h := bits (s.rd (R.CWY_ROUTE x)) (3 * j + 2) (3 * j)
      let d := (h + 8 - x) % 8
      let s := if d = 1 then s.bump (F.CWY_CNT_NEXT x) n else if d = 7 then s.bump (F.CWY_CNT_PREV x) n
        else if d = 4 then s.bump (F.CWY_CNT_OPP x) n else s
      let s := if first then s else s.bump (F.CWY_CNT_FWD x) n
      if d = 0 then s else s.carried j n false fuel h

/-- `n` bytes go from atoll `i` to atoll `j`. -/
def State.causeway (s : State) (i j n : Nat) : State := s.carried j n true 4 i

/-- Hops from atoll `x` to atoll `j` along the routes in force. -/
def State.hopsTo (s : State) (j : Nat) : Nat → Nat → Nat
  | 0, _ => 0
  | fuel + 1, x => if x = j then 0 else 1 + s.hopsTo j fuel (bits (s.rd (R.CWY_ROUTE x)) (3 * j + 2) (3 * j))

/-- The attached atoll through which port `p` meets atoll `j` (R18, R25, R309). -/
def State.portAtoll (s : State) (p : PortIx) (j : Nat) : Nat :=
  let (a, b) := [(0, 1), (4, 5), (2, 3), (6, 7), (1, 2), (5, 6)].getD p.val (0, 1)
  if !s.inService b then a
  else if !s.inService a then b
  else if s.hopsTo j 4 b < s.hopsTo j 4 a then b else a

/-! ### Device-physical addresses -/

/-- The place of device-physical address `a`. -/
def State.place (s : State) (a : Nat) : Nat :=
  let k := a / atollSpan
  let (c, o) := interleave (a % atollSpan)
  let (c, o) := (s.atl (atollOf k)).mc.resolve 14 c o
  placeOf (k % 8) c o

/-- `a` lies in a stack in service (R20, R83). -/
def State.stacked (s : State) (a : Nat) : Bool := decide (a < 8 * atollSpan) && s.inService (a / atollSpan)

/-- `a` lies in allocatable memory: not in the carve-out, not in the reserve (R22, R293). -/
def State.allocatable (s : State) (a : Nat) : Bool := s.stacked a && decide (a % atollSpan < carveLocal)

/-- Device-physical address of carve-out offset `o` (R84, R254). -/
def State.carve (s : State) (o : Nat) : Nat :=
  let l := s.serving
  let n := max 1 l.length
  let g := o / 4096
  ((l.map Fin.val).getD (g % n) 0) * atollSpan + carveLocal + g / n * 4096 + o % 4096

/-- Bytes of the carve-out: 8 GiB an atoll in service (R83). -/
def State.carveSize (s : State) : Nat := s.serving.length * 0x2_0000_0000

/-- The channel of a place is unreadable: its reads return poisoned (R266). -/
def State.lostPlace (s : State) (p : Nat) : Bool :=
  let ch := p / chanSpan
  (SMap.get (fun _ => ChSt.ok) (s.atl (atollOf (ch / 768))).mc.chans (ch % 768)).lost

/-- Channel `c` of atoll `k`. -/
def State.chan (s : State) (k : Atoll) (c : Nat) : ChSt := SMap.get (fun _ => ChSt.ok) (s.atl k).mc.chans c

/-- Bank and row of a channel-local offset, as a key (R256). -/
def rowKey (o : Nat) : Nat := o / 2048 % 32 * 4096 + o / 65536

/-- A request to place `p` waits: its channel is in a window or urgent (R263, R264), its bank's row is being copied
(R270), or it writes an unreadable channel that has not begun to migrate (R266; log 45: DEDUCED, safe), one whose
map-out was refused included (log 108: DESIGN CHOICE, safe). -/
def State.holds (s : State) (p : Nat) (write : Bool) : Bool :=
  let c := s.chan (atollOf (p / chanSpan / 768)) (p / chanSpan % 768)
  c.state == .retrain || (c.urgent && c.state == .ok) ||
    c.copying.any (fun x => x / 4096 == rowKey (p % chanSpan) / 4096) ||
    (write && c.lost && c.state == .ok)

/-- `s` with a channel changed. -/
def State.onChan (s : State) (k : Atoll) (c : Nat) (f : ChSt → ChSt) : State :=
  s.onMc k fun m => { m with chans := SMap.put (fun _ => ChSt.ok) m.chans c (f (SMap.get (fun _ => ChSt.ok) m.chans c)) }

/-- A request enters its channel's hold, or waits for room in it at its requester once 512 are there (R263) (log 43:
DESIGN CHOICE, unsafe). -/
def State.holdReq (s : State) (k : Atoll) (c : Nat) (r : HeldReq) : State :=
  let s := s.onChan k c fun ch => { ch with hold := ch.hold ++ [r] }
  s.onMc k fun m => { m with holdMax := max m.holdMax (min 512 (s.chan k c).hold.length) }

/-! ### The bandwidth wheel (R289) -/

/-- Code of position `p` of a wheel register (R289, R310). -/
def wheelAt (w p : Nat) : Nat := w / 4 ^ p % 4

/-- One burst of class `cls` for the atom at device-physical address `a`: 0 READ, 1 WRITE, 2 REMOTE, 3 SKIFF, whose
position is 16. One given at another class's position is lent (R289; the wheel moves with bursts alone, log 109:
DEDUCED, unsafe). -/
def State.burst (s : State) (a cls : Nat) : State :=
  let p := s.place a
  let k := atollOf (p / chanSpan / 768)
  let c := p / chanSpan % 768
  let pos := SMap.get (fun _ => 0) (s.atl k).mc.wheel c
  let owner := if pos = 16 then 3 else wheelAt (s.fld (F.STRM_WHEEL k)) pos
  let s := s.onMc k fun m => { m with wheel := SMap.put (fun _ => 0) m.wheel c ((pos + 1) % 17) }
  if owner = cls then s else s.onStrm k fun m => { m with lendNow := m.lendNow + 1 }

/-- A transfer of `n` bytes at device-physical address `a` by atoll `k`, or for port die `port`, at the memory controller
that owns `a`: its class and its bursts, the skiff requests or the bytes of the REMOTE class, and what the causeway carries
(R18, R20, R289, R291). `small` tells a transfer of 256 bytes or less. -/
def State.reach (s : State) (k : Atoll) (a n : Nat) (write small : Bool) (port : Option PortIx := none) : State :=
  let j := atollOf (a / atollSpan)
  let own := port.isNone && j == k
  let cls := if !own then 2 else if small then 3 else if write then 1 else 0
  let s := s.each (List.range ((a % 128 + n + 127) / 128)) fun s i => s.burst (a / 128 * 128 + 128 * i) cls
  if own then (if small then s.bump (F.STRM_CNT_SKIFF k) else s)
  else
    let x := match port with | some p => s.portAtoll p j | none => k.val
    let s := s.bump (F.STRM_CNT_REMOTE j) n
    if write then s.causeway x j n else s.causeway j x n

/-! ### Bytes -/

/-- What a stack byte nothing has written reads as: stage 4 writes every atom as zero (R424) (log 87: DESIGN CHOICE,
unsafe) (log 96: DESIGN CHOICE, unsafe). -/
def memDefault : Nat → Byte := fun _ => 0

/-- The memory map's canonical form: places strictly rising, no entry zero. -/
def Memory.wf (m : SMap Byte) : Bool := SMap.wf memDefault m

/-- The atom at the place is poisoned, or its channel gives nothing back (R259, R266). -/
def State.poisoned (s : State) (p : Nat) : Bool :=
  SMap.get (fun _ => false) s.poison (p / 128) || s.lostPlace p

/-- The bytes a skiff write still holds for the atom at device-physical address `a` (R292). -/
def State.heldBytes (s : State) (a : Nat) : List (Nat × Byte) :=
  match ((s.atl (atollOf (a / atollSpan))).strm.merge).find? fun e => e.1 == a / 128 with
  | some e => e.2
  | none => []

/-- The byte at place `p`. -/
def State.byteAt (s : State) (p : Nat) : Byte := SMap.get memDefault s.mem p

/-- The byte at device-physical address `a`, held skiff bytes applied. -/
def State.devByte (s : State) (a : Nat) : Byte :=
  match (s.heldBytes a).find? fun e => e.1 == a % 128 with
  | some e => e.2
  | none => s.byteAt (s.place a)

/-- Some atom of the `n` bytes from `a` on is poisoned. -/
def State.devPoison (s : State) (a n : Nat) : Bool :=
  (List.range ((a % 128 + n + 127) / 128)).any fun i => s.poisoned (s.place (a / 128 * 128 + 128 * i))

/-- The `n` bytes from device-physical address `a` on. -/
def State.devBytes (s : State) (a n : Nat) : List Byte := (List.range n).map fun i => s.devByte (a + i)

/-- The `n` bytes from `a` on, or none where an atom of them is poisoned (R259). -/
def State.devRead (s : State) (a n : Nat) : Option (List Byte) :=
  if s.devPoison a n then none else some (s.devBytes a n)

/-- Mark or clear the poison of the atom at place `p`. -/
def State.setPoison (s : State) (p : Nat) (b : Bool) : State :=
  { s with poison := SMap.put (fun _ => false) s.poison (p / 128) b }

/-- Write one byte at place `p`. -/
def State.putByte (s : State) (p : Nat) (b : Byte) : State := { s with mem := SMap.put memDefault s.mem p b }

/-- A write to row `row` of a migrating channel goes to its new place and sets its written bit (R268). -/
def McSt.noteWrite (m : McSt) (c row : Nat) : McSt :=
  match m.ebb with
  | some e => if e.chan = c ∧ !e.moved row then { m with ebb := some { e with written := row :: e.written } } else m
  | none => m

/-- Carry the 512-byte granule at place `p` to place `q`, poisoned atoms as poisoned atoms (R268) (log 20: DEDUCED,
unsafe). -/
def State.carryGranule (s : State) (p q : Nat) : State :=
  (List.range 4).foldl (fun s i =>
    let bad := s.poisoned (p + 128 * i)
    let bs := SMap.getRange memDefault s.mem (p + 128 * i) 128
    ({ s with mem := SMap.putRange memDefault s.mem (q + 128 * i) bs }).setPoison (q + 128 * i) bad) s

/-- Before a write to `a`: if its channel migrates and its granule is still at the old place, set the granule's written
bit and carry what the write leaves of the granule to the new place, where the write then goes (R268) (log 20: DEDUCED,
unsafe). -/
def State.noteWrite (s : State) (a : Nat) : State :=
  let k := atollOf (a / atollSpan)
  let (c, o) := interleave (a % atollSpan)
  let (c, o) := (s.atl k).mc.resolve 14 c o
  match (s.atl k).mc.ebb with
  | some e =>
    if e.chan = c ∧ !e.moved (o / 512) then
      let old := s.place (a / 512 * 512)
      let s := s.onMc k fun m => m.noteWrite c (o / 512)
      s.carryGranule old (s.place (a / 512 * 512))
    else s
  | none => s

/-- Drop the held skiff bytes of the atom at device-physical address `a`. -/
def State.dropHeld (s : State) (a : Nat) : State :=
  if (s.heldBytes a).isEmpty then s
  else s.onStrm (atollOf (a / atollSpan)) fun m => { m with merge := m.merge.filter fun e => e.1 != a / 128 }

/-- Write the bytes `bs` inside one atom from device-physical address `a` on: a whole atom replaces it and clears
poison; a part reads, merges and writes it, and is dropped where the atom is poisoned (R253, R259). The truth value tells
whether it was dropped. -/
def State.atomPut (s : State) (a : Nat) (bs : List Byte) : State × Bool :=
  if bs.length = 128 ∧ a % 128 = 0 then
    let s := s.noteWrite a
    let p := s.place a
    (({ s with mem := SMap.putRange memDefault s.mem p bs }).setPoison p false, false)
  else
    let p := s.place a
    if s.poisoned p then (s, true)
    else
      let old := (List.range 128).map fun i => s.byteAt (s.place (a / 128 * 128 + i))
      let s := s.noteWrite a
      let p := s.place (a / 128 * 128)
      let new := old.take (a % 128) ++ bs ++ old.drop (a % 128 + bs.length)
      ({ s with mem := SMap.putRange memDefault s.mem p new }, false)

/-- The skiff bytes held for the atom of `a` are written: whole if every byte of it is covered, else read, merged and
written (R292). -/
def State.flushAtom (s : State) (a : Nat) : State :=
  let held := s.heldBytes a
  if held.isEmpty then s
  else
    let a := a / 128 * 128
    let bs := (List.range 128).map fun i => s.devByte (a + i)
    let s := s.dropHeld a
    if 128 ≤ held.length then (s.atomPut a bs).1
    else if s.poisoned (s.place a) then s
    else
      let s := s.noteWrite a
      { s with mem := SMap.putRange memDefault s.mem (s.place a) bs }

/-- A write of another class than skiff inside one atom: it first flushes what the merge buffer holds of it (R292). -/
def State.atomWrite (s : State) (a : Nat) (bs : List Byte) : State × Bool := (s.flushAtom a).atomPut a bs

/-- Split `bs`, written from `a` on, at atom boundaries: `n` bounds the number of pieces. -/
def atomPieces : Nat → Nat → List Byte → List (Nat × List Byte)
  | 0, _, _ => []
  | n + 1, a, bs =>
    if bs.isEmpty then []
    else
      let m := 128 - a % 128
      (a, bs.take m) :: atomPieces n (a + m) (bs.drop m)

/-- Write `bs` from device-physical address `a` on; the truth value tells whether a part was dropped. -/
def State.devWrite (s : State) (a : Nat) (bs : List Byte) : State × Bool :=
  (atomPieces (bs.length / 128 + 2) a bs).foldl
    (fun (x : State × Bool) e => let (s, d) := x.1.atomWrite e.1 e.2; (s, x.2 || d)) (s, false)

/-- A write of the module's own engines from device-physical address `a` on: an atom whose channel holds it waits there
(R263, R266). -/
def State.engineWrite (s : State) (a : Nat) (bs : List Byte) : State :=
  (atomPieces (bs.length / 128 + 2) a bs).foldl (fun s e =>
    let p := s.place e.1
    if s.holds p true then
      s.holdReq (atollOf (p / chanSpan / 768)) (p / chanSpan % 768) ⟨true, e.1, e.2, ⟨[], []⟩, .module⟩
    else (s.atomWrite e.1 e.2).1) s

/-- A skiff write of `bs` inside one atom from `a` on: it waits in the merge buffer of the owning controller, later
bytes standing over earlier ones (R292). -/
def State.skiffHold (s : State) (a : Nat) (bs : List Byte) : State :=
  let k := atollOf (a / atollSpan)
  let new := bs.zipIdx.map fun e => (a % 128 + e.2, e.1)
  let old := s.heldBytes a
  if old.isEmpty then s.onStrm k fun m => { m with merge := m.merge ++ [(a / 128, new)] }
  else
    let kept := old.filter fun e => !(new.any fun x => x.1 == e.1)
    (s.bump (F.STRM_CNT_MERGE k)).onStrm k fun m =>
      { m with merge := m.merge.map fun e => if e.1 == a / 128 then (e.1, new ++ kept) else e }

/-- A skiff write of `bs` from device-physical address `a` on. -/
def State.skiffWrite (s : State) (a : Nat) (bs : List Byte) : State :=
  (atomPieces (bs.length / 128 + 2) a bs).foldl (fun s e => s.skiffHold e.1 e.2) s

/-- The oldest atom in controller `k`'s merge buffer whose channel takes a write now is written (R263, R292) (log 42:
DESIGN CHOICE, safe). -/
def State.skiffFlush (s : State) (k : Atoll) : State :=
  match (s.atl k).strm.merge.find? fun e => !s.holds (s.place (e.1 * 128)) true with
  | some e => s.flushAtom (e.1 * 128)
  | none => s

/-- Poison the atom at device-physical address `a`, its bytes as they stand (R259). -/
def State.poisonAtom (s : State) (a : Nat) : State :=
  let s := (s.flushAtom a).noteWrite a
  s.setPoison (s.place a) true

/-! ### The lagoon (R278-R281) -/

/-- What a lagoon byte nothing has written reads as: lagoons are filled with zero (R424) (log 96: DESIGN CHOICE,
unsafe). -/
def lagDefault : Nat → Byte := fun _ => 0

/-- Bytes of a lagoon: 512 MiB (R278). -/
abbrev lagSpan : Nat := 0x2000_0000

/-- The save area of a CUT begins here (R42, R279). -/
abbrev saveBase : Nat := 0x1F78_0000

/-- End of program space (R279). -/
def State.lagTop (s : State) (k : Atoll) : Nat := s.fld (F.LAG_TOP_TOP k)

/-- The `n` bytes of atoll `k`'s lagoon from `a` on. -/
def State.lagBytes (s : State) (k : Atoll) (a n : Nat) : List Byte :=
  (List.range n).map fun i => SMap.get lagDefault (s.atl k).strm.lag (a + i)

/-- The number in the `n` bytes from `a` on, little-endian. -/
def State.lagNum (s : State) (k : Atoll) (a n : Nat) : Nat := ofBytes (s.lagBytes k a n)

/-- A lagoon word that `[a, a + n)` touches has a double-bit error (R281). -/
def State.lagErr (s : State) (k : Atoll) (a n : Nat) : Bool :=
  (s.atl k).strm.lagBad.any fun w => decide (a / 8 ≤ w ∧ w * 8 < a + n)

/-- A byte of `[a, a + n)` lies in a line that a FLOW stream still has to deliver (R287). -/
def StrmSt.pends (m : StrmSt) (a n : Nat) : Bool :=
  m.streams.any fun x => x.lines.any fun l => decide (a / 128 ≤ l ∧ l * 128 < a + n)

/-- A consumer waits for those of the ranges that touch a pending line: its clocks count until they clear (R287, R303). -/
def State.flowNote (s : State) (k : Atoll) (l : List (Nat × Nat)) : State :=
  let p := l.filter fun e => (s.atl k).strm.pends e.1 e.2
  if p.isEmpty then s else s.onStrm k fun m => { m with flowWait := (m.flowWait ++ p).eraseDups }

/-- Words of a list that `[a, a + n)` touches, and those of them it does not cover. -/
def wordsIn (l : List Nat) (a n : Nat) : List Nat := l.filter fun w => decide (a / 8 ≤ w ∧ w * 8 < a + n)
def wordsCut (l : List Nat) (a n : Nat) : List Nat := (wordsIn l a n).filter fun w => decide (w * 8 < a ∨ a + n < w * 8 + 8)

/-- A read of `[a, a + n)` corrects and counts the words with a single-bit error (R281). -/
def State.lagSeen (s : State) (k : Atoll) (a n : Nat) : State :=
  let one := wordsIn (s.atl k).strm.lagOne a n
  if one.isEmpty then s else s.bump (F.LAG_CNT_CE k) one.length

/-- Write `bs`: the part of it in a word with a double-bit error that it does not cover is dropped and counted; every other
word gets a new code, after a read of those it does not cover (R281). -/
def State.lagWrite (s : State) (k : Atoll) (a : Nat) (bs : List Byte) : State :=
  let part := wordsCut (s.atl k).strm.lagBad a bs.length
  let one := wordsCut (s.atl k).strm.lagOne a bs.length
  let s := if one.isEmpty then s else s.bump (F.LAG_CNT_CE k) one.length
  let old := (s.atl k).strm.lag
  let s := s.onStrm k fun m =>
    { m with
      lag := SMap.putRange lagDefault m.lag a bs
      lagBad := m.lagBad.filter fun w => !((wordsIn m.lagBad a bs.length).contains w) || part.contains w
      lagOne := m.lagOne.filter fun w => !((wordsIn m.lagOne a bs.length).contains w) }
  part.foldl (fun s w =>
    let s := s.onStrm k fun m => { m with lag := SMap.putRange lagDefault m.lag (w * 8) (SMap.getRange lagDefault old (w * 8) 8) }
    (s.bump (F.LAG_CNT_UE k)).raise 0x16 k 0) s

/-- The words that a write of the whole of `[a, a + n)` covers get a new code (R281). -/
def State.lagCover (s : State) (k : Atoll) (a n : Nat) : State :=
  s.onStrm k fun m =>
    let whole (w : Nat) : Bool := decide (a ≤ w * 8 ∧ w * 8 + 8 ≤ a + n)
    { m with lagBad := m.lagBad.filter fun w => !whole w, lagOne := m.lagOne.filter fun w => !whole w }

/-- A bit of word `w` flips, or two where `two` is set: an error its code corrects, or detects (R281). -/
def State.lagFlip (s : State) (k : Atoll) (w : Nat) (two : Bool) : State :=
  if 0x2000_0000 ≤ 8 * w then s
  else s.onStrm k fun m =>
    if m.lagBad.contains w then m
    else if two || m.lagOne.contains w then { m with lagBad := m.lagBad ++ [w], lagOne := m.lagOne.erase w }
    else { m with lagOne := m.lagOne ++ [w] }

/-- `[a, a + n)` lies inside program space. -/
def State.inProgram (s : State) (k : Atoll) (a n : Nat) : Bool := decide (a + n ≤ s.lagTop k)

/-! ### Translation (R293, R294) -/

/-- Fault kinds of R296. -/
abbrev fkNotPresent : Nat := 1
abbrev fkDemand : Nat := 2
abbrev fkReadPerm : Nat := 3
abbrev fkWritePerm : Nat := 4
abbrev fkBadEntry : Nat := 5
abbrev fkForbidden : Nat := 6
abbrev fkPoison : Nat := 7
abbrev fkBadDesc : Nat := 8

/-- PA field of a table entry, bits [47:8] (R293). -/
def entryPA (e : Nat) : Nat := bits e 47 8 * 256

/-- Examine entry `e` of level `l` (R293): a pointer (true) or a leaf, or the fault. -/
def State.checkEntry (s : State) (l e : Nat) : Except Nat Bool :=
  let v := e.testBit 0
  let leaf := e.testBit 1
  let dem := e.testBit 4
  if !v then
    if dem && l != 3 then .error fkBadEntry else if dem then .error fkDemand else .error fkNotPresent
  else if bits e 63 48 != 0 || bits e 7 5 != 0 then .error fkBadEntry
  else if leaf && l != 2 then .error fkBadEntry
  else if dem && l != 3 then .error fkBadEntry
  else
    let align := if l = 1 then 0x10000 else if l = 2 then (if leaf then 0x20_0000 else 256) else 0x10000
    if entryPA e % align != 0 then .error fkBadEntry
    else if !s.allocatable (entryPA e) then .error fkForbidden
    else .ok (l != 3 && !leaf)

/-- Level-`l` index of a virtual address as the cache's tag: all address bits of that level and above. -/
def vaTag (l va : Nat) : Nat := if l = 1 then va / 2 ^ 34 else if l = 2 then va / 2 ^ 21 else va / 2 ^ 16

/-- Index into a level-`l` table (R293). -/
def vaIndex (l va : Nat) : Nat := if l = 1 then bits va 51 34 else if l = 2 then bits va 33 21 else bits va 20 16

/-- Fields of an edit record. -/
def EditRec.map (e : EditRec) : Bool := bits e.va 63 62 == 0
def EditRec.big (e : EditRec) : Bool := e.va.testBit 56
def EditRec.demand (e : EditRec) : Bool := e.va.testBit 59
def EditRec.page (e : EditRec) : Nat := if e.big then 2 ^ 21 else 2 ^ 16

/-- The table that the entry at `a` points to, with the entries written to make one of the zeroed table at `new` where
the entry holds none; nothing where there is none and none is supplied. `read` gives an entry, or fails. -/
def tableOf (read : Nat → Option Nat) (a new : Nat) : Except Unit (Option (Nat × List (Nat × Nat))) :=
  match read a with
  | none => .error ()
  | some e =>
    if e.testBit 0 && !e.testBit 1 then .ok (some (entryPA e, []))
    else if new = 0 then .ok none
    else .ok (some (new % 2 ^ 48 / 256 * 256, [(a, new % 2 ^ 48 / 256 * 256 + 1)]))

/-- Table entries that edit record `e` writes, in order, address and value (R295): none where a table it needs exists
not and is not supplied; an error where an entry on the way cannot be read. -/
def EditRec.writes (e : EditRec) (read : Nat → Option Nat) (root : Nat) : Except Unit (Option (List (Nat × Nat))) :=
  let va := bits e.va 51 0
  let rw := bits e.va 58 57
  let pa := e.pa % 2 ^ 48 / 256 * 256
  match tableOf read (root + 8 * vaIndex 1 va) (if e.map then e.t2 else 0) with
  | .error u => .error u
  | .ok none => .ok none
  | .ok (some (t2, w2)) =>
    let a2 := t2 + 8 * vaIndex 2 va
    if e.big then .ok (some (w2 ++ [(a2, if e.map then pa + rw * 4 + 3 else 0)]))
    else
      match tableOf read a2 (if e.map then e.t3 else 0) with
      | .error u => .error u
      | .ok none => .ok none
      | .ok (some (t3, w3)) =>
        let v := if !e.map then 0 else if e.demand then 16 + rw * 4 else pa + rw * 4 + 1
        .ok (some (w2 ++ w3 ++ [(t3 + 8 * vaIndex 3 va, v)]))

/-- Enter an entry into the translation cache, most recent first, the least recently used dropped past 4,096 (R294). -/
def StrmSt.cacheEntry (m : StrmSt) (l tag e : Nat) : StrmSt :=
  { m with tlb := ((l, tag, e) :: m.tlb.filter fun x => !(x.1 == l && x.2.1 == tag)).take 4096 }

/-- The cached entry of a level, if any. -/
def StrmSt.cached (m : StrmSt) (l va : Nat) : Option Nat :=
  (m.tlb.find? fun x => x.1 == l && x.2.1 == vaTag l va).map fun x => x.2.2

/-- Read the entry of level `l` for `va` in the table at `tbl`: from the cache, or through the skiff path; a
poisoned entry fails as POISON (R293, R294). -/
def State.readEntry (s : State) (k : Atoll) (l va tbl : Nat) : Except Nat Nat × State :=
  match (s.atl k).strm.cached l va with
  | some e => (.ok e, s.onStrm k fun m => m.cacheEntry l (vaTag l va) e)
  | none =>
    let s := s.reach k (tbl + 8 * vaIndex l va) 8 false true
    match s.devRead (tbl + 8 * vaIndex l va) 8 with
    | some bs => (.ok (ofBytes bs), s)
    | none => (.error fkPoison, s)

/-- Walk from level `l` with the table at `tbl`; `fuel` counts the levels left. The leaf entry and its level. -/
def State.walkFrom (s : State) (k : Atoll) (va : Nat) : Nat → Nat → Nat → Except Nat (Nat × Nat) × State
  | 0, _, _ => (.error fkBadEntry, s)
  | fuel + 1, l, tbl =>
    match s.readEntry k l va tbl with
    | (.error f, s) => (.error f, s)
    | (.ok e, s) =>
      match s.checkEntry l e with
      | .error f => (.error f, s)
      | .ok ptr =>
        let s := s.onStrm k fun m => m.cacheEntry l (vaTag l va) e
        if ptr then State.walkFrom s k va fuel (l + 1) (entryPA e) else (.ok (l, e), s)

/-- A walk of `va` from level `l` on comes to a table entry that its channel holds (R263); `fuel` counts the levels left.
-/
def State.walkHeld (s : State) (k : Atoll) (va : Nat) : Nat → Nat → Nat → Bool
  | 0, _, _ => false
  | fuel + 1, l, tbl =>
    let a := tbl + 8 * vaIndex l va
    match (s.atl k).strm.cached l va with
    | some e => !e.testBit 1 && State.walkHeld s k va fuel (l + 1) (entryPA e)
    | none =>
      s.holds (s.place a) false ||
        (match s.devRead a 8 with
         | some bs => (match s.checkEntry l (ofBytes bs) with
           | .ok true => State.walkHeld s k va fuel (l + 1) (entryPA (ofBytes bs))
           | _ => false)
         | none => false)

/-- The translation of `va` waits for a channel (R263). -/
def State.walkWaits (s : State) (k : Atoll) (va : Nat) : Bool :=
  let va := va % 2 ^ 52
  if ((s.atl k).strm.cached 3 va).isSome then false else s.walkHeld k va 3 1 (s.fld (F.XLAT_ROOT_ROOT k) * 2 ^ 21)

/-- The leaf of `va`, from the cache or by a walk, which is counted (R294). -/
def State.leaf (s : State) (k : Atoll) (va : Nat) : Except Nat (Nat × Nat) × State :=
  let m := (s.atl k).strm
  match m.cached 3 va with
  | some e => (.ok (3, e), s.onStrm k fun m => m.cacheEntry 3 (vaTag 3 va) e)
  | none =>
    match m.cached 2 va with
    | some e =>
      if e.testBit 1 then (.ok (2, e), s.onStrm k fun m => m.cacheEntry 2 (vaTag 2 va) e)
      else (s.bump (F.XLAT_CNT_MISS k)).walkFrom k va 3 1 (s.fld (F.XLAT_ROOT_ROOT k) * 2 ^ 21)
    | none => (s.bump (F.XLAT_CNT_MISS k)).walkFrom k va 3 1 (s.fld (F.XLAT_ROOT_ROOT k) * 2 ^ 21)

/-- Device-physical address of `va` for a read or a write on atoll `k`, or the fault kind (R293, R296). -/
def State.translate (s : State) (k : Atoll) (va : Nat) (write : Bool) : Except Nat Nat × State :=
  let va := va % 2 ^ 52
  match s.leaf k va with
  | (.error f, s) => (.error f, s)
  | (.ok (l, e), s) =>
    if write && !e.testBit 3 then (.error fkWritePerm, s)
    else if !write && !e.testBit 2 then (.error fkReadPerm, s)
    else
      let page := if l = 2 then 2 ^ 21 else 2 ^ 16
      (.ok (entryPA e + va % page), s)

/-- Split `n` bytes from `va` at 64 KiB boundaries; `fuel` bounds the pieces. -/
def pagePieces : Nat → Nat → Nat → List (Nat × Nat)
  | 0, _, _ => []
  | f + 1, va, n =>
    if n = 0 then [] else
      let m := min n (65536 - va % 65536)
      (va, m) :: pagePieces f (va + m) (n - m)

/-- Read `n` bytes at device virtual address `va` (R293), for atoll `k` or for port die `port`: the bytes, or the fault
kind. -/
def State.vRead (s : State) (k : Atoll) (va n : Nat) (port : Option PortIx := none) : Except Nat (List Byte) × State :=
  (pagePieces (n / 65536 + 2) va n).foldl
    (fun (x : Except Nat (List Byte) × State) e =>
      match x with
      | (.error f, s) => (.error f, s)
      | (.ok acc, s) =>
        match s.translate k e.1 false with
        | (.error f, s) => (.error f, s)
        | (.ok a, s) =>
          let s := s.reach k a e.2 false (decide (n ≤ 256)) port
          match s.devRead a e.2 with
          | some bs => (.ok (acc ++ bs), s)
          | none => (.error fkPoison, s)) (.ok [], s)

/-- Write `bs` at atoll `k`'s device virtual address `va`, for it, for atoll `src` or for port die `port`: the fault kind, if it
meets one, and the state; pieces before the fault are written. A transfer of 256 bytes or less of an atoll takes the skiff
path (R291). -/
def State.vWrite (s : State) (k : Atoll) (va : Nat) (bs : List Byte) (port : Option PortIx := none)
    (src : Option Atoll := none) : Option Nat × State :=
  let small := decide (bs.length ≤ 256)
  (pagePieces (bs.length / 65536 + 2) va bs.length).foldl
    (fun (x : Option Nat × State) e =>
      match x with
      | (some f, s) => (some f, s)
      | (none, s) =>
        match s.translate k e.1 true with
        | (.error f, s) => (some f, s)
        | (.ok a, s) =>
          let piece := (bs.drop (e.1 - va)).take e.2
          let s := s.reach (src.getD k) a e.2 true small port
          (none, if small && port.isNone then s.skiffWrite a piece else s.engineWrite a piece)) (none, s)

/-! ### Invalidations and edits (R294, R295) -/

/-- Drop the cached entries on the path of `va` (R294). -/
def State.invVa (s : State) (k : Atoll) (va : Nat) : State :=
  s.onStrm k fun m => { m with tlb := m.tlb.filter fun x => x.2.1 != vaTag x.1 va }

/-- Drop every cached entry (R294). -/
def State.invAll (s : State) (k : Atoll) : State := s.onStrm k fun m => { m with tlb := [] }

/-- Write entry `e` at device-physical address `a` through the skiff path (R291). -/
def State.putEntry (s : State) (k : Atoll) (a e : Nat) : State := (s.reach k a 8 true true).skiffWrite a (bytesOf 8 e)

/-- Write the table entries of one edit record and invalidate its address (R295); entries read as memory holds them. -/
def State.writeEdit (s : State) (k : Atoll) (e : EditRec) : State :=
  let w := match e.writes (fun a => (s.devRead a 8).map ofBytes) (s.fld (F.XLAT_ROOT_ROOT k) * 2 ^ 21) with
    | .ok (some w) => w
    | _ => []
  (w.foldl (fun s x => s.putEntry k x.1 x.2) s).invVa k (bits e.va 51 0)

/-- The number at `va` of `n` bytes, 0 where it cannot be read. -/
def State.vNum (s : State) (k : Atoll) (va n : Nat) : Nat × State :=
  match s.vRead k va n with
  | (.ok bs, s) => (ofBytes bs, s)
  | (.error _, s) => (0, s)

end Sys2Proof.Machine
end

