-- ==== Sys2Proof/Machine/Time.lean ====
section
/-! DEFINITION. The passing of time: reference cycles, each atoll's array clocks at its frequency point (R13, R396,
R407), the advance of the array over them with its starvation and drain holds (R104, R105, R110, R116), and the
tide's own points (R29, R30, R33). -/

namespace Sys2Proof.Machine

/-! ### Clocks -/

/-- Frequency of a point in MHz; code 0xF is a stopped clock (R396). -/
def pointMHz (p : Nat) : Nat := if p = 15 then 0 else 700 + 100 * p

/-- The atoll's setpoint in MHz, f_set of R33. -/
def State.fset (s : State) (k : Atoll) : Nat := pointMHz (s.fld (F.PWR_ATL_SET_PT k))

/-- Half array clocks of atoll `k` in a reference cycle: point p runs 7 + p clocks, and a droop stretch doubles every
period (R396, R407). -/
def State.halfRate (s : State) (k : Atoll) : Nat :=
  let p := (s.atl k).pwr.runPt
  if p = 15 then 0 else (7 + p) * (if (s.atl k).pwr.droop then 1 else 2)

/-- Array clocks that have passed on atoll `k`. -/
def State.clocks (s : State) (k : Atoll) : Nat := (s.atl k).seq.halfClk / 2

/-! ### The tide's points -/

/-- Tide length in force (R29). -/
def State.tideLen (s : State) : Nat := s.fld F.TIDE_LEN_LEN

/-- Length of the current tide as trimmed (R51), or stepped (R52). -/
def State.trimmedLen (s : State) : Nat := ((s.tideLen : Int) + s.tide.trim + s.tide.stepBy).toNat

/-- Mark point of the current tide (R30, R51); a follower's moves with its trim and step (log 102: DEDUCED, unsafe). -/
def State.markPoint (s : State) : Nat := s.trimmedLen - 125

/-- Grace quanta G (R38). -/
def State.graceQuanta (s : State) : Nat := s.tideLen * s.fld F.TIDE_GRACE_PCT / 100 / 125

/-- clocks_left of R33; zero from the mark point on and while held (R35). -/
def State.clocksLeft (s : State) (k : Atoll) : Nat := (s.markPoint - s.tide.phase) * s.fset k / 100

/-! ### The array's advance -/

/-- Key of feeder `i` of a side; `col` true names the column feeders. -/
def feederKey (col : Bool) (i : Nat) : Nat := (if col then 1024 else 0) + i

/-- Active feeders of an operation (R109, R221). -/
def ArrOp.feeders (o : ArrOp) : List Nat :=
  (if o.row.slot.en then (List.range (o.a.m.toNat + 1)).map (feederKey false) else []) ++
  (if o.col.slot.en then (List.range (o.a.n.toNat + 1)).map (feederKey true) else [])

/-- Steps of an operation with its privileged pass (R106, R167). -/
def ArrOp.total (o : ArrOp) : Nat := o.len + 4 * o.poss.length

/-- Steps that every active feeder has fetched. -/
def ArrOp.ready (o : ArrOp) : Nat :=
  o.feeders.foldl (fun a f => min a (SMap.get (fun _ => 0) o.fed f)) o.total

/-- The bank an array slot names. -/
def ArrSt.bank (m : ArrSt) (b : Bool) : BankSt := if b then m.bank1 else m.bank0

/-- `m` with bank `b` changed. -/
def ArrSt.onBank (m : ArrSt) (b : Bool) (f : BankSt → BankSt) : ArrSt :=
  if b then { m with bank1 := f m.bank1 } else { m with bank0 := f m.bank0 }

/-- Groups in a row of a bank's region (R115). -/
def BankSt.blocks (b : BankSt) : Nat := (b.cols + 255) / 256

/-- Groups of a bank's region (R115). -/
def BankSt.groups (b : BankSt) : Nat := b.rows * b.blocks

/-- Groups of a RELEASED bank not yet read (R116). -/
def BankSt.unread (b : BankSt) : List Nat :=
  if b.state = .released then (List.range b.groups).filter fun g => !(b.read.any fun e => e.1 == g) else []

/-- Failed islet columns to the left of logical column `j`, b(j) (R123). -/
def ArrSt.bypass (m : ArrSt) (j : Nat) : Nat :=
  if m.fails.isEmpty then 0
  else
    let p := ((List.range 33).filter fun c => !m.fails.contains c).getD (j / 32) 32
    (m.fails.filter fun c => decide (c < p)).length

/-- Advancing clocks after its entry at cell (0, 0) at which a step reaches cell (i, j) (R104, R123). -/
def ArrSt.skew (m : ArrSt) (i j : Nat) : Nat := i + j + m.bypass j

/-- The clock, counted from step 0's entry, at which an operation first works on a cell of group `g` of a bank; none
where its active cells do not meet the group (R104, R115). -/
def ArrSt.meets (m : ArrSt) (o : ArrOp) (b : BankSt) (g : Nat) : Option Nat :=
  let i := g / b.blocks
  let j := 256 * (g % b.blocks)
  if i ≤ o.a.m.toNat ∧ j ≤ o.a.n.toNat then some (m.skew i j) else none

/-- The operation's last step has passed every one of its cells. -/
def ArrSt.gone (m : ArrSt) (o : ArrOp) : Bool :=
  o.started && decide (o.total + m.skew o.a.m.toNat o.a.n.toNat ≤ o.clk)

/-- A step of an operation is in the array or is to come. -/
def ArrSt.busy (m : ArrSt) : Bool := m.queue.any fun o => !m.gone o

/-- The state END gives a bank (R114). -/
def endState (e : Nat) : BankState := if e = 0 then .live else if e = 1 then .released else .free

/-- The bank as the operation after `before` finds it: as the last of them on it leaves it (R115), else as it stands. -/
def ArrSt.bankFor (m : ArrSt) (before : List ArrOp) (o : ArrOp) : BankSt :=
  match (before.filter fun x => x.op != 6 && x.a.bank == o.a.bank && !x.filed).getLast? with
  | some x => ⟨endState x.a.fin.toNat, x.a.m.toNat + 1, x.a.n.toNat + 1, [], none⟩
  | none => m.bank o.a.bank

/-- Groups ahead of the operation that it may not write when it comes to them, each as the clock at which it does and, where
the group has been read, the array clock from which it may: two clocks after the read (R116). -/
def ArrSt.barred (m : ArrSt) (before : List ArrOp) (o : ArrOp) : List (Nat × Option Nat) :=
  let b := m.bankFor before o
  if o.op = 6 ∨ o.filed ∨ (b.state ≠ .released ∧ b.read.isEmpty) then []
  else (List.range b.groups).filterMap fun g =>
    match m.meets o b g with
    | none => none
    | some t =>
      if t < o.clk then none
      else match b.read.find? fun e => e.1 == g with
        | some e => if m.time + (t - o.clk) < e.2 + 2 then some (t, some (e.2 + 2)) else none
        | none => if b.state = .released then some (t, none) else none

/-- A group ahead of the operation has not been read (R116). -/
def ArrSt.owed (m : ArrSt) (before : List ArrOp) (o : ArrOp) : Bool := (m.barred before o).any fun e => e.2.isNone

/-- The bars ahead of every operation in the array, in clocks from now. -/
def ArrSt.bars (m : ArrSt) : List ArrOp → List ArrOp → List (Nat × Option Nat)
  | _, [] => []
  | before, o :: rest =>
    (if o.started then (m.barred before o).map fun e => (e.1 - o.clk, e.2) else []) ++ ArrSt.bars m (before ++ [o]) rest

/-- An operation in the array whose steps still enter. -/
def ArrOp.entering (o : ArrOp) : Bool := o.started && decide (o.clk < o.total)

/-- Move every operation in the array on by `c` advancing clocks. -/
def ArrSt.move (m : ArrSt) (c : Nat) : ArrSt :=
  { m with
    time := m.time + c
    adv := m.adv + c
    queue := m.queue.map fun o => if o.started then { o with clk := o.clk + c } else o }

/-- Operations whose last step has entered, and which have no read to wait for, set their banks as END says, with region
and T (R114, R115). -/
def ArrSt.file (m : ArrSt) : ArrSt :=
  (List.range m.queue.length).foldl (fun m n =>
    match m.queue[n]? with
    | some o =>
      if o.started && !o.filed && decide (o.total ≤ o.clk) && (m.barred (m.queue.take n) o).isEmpty then
        let m := { m with queue := m.queue.set n { o with filed := true } }
        if o.op = 6 then m
        else m.onBank o.a.bank fun _ =>
          ⟨endState o.a.fin.toNat, o.a.m.toNat + 1, o.a.n.toNat + 1, [],
           if o.a.fin = 0 then none else some (m.adv + o.total - o.clk - 1)⟩
      else m
    | none => m) m

/-- Steps of a feeder's queue that hold operand (R109). -/
def ArrSt.occupancy (m : ArrSt) (f : Nat) : Nat :=
  m.queue.foldl (fun a o => a + (SMap.get (fun _ => 0) o.fed f - min o.clk o.total)) 0

/-- The operation a step of which is due: the one whose steps enter, or one right behind an operation that has ended
(R105). -/
def ArrSt.due (m : ArrSt) : Option ArrOp :=
  match m.queue.find? ArrOp.entering with
  | some o => some o
  | none => (m.queue.find? fun o => !o.started).filter ArrOp.behind

/-- Step 0 of the operation is due and its first refill by the cove is not there (R238). -/
def ArrOp.coveWaits (o : ArrOp) : Bool :=
  o.clk == 0 && (o.feeders.any fun f => (if f < 1024 then o.row.cove else o.col.cove) && SMap.get (fun _ => 0) o.fed f == 0)

/-- The array clock at which the bars that hold the array now end, if every one of them ends by itself (R116). -/
def barsEnd (l : List (Nat × Option Nat)) : Option Nat :=
  if l.any fun e => e.2.isNone then none else (l.filterMap Prod.snd).max?

/-- One stretch of at most `c` clocks in which nothing changes but the clock: the clocks used, and the array after
them. A clock with a step due that a feeder lacks is starved (R110), one that would write an unread group is a drain
hold (R116), one with no step due is idle (R105). -/
def ArrSt.stretch (m : ArrSt) (c : Nat) : Nat × ArrSt :=
  let next := if m.queue.any ArrOp.entering then none else m.queue.zipIdx.find? fun z => !z.1.started
  match next.filter fun z => decide (0 < z.1.ready ∨ z.1.total = 0) with
  | some (o, n) => (0, { m with queue := m.queue.set n { o with started := true } })
  | none =>
    let bars := m.bars [] m.queue
    let now := bars.filter fun e => e.1 == 0
    let starve := m.due.any fun o => decide (o.ready ≤ o.clk)
    let low := (m.due.map fun o => (o.feeders.map m.occupancy).foldl min 128).getD 128
    if starve || !now.isEmpty then
      let n := match barsEnd now with | some t => if starve then c else min c (t - m.time) | none => c
      let n := if n = 0 then c else n
      (n, { m with
        time := m.time + n
        starveNow := m.starveNow + if starve then n else 0
        drainNow := m.drainNow + if now.isEmpty then 0 else n
        fillNow := m.fillNow + if starve && m.due.any ArrOp.coveWaits then n else 0
        qmin := min m.qmin low })
    else
      let room := ((bars.map Prod.fst).min?).getD c
      match m.queue.zipIdx.find? fun z => z.1.entering with
      | some (o, i) =>
        let n := min c (min room (min (o.ready - o.clk) (o.total - o.clk)))
        let m := m.move n
        let m := { m with stepsNow := m.stepsNow + n, qmin := min m.qmin (low + 1 - n) }
        let m := if o.clk + n < o.total then m
          else { m with queue := m.queue.zipIdx.map fun z => if z.2 = i + 1 then { z.1 with behind := true } else z.1 }
        (n, m.file)
      | none => let n := min c room; (n, (m.move n).file)

/-- The array after `c` clocks, in at most `fuel` stretches. -/
def ArrSt.advance : Nat → Nat → ArrSt → ArrSt
  | 0, _, m => m
  | fuel + 1, c, m => if c = 0 then m else let (u, m) := m.stretch c; ArrSt.advance fuel (c - u) m

/-- The array is held in a clock: for starvation or for a drain (R110, R116). -/
def ArrSt.heldBy (m : ArrSt) : Bool × Bool :=
  let (u, m') := m.stretch 1
  let m' := if u = 0 then (m'.stretch 1).2 else m'
  (decide (m.starveNow < m'.starveNow), decide (m.drainNow < m'.drainNow))

/-! ### Passing time -/

/-- `c` clocks of the segments a pipe has to come: those waited, those issued, and what is left. -/
def passSegs : List (Bool × Nat) → Nat → Nat × Nat × List (Bool × Nat)
  | [], _ => (0, 0, [])
  | (w, n) :: rest, c =>
    let m := min c n
    if m < n then (if w then m else 0, if w then 0 else m, (w, n - m) :: rest)
    else
      let (a, b, l) := passSegs rest (c - m)
      (a + (if w then m else 0), b + (if w then 0 else m), l)

/-- The vector pipes over `c` clocks: what they issue and wait is counted as it passes (R468). -/
def VecSt.pass (v : VecSt) (c : Nat) : VecSt :=
  let m := min c v.mainOwed
  let (a, b, l) := passSegs v.drainOwed c
  { v with mainOwed := v.mainOwed - m, mainNow := v.mainNow + m, drainOwed := l, dwaitNow := v.dwaitNow + a,
           drainNow := v.drainNow + b }

/-- Atoll `k` over `n` reference cycles; the array of a cut slice stands still (R130). -/
def State.passAtoll (s : State) (n : Nat) (k : Atoll) : State :=
  let h := n * s.halfRate k
  let c := ((s.atl k).seq.halfClk + h) / 2 - (s.atl k).seq.halfClk / 2
  s.onAtl k fun a =>
    let flow := a.strm.flowWait.filter fun e => a.strm.pends e.1 e.2
    let halted : Bool := match a.seq.run with | some (.cut _ _) => true | some (.resuming _) => true | _ => false
    let w := min c a.arr.replay
    let arr := { a.arr with time := a.seq.halfClk / 2 + w }
    let arr := if halted then arr else ArrSt.advance 64 (c - w) { arr with replay := a.arr.replay - w }
    let q := a.seq
    let st := if q.stalled then c else 0
    { a with
      arr := arr
      vec := a.vec.pass c
      seq := { q with
        halfClk := q.halfClk + h
        stallNow := q.stallNow + st
        slice := q.slice.map fun x => { x with stall := x.stall + st } }
      mc := if a.mc.chans.any fun c => !c.2.hold.isEmpty then { a.mc with holdNow := a.mc.holdNow + n } else a.mc
      strm := { a.strm with flowWait := flow, flowNow := a.strm.flowNow + if flow.isEmpty then 0 else c }
      pwr := match q.entry with
        | some (i, _) => { a.pwr with ran := SMap.put (fun _ => 0) a.pwr.ran i (SMap.get (fun _ => 0) a.pwr.ran i + n) }
        | none => a.pwr }

/-- Reason `r` bound for a stretch that lost `lost` array clocks (R406). -/
def State.bind (s : State) (r lost : Nat) : State :=
  let s := s.bump (F.PWR_THR_STRETCH r) lost
  if r ∈ s.pwr.bound then s else { s with pwr := { s.pwr with bound := s.pwr.bound ++ [r] } }

/-- Throttling of atoll `k` over `n` reference cycles (R405, R406): the binding reason loses 21 - f/100 clocks in each,
a droop the periods it stretches. -/
def State.passReason (s : State) (n : Nat) (k : Atoll) : State :=
  let r := s.fld (F.PWR_ATL_SET_REASON k)
  let s := if r = 15 ∨ n = 0 then s else s.bind r (n * (21 - pointMHz (s.atl k).pwr.runPt / 100))
  if (s.atl k).pwr.droop && n != 0 then
    let h := (s.atl k).seq.halfClk
    s.bind 2 ((h + n * s.halfRate k) / 2 - h / 2)
  else s

/-- Credit pool of a port in 256-byte units (R340). -/
def poolSize (p : PortIx) : Nat := if p.val < 2 then 262144 else 65536

/-- Ingress occupancy of a port, sampled over `n` reference cycles (R344). -/
def State.sampleOcc (s : State) (n : Nat) (p : PortIx) : State :=
  let reserve := poolSize p * s.fld (F.SND_RESV_SHARE p) / 64
  let used := poolSize p - s.fld (F.SND_POOL_FREE p)
  let open' := poolSize p - (reserve - (s.port p).usedRed)
  s.onPort p fun m =>
    { m with occSum := if used = 0 ∨ open' = 0 then m.occSum else (Q.add m.occSum ⟨n * used, open'⟩).norm
             occCyc := m.occCyc + n }

/-- `n` reference cycles pass (R30; log 26: DESIGN CHOICE, safe). -/
def State.pass (s : State) (n : Nat) : State :=
  let s := { s with now := s.now + n, rst := { s.rst with since := s.rst.since + n } }
  let s := if s.tide.running then s.onTide fun t => { t with phase := t.phase + n } else s
  let s := s.each allPorts fun s p => s.sampleOcc n p
  s.each allAtolls fun s k => (s.passReason n k).passAtoll n k

/-- Time runs to reference cycle `due`, if it comes before the last candidate for slack of this tide. -/
def State.runTo (s : State) (due : Nat) : Option State :=
  if s.tide.running ∧ s.trimmedLen + 125 * s.tide.quantum < s.tide.phase + (due - s.now) then none
  else some (s.pass (due - s.now))

/-- Let time run to phase `p` of the tide, if it has not come to it. -/
def State.passTo (s : State) (p : Nat) : State := s.pass (p - s.tide.phase)

end Sys2Proof.Machine
end

