-- ==== Sys2Proof/Machine/Cells.lean ====
section
/-! DEFINITION. What the cells of the array hold (05_array.md R104, R111-R113, R120, R130, R131, R150-R156): each cell's
word after the steps that have reached it. -/

namespace Sys2Proof.Machine

/-- The format of a side: the array slot's, for a SCOUT its descriptor's (R221). -/
def ArrOp.fmt (o : ArrOp) (col : Bool) : Nat := if col then o.fmtC else o.fmtR

/-- A side of the operation. -/
def ArrOp.side (o : ArrOp) (col : Bool) : SideSt := if col then o.col else o.row

/-- Reduction length (R221). -/
def ArrOp.klen (o : ArrOp) : Nat := o.a.k.toNat + 1

/-! ### What the cells hold -/

/-- The code and block exponent a cell receives from feeder `f` at K index `n`. -/
def ArrOp.code (o : ArrOp) (f n : Nat) : Nat := SMap.get (fun _ => 0) o.codes (f * 65536 + n)

/-- Block of a side that K index `n` lies in, counted from the block of K index 0. -/
def ArrOp.block (o : ArrOp) (col : Bool) (n : Nat) : Nat :=
  let ks := (o.side col).slot.kstart.toNat
  (ks + n) / 32 - ks / 32

/-- Block scale code a cell receives from feeder `f` at K index `n`; 0x7F for a format without one. -/
def ArrOp.scale (o : ArrOp) (col : Bool) (f n : Nat) : Nat :=
  if blockScaled (o.fmt col) then SMap.get (fun _ => 0x7F) o.scales (f * 65536 + o.block col n) else 0x7F

/-- The operation is block-scaled (R149). -/
def ArrOp.blocked (o : ArrOp) : Bool := blockScaled (o.fmt false) || blockScaled (o.fmt true)

/-- K index `n` begins a group of a MAC (R150); `e4` is four times E. -/
def ArrOp.begins (o : ArrOp) (e4 n : Nat) : Bool :=
  if n = 0 then true
  else if o.blocked then
    (blockScaled (o.fmt false) && o.block false n != o.block false (n - 1)) ||
    (blockScaled (o.fmt true) && o.block true n != o.block true (n - 1))
  else n % max 1 (e4 / 4) == 0

/-- First K index beyond `n`, at most `m`, that begins a group; `fuel` bounds the search. -/
def ArrOp.groupEnd (o : ArrOp) (e4 m : Nat) : Nat → Nat → Nat
  | 0, n => n
  | fuel + 1, n => if m ≤ n ∨ o.begins e4 n then n else ArrOp.groupEnd o e4 m fuel (n + 1)

/-- The whole groups of the K indices `[n, m)`, from a group's first index: (first, end) of each. -/
def ArrOp.groups (o : ArrOp) (e4 m : Nat) : Nat → Nat → List (Nat × Nat)
  | 0, _ => []
  | fuel + 1, n =>
    if m ≤ n then []
    else
      let e := o.groupEnd e4 o.klen 65536 (n + 1)
      if m < e then [] else (n, e) :: ArrOp.groups o e4 m fuel e

/-- One group's element pairs at cell (i, j), and the sum of its block exponents (R151). -/
def ArrOp.pairs (o : ArrOp) (i j : Nat) (g : Nat × Nat) : List (Val × Val) × Option Int :=
  let fi := feederKey false i
  let fj := feederKey true j
  ((List.range (g.2 - g.1)).map fun n =>
      (elemVal (o.fmt false) (o.code fi (g.1 + n)), elemVal (o.fmt true) (o.code fj (g.1 + n))),
   match scaleExp (o.scale false fi g.1), scaleExp (o.scale true fj g.1) with
   | some a, some b => some (a + b)
   | _, _ => none)

/-- K indices whose work a cell has done after `n` steps (R106, R150). -/
def ArrOp.doneK (o : ArrOp) (e4 n : Nat) : Nat :=
  if o.len ≤ n then o.klen else if e4 = 1 then min o.klen (n / 4) else min o.klen (n * (e4 / 4))

/-- The word cell (i, j) holds after steps `n0` to `n - 1` of the operation, from the word `w0` it held after `n0` of them:
a group whose last step is among them is added whole (R113, R120, R150-R153, R156, R167). -/
def ArrOp.cell (o : ArrOp) (n0 n i j w0 : Nat) : Nat :=
  if n ≤ n0 then w0
  else
    let e4 := opRate4 o.op (o.fmt false) (o.fmt true)
    let w := if n0 = 0 ∧ !o.a.cont then initWord o.op else w0
    let k0 := if n0 = 0 then 0 else o.doneK e4 n0
    let k1 := o.doneK e4 n
    let ks := (List.range (k1 - k0)).map (k0 + ·)
    let fi := feederKey false i
    let fj := feederKey true j
    let main :=
      if o.op = 0 ∧ o.fmt false = 12 ∧ o.fmt true = 12 then
        ks.foldl (fun w t => macInt w (o.code fi t) (o.code fj t)) w
      else if o.op = 0 then
        ((o.groups e4 k1 65537 0).filter fun g => decide (k0 < g.2)).foldl
          (fun w g => let (ps, x) := o.pairs i j g; macGroup w ps x) w
      else
        ks.foldl (fun w t =>
          distStep o.op w (scaledVal (o.fmt false) (o.code fi t) (o.scale false fi t))
            (scaledVal (o.fmt true) (o.code fj t) (o.scale true fj t))) w
    let p0 := min o.poss.length ((n0 - o.len) / 4)
    let p1 := min o.poss.length ((n - o.len) / 4)
    ((List.range (p1 - p0)).map (p0 + ·)).foldl (fun w p =>
      macGroup w [(bf16.val (SMap.get (fun _ => 0) o.privs (fi * 65536 + p)),
                   bf16.val (SMap.get (fun _ => 0) o.privs (fj * 65536 + p)))] (some 0)) main

/-- Key of a cell's accumulator word (R111). -/
def accKey (bank : Bool) (i j : Nat) : Nat := (if bank then 2 ^ 20 else 0) + i * 1024 + j

/-- A word of an accumulator bank. -/
def ArrSt.word (m : ArrSt) (bank : Bool) (i j : Nat) : Nat := (SMap.get (fun _ => (0 : Word32)) m.acc (accKey bank i j)).toNat

/-- Steps of the operation that cell (i, j) has done after its clock `n` (R104, R130). -/
def ArrSt.stepsAt (m : ArrSt) (o : ArrOp) (n i j : Nat) : Nat := min o.total (n - m.skew i j)

/-- The active cells of an operation, each after the steps that its clock `n` has brought it. -/
def ArrSt.runCells (m : ArrSt) (o : ArrOp) (n : Nat) : ArrSt :=
  if o.op = 6 then m
  else (List.range (o.a.m.toNat + 1)).foldl (fun m i =>
    let row := (List.range (o.a.n.toNat + 1)).map fun j =>
      BitVec.ofNat 32 (o.cell (m.stepsAt o o.base i j) (m.stepsAt o n i j) i j (m.word o.a.bank i j))
    { m with acc := SMap.putRange (fun _ => (0 : Word32)) m.acc (accKey o.a.bank i 0) row }) m

/-- The words as the cells hold them in this clock, every operation in the array with the steps that have reached them
(R104, R130). -/
def ArrSt.written (m : ArrSt) : ArrSt :=
  let a := m.queue.foldl (fun a o => if o.started then a.runCells o o.clk else a) m
  { a with queue := a.queue.map fun o => if o.started then { o with base := o.clk } else o }

/-- The word of cell (i, j) once the operations `ops` of its bank have done every step there. -/
def ArrSt.wordAfter (m : ArrSt) (ops : List ArrOp) (bank : Bool) (i j : Nat) : Nat :=
  ops.foldl (fun w o =>
    if i ≤ o.a.m.toNat ∧ j ≤ o.a.n.toNat then o.cell (m.stepsAt o o.base i j) o.total i j w else w) (m.word bank i j)

/-- Both banks FREE with no drain owed, as a DISCARD leaves them: they keep what the cells last wrote, with the region of the
last operation that wrote each. Every operation and step is dropped, feeder queues are emptied (R131). -/
def ArrSt.void (m : ArrSt) : ArrSt :=
  let m := m.written
  let b (n : Bool) : BankSt :=
    match (m.queue.filter fun o => o.started && o.op != 6 && !o.filed && o.a.bank == n && o.clk != 0).getLast? with
    | some o => ⟨.free, o.a.m.toNat + 1, o.a.n.toNat + 1, [], none⟩
    | none => { m.bank n with state := .free, read := [] }
  { m with queue := [], bank0 := b false, bank1 := b true, replay := 0 }

/-- Step with which the group of K indices begins that step `t` of an operation lies in, the first of them that some cell
has still to do (R156); a per-tensor operation's groups are single steps. -/
def ArrOp.groupStep (o : ArrOp) (t : Nat) : Nat :=
  if o.op != 0 || !o.blocked || decide (o.len ≤ t) then t
  else
    let e4 := opRate4 o.op (o.fmt false) (o.fmt true)
    let k := o.doneK e4 t
    let g := ((List.range (k + 1)).filter fun n => o.begins e4 n).foldl max 0
    if e4 = 1 then 4 * g else g / (e4 / 4)

/-- Clocks of the fill that a resumed slice's feeders inject again: the steps that entered the array in its last 2,046
clocks, and before them those of the oldest group not finished (R130, R156). -/
def ArrSt.wavefront (m : ArrSt) : Nat :=
  ((m.queue.filter fun o => o.started && !m.gone o).map fun o =>
    min o.clk o.total - o.groupStep (min (o.clk - 2046) o.total)).foldl (· + ·) 0

end Sys2Proof.Machine
end

