-- ==== Sys2Proof/Machine/Faults.lean ====
section
/-! DEFINITION. Stream descriptors' fields (R282, R283), completion in issue order (R284) and the records of faults in
flight (R296, R297): what ending a slice and running a stream share. -/

namespace Sys2Proof.Machine

/-! ### The descriptor (R282) -/

namespace Sd

def op (d : Nat) : Nat := bits d 1 0
def flow (d : Nat) : Bool := d.testBit 2
def meas (d : Nat) : Bool := d.testBit 3
def dims (d : Nat) : Nat := bits d 6 4
/-- Source and destination kind: 0 MEM, 1 LAG, 2 RLAG, 3 PORT. -/
def kind (d : Nat) (dst : Bool) : Nat := if dst then bits d 11 10 else bits d 9 8
def peer (d : Nat) : Nat := bits d 14 12
def fmt (d : Nat) (dst : Bool) : Nat := if dst then bits d 23 20 else bits d 19 16
def ctx (d : Nat) : Nat := byteFld d 4 4
def base (d : Nat) (dst : Bool) : Nat := byteFld d (if dst then 16 else 8) 8
/-- Elements in dimension `i`; 1 at DIMS or above (R283). -/
def count (d i : Nat) : Nat :=
  if i = 0 then byteFld d 24 4 + 1 else if i < dims d then byteFld d (26 + 2 * i) 2 + 1 else 1
/-- Stride of dimension `i`, 1 to 4. -/
def stride (d : Nat) (dst : Bool) (i : Nat) : Int :=
  signed 48 (byteFld d ((if dst then 54 else 30) + 6 * i) 6)
def qdesc (d : Nat) : Nat := byteFld d 84 8
def dscale (d : Nat) : Nat := byteFld d 92 8
def cscale (d : Nat) : Nat := byteFld d 100 8
def notBefore (d : Nat) : Nat := byteFld d 108 6

/-- Rows: runs of dimension 0. -/
def rows (d : Nat) : Nat := count d 1 * count d 2 * count d 3 * count d 4

/-- Index in dimension `i` of linear row `r` (R286). -/
def rowIdx (d r i : Nat) : Nat :=
  if i = 1 then r % count d 1 else if i = 2 then r / count d 1 % count d 2
  else if i = 3 then r / (count d 1 * count d 2) % count d 3 else r / (count d 1 * count d 2 * count d 3)

/-- Address at which the run of row `r` starts (R283). -/
def runAt (d : Nat) (dst : Bool) (r : Nat) : Nat :=
  let a : Int := [1, 2, 3, 4].foldl (fun a i => a + (rowIdx d r i : Int) * stride d dst i) (base d dst : Int)
  unsigned 64 a

/-- Bytes of a run. -/
def runBytes (d : Nat) (dst : Bool) : Nat := count d 0 * fmtBits (fmt d dst) / 8

/-- Least address of a side's runs, and the end of their greatest. -/
def extent (d : Nat) (dst : Bool) : Int × Int :=
  [1, 2, 3, 4].foldl (fun e i =>
    let x := ((count d i : Int) - 1) * stride d dst i
    (e.1 + min 0 x, e.2 + max 0 x)) ((base d dst : Int), (base d dst : Int) + runBytes d dst)

/-- Bytes of block scales in a row (R286). -/
def scaleRow (d : Nat) : Nat := (count d 0 + 31) / 32

/-- Bytes the stream moves at its larger end. -/
def size (d : Nat) : Nat := rows d * max (runBytes d false) (runBytes d true)

/-- A wide format of R286: FP32, FP16 or BF16. -/
def wide (c : Nat) : Bool := decide (c ≤ 2)

end Sd

/-! ### Streams of the engine -/

/-- `s` with the stream in flight in engine slot `i` changed. -/
def State.onStream (s : State) (k : Atoll) (i : Nat) (f : StreamSt → StreamSt) : State :=
  s.onStrm k fun m => { m with streams := m.streams.map fun x => if x.slot == i && !x.done then f x else x }

/-- The stream in flight in engine slot `i`. -/
def StrmSt.inSlot (m : StrmSt) (i : Nat) : Option StreamSt := m.streams.find? fun x => x.slot == i && !x.done

/-- Count the completions of counter `c` in issue order: the first streams on it that are done. `fuel` bounds them. -/
def State.settle (s : State) (k : Atoll) (c : Nat) : Nat → State
  | 0 => s
  | fuel + 1 =>
    match (s.atl k).strm.streams.find? fun x => x.ctr == c with
    | some x =>
      if x.done then
        let s := s.onStrm k fun m => { m with streams := m.streams.erase x }
        let s := s.onSeq k fun q =>
          { q with
            r := { q.r with sc := SMap.put (fun _ => 0) q.r.sc c (SMap.get (fun _ => 0) q.r.sc c + 1) }
            slice := q.slice.map fun y => if x.detach then
              { y with detached := SMap.put (fun _ => 0) y.detached c (SMap.get (fun _ => 0) y.detached c + 1) } else y }
        State.settle s k c fuel
      else s
    | none => s

/-! ### Fault records (R296-R300) -/

/-- What a stream's move stopped for: fault kind, address, destination side. Kind 0 is no fault: the stream stalls at
a request that a channel holds (R263). -/
abbrev Stop : Type := Nat × Nat × Bool

/-- A fault record of atoll `k`. -/
def StrmSt.fltAt (m : StrmSt) (r : Nat) : FltRec := SMap.get (fun _ => FltRec.none) m.flt r

/-- `s` with a fault record changed. -/
def State.onFlt (s : State) (k : Atoll) (r : Nat) (f : FltRec → FltRec) : State :=
  s.onStrm k fun m => { m with flt := SMap.put (fun _ => FltRec.none) m.flt r (f (m.fltAt r)) }

/-- The record a fault takes: the lowest FREE, else the lowest that waits for nothing (log 40: DEDUCED, unsafe). -/
def StrmSt.freeRec (m : StrmSt) : Option Nat :=
  match (List.range 16).find? fun r => (m.fltAt r).state == .free with
  | some r => some r
  | none => (List.range 16).find? fun r => (m.fltAt r).state != .waitSelf && (m.fltAt r).state != .waitHost

/-- The pool's next frame and the address of its list entry, if the pool has one that can be read (R297). -/
def State.poolFrame (s : State) (k : Atoll) : Option Nat × State :=
  let n := s.fld (F.XLAT_POOL_NEXT_NEXT k)
  if s.fld (F.XLAT_POOL_COUNT_COUNT k) ≤ n then (none, s)
  else
    match s.vRead k (s.fld (F.XLAT_POOL_BASE_ADDR k) + 8 * n) 8 with
    | (.ok bs, s) => (some (ofBytes bs), s)
    | (.error _, s) => (none, s)

/-- A stream's cursor as indices (R296). -/
def cursorIdx (d e : Nat) : List Nat :=
  e % Sd.count d 0 :: [1, 2, 3, 4].map fun i => Sd.rowIdx d (e / Sd.count d 0) i

/-- Remove an aborted stream: it leaves its counter's order (log 21: DEDUCED, unsafe). -/
def State.dropStream (s : State) (k : Atoll) (x : StreamSt) : State :=
  let s := s.onStrm k fun m => { m with streams := m.streams.filter fun y => !(y.slot == x.slot && !y.done) }
  s.settle k x.ctr 128

/-- Abort a detached stream, or what the abort of an attached one does before it voids its slice (R299). -/
def State.abortDetached (s : State) (k : Atoll) (x : StreamSt) (_st : Stop) : State := (s.dropStream k x).raise 0x17 k 2

/-- The self rule of a fault kind (R296, R297): a DEMAND fault waits for its frame, unless the pool has none; every
other kind aborts by `abort`. -/
def State.selfServe (s : State) (abort : State → Atoll → StreamSt → Stop → State) (k : Atoll) (r : Nat) (x : StreamSt) (st : Stop) : State :=
  if st.1 = fkDemand then
    match s.poolFrame k with
    | (some _, s) => s.onFlt k r fun e => { e with state := .waitSelf }
    | (none, s) => abort ((s.raise 0x18 k 0).onFlt k r fun e => { e with state := .aborted }) k x st
  else abort (s.onFlt k r fun e => { e with state := .aborted }) k x st

/-- Record the fault of a stopped stream in a free record (R296), and serve it by the function's mode (R297); a
refused descriptor is abandoned at once in either mode. Without a record the stream stalls unrecorded, but for a
refused descriptor. -/
def State.recordFault (s : State) (abort : State → Atoll → StreamSt → Stop → State) (k : Atoll) (x : StreamSt) (st : Stop) : State :=
  match (s.atl k).strm.freeRec with
  | none => if st.1 = fkBadDesc then abort s k x st else s
  | some r =>
    let c := cursorIdx x.desc x.cursor
    let host := s.hosted 0x17 k 0
    let bad := st.1 == fkBadDesc
    let rec' : FltRec :=
      { state := if bad then .aborted else if host then .waitHost else .waitSelf
        kind := st.1, write := st.2.2, detach := x.detach, ctr := x.ctr, stream := x.slot, va := st.2.1
        i0 := c.getD 0 0, i1 := c.getD 1 0, i2 := c.getD 2 0, i3 := c.getD 3 0, i4 := c.getD 4 0, tide := s.tideNo }
    let s := (s.onFlt k r fun _ => rec').bump (F.STRM_CNT_FAULT k)
    let s := s.onStream k x.slot fun x => { x with recorded := true }
    if bad then abort s k x st
    else if host then (s.raise 0x17 k 0).awaitHost 0x17 k 0 r
    else s.selfServe abort k r x st

/-- Faults that stalled unrecorded take the records that have come free, oldest stream first; `fuel` bounds them. -/
def State.assignFaults (s : State) (abort : State → Atoll → StreamSt → Stop → State) (k : Atoll) : Nat → State
  | 0 => s
  | fuel + 1 =>
    match (s.atl k).strm.streams.find? fun x => x.fault.isSome && !x.recorded && !x.done, (s.atl k).strm.freeRec with
    | some x, some _ => State.assignFaults (s.recordFault abort k x (x.fault.getD (0, 0, false))) abort k fuel
    | _, _ => s

end Sys2Proof.Machine
end

