-- ==== Sys2Proof/Machine/Slices.lean ====
section
/-! DEFINITION. Plan queues, completion records and the life of a slice (04_harbour.md R93-R97, 09_reefcode.md
R213-R214, R225-R228, 02_tide.md R33-R43, 12_streams.md R299): what every unit that ends, voids or starts a slice
shares. -/

namespace Sys2Proof.Machine

/-! ### Completion records (R95-R97) -/

/-- Records the ring of atoll `k` holds that the harbour has not freed (R96). -/
def State.ringUsed (s : State) (k : Atoll) : Nat :=
  (s.fld (F.HBR_CR_TAIL_TAIL k) + 2 ^ 32 - s.fld (F.HBR_CR_HEAD_HEAD k)) % 2 ^ 32

/-- The ring has a free slot. -/
def State.ringRoom (s : State) (k : Atoll) : Bool := decide (s.ringUsed k < 2 ^ s.fld (F.HBR_CR_SIZE_LOG2 k))

/-- Write a record's 60 bytes with its sequence number to the next slot of the ring (R95). -/
def State.putRecord (s : State) (k : Atoll) (r : List Byte) : State :=
  let i := s.fld (F.HBR_CR_TAIL_TAIL k)
  let a := s.carve (s.fld (F.HBR_CR_BASE_BASE k) + 64 * (i % 2 ^ s.fld (F.HBR_CR_SIZE_LOG2 k)))
  let s := (s.reach k a 64 true true).skiffWrite a (r ++ bytesOf 4 (i + 1))
  s.setFld (F.HBR_CR_TAIL_TAIL k) (i + 1)

/-- A completion record: dropped and counted while the ring is off (R97), else written, or held in order where the ring
is full or others wait (R96) (log 31: DESIGN CHOICE, unsafe). -/
def State.record (s : State) (k : Atoll) (r : List Byte) : State :=
  if s.fld (F.HBR_CR_SIZE_EN k) = 0 then s.bump (F.HBR_CR_DROP_DROP k)
  else if (s.atl k).hold.isEmpty && s.ringRoom k then s.putRecord k r
  else (s.onAtl k fun a => { a with hold := a.hold ++ [r] }).raise 0x0B 0 2

/-- The 16-record hold of atoll `k` has room (R96, R227). -/
def State.holdRoom (s : State) (k : Atoll) : Bool := decide ((s.atl k).hold.length < 16)

/-- Bytes 0-59 of a completion record (R228). -/
def State.recordBytes (s : State) (k : Atoll) (status value tag rslot bundle : Nat) : List Byte :=
  let q := (s.atl k).seq
  let (queue, user) := q.entry.getD (0, 0)
  let x := q.slice.filter fun _ => q.run != some .fitWait
  bytesOf 2 status ++ bytesOf 1 k.val ++ bytesOf 1 queue ++ bytesOf 4 user ++ bytesOf 6 s.tideNo ++
  bytesOf 2 (x.elim 0 fun x => x.phase) ++
  bytesOf 8 (if status = 0 then value else 0) ++ bytesOf 4 (if status = 0 then tag else 0) ++
  bytesOf 4 (min (x.elim 0 fun x => s.clocks k - x.clk0) (2 ^ 32 - 1)) ++
  bytesOf 4 (min (x.elim 0 fun x => x.stall) (2 ^ 32 - 1)) ++
  bytesOf 2 (min (x.elim 0 fun x => x.runs) 15) ++ bytesOf 2 (min (x.elim 0 fun x => x.cuts) 0xFFFF) ++
  bytesOf 2 bundle ++ bytesOf 2 rslot ++ bytesOf 16 0

/-! ### Plan queues (R90-R94) -/

/-- Halt plan queue `n` (R94). -/
def State.haltQueue (s : State) (n : Nat) : State := (s.setFld (F.HBR_QSTAT_HALTED n) 1).raise 0x0B 0 1

/-- Device-physical address of the plan entry at index `h` of queue `n` (R90). -/
def State.entryAddr (s : State) (n h : Nat) : Nat :=
  s.carve (s.fld F.HBR_QREGION_BASE * 2 ^ 25 + n * 0x4_0000 + h % 4096 * 64)

/-- The head entry of queue `n` may start: not halted, not empty, due (R93). -/
def State.queueDue (s : State) (n : Nat) : Bool :=
  let h := s.fld (F.HBR_QSTAT_HEAD n)
  s.fld (F.HBR_QSTAT_HALTED n) == 0 && h != s.fld (F.HBR_QSTAT_TAIL n) &&
  decide (ofBytes (s.devBytes (s.entryAddr n h + 16) 6) ≤ s.tideNo)

/-- Scalar state at the start of a plan entry (R213): the counters stay. -/
def SeqRegs.entry (r : SeqRegs) (pc args user q : Nat) : SeqRegs :=
  { r with
    pc := pc / 128 * 128
    s := SMap.put (fun _ => 0) (SMap.put (fun _ => 0) (SMap.put (fun _ => 0) [] 1 (BitVec.ofNat 64 args)) 2
      (BitVec.ofNat 64 user)) 3 (BitVec.ofNat 64 q)
    p := []
    rstack := []
    lstack := [] }

/-! ### Units of a voided slice -/

/-- Every exact accumulator cleared (R191), no VDRAIN left half read. -/
def VecSt.clearXa (v : VecSt) : VecSt := { v with xa := [], drained := none }

/-- Cancel the attached streams: they leave the engine uncounted, their pending lines clear (R227, R287), and their
fault records become CANCELLED (R300). -/
def StrmSt.cancelAttached (m : StrmSt) : StrmSt :=
  let gone := (m.streams.filter fun x => !x.detach).map StreamSt.slot
  { m with
    streams := m.streams.filter fun x => x.detach
    flowWait := []
    flt := m.flt.map fun (i, r) =>
      if (r.state = .waitSelf ∨ r.state = .waitHost) ∧ !r.detach ∧ gone.contains r.stream
      then (i, { r with state := .cancelled }) else (i, r) }

/-- The running slice gives its sample: its phase tag and the clocks it ran (R399). -/
def State.sample (s : State) (k : Atoll) : State :=
  match (s.atl k).seq.slice with
  | some x =>
    if (s.atl k).seq.run = some .running then
      s.onPwr k fun p => { p with phases := p.phases ++ [(x.phase, x.used + (s.clocks k - x.start), s.fld (F.PWR_ATL_SET_PT k))] }
    else s
  | none => s

/-- Drop what a slice that does not go on has in the units: banks and steps (R131), exact sums (R191), attached
streams (R227), its deltas and deferred sends (R176, R227). Streams of their counters that had waited for a cancelled one
are counted (R284), no answer is awaited for a cancelled record (R300), and the records that came free are taken (R296). -/
def State.dropUnits (s : State) (k : Atoll) : State :=
  let s := (s.sample k).onAtl k fun a =>
    { a with
      arr := a.arr.void
      vec := a.vec.clearXa
      strm := a.strm.cancelAttached
      seq := { a.seq with
        await := none
        stalled := false
        acted := none
        passed := false
        slice := a.seq.slice.map fun x =>
          { x with qcloses := [], defers := [], deltas := [], gcg := [], finishes := [], publish := none } } }
  let s := s.each (List.range 16) fun s c => s.settle k c 128
  let s := { s with waits := s.waits.filter fun w =>
    !(w.page == pageIx 0x17 k && w.bit == 0 && ((s.atl k).strm.fltAt w.what).state == FltState.cancelled) }
  s.assignFaults State.abortDetached k 64

/-! ### Ends of a slice -/

/-- The sequencer has no entry and no slice. -/
def SeqSt.idle (q : SeqSt) : SeqSt :=
  { q with entry := none, slice := none, run := none, faults := 0, await := none, stalled := false, passed := false, acted := none }

/-- The running slice or entry of atoll `k` ends with `status` and is not reissued: its record is published, its queue
halts (R37, R121, R209, R230). `bundle` is the refused bundle's index. Where a slice ends so, whatever the status, it is
an abandoned slice of the TIDE page; an entry that ends outside a slice is none (log 32: DEDUCED, unsafe) (log 31:
DESIGN CHOICE, unsafe). -/
def State.endSlice (s : State) (k : Atoll) (status bundle : Nat) : State :=
  match (s.atl k).seq.entry with
  | none => s
  | some (queue, _) =>
    let open' := (s.atl k).seq.slice.isSome
    let rec' := s.recordBytes k status 0 0 0x8000 bundle
    let s := s.dropUnits k
    let s := if open' then ((s.bump F.TIDE_CNT_ABANDON).raise 0x01 0 4).bump (F.SEQ_CNT_ABANDON k) else s
    let s := s.record k rec'
    let s := s.onSeq k SeqSt.idle
    s.haltQueue (16 * k + queue)

/-- The slice is abandoned: completion status TIDE_ABANDONED (R37). -/
def State.abandon (s : State) (k : Atoll) : State := s.endSlice k 1 0

/-- A bundle is refused with `code` of R230: the slice or the entry ends with SEQ_FAULT. With no entry running there is
no bundle to refuse. -/
def State.refuse (s : State) (k : Atoll) (code : Nat) : State :=
  if (s.atl k).seq.entry.isNone then s else
  let b := (s.atl k).seq.r.pc / 128
  let s := s.setFld (F.SEQ_FAULT_CODE k) code
  let s := s.setFld (F.SEQ_FAULT_BUNDLE k) b
  let s := s.raise 0x15 k 0
  s.endSlice k 4 (b % 2 ^ 16)

/-- The slice stops at a TIDE_FAULT: units dropped, held for reissue, or abandoned after TIDE_REISSUE.MAX faults in a
row (R37, R39). -/
def State.tideFault (s : State) (k : Atoll) : State :=
  let s := (s.bump F.TIDE_CNT_FAULT).bump (F.SEQ_CNT_FAULT k)
  let s := s.raise 0x01 0 0
  let s := s.onSeq k fun q => { q with faults := q.faults + 1 }
  if max 1 (s.fld F.TIDE_REISSUE_MAX) ≤ (s.atl k).seq.faults then s.abandon k
  else (s.dropUnits k).onSeq k fun q => { q with run := some .reissue }

/-- The slice is voided and held until the walk of `va` succeeds (R299). -/
def State.voidSlice (s : State) (k : Atoll) (va : Nat) (write : Bool) : State :=
  let s := s.raise 0x17 k 3
  (s.dropUnits k).onSeq k fun q => { q with run := some (.voided va write 0) }

/-- A held slice is abandoned (R299). -/
def State.abandonHeld (s : State) (k : Atoll) : State := (s.raise 0x17 k 4).abandon k

/-! ### Starting a slice -/

/-- A slice is running on atoll `k`: from the pass of its fit test until step 2 of its PUBLISH (R38). -/
def State.running (s : State) (k : Atoll) : Bool := (s.atl k).seq.run == some .running

/-- Slice starts are held on the atoll: its clocks of this tide are charged (R43), or the field test runs (R124). -/
def State.startHeld (s : State) (k : Atoll) : Bool := decide (s.tide.phase < (s.atl k).seq.hold) || (s.atl k).arr.testRun

/-- No slice may start on the atoll, whatever its budget: unaligned (R52), a ticket DIVERGED (R78), a snapshot stop
(R46), the coolant stop (R48), or a hold of the atoll's own (R43, R124). -/
def State.noStart (s : State) (k : Atoll) : Bool :=
  s.tide.unaligned || [0, 1, 2, 3].any (fun t => s.fld (F.COMMIT_STAT_STATE t) == 7) || s.ckpt.stop.isSome ||
  s.flag F.THERM_STAT_COOLANT_STOP || !s.tide.running || s.startHeld k

/-- Outcome of a fit test (R33, R36). -/
inductive Fit where
  | start | oversize | wait
  deriving DecidableEq, Repr

/-- The fit test of `need` clocks (R33): none passes from the mark point to slack, not even for a budget of 0 (R35). A
need larger than a whole tide starts at the first slack, as oversize (R36), but not on an atoll whose clock is stopped
(log 100: DESIGN CHOICE, unsafe). -/
def State.fit (s : State) (k : Atoll) (need : Nat) : Fit :=
  let left := s.clocksLeft k
  if s.noStart k || decide (s.markPoint ≤ s.tide.phase) then .wait
  else if need ≤ left then .start
  else if s.markPoint * s.fset k / 100 < need ∧ s.tide.phase = 0 ∧ 0 < left then .oversize
  else .wait

/-- The slice waits for slack, for want of clocks or because starts are barred (log 101: DESIGN CHOICE, unsafe); counted
once (R48). -/
def State.fitWait (s : State) (k : Atoll) : State :=
  match (s.atl k).seq.slice with
  | some x =>
    if x.waited then s
    else
      let s := (s.bump F.TIDE_CNT_FITWAIT).bump (F.SEQ_CNT_FITWAIT k)
      s.onSeq k fun q => { q with slice := some { x with waited := true } }
  | none => s

/-- Count an oversize start (R36). -/
def State.oversize (s : State) (k : Atoll) : State :=
  ((s.bump F.TIDE_CNT_OVERSIZE).bump (F.SEQ_CNT_OVERSIZE k)).raise 0x01 0 3

/-- The slice at its fit test opens: it runs from this clock, with its phase tag and budget in the SEQ page. -/
def State.openSlice (s : State) (k : Atoll) : State :=
  let c := s.clocks k
  let s := s.onSeq k fun q =>
    { q with run := some .running
             slice := q.slice.map fun x => { x with clk0 := c, start := c, used := 0, stall := 0, waited := false } }
  match (s.atl k).seq.slice with
  | some x =>
    let s := s.onPwr k fun p => { p with passed := p.passed ++ [(x.phase, x.budget)] }
    let s := s.setFld (F.SEQ_SLICE_PHASE k) x.phase
    let s := s.setFld (F.SEQ_SLICE_RUNS k) (min x.runs 15)
    s.setFld (F.SEQ_BUDGET_BUDGET k) x.budget
  | none => s

/-- Apply the fit test to the slice that comes to it; the truth value tells whether it opened (R33, R36). While starts
are held the test waits. -/
def State.tryOpen (s : State) (k : Atoll) : State × Bool :=
  match (s.atl k).seq.slice with
  | none => (s, false)
  | some x =>
    if s.startHeld k then (s, false)
    else match s.fit k x.budget with
    | .start => (s.openSlice k, true)
    | .oversize => ((s.oversize k).openSlice k, true)
    | .wait => (s.fitWait k, false)

/-- Take the slice snapshot at the SLICE bundle and come to the fit test (R225). -/
def State.enterSlice (s : State) (k : Atoll) (phase budget : Nat) : State :=
  s.onSeq k fun q => { q with slice := some { phase := phase, budget := budget, snap := q.r }, run := some .fitWait,
                              faults := 0 }

/-- The counter map of the stream counters after a reissue: the snapshot's value plus the detached completions since
(R227). -/
def restoredSc (snap : SMap Word32) (det : SMap Nat) : SMap Word32 :=
  det.foldl (fun m e => SMap.put (fun _ => 0) m e.1 (SMap.get (fun _ => 0) m e.1 + BitVec.ofNat 32 e.2)) snap

/-- Restore the snapshot for a reissue, which comes to the fit test again (R226). -/
def State.reissue (s : State) (k : Atoll) : State :=
  s.onSeq k fun q =>
    match q.slice with
    | some x =>
      { q with
        r := { x.snap with sc := restoredSc x.snap.sc x.detached }
        run := some .fitWait
        slice := some { x with runs := x.runs + 1 } }
    | none => q

end Sys2Proof.Machine
end

