-- ==== Sys2Proof/Machine/Shoal.lean ====
section
/-! DEFINITION. Shoal memory (11_shoal_memory.md): the Reed-Solomon code and its two decode modes (R257-R259), bursts
and their retries (R260), the scrubber (R261), retraining windows and their hold (R262-R266), map-out and migration
(R267-R269), rows and pages (R270-R272). -/

namespace Sys2Proof.Machine

open Host (Outcome)

/-! ### The code (R257, R258) -/

/-- Product in GF(2^8) with field polynomial x^8 + x^4 + x^3 + x^2 + 1 (R257). -/
def gfMul (a b : Nat) : Nat :=
  ((List.range 8).foldl (fun (x : Nat × Nat) i =>
    (if b.testBit i then x.1 ^^^ x.2 else x.1,
     if x.2.testBit 7 then (x.2 * 2) ^^^ 0x11D else x.2 * 2)) (0, a)).1

/-- α to the power `n`, α = 2. -/
def gfExp (n : Nat) : Nat := (List.range (n % 255)).foldl (fun a _ => gfMul a 2) 1

/-- Inverse of a nonzero element: its 254th power. -/
def gfInv (a : Nat) : Nat :=
  let a2 := gfMul a a
  let a4 := gfMul a2 a2
  let a8 := gfMul a4 a4
  let a16 := gfMul a8 a8
  let a32 := gfMul a16 a16
  let a64 := gfMul a32 a32
  let a128 := gfMul a64 a64
  [a2, a4, a8, a16, a32, a64, a128].foldl gfMul 1

/-- Value of a polynomial, lowest coefficient first, at `x`. -/
def gfEval (p : List Nat) (x : Nat) : Nat := p.foldr (fun c a => c ^^^ gfMul a x) 0

/-- The sum of two polynomials. -/
def polyAdd : List Nat → List Nat → List Nat
  | [], q => q
  | p, [] => p
  | a :: p, b :: q => (a ^^^ b) :: polyAdd p q

/-- Power of x of symbol `i` of a codeword: bytes 0 to 127, then the check symbols (R257). -/
def symbolPower (i : Nat) : Nat := 135 - i

/-- The eight syndromes of an error pattern: symbol and what is exclusive-ored into it. -/
def syndromes (e : List (Nat × Nat)) : List Nat :=
  (List.range 8).map fun j => e.foldl (fun a x => a ^^^ gfMul x.2 (gfExp (j * symbolPower x.1))) 0

/-- The check symbols of a poisoned atom, complemented (R259). -/
def poisonPattern : List (Nat × Nat) := (List.range 8).map fun q => (128 + q, 0xFF)

/-- The generator g(x), lowest coefficient first, without its leading 1: the product of x - α^j for j below 8 (R257). -/
def generator : List Nat :=
  ((List.range 8).foldl (fun g j => polyAdd (0 :: g) (g.map (gfMul (gfExp j)))) [1]).take 8

/-- The check symbols of an atom, chk_0 first: the remainder of its bytes, byte 0 the highest, by g(x) (R257). -/
def checkSymbols (bs : List Byte) : List Nat :=
  ((bs.foldl (fun (r : List Nat) b =>
    let f := b.toNat ^^^ r.getD 7 0
    ((0 :: r.take 7).zip generator).map fun x => x.1 ^^^ gfMul f x.2) (List.replicate 8 0))).reverse

/-- The 136 symbols of a good atom's codeword, those of a poisoned one complemented in its check symbols (R257, R259). -/
def codeword (bs : List Byte) (poisoned : Bool) : List Nat :=
  bs.map BitVec.toNat ++ (checkSymbols bs).map fun c => if poisoned then c ^^^ 0xFF else c

/-- Symbol and bit that pin `p` carries in beat `b`: byte n on pin n mod 16 in the eight beats from 8 (n div 16) on, check
symbol q on pin 16 from beat 8q on, bit t in the t-th of them (R257). -/
def burstBit (b p : Nat) : Nat × Nat := (if p = 16 then 128 + b / 8 else 16 * (b / 8) + p, b % 8)

/-- The 1,088 bits of a burst in beat order and, within a beat, pins 0 to 16 (R252, R260). -/
def burstBits (cw : List Nat) : List Bool :=
  (List.range 64).flatMap fun b => (List.range 17).map fun p => (cw.getD (burstBit b p).1 0).testBit (burstBit b p).2

/-- CRC-16 of polynomial 0x1021 with initial value 0xFFFF (R260). -/
def crc16 (l : List Bool) : Nat :=
  l.foldl (fun c b => if c.testBit 15 != b then (c * 2 % 65536) ^^^ 0x1021 else c * 2 % 65536) 0xFFFF

/-- A codeword with the flips of an attempt. -/
def burstFlipped (t : BurstTry) (cw : List Nat) : List Nat :=
  t.flips.foldl (fun w e => w.set (burstBit e.1 e.2).1 (w.getD (burstBit e.1 e.2).1 0 ^^^ 2 ^ (burstBit e.1 e.2).2)) cw

/-- The CRC of an attempt at a burst of codeword `cw` fails: that of what was received is not the one sent (R260). -/
def burstFails (t : BurstTry) (cw : List Nat) : Bool :=
  decide (t.crc ≠ 0) && t.flips.isEmpty || !t.flips.isEmpty && crc16 (burstBits (burstFlipped t cw)) != (crc16 (burstBits cw) ^^^ t.crc.toNat)

/-- Attempts that fail before the first that passes. -/
def crcFails (n : BurstNoise) (cw : List Nat) : Nat := (n.tries.takeWhile fun t => burstFails t cw).length

/-- Errors of the codeword as it is decoded: those of the stack, and those of an attempt whose CRC let them by. -/
def seenErrors (n : BurstNoise) (cw : List Nat) : List (Nat × Byte) :=
  n.errors ++ match n.tries.drop (crcFails n cw) with
    | [] => []
    | t :: _ => t.flips.map fun e => ((burstBit e.1 e.2).1, BitVec.ofNat 8 (2 ^ (burstBit e.1 e.2).2))

/-- State of the search for the shortest locator: locator, previous locator, degree, shift, last discrepancy. -/
structure Locator where
  c : List Nat
  b : List Nat
  l : Nat
  m : Nat
  d : Nat

/-- One syndrome entered into the search. -/
def Locator.next (z : Locator) (syn : List Nat) (n : Nat) : Locator :=
  let d := (List.range (z.l + 1)).foldl (fun a i => a ^^^ gfMul (z.c.getD i 0) (syn.getD (n - i) 0)) 0
  if d = 0 then { z with m := z.m + 1 }
  else
    let f := gfMul d (gfInv z.d)
    let c := polyAdd z.c (List.replicate z.m 0 ++ z.b.map (gfMul f))
    if 2 * z.l ≤ n then ⟨c, z.c, n + 1 - z.l, 1, d⟩ else { z with c := c, m := z.m + 1 }

/-- The error pattern of at most `t` symbols with these syndromes, if there is one (R258). -/
def rsDecode (t : Nat) (syn : List Nat) : Option (List (Nat × Nat)) :=
  if syn.all fun x => x == 0 then some []
  else
    let z := (List.range 8).foldl (fun (z : Locator) n => z.next syn n) (Locator.mk [1] [1] 0 1 1)
    let at' := (List.range 136).filter fun i => gfEval z.c (gfExp (255 - symbolPower i)) == 0
    let omega := (List.range 8).map fun n =>
      (List.range (n + 1)).foldl (fun a i => a ^^^ gfMul (z.c.getD i 0) (syn.getD (n - i) 0)) 0
    let deriv := (List.range z.c.length).map fun i => if i % 2 = 0 then z.c.getD (i + 1) 0 else 0
    let e := at'.map fun i =>
      let x := gfExp (symbolPower i)
      let y := gfExp (255 - symbolPower i)
      (i, gfMul x (gfMul (gfEval omega y) (gfInv (gfEval deriv y))))
    if z.l ≤ t ∧ at'.length = z.l ∧ syndromes e = syn then some e else none

/-- Bytes with an error pattern's data symbols exclusive-ored in. -/
def applyErrors (bs : List Byte) (e : List (Nat × Nat)) : List Byte :=
  bs.zipIdx.map fun b => e.foldl (fun a x => if x.1 = b.2 then a ^^^ BitVec.ofNat 8 x.2 else a) b.1

/-! ### Channels -/

/-- Stack page instance of a channel of atoll `k` (R255). -/
def stackOf (k c : Nat) : Nat := 6 * k + c % 6

/-- Local offset of the granule that lies at row `r` of channel `c`: its own, or the one its reserve hosts (R255, R267);
`fuel` bounds the chain. -/
def McSt.pageOf (m : McSt) : Nat → Nat → Nat → Option Nat
  | 0, _, _ => none
  | fuel + 1, c, r =>
    if r < 516096 then
      let sk := r * 197 % 768
      some ((r * 768 + (c + 768 - sk) % 768) * 512)
    else
      let runs := m.maps.map (fun x => (x.chan, x.hosts)) ++ (match m.ebb with | some e => [(e.chan, e.hosts)] | none => [])
      match runs.findSome? fun x => (x.2.findIdx? fun h => h == c).map fun i => (x.1, i) with
      | some (c', i) => McSt.pageOf m fuel c' (i * 8192 + r % 8192)
      | none => none

/-- Withdraw a page from allocation (R271, R272). -/
def State.retirePage (s : State) (k : Atoll) (page : Nat) : State :=
  let s := (s.onMc k fun m => { m with pend := m.pend.filter fun e => e.1 != page }).answered 0x1A k 2 page
  if page ∈ (s.atl k).mc.retired then s
  else if 1024 ≤ (s.atl k).mc.retired.length then s.raise 0x1A k 8
  else (s.onMc k fun m => { m with retired := m.retired ++ [page] }).raise 0x1A k 7

/-- A page awaits retirement (R271): in self mode until the next slack, in host mode in MC_RETIRE_PEND for the harbour. -/
def State.markPage (s : State) (k : Atoll) (page : Nat) : State :=
  let m := (s.atl k).mc
  if page ∈ m.retired ∨ m.pend.any (fun e => e.1 == page) ∨ s.selfActs.any (fun a => a.act == .retire k page) then s
  else if s.hosted 0x1A k 2 then
    ((s.onMc k fun m => { m with pend := m.pend ++ [(page, s.tideNo)] }).raise 0x1A k 6).awaitHost 0x1A k 2 page
  else { s with selfActs := s.selfActs ++ [⟨.retire k page, none, false⟩] }

/-- The row of offset `o` of a channel fails (R270, R271): its copy to a free spare row of its bank begins, or, where the
spares and the copies under way leave none, the pages of its four granules await retirement. -/
def State.rowFail (s : State) (k : Atoll) (c o : Nat) : State :=
  let ch := s.chan k c
  let key := rowKey o
  let s := s.onChan k c fun ch => { ch with tracked := ch.tracked.filter fun e => e.1 != key }
  if key ∈ ch.copying then s
  else if SMap.get (fun _ => 0) ch.spares (key / 4096) + (ch.copying.filter fun x => x / 4096 == key / 4096).length < 8 then
    s.onChan k c fun ch => { ch with copying := ch.copying ++ [key] }
  else
    let pages := ((List.range 4).filterMap fun i => (s.atl k).mc.pageOf 14 c (o / 2048 * 4 + i)).map fun a => a / 4096 * 4096
    s.each pages.eraseDups fun s p => s.markPage k p

/-- A corrected read of the row of offset `o`, tracked for 64 rows a channel; the row fails at MC_ROW_THR.CE corrected
reads within MC_ROW_THR.WINDOW tides (R270; the row dropped for a 65th is the longest tracked, log 44: DESIGN CHOICE,
unsafe). -/
def State.trackRow (s : State) (k : Atoll) (c o : Nat) : State :=
  let key := rowKey o
  let now := s.tide.slacks
  let win := s.fld (F.MC_ROW_THR_WINDOW k)
  let ch := s.chan k c
  let old := ((ch.tracked.find? fun e => e.1 == key).map Prod.snd).getD []
  let reads := (old.filter fun t => decide (now < t + win)) ++ [now]
  if s.fld (F.MC_ROW_THR_CE k) ≤ reads.length then s.rowFail k c o
  else
    let rest := ch.tracked.filter fun e => e.1 != key
    let rest := if 64 ≤ rest.length then rest.drop 1 else rest
    s.onChan k c fun ch => { ch with tracked := rest ++ [(key, reads)] }

/-! ### Bursts -/

/-- The received atom at place `p` (its first byte's) decoded under MC_ECC.MODE (R258, R259): its bytes, or none where
it is poisoned; counted, tracked, and an uncorrectable atom poisoned. `scrub` writes a corrected atom back. -/
def State.readAt (s : State) (p : Nat) (errors : List (Nat × Byte)) (scrub : Bool) : Option (List Byte) × State :=
  let k := atollOf (p / chanSpan / 768)
  let c := p / chanSpan % 768
  let st := stackOf k c
  if (s.chan k c).lost then (none, s)
  else
    let noise := errors.map fun e => (e.1, e.2.toNat)
    let bad := SMap.get (fun _ => false) s.poison (p / 128)
    let syn := syndromes (noise ++ if bad then poisonPattern else [])
    let stored := SMap.getRange memDefault s.mem p 128
    let got := applyErrors stored noise
    if syn = syndromes poisonPattern then (none, s)
    else
      match rsDecode (if s.flag (F.MC_ECC_MODE k) then 4 else 3) syn with
      | some [] => (some got, s)
      | some e =>
        let bs := applyErrors got e
        let s := (s.bump (F.MC_CNT_CE k)).bump (F.SHOAL_CNT_CE st)
        let s := if scrub then
            ({ s with mem := SMap.putRange memDefault s.mem p bs }.setPoison p false).bump (F.MC_CNT_SCRUB_CE k)
          else s
        (some bs, s.trackRow k c (p % chanSpan))
      | none =>
        let s := { s with mem := SMap.putRange memDefault s.mem p got }.setPoison p true
        let s := ((s.bump (F.MC_CNT_UE k)).bump (F.SHOAL_CNT_UE st)).raise 0x20 st 4
        (none, s.rowFail k c (p % chanSpan))

/-- Count the retries of a burst on a channel (R260); a third failed retry makes its retraining urgent, which raises
RETRAIN_NEED in host mode (R264). -/
def State.crcRetries (s : State) (k : Atoll) (c fails : Nat) : State :=
  let s := s.bump (F.SHOAL_CNT_CRC (stackOf k c)) (min fails 3)
  if fails < 4 ∨ (s.chan k c).state ≠ .ok then s
  else
    let raised := (s.chan k c).needRaised
    let s := s.onChan k c fun ch => { ch with urgent := true }
    if s.hosted 0x1A k 0 && !raised then
      ((s.onChan k c fun ch => { ch with needRaised := true }).raise 0x1A k 0).awaitHost 0x1A k 0 c
    else s

/-- `a` lies in an atoll's carve-out share (R254). -/
def carvedAddr (a : Nat) : Bool := decide (carveLocal ≤ a % atollSpan ∧ a % atollSpan < reserveLocal)

/-- The codeword at place `p` (its first byte's) as the stack holds it. -/
def State.codewordAt (s : State) (p : Nat) : List Nat :=
  codeword (SMap.getRange memDefault s.mem p 128) (SMap.get (fun _ => false) s.poison (p / 128))

/-- The requester of an atom is told. -/
def State.atomDone (s : State) (r : HeldReq) (poison : Bool) (data : List Byte) : State :=
  if r.who = .atom then s.emit (.atom r.addr r.write poison data) else s

/-- A request for an atom: held, retried, or served (R253, R258, R260, R263); during a snapshot stop only carve-out
accesses are (R377). Its answer goes to its requester (log 43: DESIGN CHOICE, unsafe). -/
def State.atomRequest (s : State) (r : HeldReq) : State :=
  if !s.stacked r.addr then s
  else
    let p := s.place (r.addr / 128 * 128)
    let k := atollOf (p / chanSpan / 768)
    let c := p / chanSpan % 768
    if s.holds p r.write || (s.ckpt.stop.isSome && !carvedAddr r.addr) then s.holdReq k c r
    else
      let cw := s.codewordAt p
      let s := s.crcRetries k c (crcFails r.noise cw)
      if s.holds p r.write then s.holdReq k c { r with noise := { r.noise with tries := [] } }
      else
        let whole := r.addr % 128 == 0 && r.data.length == 128
        if r.write && whole then ((s.atomWrite r.addr r.data).1).atomDone r false []
        else
          let s := if r.write then s.flushAtom r.addr else s
          let held := s.heldBytes r.addr
          match s.readAt p (seenErrors r.noise cw) false with
          | (none, s) => s.atomDone r true []
          | (some bs, s) =>
            let bs := bs.zipIdx.map fun b => ((held.find? fun e => e.1 == b.2).map Prod.snd).getD b.1
            if r.write then
              let new := bs.take (r.addr % 128) ++ r.data ++ bs.drop (r.addr % 128 + r.data.length)
              ((s.atomWrite (r.addr / 128 * 128) new).1).atomDone r false []
            else s.atomDone r false bs

/-- A snapshot stop lasts `n` reference cycles longer (R377, R378). -/
def State.ckptLonger (s : State) (n : Nat) : State :=
  { s with ckpt := { s.ckpt with stop := s.ckpt.stop.map fun x => { x with len := x.len + n } } }

/-- A carve-out burst of the harbour lengthens a stop by the cycles it takes, which no rule gives (R378): a free value
(log 75: DESIGN CHOICE, unsafe). -/
def State.stopBurst (s : State) : State :=
  if s.ckpt.stop.isSome then let (i, s) := s.fresh; s.ckptLonger (Config.freeBits 16 i).toNat else s

/-! ### Memory requests of the harbour (R83-R88) -/

/-- Bases of the carve-out, the device-memory aperture and the PCIe outbound region in the harbour's map (R83). -/
abbrev carveBase : Nat := 0x10_0000_0000
abbrev apertureBase : Nat := 0x200_0000_0000
abbrev outboundBase : Nat := 0x400_0000_0000

/-- Bytes `[o, o + n)` of the carve-out cut at its 4 KiB granules: offset and length; `fuel` bounds the pieces (R84). -/
def granules : Nat → Nat → Nat → List (Nat × Nat)
  | 0, _, _ => []
  | fuel + 1, o, n => if n = 0 then [] else let m := min n (4096 - o % 4096); (o, m) :: granules fuel (o + m) (n - m)

/-- Device-physical ranges that the harbour's addresses `[a, a + n)` reach: in the carve-out, or in the aperture but for
the carve-out and what lies beyond the stacks in service; none is an error completion (R83, R84). -/
def State.memPlaces (s : State) (a n : Nat) : Option (List (Nat × Nat)) :=
  let bad (p : Nat) : Bool := !s.stacked p || carvedAddr p
  if carveBase ≤ a ∧ a + n ≤ carveBase + s.carveSize then
    some ((granules 3 (a - carveBase) n).map fun e => (s.carve e.1, e.2))
  else if apertureBase ≤ a ∧ a + n ≤ apertureBase + 8 * atollSpan then
    if bad (a - apertureBase) || bad (a - apertureBase + n - 1) then none else some [(a - apertureBase, n)]
  else none

/-- Atoms of device-physical ranges. -/
def atomsOf (l : List (Nat × Nat)) : List Nat :=
  l.flatMap fun e => (List.range ((e.1 + e.2 + 127) / 128 - e.1 / 128)).map fun i => e.1 / 128 + i

/-- A completion to the harbour of a request of type `ty` to address `addr`: 1 register, 2 memory, 3 doorbell (R86). -/
def State.complete (s : State) (ty tag addr : Nat) (poison : Bool) (data : List Byte) : State :=
  s.emit (.completion (ty * 16 + if poison then 3 else 2) tag poison addr data)

/-- Write `bs` to device-physical ranges in turn; whether a part met a poisoned atom and was dropped (R253). -/
def State.memWrite (s : State) (l : List (Nat × Nat)) (bs : List Byte) : State × Bool :=
  (l.foldl (fun (x : (State × Bool) × List Byte) e =>
    let (s, d) := x.1.1.devWrite e.1 (x.2.take e.2)
    ((s, x.1.2 || d), x.2.drop e.2)) ((s, false), bs)).1

/-- A request is served and completed (R87): poisoned data, or a part of a write dropped, is an error completion with
POISON set. Accesses outside the carve-out are of the remote class, those in it of the read and write classes (R85, R289). -/
def State.memServe (s : State) (r : MemReq) (l : List (Nat × Nat)) : State :=
  let cls := if r.addr < apertureBase then (if r.write then 1 else 0) else 2
  let s := s.each (atomsOf l) fun s x => s.burst (128 * x) cls
  let s := if r.addr < apertureBase then s.stopBurst
    else s.each l fun s e => s.bump (F.STRM_CNT_REMOTE (e.1 / atollSpan)) e.2
  if r.write then let (s, d) := s.memWrite l r.data; s.complete 2 r.tag r.addr d []
  else if l.any fun e => s.devPoison e.1 e.2 then s.complete 2 r.tag r.addr true []
  else s.complete 2 r.tag r.addr false (l.flatMap fun e => s.devBytes e.1 e.2)

/-- Memory requests of the harbour that wait in the holds of channels. -/
def State.heldMem (s : State) : List MemReq :=
  allAtolls.flatMap fun k => (s.atl k).mc.chans.flatMap fun c => c.2.hold.filterMap fun h =>
    match h.who with | .harbour r => some r | _ => none

/-- Every command of the harbour that waits: in a hold, in its attachment, or for a stop to end. -/
def State.waitingMem (s : State) : List MemReq := s.heldMem ++ s.memWait

/-- The link a request takes: the atoll of its first byte (R84, R86, R89). -/
def linkOf (l : List (Nat × Nat)) : Nat := (l.head?.map fun e => e.1 / atollSpan).getD 8

/-- 4,096 requests are outstanding on the link of the ranges `l`: the next waits in the harbour's attachment (R87). -/
def State.linkFull (s : State) (l : List (Nat × Nat)) : Bool :=
  decide (4096 ≤ (s.waitingMem.filter fun q => q.bell.isNone &&
    ((s.memPlaces q.addr q.len).map linkOf) == some (linkOf l)).length)

/-- The first place of the request that its channel holds. -/
def State.heldPlace (s : State) (r : MemReq) (l : List (Nat × Nat)) : Option Nat :=
  ((atomsOf l).map fun x => s.place (128 * x)).find? fun p => s.holds p r.write

/-- A doorbell carrying tail `t` to queue `n`; one to a queue of an atoll out of service is rejected (R91, R92, R457). -/
def State.doorbell (s : State) (n t : Nat) : State :=
  if s.inService (n / 16) ∧ (t + 8192 - s.fld (F.HBR_QSTAT_HEAD n)) % 8192 ≤ 4096 then s.setFld (F.HBR_QSTAT_TAIL n) t
  else (s.setFld (F.HBR_QSTAT_REJ n) 1).raise 0x0B 0 0

/-- A doorbell of core `core`: it is sent once every memory write that core issued earlier has completed (R88). -/
def State.bellRequest (s : State) (core n t : Nat) : State :=
  if s.waitingMem.any fun q => q.core == core && q.write && q.bell.isNone then
    { s with memWait := s.memWait ++ [⟨core, 0, false, 0, 0, [], some (n, t)⟩] }
  else s.doorbell n t

/-- A memory request: an error completion where it reaches nothing; it waits behind one that waits for the same atom, for
room on its link, for the end of a stop, and in the hold of a channel that holds it (R83, R87, R263, R377). -/
def State.memRequest (s : State) (r : MemReq) : State :=
  match r.bell with
  | some (n, t) => s.bellRequest r.core n t
  | none =>
    match s.memPlaces r.addr r.len with
    | none => s.emit (.completion 0x23 r.tag false r.addr [])
    | some l =>
      let behind := s.waitingMem.any fun q => q.bell.isNone &&
        (((s.memPlaces q.addr q.len).getD []) |> atomsOf |>.any fun x => (atomsOf l).contains x)
      if behind || s.linkFull l || (s.ckpt.stop.isSome && decide (apertureBase ≤ r.addr)) then
        { s with memWait := s.memWait ++ [r] }
      else match s.heldPlace r l with
        | some p => s.holdReq (atollOf (p / chanSpan / 768)) (p / chanSpan % 768) ⟨r.write, r.addr, [], ⟨[], []⟩, .harbour r⟩
        | none => s.memServe r l

/-- Waiting commands of the harbour are tried again, in arrival order. -/
def State.memDrain (s : State) : State :=
  let l := s.memWait
  { s with memWait := [] }.each l State.memRequest

/-- Requests held for a channel proceed in arrival order, ahead of later ones; those a bank's copy still holds stay
(R263, R270) (log 43: DESIGN CHOICE, unsafe). -/
def State.drainHold (s : State) (k : Atoll) (c : Nat) : State :=
  let l := (s.chan k c).hold
  ((s.onChan k c fun ch => { ch with hold := [] }).each l fun s r =>
    match r.who with | .harbour q => s.memRequest q | _ => s.atomRequest r).memDrain

/-! ### Windows (R262-R266) -/

/-- The channel to train next, if any is due (R262): urgent, then requested, then by period, lowest first. In host mode
only one the harbour has requested is opened (R264). -/
def State.dueChannel (s : State) (k : Atoll) : Option Nat :=
  let ok (c : Nat) : Bool := (s.chan k c).state == .ok
  let host := s.hosted 0x1A k 0
  let per := s.fld (F.MC_RETRAIN_PERIOD k)
  let l := List.range 768
  let urgent := l.find? fun c => ok c && (s.chan k c).urgent && (!host || (s.chan k c).requested)
  let asked := l.find? fun c => ok c && (s.chan k c).requested
  let aged := if host ∨ per = 0 then none else l.find? fun c => ok c && decide ((s.chan k c).trained + per ≤ s.tide.slacks)
  urgent.orElse fun _ => asked.orElse fun _ => aged

/-- In host mode every channel that has come due, urgently or by period, raises RETRAIN_NEED, once (R264). -/
def State.raiseDue (s : State) (k : Atoll) : State :=
  let per := s.fld (F.MC_RETRAIN_PERIOD k)
  if !s.hosted 0x1A k 0 then s
  else
    let due := (List.range 768).filter fun c =>
      let ch := s.chan k c
      ch.state == .ok && !ch.needRaised && !ch.requested &&
        (ch.urgent || (per != 0 && decide (ch.trained + per ≤ s.tide.slacks)))
    s.each due fun s c =>
      ((s.onChan k c fun ch => { ch with needRaised := true }).raise 0x1A k 0).awaitHost 0x1A k 0 c

/-- Step 6 of R45 for atoll `k`: outside a snapshot stop, or urgent (R377), a window opens for its due channel. -/
def State.openWindow (s : State) (k : Atoll) : State :=
  let s := s.raiseDue k
  if (s.atl k).mc.window.isSome then s
  else
    match s.dueChannel k with
    | none => s
    | some c =>
      if s.ckpt.stop.isSome && !(s.chan k c).urgent then s else
      let s := s.ckptLonger 3000
      let s := (s.onChan k c fun ch => { ch with state := .retrain, requested := false, needRaised := false }).answered 0x1A k 0 c
      let s := (s.onMc k fun m => { m with window := some c }).bump (F.MC_CNT_RETRAIN k)
      (s.setFld (F.MC_WINDOW_OPEN k) 1).setFld (F.MC_WINDOW_CHANNEL k) c

/-- Self mode takes a failing channel: its migration begins at the next slack no other runs at (R266, R269) (log 45:
DEDUCED, safe). -/
def State.queueMapout (s : State) (k : Atoll) (c : Nat) : State :=
  s.onMc k fun m => if c ∈ m.waiting then m else { m with waiting := m.waiting ++ [c] }

/-- The window of channel `c` ends with outcome `o` (R263, R265, R266). -/
def State.closeWindow (s : State) (k : Atoll) (c : Nat) (o : TrainOutcome) : State :=
  let st := stackOf k c
  let pins := (o.failed.map Fin.val).eraseDups.filter fun p => decide (p < 17)
  let spare := (s.chan k c).spare
  let carried (p : Nat) : Bool := spare == some p
  let lostPins := pins.filter fun p => !carried p
  let spareBad := spare.isSome && o.failed.any fun p => p.val == 17
  let take := spare.isNone && !lostPins.isEmpty
  let failing := (spare.isSome && !lostPins.isEmpty) || spareBad || 2 ≤ lostPins.length || !o.pass8
  let s := s.onChan k c fun ch =>
    { ch with
      state := .ok
      spare := if take then lostPins.head? else ch.spare
      trained := s.tide.slacks
      urgent := false
      failing := ch.failing || failing
      half := if failing then o.pass4 else ch.half
      lost := if failing then !o.pass4 else ch.lost }
  let s := s.onMc k fun m => { m with window := none }
  let s := s.setFld (F.MC_WINDOW_OPEN k) 0
  let s := s.raiseIf take 0x20 st 0
  let s := s.raise 0x1A k 1
  let s := if failing then
      let s := s.raise 0x20 st 3
      if s.hosted 0x1A k 1 then (s.raise 0x1A k 2).awaitHost 0x1A k 1 c else s.queueMapout k c
    else s
  s.drainHold k c

/-! ### Map-out (R267-R269) -/

/-- Channels whose reserve hosts a run. -/
def McSt.hosting (m : McSt) : List Nat :=
  m.maps.flatMap MapOut.hosts ++ (match m.ebb with | some e => e.hosts | none => [])

/-- Hosts for the runs of channel `c`, ascending, if enough are free (R267). -/
def State.hostsFor (s : State) (k : Atoll) (c : Nat) : Option (List Nat) :=
  let m := (s.atl k).mc
  let need := if c ∈ m.hosting then 64 else 63
  let free := (List.range 768).filter fun h =>
    h != c && (s.chan k h).state != .ebb && (s.chan k h).state != .mapped && !m.hosting.contains h
  if need ≤ free.length then some (free.take need) else none

/-- A map-out that cannot be made (R27, R267): the atoll is taken out of service at the next module reset. -/
def State.mapoutLimit (s : State) (k : Atoll) : State :=
  let s := s.raise 0x1A k 5
  { s with rst := { s.rst with losing := if s.rst.losing.any fun e => e.1 == k.val then s.rst.losing
                                         else s.rst.losing ++ [(k.val, 2)] } }

/-- The migration of channel `c` begins (R268): it is in ebb; what its hold kept goes to the new places. -/
def State.beginEbb (s : State) (k : Atoll) (c : Nat) : State :=
  match s.hostsFor k c with
  | none => s.mapoutLimit k
  | some hosts =>
    let lost := (s.chan k c).lost
    let s := s.onMc k fun m => { m with ebb := some ⟨c, lost, 0, hosts, [], 0, false⟩ }
    let s := s.onChan k c fun ch => { ch with state := .ebb, failing := false, urgent := false, requested := false }
    let s := ((s.setFld (F.MC_EBB_CHANNEL k) c).setFld (F.MC_EBB_LOST k) (if lost then 1 else 0)).setFld
      (F.MC_EBB_ACTIVE k) 1
    (s.raise 0x1A k 3).drainHold k c

/-- At a slack with no migration running and none that ends at it, the next channel's begins; at every slack the running
one's pace is granted (R269) (log 45: DEDUCED, safe). -/
def State.ebbSlack (s : State) (k : Atoll) : State :=
  let m := (s.atl k).mc
  let s :=
    match m.ebb, m.ended, m.waiting.filter (fun c => (s.chan k c).state != .retrain) with
    | none, false, c :: _ => (s.onMc k fun m => { m with waiting := m.waiting.erase c }).beginEbb k c
    | _, _, _ => s
  let pace := s.fld (F.MC_EBB_PACE_GRANULES k)
  s.onMc k fun m =>
    { m with ended := false, ebb := m.ebb.map fun e => { e with left := if e.lost then 4 * pace else pace } }

/-- Indices of a migration: the channel's granule rows, then those of a run it hosted (R268). -/
def EbbSt.total (e : EbbSt) : Nat := if e.hosts.length = 64 then 524288 else 516096

/-- The cursor past the granules already written; `fuel` bounds the search. -/
def EbbSt.skip (e : EbbSt) : Nat → Nat → Nat
  | 0, i => i
  | fuel + 1, i => if e.written.contains i then EbbSt.skip e fuel (i + 1) else i

/-- Copy the atom at place `p` to place `q` (R268): what the decoder makes of it, or a poisoned atom; one of an unreadable
channel is not read. -/
def State.ebbAtom (s : State) (k : Atoll) (c p q : Nat) (lost : Bool) (noise : BurstNoise) : State :=
  let stored := SMap.getRange memDefault s.mem p 128
  let put (s : State) (bs : List Byte) (bad : Bool) : State :=
    ({ s with mem := SMap.putRange memDefault s.mem q bs }).setPoison q bad
  if lost then put s stored true
  else
    let cw := s.codewordAt p
    match (s.crcRetries k c (crcFails noise cw)).readAt p (seenErrors noise cw) false with
    | (some bs, s) => put s bs false
    | (none, s) => put s (SMap.getRange memDefault s.mem p 128) true

/-- Copy one granule at the cursor (R268); `noise` disturbs its four atoms' reads. A granule whose bank is being copied
waits (R270). -/
def State.ebbOne (s : State) (k : Atoll) (noise : List BurstNoise) : State :=
  match (s.atl k).mc.ebb with
  | none => s
  | some e =>
    let i := e.skip (e.written.length + 1) e.cursor
    let p := placeOf k e.chan (i * 512)
    if e.total ≤ i || (s.chan k e.chan).copying.any fun x => x / 4096 == rowKey (i * 512) / 4096 then s
    else
      let (h, o) := hostedAt e.hosts (i * 512)
      let (h, o) := (s.atl k).mc.resolve 13 h o
      let s := s.each (List.range 4) fun s n =>
        s.ebbAtom k e.chan (p + 128 * n) (placeOf k h o + 128 * n) e.lost (noise.getD n ⟨[], []⟩)
      s.onMc k fun m => { m with ebb := m.ebb.map fun e => { e with cursor := i + 1, left := e.left - 1 } }

/-- After the last granule the channel is to become MAPPED, through ticket 3 (R76, R269). -/
def State.ebbEnd (s : State) (k : Atoll) : State :=
  match (s.atl k).mc.ebb with
  | none => s
  | some e =>
    let i := e.skip (e.written.length + 1) e.cursor
    let s := s.onMc k fun m => { m with ebb := some { e with cursor := i } }
    if e.done ∨ i < e.total then s
    else
      { s.onMc k fun m => { m with ebb := some { e with cursor := i, done := true } } with
        selfActs := s.selfActs ++ [⟨.mapped k, none, false⟩] }

/-- Copies of one tide: `n` more granules. -/
def State.ebbCopies (s : State) (k : Atoll) (noise : List BurstNoise) : Nat → State
  | 0 => s
  | n + 1 => State.ebbCopies (s.ebbOne k noise) k (noise.drop 4) n

/-- The channel becomes MAPPED (R269): the run table takes effect, the allocatable range falls by 256 MiB. -/
def State.mapDone (s : State) (k : Atoll) : State :=
  match (s.atl k).mc.ebb with
  | none => s
  | some e =>
    let s := s.onMc k fun m => { m with ebb := none, ended := true, maps := m.maps ++ [⟨e.chan, e.lost, e.hosts⟩] }
    let s := s.onChan k e.chan fun ch => { ch with state := .mapped }
    let s := s.setFld (F.MC_ALLOC_TOP_TOP k) (s.fld (F.MC_ALLOC_TOP_TOP k) - chanSpan)
    (s.setFld (F.MC_EBB_ACTIVE k) 0).raise 0x1A k 4

/-- MC_CMD MAPOUT of channel `c` (R266, R267, R274): a failing channel's wait for the harbour ends. -/
def State.mapoutCmd (s : State) (k : Atoll) (c : Nat) : State :=
  if 768 ≤ c ∨ (s.chan k c).state = .ebb ∨ (s.chan k c).state = .mapped then s
  else match s.hostsFor k c with
    | none => s.mapoutLimit k
    | some _ => (s.answered 0x1A k 1 c).queueMapout k c

/-- MC_CMD RETRAIN of channel `c` (R262, R264): its window opens at the next slack. -/
def State.retrainCmd (s : State) (k : Atoll) (c : Nat) : State :=
  if 768 ≤ c ∨ (s.chan k c).state = .ebb ∨ (s.chan k c).state = .mapped then s
  else (s.onChan k c fun ch => { ch with requested := true, needRaised := false }).answered 0x1A k 0 c

/-- MC_CMD RETIRE and MIGRATED: the oldest pending page is retired (R271). -/
def State.retireCmd (s : State) (k : Atoll) : State :=
  match (s.atl k).mc.pend with
  | (page, _) :: _ =>
    { s.retirePage k page with
      selfActs := s.selfActs.filter fun a => a.act != .retire k page }
  | [] => s

/-- MC_CMD (R274). -/
def State.mcCmd (s : State) (k : Atoll) (v : Nat) : State :=
  let c := bits v 9 0
  if bits v 31 28 = 1 then s.retrainCmd k c
  else if bits v 31 28 = 2 then s.mapoutCmd k c
  else if bits v 31 28 = 3 ∨ bits v 31 28 = 4 then s.retireCmd k
  else s

/-! ### Commands -/

/-- A transfer of `n` bytes at device-physical address `a` of class `cls`: its bursts, its count, and what the causeway
carries of it (R20, R289). -/
def State.classed (s : State) (a n : Nat) (write : Bool) (cls : MemClass) : State :=
  let k := atollOf (a / atollSpan)
  match cls with
  | .read => s.burst a 0
  | .write => s.burst a 1
  | .skiff => s.reach k a n write true
  | .remote (.atoll i) =>
    if i = k then (s.burst a 2).bump (F.STRM_CNT_REMOTE k) n else s.reach i a n write false
  | .remote (.port p) => s.reach k a n write false (some p)
  | .remote .harbour => (s.burst a 2).bump (F.STRM_CNT_REMOTE k) n

/-- ATOM_READ (R258): a read of the atom at a device-physical address. -/
def execAtomRead (addr : BitVec 41) (cls : MemClass) (noise : BurstNoise) (s : State) : Outcome State Fault Refusal :=
  if !s.stacked addr.toNat then .next s
  else .next ((s.classed addr.toNat 128 false cls).atomRequest ⟨false, addr.toNat, [], noise, .atom⟩)

/-- ATOM_WRITE (R253): whole or by read-modify-write; a skiff write waits in the merge buffer (R292). -/
def execAtomWrite (addr : BitVec 41) (cls : MemClass) (noise : BurstNoise) (data : List Byte) (s : State) :
    Outcome State Fault Refusal :=
  if !s.stacked addr.toNat then .next s
  else
    let s := s.classed addr.toNat data.length true cls
    if cls = .skiff then .next (s.skiffHold addr.toNat data)
    else .next (s.atomRequest ⟨true, addr.toNat, data, noise, .atom⟩)

/-- SCRUB_READ (R261): the next atom of channel `c`, in ascending offset. It comes a period after the channel's last,
where there was one, at the earliest: time passes up to then, if the tide has as long (log 110: DESIGN CHOICE, unsafe).
A channel that is mapped out is not scrubbed, one in a window or whose bank is being copied waits, and a burst that
fails its third retry is read again after the window. -/
def execScrubRead (k : Atoll) (c : Chan) (noise : BurstNoise) (s : State) : Outcome State Fault Refusal :=
  let i := SMap.get (fun _ => 0) (s.atl k).mc.scrub c.val
  let p := placeOf k c.val (128 * i)
  let per := s.fld (F.MC_SCRUB_PERIOD k)
  let due := match SMap.find (s.atl k).mc.scrubAt c.val with | some t => t + per | none => s.now
  if per = 0 ∨ !s.inService k ∨ (s.chan k c.val).state = .mapped ∨ s.holds p false then .next s
  else match s.runTo due with
  | none => .next s
  | some s =>
    let cw := s.codewordAt p
    let s := s.crcRetries k c.val (crcFails noise cw)
    let s := s.onMc k fun m => { m with scrubAt := SMap.ins m.scrubAt c.val s.now }
    if s.holds p false then .next s
    else
      let s := (s.readAt p (seenErrors noise cw) true).2
      .next (s.onMc k fun m => { m with scrub := SMap.put (fun _ => 0) m.scrub c.val ((i + 1) % 2097152) })

/-- EBB_COPY (R268, R269): the migrating channel copies the granules its pace leaves it in this tide. -/
def execEbbCopy (k : Atoll) (noise : List BurstNoise) (s : State) : Outcome State Fault Refusal :=
  match (s.atl k).mc.ebb with
  | none => .next s
  | some e => if e.left = 0 ∨ s.ckpt.stop.isSome then .next s else .next ((s.ebbCopies k noise e.left).ebbEnd k)

/-- WINDOW_DONE (R263). -/
def execWindowDone (k : Atoll) (o : TrainOutcome) (s : State) : Outcome State Fault Refusal :=
  match (s.atl k).mc.window with
  | some c => .next (s.closeWindow k c o)
  | none => .next s

/-- ROW_COPY_DONE (R270): the pointer switches to a free spare row, and the requests waiting for the bank proceed. -/
def execRowCopyDone (k : Atoll) (c : Chan) (bank : Fin 32) (s : State) : Outcome State Fault Refusal :=
  let ch := s.chan k c.val
  match ch.copying.find? fun x => x / 4096 == bank.val with
  | none => .next s
  | some key =>
    let used := SMap.get (fun _ => 0) ch.spares bank.val
    let again := (SMap.find ch.remap key).isSome
    let st := stackOf k c.val
    let s := s.onChan k c.val fun ch =>
      { ch with
        copying := ch.copying.erase key
        spares := SMap.put (fun _ => 0) ch.spares bank.val (used + 1)
        remap := SMap.ins ch.remap key used
        rows := if again then ch.rows else ch.rows + 1 }
    let s := (s.bump (F.SHOAL_CNT_ROWS st)).raise 0x20 st 1
    let s := s.raiseIf (used + 1 == 8) 0x20 st 2
    .next (s.drainHold k c.val)

end Sys2Proof.Machine
end

