-- ==== Sys2Proof/Machine/Narrow.lean ====
section
/-! DEFINITION. Training below eight bits (07_narrow.md): the Q-descriptor and its cache, rotation, privileged
positions, block exponents, conversion of a row with its counts, and the step close. -/

namespace Sys2Proof.Machine

/-! ### Values read through the skiff path -/

/-- The number in `n` bytes at device virtual address `va`; where they cannot be read, a free value (log 33: DESIGN
CHOICE, safe). -/
def State.vFree (s : State) (k : Atoll) (va n : Nat) : Nat × State :=
  match s.vRead k va n with
  | (.ok bs, s) => (ofBytes bs, s)
  | (.error _, s) => let (i, s) := s.fresh; ((Config.freeBits (8 * n) i).toNat, s)

/-- Write `n` bytes at `va` through the skiff path; a write that does not translate is lost. -/
def State.vPut (s : State) (k : Atoll) (va n v : Nat) : State := (s.vWrite k va (bytesOf n v)).2

/-! ### The Q-descriptor (R180) -/

namespace Qd

def fmt (w : Nat) : Nat := bits w 3 0
def rot (w : Nat) : Nat := bits w 5 4
def side (w : Nat) : Bool := w.testBit 6
def priv (w : Nat) : Bool := w.testBit 7
def smode (w : Nat) : Nat := bits w 9 8
def hpos (w : Nat) : Nat := bits w 15 12
def hcount (w : Nat) : Nat := bits w 20 16
def scoutValid (w : Nat) : Bool := w.testBit 21
def await (w : Nat) : Bool := w.testBit 22
def down (w : Nat) : Nat := bits w 26 24
def clean (w : Nat) : Nat := bits w 31 28
def gain (w : Nat) : Int := signed 16 (byteFld w 4 2)
def scoutE (w : Nat) : Nat := byteFld w 6 2
def hist (w i : Nat) : Nat := byteFld w (8 + i % 16) 1
def ovfThr (w : Nat) : Nat := byteFld w 24 2
def vanThr (w : Nat) : Nat := byteFld w 26 2
def curMax (w : Nat) : Nat := byteFld w 28 4
def q (w : Nat) : Nat := byteFld w 32 8
def ovf (w : Nat) : Nat := byteFld w 40 8
def van (w : Nat) : Nat := byteFld w 48 8
def nan (w : Nat) : Nat := byteFld w 56 4
def inv (w : Nat) : Nat := byteFld w 60 4
def privList (w : Nat) : Nat := byteFld w 96 8
def privData (w : Nat) : Nat := byteFld w 104 8
def steps (w : Nat) : Nat := byteFld w 112 4
def gainSelf (w : Nat) : Int := signed 16 (byteFld w 118 2)

def setGain (w : Nat) (g : Int) : Nat := setByteFld w 4 2 (unsigned 16 g)
def setAwait (w : Nat) (b : Bool) : Nat := withBits w 22 22 (if b then 1 else 0)

/-- STATUS bit `i` set. -/
def mark (w i : Nat) : Nat := withBits w (8 * 116 + i) (8 * 116 + i) 1

/-- A descriptor as it is used (R181): HCOUNT taken as 16 at most, reserved bits as 0, STATUS.BAD set where either
was not so or the format or, under a block-scaled format, the mode cannot be used (R169). -/
def used (w : Nat) : Nat :=
  let u := if 16 < hcount w then withBits w 20 16 16 else w
  let u := withBits (withBits (withBits u 11 10 0) 23 23 0) 27 27 0
  let u := setByteFld (withBits u (8 * 116 + 15) (8 * 116 + 7) 0) 120 8 0
  if u ≠ w ∨ fmt w = 15 ∨ (blockScaled (fmt w) ∧ smode w = 3) then mark u 3 else u

/-- emax of R171; 0 for format code 0xF. -/
def emax (w : Nat) : Int := if fmt w = 15 then 0 else emaxOf (fmt w)

/-- Counts and maximum folded into the open step (R175, R176): Q, OVF and VAN wrap, NAN and INV saturate; CUR_MAX is
held rounded to FP32 (log 34: DESIGN CHOICE, unsafe). -/
def fold (w : Nat) (d : QDelta) : Nat :=
  let m := Q.max (fp32.mag (curMax w % 2 ^ 31)) d.max
  let c := fp32.enc (Val.ofQ m)
  let w := setByteFld w 28 4 (min c fp32.maxCode)
  let w := setByteFld w 32 8 (q w + d.q)
  let w := setByteFld w 40 8 (ovf w + d.ovf)
  let w := setByteFld w 48 8 (van w + d.van)
  let w := setByteFld w 56 4 (satAdd 32 (nan w) d.nan)
  setByteFld w 60 4 (satAdd 32 (inv w) d.inv)

/-- The `n` newest entries of HIST that are not EMPTY, as exponents. -/
def newest (w : Nat) : List Int :=
  ((List.range (hcount w)).map fun i => hist w (hpos w + 15 - i)).filterMap fun h =>
    if h = 0x80 then none else some (signed 8 h)

/-- The step close of R171, GAIN taken from GAIN_SELF where `self` and the mode and format ask for it. -/
def close (self : Bool) (w : Nat) : Nat :=
  let cm := fp32.mag (curMax w % 2 ^ 31)
  let e := if cm.isZero then 0x80 else unsigned 8 (clamp127 cm.log2)
  let w := setByteFld w (8 + hpos w) 1 e
  let w := withBits w 15 12 (hpos w + 1)
  let w := withBits w 20 16 (min (hcount w + 1) 16)
  let breach := decide (0 < q w ∧ ovfThr w * q w < ovf w * 2 ^ 16)
  let w :=
    if breach then withBits (withBits (withBits w 26 24 (min (down w + 1) 7)) 31 28 0) (8 * 116) (8 * 116) 1
    else
      let w := withBits w (8 * 116) (8 * 116) 0
      if clean w + 1 = 16 then withBits (withBits w 26 24 (down w - 1)) 31 28 0 else withBits w 31 28 (clean w + 1)
  let vh := decide (0 < q w ∧ vanThr w * q w < van w * 2 ^ 16)
  let w := withBits w (8 * 116 + 1) (8 * 116 + 1) (if vh then 1 else 0)
  let g : Int :=
    match (newest w).max? with
    | none => 127
    | some m => emax w - m - down w
  let gs := clamp127 g
  let w := setByteFld w 118 2 (unsigned 16 gs)
  let w := if smode w = 1 ∧ blockScaled (fmt w) ∧ self then setGain w gs else w
  let w := setByteFld w 64 32 (byteFld w 32 32)
  let w := setByteFld (setByteFld w 32 32 0) 28 4 0
  let w := withBits (withBits w 21 21 0) (8 * 116 + 2) (8 * 116 + 2) 0
  setByteFld w 112 4 (steps w + 1)

end Qd

/-! ### The descriptor cache (R177) -/

/-- Write the cached copy of a descriptor back to device memory. -/
def State.qWriteBack (s : State) (k : Atoll) (c : QCache) : State := s.vPut k c.addr 128 c.word

/-- The descriptor at `addr` as atoll `k` uses it, most recently used first; the least recently used copy past 256
is written back (R177). -/
def State.qGet (s : State) (k : Atoll) (addr : Nat) : Nat × State :=
  match (s.atl k).vec.qcache.find? fun c => c.addr == addr with
  | some c =>
    (c.word, s.onVec k fun v => { v with qcache := c :: v.qcache.filter fun c => c.addr != addr })
  | none =>
    let (w, s) := s.vFree k addr 128
    let u := Qd.used w
    let c : QCache := ⟨addr, u, u != w, s.tideNo⟩
    let old := (s.atl k).vec.qcache.drop 255
    let s := s.each old fun s c => s.qWriteBack k c
    (u, s.onVec k fun v => { v with qcache := c :: v.qcache.take 255 })

/-- Change the cached copy of the descriptor at `addr`. -/
def State.qSet (s : State) (k : Atoll) (addr : Nat) (f : Nat → Nat) : State :=
  let (_, s) := s.qGet k addr
  s.onVec k fun v =>
    { v with qcache := v.qcache.map fun c =>
        if c.addr == addr then { c with word := f c.word, dirty := true } else c }

/-- Set a STATUS bit of the descriptor at `addr`. -/
def State.qMark (s : State) (k : Atoll) (addr bit : Nat) : State := s.qSet k addr fun w => Qd.mark w bit

/-- The descriptor at `addr` waits for the harbour (R174): the cached copy, or what memory holds of it. -/
def State.qAwaits (s : State) (k : Atoll) (addr : Nat) : Bool :=
  match (s.atl k).vec.qcache.find? fun c => c.addr == addr with
  | some c => Qd.await c.word
  | none => match (s.vRead k addr 8).1 with | .ok bs => Qd.await (ofBytes bs) | .error _ => false

/-- Nothing counted. -/
def QDelta.zero (addr : Nat) : QDelta := ⟨addr, 0, 0, 0, 0, 0, Q.zero⟩

/-- Two sets of counts under one descriptor together. -/
def QDelta.merge (a b : QDelta) : QDelta :=
  { a with q := a.q + b.q, ovf := a.ovf + b.ovf, van := a.van + b.van, nan := a.nan + b.nan, inv := a.inv + b.inv,
           max := Q.max a.max b.max }

/-- Fold counts into the cached copy. -/
def State.qFold (s : State) (k : Atoll) (d : QDelta) : State := s.qSet k d.addr fun w => Qd.fold w d

/-- Counts a slice makes are held as its delta (R176); outside a slice they fold at once. -/
def State.qCount (s : State) (k : Atoll) (d : QDelta) : State :=
  match (s.atl k).seq.slice with
  | some x =>
    let ds := if x.deltas.any fun e => e.addr == d.addr
      then x.deltas.map fun e => if e.addr == d.addr then e.merge d else e
      else x.deltas ++ [d]
    s.onSeq k fun q => { q with slice := some { x with deltas := ds } }
  | none => s.qFold k d

/-- The step close of the descriptor at `addr` (R171, R172, R174): written back; in host mode AWAIT is set and
QSCALE_WAIT raised for a block-scaled format. -/
def State.qClose (s : State) (k : Atoll) (addr : Nat) : State :=
  let (w0, s) := s.qGet k addr
  let host := s.hosted 0x10 k 0
  let w := Qd.close (!host) w0
  let wait := host && blockScaled (Qd.fmt w)
  let w := if wait then Qd.setAwait w true else w
  let tide := s.tideNo
  let s := s.onVec k fun v =>
    { v with qcache := v.qcache.map fun c =>
        if c.addr == addr then { c with word := w, dirty := false, await := tide } else c }
  let s := s.vPut k addr 128 w
  let s := s.raiseIf (bits (byteFld w 116 2) 1 0 != 0) 0x15 k 1
  if wait then (s.raise 0x10 k 0).awaitHost 0x10 k 0 addr else s

/-- The harbour's answer to a waiting descriptor: bytes 0 to 7 as memory holds them, if AWAIT is clear there
(R174), used as R181 says. -/
def State.qReread (s : State) (k : Atoll) (addr : Nat) : State :=
  if s.qAwaits k addr then
    let (w, s) := s.vFree k addr 8
    if Qd.await w then s
    else
      let s := s.qSet k addr fun c => Qd.used (setByteFld c 0 8 w)
      let s := s.onSeq k fun q => if q.await = some addr then { q with await := none } else q
      s.answered 0x10 k 0 addr
  else s

/-- No answer came: GAIN := GAIN_SELF, AWAIT clear, STATUS.FELL (R174). -/
def State.qFallback (s : State) (k : Atoll) (addr : Nat) : State :=
  let s := s.qSet k addr fun w => Qd.mark (Qd.setAwait (Qd.setGain w (Qd.gainSelf w)) false) 4
  s.onSeq k fun q => if q.await = some addr then { q with await := none } else q

/-! ### Privileged positions (R165, R166) -/

/-- Offsets of one list: it ends at its first 0xFFFF, or, with BAD, at its first entry not greater than the one
before (R165). -/
def privScan : List Nat → Option Nat → List Nat × Bool
  | [], _ => ([], false)
  | x :: xs, prev =>
    if x = 0xFFFF then ([], false)
    else if prev.any fun p => decide (x ≤ p) then ([], true)
    else let (r, b) := privScan xs (some x); (x :: r, b)

/-- Positions of window `w` of a row under descriptor `d`, each with its index in the list (log 35: DESIGN CHOICE,
unsafe). -/
def State.privWindow (s : State) (k : Atoll) (addr d w : Nat) : List (Nat × Nat) × State :=
  let (v, s) := s.vFree k (Qd.privList d + 128 * w) 128
  let (l, bad) := privScan ((List.range 64).map fun i => byteFld v (2 * i) 2) none
  let s := if bad then s.qMark k addr 3 else s
  (((l.filter fun x => decide (x < 4096)).zipIdx.map fun e => (4096 * w + e.1, e.2)), s)

/-- Privileged positions of `[lo, hi)` of a row, ascending, each with its window's list index; none without PRIV (log
35: DESIGN CHOICE, unsafe). -/
def State.privRange (s : State) (k : Atoll) (addr d lo hi : Nat) : List (Nat × Nat) × State :=
  if !Qd.priv d then ([], s)
  else
    (List.range ((hi + 4095) / 4096 - lo / 4096)).foldl
      (fun (x : List (Nat × Nat) × State) i =>
        let (l, s) := x.2.privWindow k addr d (lo / 4096 + i)
        (x.1 ++ l.filter fun e => decide (lo ≤ e.1 ∧ e.1 < hi), s)) ([], s)

/-- Address of a privileged value: row `r`, position `p` at list index `i`, rows of `w` windows (R166). -/
def privAddr (d r w p i : Nat) : Nat := Qd.privData d + (r * w + p / 4096) * 128 + 2 * i

/-- rne(x / c, bf16) of R166. -/
def privValue (c : Nat) (x : Val) : Nat := bf16.enc (x.div (bf16.val c))

/-! ### Rotation (R161) -/

/-- Split a list into pieces of `n`, the last one shorter if need be; `fuel` bounds the pieces. -/
def pieces {α : Type} (n : Nat) : Nat → List α → List (List α)
  | 0, _ => []
  | f + 1, xs => if xs.isEmpty then [] else xs.take n :: pieces n f (xs.drop n)

/-- Number of set bits of `n`, below 2^8. -/
def popcount8 (n : Nat) : Nat := (List.range 8).foldl (fun a i => a + n / 2 ^ i % 2) 0

/-- A whole rotation block of 2^t values rotated with the share of its side (R161, R162). -/
def rotBlock (t : Nat) (side : Bool) (xs : List Val) : List Val :=
  let r : Int := if side then ((t + 1) / 2 : Nat) else (t / 2 : Nat)
  (List.range xs.length).map fun p =>
    let sum := (xs.zipIdx).foldl
      (fun a e => a.add (if popcount8 (p &&& e.2) % 2 = 1 then e.1.negate else e.1)) (Val.fin false Q.zero)
    f32 (fp32.enc (sum.scalb (-r)))

/-- Rotate the whole rotation blocks of a run that begins at one; the rest is left (R161). -/
def rotate (rot : Nat) (side : Bool) (xs : List Val) : List Val :=
  if rot = 0 then xs
  else
    (pieces (2 ^ (rot + 4)) xs.length xs).flatMap fun b =>
      if b.length = 2 ^ (rot + 4) then rotBlock (rot + 4) side b else b

/-! ### Conversion of a run (R159, R169, R173) -/

/-- How a block's exponent is chosen (R169, R173): from the block, or given. -/
inductive XMode where
  | block | given (e : Int)
  deriving DecidableEq, Repr

/-- The exponent mode of a descriptor as its history stands, and whether NO_SCOUT is set (R169, R173). -/
def Qd.xmode (w : Nat) : XMode × Bool :=
  if !blockScaled (Qd.fmt w) then (.given 0, false)
  else if Qd.smode w = 2 then (.given (clamp127 (-Qd.gain w)), false)
  else if Qd.smode w = 1 then
    if 0 < Qd.hcount w then (.given (clamp127 (-Qd.gain w)), false)
    else if Qd.scoutValid w then
      (.given (if Qd.scoutE w = 0x8000 then -127 else clamp127 (signed 16 (Qd.scoutE w) - Qd.emax w)), false)
    else (.block, true)
  else (.block, false)

/-- A converted run: codes, block scales, and the counts made. -/
structure Conv where
  codes  : List Nat
  scales : List Nat
  flags  : List CvtFlag
  delta  : QDelta
  deriving DecidableEq, Repr

/-- One block of at most 32 values, privileged positions marked true (R144, R147, R159). -/
def convBlock (addr fmt : Nat) (m : XMode) (c : Nat) (xs : List (Val × Bool)) : Conv :=
  let live := (xs.filter fun e => !e.2).map Prod.fst
  let e := match m with | .block => maxRule fmt c live | .given e => e
  let r := xs.map fun x => if x.2 then (0, CvtFlag.ok) else convert fmt x.1 e c
  let counted := (xs.zip r).filter fun z => !z.1.2
  let n (f : CvtFlag) : Nat := (counted.filter fun z => z.2.2 == f).length
  { codes := r.map Prod.fst
    scales := [if live.any Val.isNan then 0xFF else (e + 127).toNat]
    flags := r.map Prod.snd
    delta := ⟨addr, counted.length, n .ovf, n .van, n .nan, 0, finiteMax fmt c live⟩ }

/-- Two runs one after the other. -/
def Conv.append (a b : Conv) : Conv :=
  ⟨a.codes ++ b.codes, a.scales ++ b.scales, a.flags ++ b.flags, a.delta.merge b.delta⟩

/-- Convert a run that begins at a block of its row (stages 3 to 5 of R159). -/
def convRun (addr fmt : Nat) (m : XMode) (c : Nat) (xs : List (Val × Bool)) : Conv :=
  (pieces 32 xs.length xs).foldl (fun a b => a.append (convBlock addr fmt m c b)) ⟨[], [], [], QDelta.zero addr⟩

/-- Stages 1 and 2 of R159 on a run that begins at a multiple of 128 of its row: privileged positions zeroed, the
rest rotated. `priv` names the privileged offsets within the run. -/
def stage12 (d : Nat) (priv : List Nat) (xs : List Val) : List (Val × Bool) :=
  let z := xs.zipIdx.map fun e => if priv.contains e.2 then Val.fin false Q.zero else e.1
  (rotate (Qd.rot d) (Qd.side d) z).zipIdx.map fun e => (e.1, priv.contains e.2)

/-- The maximum of a measured run, without conversion (R170, R173). -/
def scoutRun (fmt c : Nat) (xs : List (Val × Bool)) : Q :=
  finiteMax fmt c ((xs.filter fun e => !e.2).map Prod.fst)

/-- What a scout measured enters its descriptor (R173): the largest exponent the pass has met since the last step
close, EMPTY below every other. -/
def State.qScout (s : State) (k : Atoll) (addr : Nat) (m : Q) : State :=
  s.qSet k addr fun w =>
    let old : Option Int := if Qd.scoutValid w && Qd.scoutE w != 0x8000 then some (signed 16 (Qd.scoutE w)) else none
    let new : Option Int := if m.isZero then none else some (clamp127 m.log2)
    let e : Nat :=
      match old, new with
      | none, none => 0x8000
      | some a, none => unsigned 16 a
      | none, some b => unsigned 16 b
      | some a, some b => unsigned 16 (max a b)
    withBits (setByteFld w 6 2 e) 21 21 1

end Sys2Proof.Machine
end

