-- ==== Sys2Proof/Machine/Layers.lean ====
section
/-! DEFINITION. The layers of a checkpoint as the CKPT page shows them (16_checkpoint.md R379-R382): their states, the
deepest of them, and when a checkpoint is safe. -/

namespace Sys2Proof.Machine

/-- Layer codes: 1 STACKS, 2 PARTNER, 3 FLASH, 4 STORE. States: 0 NONE, 1 COPYING, 2 DONE, 3 FAILED. -/
def layerFld (l : Nat) : Fld :=
  match l with
  | 1 => F.CKPT_STAT_STACKS
  | 2 => F.CKPT_STAT_PARTNER
  | 3 => F.CKPT_STAT_FLASH
  | _ => F.CKPT_STAT_STORE

/-- State of layer `l`. -/
def State.layer (s : State) (l : Nat) : Nat := s.fld (layerFld l)

/-- The highest code whose layer is DONE, 0 where none is (R379). -/
def State.deepest (s : State) : Nat := ([4, 3, 2, 1].find? fun l => s.layer l == 2).getD 0

/-- DEEPEST, SAFE and the safe checkpoint as the layers stand (R379, R380): FLASH or STORE is DONE, or PARTNER is and is
not CO_FED. -/
def State.safety (s : State) : State :=
  let safe := s.layer 3 == 2 || s.layer 4 == 2 || (s.layer 2 == 2 && !s.flag F.CKPT_STAT_CO_FED)
  let was := s.flag F.CKPT_STAT_SAFE
  let s := (s.setFld F.CKPT_STAT_DEEPEST s.deepest).setFld F.CKPT_STAT_SAFE (if safe then 1 else 0)
  if safe && !was then (s.setFld F.CKPT_SAFE_ID_ID (s.fld F.CKPT_ID_ID)).raise 0x09 0 4 else s

/-- STATE is TRICKLE while a layer above STACKS is copying and IDLE once none is (R388). -/
def State.trickle (s : State) : State :=
  let busy := [2, 3, 4].any fun l => s.layer l == 1
  let st := s.fld F.CKPT_STAT_STATE
  if busy ∧ st = 0 then s.setFld F.CKPT_STAT_STATE 2
  else if !busy ∧ st = 2 then s.setFld F.CKPT_STAT_STATE 0
  else s

/-- Layer `l` becomes DONE or FAILED. -/
def State.layerEnd (s : State) (l : Nat) (ok : Bool) : State :=
  let s := (s.setFld (layerFld l) (if ok then 2 else 3)).raise 0x09 0 (if ok then 2 else 3)
  s.safety.trickle

/-- The partner is lost (R380): its bundle went DOWN, or its context was reset. -/
def State.partnerLost (s : State) : State :=
  if s.layer 2 = 1 ∨ s.layer 2 = 2 then s.layerEnd 2 false else s

end Sys2Proof.Machine
end

