-- ==== Sys2Proof/Machine/Wire.lean ====
section
/-! DEFINITION. The bytes that leave the module: strait flits with their trailer (R312), MARK, COMMIT and FERRY bodies
(R317, R319, R320), Sound packets, their DATA flits and their Ethernet frames (R331-R333), LLDP frames (R326) and command
messages (R86). -/

namespace Sys2Proof.Machine

/-- CRC-32 of the IEEE 802.3 frame check sequence (R312, R326). -/
def crc32 (bs : List Byte) : Nat :=
  let step (c : Nat) (b : Byte) : Nat :=
    (List.range 8).foldl (fun c _ => if c % 2 = 1 then (c / 2) ^^^ 0xEDB88320 else c / 2) (c ^^^ b.toNat)
  bs.foldl step 0xFFFFFFFF ^^^ 0xFFFFFFFF

/-- `n` bytes: those of `bs`, zeros behind them. -/
def padded (n : Nat) (bs : List Byte) : List Byte := bs ++ List.replicate (n - bs.length) 0

/-- Pieces of `n` bytes of a list, the last one shorter; `fuel` bounds them. -/
def chunks (n : Nat) : Nat → List Byte → List (List Byte)
  | 0, _ => []
  | f + 1, bs => if bs.isEmpty then [] else bs.take n :: chunks n f (bs.drop n)

/-- `n` bytes of a number, highest first (network order). -/
def netBytes (n x : Nat) : List Byte := (bytesOf n x).reverse

/-! ### Strait flits (R312) -/

/-- The 16 bytes of a flit's trailer, its CRC over the body and the bytes before it. -/
def Flit.trailer (f : Flit) (nak : Bool) (seq ack : Nat) : List Byte :=
  let t := bytesOf 1 (f.ty % 16) ++ bytesOf 1 (bit f.start + 2 * bit f.fin + 4 * bit nak) ++ bytesOf 2 (seq % 4096) ++
    bytesOf 2 (ack % 4096) ++ bytesOf 6 f.info
  t ++ bytesOf 4 (crc32 (padded 256 f.body ++ t))

/-- The 272 bytes of a flit on its lane. -/
def Flit.bytes (f : Flit) (nak : Bool) (seq ack : Nat) : List Byte := padded 256 f.body ++ f.trailer nak seq ack

/-- A received flit is discarded: it is no whole flit, its CRC fails, or its TYPE is reserved. -/
def flitDiscarded (bs : List Byte) : Bool :=
  bs.length != 272 || ofBytes (bs.drop 268) != crc32 (bs.take 268) || decide (7 ≤ (bs.getD 256 0).toNat % 16)

/-- An IDLE flit. -/
def idleFlit : Flit := ⟨0, false, false, 0, []⟩

/-- A CTRL flit: OP, lane, ECHO data. -/
def ctrlFlit (op lane data : Nat) : Flit := ⟨5, false, false, op % 256 + lane % 256 * 2 ^ 8 + data % 2 ^ 32 * 2 ^ 16, []⟩

/-! ### MARK, COMMIT and FERRY bodies (R317, R319, R320) -/

/-- A MARK flit. -/
def markFlit (b : MarkBody) : Flit :=
  ⟨2, false, false, 0,
    bytesOf 1 (b.slot.val + 16 * bit b.hold + 32 * bit b.leader + 64 * bit b.inLine + 128 * bit b.noSlot) ++ bytesOf 1 0 ++
    bytesOf 6 b.count.toNat ++ bytesOf 2 b.defer.toNat ++ bytesOf 3 b.len.toNat ++ bytesOf 1 0 ++ bytesOf 2 b.n ++
    bytesOf 1 b.decision.toNat ++ bytesOf 1 b.init.toNat ++ bytesOf 2 b.gen.toNat ++ bytesOf 6 b.target.toNat ++
    bytesOf 2 b.g ++ List.replicate 228 0⟩

/-- A COMMIT flit: subtype, board tag, target, and the rest of the body (log 46: DEDUCED, unsafe). -/
def commitFlit (sub init gen target : Nat) (rest : List Byte) : Flit :=
  ⟨3, false, false, 0, padded 256 (bytesOf 1 sub ++ bytesOf 1 init ++ bytesOf 2 gen ++ bytesOf 6 target ++ rest)⟩

/-- The 8 bytes of a PREPARE record (R77). -/
def recordWire (r : CommitRecord) : List Byte :=
  bytesOf 1 r.cls.toNat ++ bytesOf 1 r.inst.toNat ++ bytesOf 2 r.off.toNat ++ bytesOf 4 r.value.toNat

/-- PREPARE in flits of up to 30 records; `fuel` bounds them. A ticket without a record takes one flit. -/
def prepareFlits (init gen target total : Nat) : Nat → Nat → List CommitRecord → List Flit
  | 0, _, _ => []
  | f + 1, first, l =>
    let here := l.take 30
    commitFlit 1 init gen target
      (bytesOf 2 total ++ bytesOf 2 first ++ bytesOf 2 here.length ++ here.flatMap recordWire) ::
    (if l.length ≤ 30 then [] else prepareFlits init gen target total f (first + 30) (l.drop 30))

/-- VOTE. -/
def voteFlit (init gen target voter : Nat) (pass : Bool) (rule cls inst off : Nat) : Flit :=
  commitFlit 2 init gen target (bytesOf 1 (if pass then 0 else 1) ++ bytesOf 1 voter ++ bytesOf 2 rule ++ bytesOf 1 cls ++
    bytesOf 1 inst ++ bytesOf 2 off)

/-- DECISION. -/
def decisionFlit (init gen target : Nat) (go : Bool) : Flit := commitFlit 3 init gen target (bytesOf 1 (if go then 1 else 2))

/-- The FERRY flits of a piece that lies at lagoon offset `off`: 16 for 4 KiB. The region's last has END and its valid
bytes. -/
def ferryFlits (off tag fnum : Nat) (last : Bool) (data : List Byte) : List Flit :=
  let l := chunks 256 17 data
  l.zipIdx.map fun e =>
    let fin := last && e.2 + 1 == l.length
    ⟨4, false, fin, (off / 256 + e.2) % 2 ^ 21 + tag % 16 * 2 ^ 21 + fnum % 2 ^ 16 * 2 ^ 25 +
      (if fin then (e.1.length / 16 - 1) % 16 * 2 ^ 41 else 0), e.1⟩

/-! ### Sound packets (R331-R333) -/

/-- The 32 bytes of a Sound header with its KIND, and the payload behind them. -/
def soundBytes (kind : Nat) (h : SoundHdr) (payload : List Byte) : List Byte :=
  bytesOf 1 (h.ver.toNat + 16 * (kind % 16)) ++ bytesOf 1 h.flags.toNat ++ bytesOf 2 h.len.toNat ++ bytesOf 4 h.dst.toNat ++
  bytesOf 4 (h.src.toNat + h.slot.val * 2 ^ 20 + bit h.noSlot * 2 ^ 24) ++ bytesOf 4 h.psn.toNat ++ bytesOf 4 h.msg.toNat ++
  bytesOf 4 h.roff.toNat ++ bytesOf 4 h.ackPsn.toNat ++ bytesOf 4 h.grant.toNat ++ payload

/-- The DATA flits of a packet: START on the first, END and its valid bytes on the last, DST_CTX and RED on every one. -/
def dataFlits (dst : Nat) (red : Bool) (packet : List Byte) : List Flit :=
  let l := chunks 256 17 packet
  l.zipIdx.map fun e =>
    let fin := e.2 + 1 == l.length
    ⟨1, e.2 == 0, fin, (if fin then e.1.length - 1 else 0) + dst % 2 ^ 20 * 2 ^ 9 + bit red * 2 ^ 29, e.1⟩

/-- One's-complement sum of 16-bit words, highest byte first. -/
def onesSum : List Byte → Nat
  | [] => 0
  | [a] => a.toNat * 256
  | a :: b :: rest => let x := a.toNat * 256 + b.toNat + onesSum rest; x % 65536 + x / 65536

/-- The Ethernet frame of a packet on a K or F port (R333): MAC addresses, IPv6 addresses, traffic class, flow label,
UDP port. Multi-byte fields of Ethernet, IPv6 and UDP stand highest byte first, and the check sequence as IEEE 802.3
sends it (log 116: PRESUMED, unsafe). -/
def soundFrame (dstMac srcMac srcIp dstIp tc flow port : Nat) (packet : List Byte) : List Byte :=
  let len := packet.length + 8
  let udp (sum : Nat) : List Byte := netBytes 2 port ++ netBytes 2 port ++ netBytes 2 len ++ netBytes 2 sum
  let sum := onesSum (netBytes 16 srcIp ++ netBytes 16 dstIp ++ netBytes 4 len ++ netBytes 4 17 ++ udp 0 ++ packet)
  let sum := if sum = 0xFFFF then 0xFFFF else 0xFFFF - sum
  let f := netBytes 6 dstMac ++ netBytes 6 srcMac ++ netBytes 2 0x86DD ++
    netBytes 4 (6 * 2 ^ 28 + tc % 256 * 2 ^ 20 + flow % 2 ^ 20) ++ netBytes 2 len ++ netBytes 1 17 ++ netBytes 1 64 ++
    netBytes 16 srcIp ++ netBytes 16 dstIp ++ udp sum ++ packet
  f ++ bytesOf 4 (crc32 f)

/-! ### LLDP (R326) -/

/-- The name of a K or F port: K0, K1, F0, F1. -/
def portName (p : PortIx) : List Byte := [if p.val < 4 then 0x4B else 0x46, BitVec.ofNat 8 (0x30 + p.val % 2)]

/-- The LLDP frame of port `p`: chassis ID the MAC address, subtype 4; port ID its name, subtype 7; a time to live and
the end (log 116: PRESUMED, unsafe). -/
def lldpFrame (p : PortIx) (mac : Nat) : List Byte :=
  let f := netBytes 6 0x0180C200000E ++ netBytes 6 mac ++ netBytes 2 0x88CC ++
    netBytes 2 (1 * 512 + 7) ++ netBytes 1 4 ++ netBytes 6 mac ++
    netBytes 2 (2 * 512 + 3) ++ netBytes 1 7 ++ portName p ++
    netBytes 2 (3 * 512 + 2) ++ netBytes 2 Config.lldpTtl.toNat ++ netBytes 2 0
  f ++ bytesOf 4 (crc32 f)

/-! ### Command messages (R86) -/

/-- A command message: the 16-byte header and the payload, padded to a multiple of 16 bytes. -/
def cmdMessage (type : Nat) (poison : Bool) (tag len addr : Nat) (payload : List Byte) : List Byte :=
  bytesOf 1 type ++ bytesOf 1 (bit poison) ++ bytesOf 2 (tag % 4096) ++ bytesOf 4 len ++ bytesOf 8 addr ++
    padded ((payload.length + 15) / 16 * 16) payload

/-- The bytes of a message on the attachment links, the strait or an Ethernet port; none for one whose form the spec does not
give, or that goes elsewhere. -/
def Msg.wire : Msg → Option (List Byte)
  | .irq page _ _ seq => some (cmdMessage 0x41 false 0 seq ((pageOfIx page).1 * 256 + (pageOfIx page).2) [])
  | .completion type tag poison addr data => some (cmdMessage type poison tag data.length addr data)
  | .flit _ _ _ seq ack nak f => some (f.bytes nak seq ack)
  | .mark _ _ _ ack b => some ((markFlit b).bytes false 0 ack)
  | .frame _ bs => some bs
  | _ => none

end Sys2Proof.Machine
end

