-- ==== Sys2Proof/Machine/Ports.lean ====
section
/-! DEFINITION. The strait links and the fabric ports (13_ports.md): lanes, bundles and their discovery (R314-R316),
sequence, acknowledgement and resending of flits (R312, R313), exclusion and return of lanes (R321, R322), peers that
drop (R323), Ethernet frames, LLDP and link state (R325-R327). -/

namespace Sys2Proof.Machine

open Host (Outcome)

/-- A strait port as a port die. -/
def bport (p : BPort) : PortIx := ⟨p.val, Nat.lt_of_lt_of_le p.isLt (by decide)⟩

/-! ### Lanes and bundles -/

def PortSt.lane (m : PortSt) (l : Nat) : LaneSt := SMap.get (fun _ => LaneSt.off) m.lanes l

/-- The bundle to the module with serial `x`. -/
def PortSt.bundle (m : PortSt) (x : Nat) : BundleSt := SMap.get (fun _ => BundleSt.none) m.bundles x

/-- `s` with a lane, or a bundle, of a port changed. -/
def State.onLane (s : State) (p : PortIx) (l : Nat) (f : LaneSt → LaneSt) : State :=
  s.onPort p fun m => { m with lanes := SMap.put (fun _ => LaneSt.off) m.lanes l (f (m.lane l)) }
def State.onBundle (s : State) (p : PortIx) (x : Nat) (f : BundleSt → BundleSt) : State :=
  s.onPort p fun m => { m with bundles := SMap.put (fun _ => BundleSt.none) m.bundles x (f (m.bundle x)) }

/-- The far end of a lane's transmitter, or of its receiver. -/
def LaneSt.far (y : LaneSt) (tx : Bool) : Option FarEnd := if tx then y.txTo else y.rxFrom

/-- Lanes of a port a direction of which joins the module with serial `x`, by ascending remote lane number (R314). -/
def PortSt.lanesTo (m : PortSt) (x : Nat) (tx : Bool) : List Nat :=
  let l := (List.range 32).filter fun l => ((m.lane l).far tx).any fun f => f.serial == x
  (List.range 32).flatMap fun r => l.filter fun y => ((m.lane y).far tx).any fun f => f.lane == r

/-- State of a lane's direction. -/
def LaneSt.dir (y : LaneSt) (tx : Bool) : LaneState := if tx then y.tx else y.rx

/-- Lanes of a bundle that are active, by direction. -/
def PortSt.active (m : PortSt) (x : Nat) (tx : Bool) : List Nat :=
  (m.lanesTo x tx).filter fun l => (m.lane l).dir tx == .active

/-- Nominal width of a bundle (R315). -/
def State.nominal (s : State) : Nat := if s.flag F.HOLM_BOARD_SIZE16 then 4 else 8

/-- The bundle carries traffic. -/
def PortSt.carries (m : PortSt) (x : Nat) : Bool := (m.bundle x).state == .up || (m.bundle x).state == .late

/-- The bundle of a port to the module that reports `slot` and over which traffic goes, if there is one. -/
def PortSt.ofSlot (m : PortSt) (slot : Nat) : Option Nat :=
  (m.bundles.find? fun e => e.2.slot == slot && m.carries e.1).map Prod.fst

/-- The strait port and the bundle, by the peer's serial, that reach the module in `slot`. -/
def State.straitTo (s : State) (slot : Nat) : Option (PortIx × Nat) :=
  [(0 : PortIx), 1].findSome? fun p => ((s.port p).ofSlot slot).map fun x => (p, x)

/-- Serials of the modules that report `slot` and are not gone (R316). -/
def State.claims (s : State) (slot : Nat) : List Nat :=
  ([(0 : PortIx), 1].flatMap fun p => ((s.port p).bundles.filter fun e => e.2.slot == slot && e.2.state != .down).map
    Prod.fst).eraseDups

/-- SLOT_CONFLICT: two modules report `slot`, the module itself counted (R316; log 46: DEDUCED, unsafe). -/
def State.conflicted (s : State) (slot : Nat) : Bool :=
  decide (slot < 16) &&
  decide (2 ≤ (s.claims slot).length + if s.hasSlot && s.fld F.HOLM_SLOT_SLOT == slot then 1 else 0)

/-- The module of a bundle takes part in the tide agreement and in board tickets: it has a slot no other claims (R50,
R316). -/
def State.takesPart (s : State) (p : PortIx) (x : Nat) : Bool :=
  decide (((s.port p).bundle x).slot < 16) && !s.conflicted ((s.port p).bundle x).slot

/-! ### Flits out (R312, R313) -/

/-- The last sequence number received in order, as ACK gives it. -/
def BundleSt.ack (b : BundleSt) : Nat := (b.seqRx + 4095) % 4096

/-- Put a flit on the next active lane of its bundle, in round robin. -/
def State.putFlit (s : State) (p : PortIx) (x seq : Nat) (nak : Bool) (f : Flit) : State :=
  let b := (s.port p).bundle x
  let l := (s.port p).active x true
  let s := s.emit (.flit p x (l.getD (b.turn % max 1 l.length) 0) seq b.ack nak f)
  (s.onBundle p x fun b => { b with turn := (b.turn + 1) % 2 ^ 32 }).bump (F.PORT_CNT_TX p)

/-- Sequenced flits that wait leave while fewer than 256 are not acknowledged (R313). -/
def State.pumpFlits (s : State) (p : PortIx) (x : Nat) : State :=
  let b := (s.port p).bundle x
  let l := (b.queue.take (256 - b.unacked.length)).zipIdx.map fun e => ((b.seqTx + e.2) % 4096, e.1)
  let s := s.onBundle p x fun b =>
    { b with seqTx := (b.seqTx + l.length) % 4096, unacked := b.unacked ++ l, queue := b.queue.drop l.length
             ackAt := if b.unacked.isEmpty then s.now else b.ackAt }
  s.each l fun s e => s.putFlit p x e.1 false e.2

/-- Send sequenced flits on a bundle (R313). -/
def State.sendFlits (s : State) (p : PortIx) (x : Nat) (l : List Flit) : State :=
  (s.onBundle p x fun b => { b with queue := b.queue ++ l }).pumpFlits p x

/-- An IDLE flit carries ACK, and NAK where `nak` is set. -/
def State.sendIdle (s : State) (p : PortIx) (x : Nat) (nak : Bool) : State := s.putFlit p x 0 nak idleFlit

/-- A CTRL flit on a bundle. -/
def State.sendCtrl (s : State) (p : PortIx) (x op lane data : Nat) : State :=
  (s.emit (.ctrl p x op lane data)).bump (F.PORT_CNT_TX p)

/-! ### Discovery (R314-R316) -/

/-- The module's serial, and the slot it reports: 16 where it has none. -/
def State.serial (s : State) : Nat := s.fld F.MGMT_SERIAL
def State.slotCode (s : State) : Nat := if s.hasSlot then s.fld F.HOLM_SLOT_SLOT else 16

/-- Send TRAIN flits on transmitters of port `p`. -/
def State.sendTrain (s : State) (p : PortIx) (lanes : List Nat) : State :=
  (s.emit (.train p lanes s.serial s.slotCode (s.fld F.HOLM_SLOT_READING))).bump (F.PORT_CNT_TX p) lanes.length

/-- What the receivers of both B ports hear: port, lane, and the far end's serial, port and lane. -/
def State.heardLanes (s : State) : List (Nat × Nat × Nat × Nat × Nat) :=
  [(0 : PortIx), 1].flatMap fun p => (List.range 32).filterMap fun l =>
    ((s.port p).lane l).rxFrom.map fun f => (p.val, l, f.serial, f.port, f.lane)

/-- The peer in `slot` is no longer present (R323): nothing heard of it is kept, and its bit of HOLM_BOARD.PRESENT
clears. -/
def State.dropPeer (s : State) (slot : Nat) : State :=
  let s := s.onTide fun t =>
    { t with peers := SMap.put (fun _ => PeerSt.none) t.peers slot PeerSt.none, got := t.got.filter fun g => g.slot != slot }
  let v := s.fld F.HOLM_BOARD_PRESENT
  s.setFld F.HOLM_BOARD_PRESENT (if v.testBit slot then v - 2 ^ slot else v)

/-- What the harbour is asked about a bundle (R322), beside its lanes 0 to 31 and its link, 512. -/
def bundleAsk (x : Nat) : Nat := 1024 + x

/-- A training waits for the harbour, in host mode (R322). -/
def State.trainNeed (s : State) (p : PortIx) (what : Nat) : State :=
  if s.hosted 0x30 p 0 then (s.raise 0x30 p 7).awaitHost 0x30 p 0 what else s

/-- A bundle becomes DOWN (R323). -/
def State.bundleDown (s : State) (p : PortIx) (x : Nat) : State :=
  if (s.port p).carries x then
    let slot := ((s.port p).bundle x).slot
    let s := s.onBundle p x fun b => { BundleSt.none with state := .down, slot := b.slot, retrain := true }
    let s := (s.dropPeer slot).raise 0x30 p 4
    let s := if s.fld F.CKPT_STAT_PSLOT = slot then s.partnerLost else s
    s.trainNeed p (bundleAsk x)
  else s

/-- A bundle left with no active lane in either direction is DOWN. -/
def State.checkBundle (s : State) (p : PortIx) (x : Nat) : State :=
  let m := s.port p
  if (m.active x false).isEmpty || (m.active x true).isEmpty then s.bundleDown p x else s

/-- The module with serial `x` reports `slot` now, on port `p` (R314, R317): a slot that two claim is no peer's (R316). -/
def State.tellSlot (s : State) (p : PortIx) (x slot : Nat) : State :=
  let was := s.conflicted slot
  let s := s.onBundle p x fun b => { b with slot := slot }
  if !was && s.conflicted slot then (s.dropPeer slot).raise 0x30 p 6 else s

/-- ECHO measures the link delay of a bundle both of whose directions are known (R314). -/
def State.echoOut (s : State) (p : PortIx) (x : Nat) : State :=
  let m := s.port p
  if (m.bundle x).delay.isNone && !m.carries x && !(m.lanesTo x false).isEmpty && !(m.lanesTo x true).isEmpty
  then s.sendCtrl p x 2 0 (s.now % 2 ^ 32) else s

/-- A TRAIN flit names the far end of a receiver, and what its sender hears names that of the module's transmitters. A
lane of a bundle that is not UP has trained if it was excluded. A receiver that hears something new has the module send
its own list (R314; log 46: DEDUCED, unsafe). -/
def State.hearTrain (s : State) (p : PortIx) (l : Nat) (i : TrainInfo) : State :=
  let x := i.serial.toNat
  let far : FarEnd := ⟨x, i.port.val, i.lane.val⟩
  let new := ((s.port p).lane l).rxFrom != some far
  let down := !(s.port p).carries x
  let s := (s.bump (F.PORT_CNT_RX p)).onLane p l fun y =>
    let again : Bool := down && y.rx == .excluded
    { y with rxFrom := some far, pol := i.inverted, rx := if again then .off else y.rx, cause := if again then 0 else y.cause }
  let s := s.tellSlot p x (i.slot.elim 16 Fin.val)
  let s := s.each (i.hears.filter fun e => e.serial.toNat == s.serial) fun s e =>
    s.onLane (bport e.atPort) e.atLane fun y =>
      { y with txTo := some ⟨x, e.port.val, e.lane.val⟩, tx := if down && y.tx == .excluded then .off else y.tx }
  let s := if new then
      ((s.emit (.hears s.heardLanes)).bump (F.PORT_CNT_TX (0 : PortIx)) 32).bump (F.PORT_CNT_TX (1 : PortIx)) 32
    else s
  s.each [(0 : PortIx), 1] fun s p => s.echoOut p x

/-- Lanes on which the module with serial `x` is heard, on both ports. -/
def State.heardOn (s : State) (x : Nat) : Nat := ((s.port 0).lanesTo x false).length + ((s.port 1).lanesTo x false).length

/-- SIZE16 of R315. -/
def State.size16 (s : State) : Bool :=
  let peers := (s.heardLanes.map fun e => e.2.2.1).eraseDups
  let slot (x : Nat) : Nat := min ((s.port 0).bundle x).slot ((s.port 1).bundle x).slot
  (s.hasSlot && decide (8 ≤ s.fld F.HOLM_SLOT_SLOT)) || peers.any (fun x => decide (8 ≤ slot x ∧ slot x < 16)) ||
    peers.any (fun x => decide (s.heardOn x ≤ 5)) || peers.isEmpty

/-- Lanes of a direction are assigned: the first W that training has not excluded become ACTIVE, the others STANDBY (R315). -/
def State.assignLanes (s : State) (p : PortIx) (x : Nat) (tx : Bool) : State :=
  let l := ((s.port p).lanesTo x tx).filter fun l => ((s.port p).lane l).dir tx != .excluded
  let w := s.nominal
  let put (s : State) (st : LaneState) (l : List Nat) : State := s.each l fun s y => s.onLane p y fun y =>
    if tx then { y with tx := st } else { y with rx := st, cause := 0 }
  put (put s .active (l.take w)) .standby (l.drop w)

/-- The module with serial `x` is given its bundle on port `p` (R314, R315): its lanes are assigned; those on the other port
stay unused with cause SPLIT. A delay above 100 makes the peer LATE (R318). -/
def State.bundleUp (s : State) (p : PortIx) (x delay : Nat) : State :=
  let s := s.setFld F.HOLM_BOARD_SIZE16 (if s.size16 then 1 else 0)
  let s := (s.assignLanes p x true).assignLanes p x false
  let q : PortIx := if p = 0 then 1 else 0
  let other := (s.port q).lanesTo x false
  let s := s.each other fun s y => s.onLane q y fun y => { y with rx := .off, cause := 5 }
  let s := s.each ((s.port q).lanesTo x true) fun s y => s.onLane q y fun y => { y with tx := .off }
  let late := decide (100 < delay)
  let m := s.port p
  let s := s.onBundle p x fun b =>
    { BundleSt.none with state := if late then .late else .up, slot := b.slot, txw := (m.active x true).length
                         rxw := (m.active x false).length, delay := some delay }
  let s := s.raise 0x30 p 3
  let s := s.raiseIf late 0x30 p 5
  let s := s.raiseIf (!other.isEmpty) 0x30 p 11
  s.answered 0x30 p 0 (bundleAsk x)

/-- A bundle that R313 sent to retraining has trained: the flits it keeps are sent again. -/
def State.bundleTrained (s : State) (p : PortIx) (x : Nat) : State :=
  let s := s.onBundle p x fun b => { b with retrain := false, asked := false, resends := 0 }
  (s.each ((s.port p).bundle x).unacked fun s e => s.putFlit p x e.1 false e.2).answered 0x30 p 0 (bundleAsk x)

/-- Discovery of a peer completes on port `p` (R314): both directions are known and the delay is measured. It has a bundle
there unless the other port hears it on more lanes, B0 on a tie (R315). A bundle that is UP and was retraining goes on. -/
def State.discovered (s : State) (p : PortIx) (x : Nat) : State :=
  let m := s.port p
  let mine := (m.lanesTo x false).length
  let other := ((s.port (if p = 0 then 1 else 0)).lanesTo x false).length
  match (m.bundle x).delay with
  | some d =>
    if m.carries x then (if (m.bundle x).retrain then s.bundleTrained p x else s)
    else if mine = 0 ∨ (m.lanesTo x true).isEmpty ∨ mine < other ∨ (p ≠ 0 ∧ mine = other) then s
    else s.bundleUp p x d
  | none => s

/-! ### Sequence and acknowledgement (R313) -/

/-- Sequence number `a` is at or before `b`, modulo 4,096. -/
def seqLe (a b : Nat) : Bool := decide ((b + 4096 - a) % 4096 < 2048)

/-- An ACK that came on a bundle: the flits it names are no longer kept, and others take their place. -/
def State.flitAck (s : State) (p : PortIx) (x ack : Nat) : State :=
  let s := s.onBundle p x fun b =>
    let left := b.unacked.filter fun e => !seqLe e.1 ack
    if left.length < b.unacked.length then { b with unacked := left, resends := 0, ackAt := s.now } else b
  s.pumpFlits p x

/-- Resend every flit after the last acknowledged; a bundle that resends eight times without ACK advancing is sent to
retraining, and resends no more until it has trained (R313, R322; log 46: DEDUCED, unsafe). -/
def State.resend (s : State) (p : PortIx) (x : Nat) : State :=
  let b := (s.port p).bundle x
  if b.unacked.isEmpty || b.retrain then s
  else
    let s := s.onBundle p x fun b => { b with ackAt := s.now }
    let s := (s.bump (F.PORT_CNT_REPLAY p)).each b.unacked fun s e => s.putFlit p x e.1 false e.2
    if b.resends + 1 < 8 then s.onBundle p x fun b => { b with resends := b.resends + 1 }
    else (s.onBundle p x fun b => { b with resends := 8, retrain := true }).trainNeed p (bundleAsk x)

/-- ACK and NAK of a received trailer. -/
def State.trailerIn (s : State) (p : PortIx) (x : Nat) (t : Trailer) : State :=
  let s := s.flitAck p x t.ack.toNat
  if t.nak then s.resend p x else s

/-- `n` sequenced flits come in, the first with trailer `t`: whether they are the next in SEQ order, and then acknowledged. A
gap is answered with NAK, a duplicate is acknowledged again (R313). -/
def State.seqIn (s : State) (p : PortIx) (x : Nat) (t : Trailer) (n : Nat) : Bool × State :=
  if !(s.port p).carries x then (false, s)
  else
    let s := (s.bump (F.PORT_CNT_RX p) n).trailerIn p x t
    let b := (s.port p).bundle x
    if t.seq.toNat = b.seqRx then
      (true, (s.onBundle p x fun b => { b with seqRx := (b.seqRx + n) % 4096 }).sendIdle p x false)
    else (false, s.sendIdle p x (seqLe (b.seqRx + 1) t.seq.toNat))

/-- A message of `n` sequenced flits of the board protocol: it acts where the flits are in order and its sender takes part
(R313, R316, R319). -/
def State.commitIn (s : State) (v : StraitIn) (n : Nat) (f : State → State) : State :=
  let (ok, s) := s.seqIn (bport v.port) v.peer.toNat v.t n
  if ok && s.takesPart (bport v.port) v.peer.toNat then f s else s

/-- A sequenced DATA flit (R312, R313, R332): delivered in SEQ order, its body joined to its packet; the packet's bytes
once its last flit is in. -/
def State.dataFlitIn (s : State) (p : PortIx) (x : Nat) (t : Trailer) (body : List Byte) : Option (List Byte) × State :=
  let (ok, s) := s.seqIn p x t 1
  if !ok then (none, s)
  else
    let b := (s.port p).bundle x
    let valid := if t.fin then t.info.toNat % 512 + 1 else 256
    let asm := (if t.start then [] else b.asm) ++ body.take valid
    let s := s.onBundle p x fun b => { b with asm := if t.fin then [] else asm }
    (if t.fin then some asm else none, s)

/-! ### Lanes that fail (R321, R322) -/

/-- A lane's receiver is excluded (R321): it says so to the sender, whose lane LANE_DROP names, and its bundle may be DOWN. A
receiver with no input that has never heard a module is powered down with cause OPEN (R314, R315). -/
def State.excludeRx (s : State) (p : PortIx) (l cause : Nat) : State :=
  let y := (s.port p).lane l
  if y.rx = .excluded then s
  else if y.rxFrom = none ∧ cause = 1 then s.onLane p l fun y => { y with cause := 1 }
  else
    let s := s.onLane p l fun y =>
      { y with rx := .excluded, cause := cause, asked := false, rxBack := false, since := s.tideNo }
    let s := (s.bump (F.PORT_CNT_EXCLUDE p)).raise 0x30 p 0
    let s := match y.rxFrom with
      | some f => if (s.port p).carries f.serial then s.sendCtrl p f.serial 1 f.lane 0 else s
      | none => s
    let s := s.trainNeed p l
    match y.rxFrom with | some f => s.checkBundle p f.serial | none => s

/-- A LANE_DROP came: the transmitter of that lane carries nothing more. -/
def State.excludeTx (s : State) (p : PortIx) (l : Nat) : State :=
  let y := (s.port p).lane l
  if y.tx = .excluded ∨ y.tx = .off then s
  else
    let s := s.onLane p l fun y => { y with tx := .excluded, asked := false, txBack := false, since := s.tideNo }
    let s := ((s.bump (F.PORT_CNT_EXCLUDE p)).raise 0x30 p 0).trainNeed p l
    match y.txTo with | some f => s.checkBundle p f.serial | none => s

/-- A direction of its bundle is at its nominal width. -/
def State.atWidth (s : State) (p : PortIx) (y : LaneSt) (tx : Bool) : Bool :=
  (y.far tx).any fun f => decide (s.nominal ≤ ((s.port p).active f.serial tx).length)

/-- An excluded lane passed: each direction becomes STANDBY if its bundle is at W, else it rejoins at the next slack. -/
def State.laneBack (s : State) (p : PortIx) (l : Nat) : State :=
  let y := (s.port p).lane l
  let rx : Bool := y.rx == .excluded
  let tx : Bool := y.tx == .excluded
  let rxFull := rx && s.atWidth p y false
  let txFull := tx && s.atWidth p y true
  let s := s.onLane p l fun y =>
    { y with
      rx := if rxFull then .standby else y.rx, cause := if rxFull then 0 else y.cause, rxBack := rx && !rxFull
      tx := if txFull then .standby else y.tx, txBack := tx && !txFull, asked := false }
  (s.raiseIf (rxFull || txFull) 0x30 p 1).answered 0x30 p 0 l

/-- The bundle of port `p` to the module that reports `slot`, whatever its state. -/
def PortSt.named (m : PortSt) (slot : Nat) : Option Nat :=
  (m.ofSlot slot).or ((m.bundles.find? fun e => e.2.slot == slot).map Prod.fst)

/-- Retrain a bundle: TRAIN goes out on its transmitters. -/
def State.retrainBundle (s : State) (p : PortIx) (x : Nat) : State :=
  (s.sendTrain p ((s.port p).lanesTo x true)).onBundle p x fun b => { b with asked := false }

/-- PORT_CMD (R321, R322): 1 RETRAIN, 2 EXCLUDE, 3 RESTORE a lane, 4 LINK: its peer is sent RESET_REQ (R427), and a
bundle retrained at once is DOWN until it is UP again (log 46: DEDUCED, unsafe). -/
def State.portCmd (s : State) (p : PortIx) (v : Nat) : State :=
  let l := bits v 12 8
  let y := (s.port p).lane l
  let b := decide (p.val < 2)
  if bits v 31 28 = 1 ∧ b then
    if y.rx = .excluded ∨ y.tx = .excluded then
      (s.onLane p l fun y => { y with asked := true }).answered 0x30 p 0 l else s
  else if bits v 31 28 = 2 ∧ b then s.excludeRx p l 0
  else if bits v 31 28 = 3 ∧ b then s.laneBack p l
  else if bits v 31 28 = 4 then
    if b then
      match (s.port p).named (bits v 3 0) with
      | some x =>
        ((((s.sendCtrl p x 4 0 0).bundleDown p x).onBundle p x fun b => { b with retrain := true }).retrainBundle p x).answered 0x30 p 0
          (bundleAsk x)
      | none => s
    else (s.emit (.linkStart p)).answered 0x30 p 0 512
  else s

/-- A bundle that carries traffic at a slack (R321): standby and returned lanes fill each direction to W, and the new widths
apply together. -/
def State.fillBundle (s : State) (p : PortIx) (x : Nat) : State :=
  let fill (s : State) (tx : Bool) : State :=
    let m := s.port p
    let back (l : Nat) : Bool := (m.lane l).dir tx == .excluded && (if tx then (m.lane l).txBack else (m.lane l).rxBack)
    let cand := (m.lanesTo x tx).filter fun l => (m.lane l).dir tx == .standby || back l
    let l := cand.take (s.nominal - (m.active x tx).length)
    let s := s.each l fun s l => s.onLane p l fun y =>
      if tx then { y with tx := .active, txBack := false } else { y with rx := .active, rxBack := false, cause := 0 }
    s.raiseIf (l.any back) 0x30 p 1
  let s := fill (fill s true) false
  let b := (s.port p).bundle x
  let tx := ((s.port p).active x true).length
  let rx := ((s.port p).active x false).length
  if b.txw = tx ∧ b.rxw = rx then s
  else (s.onBundle p x fun b => { b with txw := tx, rxw := rx }).raise 0x30 p 2

/-- A B port at a slack (R321, R322): bundles are filled, CRC counts turn over, and bundles to be retrained retrain in self
mode, or once the harbour's time has run out. -/
def State.straitSlack (s : State) (p : PortIx) : State :=
  let thr := s.fld (F.PORT_LANE_THR_ERRS p)
  let s := s.each (List.range 32) fun s l =>
    if (s.port p).lane l = LaneSt.off then s
    else s.onLane p l fun y =>
      { y with crcLast := min y.crc 1023, bad := if thr < y.crc then y.bad + 1 else 0, crc := 0 }
  s.each ((s.port p).bundles.map Prod.fst) fun s x =>
    let s := if (s.port p).carries x then s.fillBundle p x else s
    let b := (s.port p).bundle x
    if b.retrain && (!s.hosted 0x30 p 0 || b.asked) then s.retrainBundle p x else s

/-! ### K and F ports (R325-R327) -/

/-- The K or F link goes up or down. -/
def State.linkState (s : State) (p : PortIx) (up : Bool) : State :=
  if s.flag (F.PORT_STAT_UP p) == up then s
  else
    let s := (s.setFld (F.PORT_STAT_UP p) (if up then 1 else 0)).raise 0x30 p 8
    if up then (s.setFld (F.PORT_STAT_LOS p) 0).answered 0x30 p 0 512
    else if s.hosted 0x30 p 0 then (s.raise 0x30 p 7).awaitHost 0x30 p 0 512
    else s

/-- A K or F port at a slack in self mode: a link that is down restarts (R327). -/
def State.fabricSlack (s : State) (p : PortIx) : State :=
  if s.flag (F.PORT_STAT_UP p) || s.hosted 0x30 p 0 then s else s.emit (.linkStart p)

/-- The port may carry Sound traffic: its link is up, and no partner is expected or the last LLDP frame's identity
matched (R326). -/
def State.fabricCarries (s : State) (p : PortIx) : Bool :=
  s.flag (F.PORT_STAT_UP p) && (s.fld (F.PORT_EXPECT_VALID p) == 0 ||
    (s.flag (F.PORT_PARTNER_SEEN p) && s.fld (F.PORT_PARTNER_ID p) == s.fld (F.PORT_EXPECT_ID p)))

/-- A received LLDP frame (R326). -/
def State.lldpIn (s : State) (p : PortIx) (chassis portId : List Byte) : State :=
  let id := crc32 (chassis ++ portId)
  let s := (s.setFld (F.PORT_PARTNER_ID p) id).setFld (F.PORT_PARTNER_SEEN p) 1
  if s.fld (F.PORT_EXPECT_VALID p) = 0 then s
  else if id = s.fld (F.PORT_EXPECT_ID p) then s.setFld (F.PORT_STAT_SWAPPED p) 0
  else (s.setFld (F.PORT_STAT_SWAPPED p) 1).raise 0x30 p 9

/-- SND_IP of a port: four words, low word first. -/
def State.portIp (s : State) (p : PortIx) : Nat :=
  (List.range 4).foldr (fun i a => s.fld (F.SND_IP p i) + a * 2 ^ 32) 0

/-- Addresses of the multicast groups the group table holds (R348), read from memory on atoll 0's translator. -/
def State.groupIp (s : State) (g : Nat) : Nat :=
  match (s.vRead s.hub (s.fld F.SNDCTX_GRP_BASE_ADDR + g * 64) 64).1 with
  | .ok bs => if (ofBytes (bs.take 4)).testBit 31 then ofBytes ((bs.drop 8).take 16) else 0
  | .error _ => 0

/-- A received Ethernet frame (R325, R333): the Sound packet of a good one, and the state. -/
def State.frameIn (s : State) (p : PortIx) (f : Frame) : Option (List Byte) × State :=
  if !s.flag (F.PORT_STAT_UP p) then (none, s)
  else
    let s := s.bump (F.PORT_CNT_RX p)
    if !f.fcsOk then (none, s.bump (F.PORT_CNT_CRC p))
    else if s.fld (F.PORT_MTU_BYTES p) < f.bytes then (none, s.bump (F.PORT_CNT_DROP p))
    else
      match f.kind with
      | .pause => (none, s)
      | .lldp chassis portId =>
        (none, if f.dstMac.toNat = 0x0180C200000E then s.lldpIn p chassis portId else s.bump (F.PORT_CNT_DROP p))
      | .neighborSolicitation target =>
        (none, if target.toNat = s.portIp p then (s.emit (.neighborAdvert p target.toNat)).bump (F.PORT_CNT_TX p)
          else s.bump (F.PORT_CNT_DROP p))
      | .sound packet =>
        let own := f.dstMac.toNat == s.fld (F.PORT_MAC_MAC p) && f.dstIp.toNat == s.portIp p
        let group := f.dstIp.toNat != 0 &&
          (List.range (s.fld F.SNDCTX_GRP_COUNT_COUNT)).any fun g => 0 < g && s.groupIp g == f.dstIp.toNat
        if !own && !group then (none, s.bump (F.PORT_CNT_DROP p))
        else if !f.checksumOk || f.udpPort.toNat != s.fld (F.SND_UDP_PORT p) then (none, s.bump (F.SND_CNT_BAD p))
        else (some packet, s)
      | .other => (none, s.bump (F.PORT_CNT_DROP p))

/-! ### Commands -/

/-- A B port's command acts only on a B port; a K or F port's only on one of those. -/
def onFabric (p : PortIx) (s t : State) : Outcome State Fault Refusal := if p.val < 2 then .next s else .next t

/-- IDLE_FLIT (R312): carries an acknowledgement. -/
def execIdleFlit (port : BPort) (peer : Word64) (t : Trailer) (s : State) : Outcome State Fault Refusal :=
  let p := bport port
  if (s.port p).carries peer.toNat then .next ((s.bump (F.PORT_CNT_RX p)).trailerIn p peer.toNat t) else .next s

/-- FLIT_NAK (R313): every flit after the acknowledged one is resent. -/
def execFlitNak (port : BPort) (peer : Word64) (ack : BitVec 12) (s : State) : Outcome State Fault Refusal :=
  let p := bport port
  if (s.port p).carries peer.toNat then .next ((s.flitAck p peer.toNat ack.toNat).resend p peer.toNat) else .next s

/-- REPLAY_TIMEOUT (R313): ACK has not advanced for 200 reference cycles. Time passes up to then, if the tide has as
long (log 110: DESIGN CHOICE, unsafe). -/
def execReplayTimeout (port : BPort) (peer : Word64) (s : State) : Outcome State Fault Refusal :=
  let p := bport port
  let b := (s.port p).bundle peer.toNat
  if !(s.port p).carries peer.toNat || b.unacked.isEmpty then .next s
  else match s.runTo (b.ackAt + 200) with
    | none => .next s
    | some s => .next (s.resend p peer.toNat)

/-- FLIT_DISCARD (R312, R313): the bytes `raw` of a flit whose CRC fails or whose TYPE is reserved came on lane `lane`: counted,
and answered with NAK. A good flit is not discarded. -/
def execFlitDiscard (port : BPort) (peer : Word64) (lane : LaneIx) (raw : List Byte) (s : State) :
    Outcome State Fault Refusal :=
  let p := bport port
  if !flitDiscarded raw then .next s
  else
    let s := (s.bump (F.PORT_CNT_CRC p)).onLane p lane fun y => { y with crc := y.crc + 1 }
    .next (if (s.port p).carries peer.toNat then s.sendIdle p peer.toNat true else s)

/-- LANE_DROP (R321). -/
def execLaneDrop (port : BPort) (lane : LaneIx) (s : State) : Outcome State Fault Refusal :=
  .next ((s.bump (F.PORT_CNT_RX (bport port))).excludeTx (bport port) lane)

/-- ECHO (R314): answered with ECHO_REPLY. -/
def execEcho (port : BPort) (peer : Word64) (data : BitVec 32) (s : State) : Outcome State Fault Refusal :=
  let p := bport port
  .next ((s.bump (F.PORT_CNT_RX p)).sendCtrl p peer.toNat 3 0 data.toNat)

/-- ECHO_REPLY (R314): the link delay is half the round trip less the peer's turnaround, rounded up. A delay measured
on a bundle that is UP decides whether its peer can be on time (R318). -/
def execEchoReply (port : BPort) (peer : Word64) (roundTrip turnaround : Nat) (s : State) : Outcome State Fault Refusal :=
  let p := bport port
  let d := min ((roundTrip - turnaround + 1) / 2) 255
  .next ((s.bump (F.PORT_CNT_RX p)).onBundle p peer.toNat fun b => { b with delay := some d })

/-- TRAIN (R314). -/
def execTrain (port : BPort) (lane : LaneIx) (i : TrainInfo) (s : State) : Outcome State Fault Refusal :=
  .next (s.hearTrain (bport port) lane i)

/-- PEER_UP (R314). -/
def execPeerUp (port : BPort) (peer : Word64) (s : State) : Outcome State Fault Refusal :=
  .next (s.discovered (bport port) peer.toNat)

/-- LANE_EXCLUDED (R321): for CRC only where the lane is above its threshold in the tides the threshold asks. -/
def execLaneExcluded (port : BPort) (lane : LaneIx) (c : LaneCause) (s : State) : Outcome State Fault Refusal :=
  let p := bport port
  let y := (s.port p).lane lane
  let code := match c with | .openLane => 1 | .short => 2 | .crc => 3 | .margin => 4
  if c = .crc ∧ !(decide (s.fld (F.PORT_LANE_THR_ERRS p) < y.crc ∧ s.fld (F.PORT_LANE_THR_TIDES p) ≤ y.bad + 1)) then .next s
  else .next (s.excludeRx p lane code)

/-- LANE_RETRAIN (R322): of an excluded lane; in self mode once PORT_RETRAIN.PERIOD tides have passed since the last, 0 being
never, or as PORT_CMD asked. -/
def execLaneRetrain (port : BPort) (lane : LaneIx) (passed : Bool) (s : State) : Outcome State Fault Refusal :=
  let p := bport port
  let y := (s.port p).lane lane
  let period := s.fld (F.PORT_RETRAIN_PERIOD p)
  let due := !s.hosted 0x30 p 0 && period != 0 && decide (y.since + period ≤ s.tideNo)
  if !(y.rx == .excluded || y.tx == .excluded) || !(y.asked || due) then .next s
  else
    let s := s.onLane p lane fun y => { y with asked := false, since := s.tideNo }
    .next (if passed then s.laneBack p lane else s)

/-- LLDP (R326). -/
def execLldp (port : PortIx) (chassis portId : List Byte) (s : State) : Outcome State Fault Refusal :=
  onFabric port s (if s.flag (F.PORT_STAT_UP port) then (s.bump (F.PORT_CNT_RX port)).lldpIn port chassis portId else s)

/-- LLDP_SEND (R326): once in 8,192 tides. -/
def execLldpSend (port : PortIx) (s : State) : Outcome State Fault Refusal :=
  onFabric port s
    (if s.flag (F.PORT_STAT_UP port) && decide ((s.port port).lldpAt ≤ s.tideNo) then
      ((s.emit (.frame port (lldpFrame port (s.fld (F.PORT_MAC_MAC port))))).onPort port fun m =>
        { m with lldpAt := s.tideNo + 8192 }).bump (F.PORT_CNT_TX port)
     else s)

/-- LOS (R327): on an F port the lane's bit and PORT_STAT.LOS are set and LOS is raised; a K port only goes down. The
bit of the SC copy PORT_LIGHT is set at once, its EDGE as it was (log 115: DESIGN CHOICE, unsafe). -/
def execLos (port : PortIx) (lane : Fin 8) (s : State) : Outcome State Fault Refusal :=
  onFabric port s
    (let s := if port.val < 4 then s
      else
        let v := s.fld (F.PORT_LIGHT_LOS port)
        ((s.setFld (F.PORT_LIGHT_LOS port) (v ||| 2 ^ lane.val)).setFld (F.PORT_STAT_LOS port) 1).raise 0x30 port 10
     s.linkState port false)

/-- LINK (R327). -/
def execLink (port : PortIx) (up : Bool) (s : State) : Outcome State Fault Refusal := onFabric port s (s.linkState port up)

end Sys2Proof.Machine
end

