-- ==== Sys2Proof/Machine/Sound.lean ====
section
/-! DEFINITION. Sound contexts and sending (14_sound_transport.md): the context table and its cache (R334, R335),
messages and their order (R337, R338), credits and the pool (R340, R341), deficit round robin (R342), quotas (R343),
departure, acknowledgement and resending (R346), and what slack does (R343, R344, R350). -/

namespace Sys2Proof.Machine

open Host (Outcome)

/-! ### A context's 128 bytes (R334) -/

namespace Cx

def state (w : Nat) : Nat := bits w 2 0
def kind (w : Nat) : Nat := bits w 4 3
def red (w : Nat) : Bool := w.testBit 5
def via (w : Nat) : Nat := bits w 10 8
def weight (w : Nat) : Nat := max 1 (byteFld w 2 2)
def peerCtx (w : Nat) : Nat := bits (byteFld w 4 4) 19 0
def peerSlot (w : Nat) : Nat := bits (byteFld w 4 4) 23 20
def peerIp (w : Nat) : Nat := byteFld w 8 16
def group (w : Nat) : Nat := byteFld w 26 2
def win (w : Nat) : Nat := byteFld w 28 4
def quota (w : Nat) : Nat := byteFld w 32 4
def quotaLeft (w : Nat) : Nat := byteFld w 36 4
def txPsn (w : Nat) : Nat := byteFld w 40 4
def txAck (w : Nat) : Nat := byteFld w 44 4
def rxPsn (w : Nat) : Nat := byteFld w 48 4
def txGrant (w : Nat) : Nat := byteFld w 52 4
def txUsed (w : Nat) : Nat := byteFld w 56 4
def txMsg (w : Nat) : Nat := byteFld w 60 4
def rxMsg (w : Nat) : Nat := byteFld w 64 4
def rxBase (w : Nat) : Nat := byteFld w 68 8
def rxLen (w : Nat) : Nat := byteFld w 76 4
def rxRing (w : Nat) : Nat := byteFld w 80 8
def rlog (w : Nat) : Nat := bits (byteFld w 88 2) 3 0
def rxCtr (w : Nat) : Nat := bits (byteFld w 88 2) 7 4
def ctrEn (w : Nat) : Bool := (byteFld w 88 2).testBit 8
def retries (w : Nat) : Nat := byteFld w 90 2
def rxSeq (w : Nat) : Nat := byteFld w 92 4
def txBytes (w : Nat) : Nat := byteFld w 96 8
def rxBytes (w : Nat) : Nat := byteFld w 104 8
def waitMax (w : Nat) : Nat := byteFld w 112 4
def fails (w : Nat) : Nat := byteFld w 116 4

def setState (w x : Nat) : Nat := withBits w 2 0 x
/-- STATUS bit `i` set: 0 BOUNDS, 1 RETX_LIMIT, 2 RESET_SEEN, 3 MISSED. -/
def mark (w i : Nat) : Nat := withBits w (8 * 120 + i) (8 * 120 + i) 1
/-- Credits left, in 256-byte units. -/
def credit (w : Nat) : Nat := (txGrant w + 2 ^ 32 - txUsed w) % 2 ^ 32

/-- STATE codes. -/
abbrev listen : Nat := 1
abbrev connecting : Nat := 2
abbrev opened : Nat := 3
abbrev catchup : Nat := 4
abbrev closed : Nat := 5
abbrev error : Nat := 6

/-- In one of the states in which the module caches and writes a context (R335). -/
def live (w : Nat) : Bool := 1 ≤ state w && state w ≤ 4
/-- OPEN or CATCHUP. -/
def isOpen (w : Nat) : Bool := state w == 3 || state w == 4

end Cx

/-! ### The context cache (R334, R335) -/

/-- Home atoll of a context: its number modulo 8, or the next atoll clockwise in service. -/
def State.home (s : State) (c : Nat) : Atoll :=
  atollOf (((List.range 8).find? fun i => s.inService ((c + i) % 8)).elim c fun i => c + i)

/-- Device virtual address of context `c`. -/
def State.ctxAddr (s : State) (c : Nat) : Nat := s.fld F.SNDCTX_BASE_ADDR + 128 * c

/-- Context `c` exists (R331). -/
def State.ctxExists (s : State) (c : Nat) : Bool := decide (c < s.fld F.SNDCTX_COUNT_COUNT)

/-- Enter a context into its home's cache; the least recently used of the home past 8,192 is written back. -/
def State.ctxCache (s : State) (c w : Nat) : State :=
  let h := s.home c
  let rest := s.sound.cache.filter fun e => e.1 != c
  let mine := rest.filter fun e => s.home e.1 == h
  let s := { s with sound := { s.sound with cache := (c, w) :: rest } }
  match mine.getLast? with
  | some (c', w') =>
    if 8192 ≤ mine.length then
      { s.vPut h (s.ctxAddr c') 128 w' with
        sound := { s.sound with cache := s.sound.cache.filter fun e => e.1 != c' } }
    else s
  | none => s

/-- Context `c` as the module knows it: cached, or read through the skiff path; a context in FREE, CLOSED or ERROR is
not cached. -/
def State.ctxGet (s : State) (c : Nat) : Nat × State :=
  match s.sound.cache.find? fun e => e.1 == c with
  | some (_, w) => (w, s.ctxCache c w)
  | none =>
    let s := s.bump F.SNDCTX_CNT_MISS
    let (w, s) := s.vFree (s.home c) (s.ctxAddr c) 128
    (w, if Cx.live w then s.ctxCache c w else s)

/-- Context `c` becomes `f` of what it was; one that becomes CLOSED or ERROR is written back and leaves the cache.
SNDCTX_STAT.OPEN counts those OPEN or CATCHUP. -/
def State.ctxSet (s : State) (c : Nat) (f : Nat → Nat) : State :=
  let (w, s) := s.ctxGet c
  let w' := f w
  let n := s.fld F.SNDCTX_STAT_OPEN
  let s := s.setFld F.SNDCTX_STAT_OPEN
    (if Cx.isOpen w && !Cx.isOpen w' then n - 1 else if !Cx.isOpen w && Cx.isOpen w' then n + 1 else n)
  if Cx.live w' then s.ctxCache c w'
  else if w' = w then s
  else
    { s.vPut (s.home c) (s.ctxAddr c) 128 w' with
      sound := { s.sound with cache := s.sound.cache.filter fun e => e.1 != c } }

/-- What the module keeps of context `c` beside its bytes. -/
def SoundSt.of (m : SoundSt) (c : Nat) : CtxRun := SMap.get (fun _ => CtxRun.none) m.run c

def State.onCtx (s : State) (c : Nat) (f : CtxRun → CtxRun) : State :=
  { s with sound := { s.sound with run := SMap.put (fun _ => CtxRun.none) s.sound.run c (f (s.sound.of c)) } }

/-- Port die through which a context is reached (R334); B0 where its strait peer has no bundle. -/
def State.ctxPort (s : State) (w : Nat) : PortIx :=
  if h : 2 ≤ Cx.via w ∧ Cx.via w ≤ 5 then ⟨Cx.via w, by omega⟩ else ((s.straitTo (Cx.peerSlot w)).map Prod.fst).getD 0

/-- The context's link carries Sound traffic. -/
def State.ctxLink (s : State) (w : Nat) : Bool :=
  if Cx.via w = 0 then (s.straitTo (Cx.peerSlot w)).isSome
  else 2 ≤ Cx.via w && Cx.via w ≤ 5 && s.fabricCarries (s.ctxPort w)

/-! ### Credits (R340, R341) -/

/-- What a context may be granted now: RED from all of the free pool, others from what the reserve leaves. -/
def State.poolFor (s : State) (p : PortIx) (red : Bool) : Nat :=
  let reserve := poolSize p * s.fld (F.SND_RESV_SHARE p) / 64
  let free := s.fld (F.SND_POOL_FREE p)
  if red then free else free - (reserve - (s.port p).usedRed)

/-- Grant context `c` credit up to WIN (R340). -/
def State.grant (s : State) (c : Nat) : State :=
  let (w, s) := s.ctxGet c
  let p := s.ctxPort w
  let n := min (Cx.win w - (s.sound.of c).held) (s.poolFor p (Cx.red w))
  let s := s.setFld (F.SND_POOL_FREE p) (s.fld (F.SND_POOL_FREE p) - n)
  let s := if Cx.red w then s.onPort p fun m => { m with usedRed := m.usedRed + n } else s
  s.onCtx c fun r => { r with granted := (r.granted + n) % 2 ^ 32, held := r.held + n }

/-- `n` units of a context's credit return to the pool. -/
def State.ungrant (s : State) (c n : Nat) : State :=
  let (w, s) := s.ctxGet c
  let p := s.ctxPort w
  let n := min n (s.sound.of c).held
  let s := s.setFld (F.SND_POOL_FREE p) (min (poolSize p) (s.fld (F.SND_POOL_FREE p) + n))
  let s := if Cx.red w then s.onPort p fun m => { m with usedRed := m.usedRed - n } else s
  s.onCtx c fun r => { r with held := r.held - n }

/-! ### Packets out -/

/-- The header of a packet of `n` payload bytes that the module sends from context `src` to context `dst` (R331). -/
def State.header (s : State) (flags n dst src psn msg off ack grant : Nat) : SoundHdr :=
  { ver := 1, flags := BitVec.ofNat 8 flags, len := BitVec.ofNat 16 n, dst := BitVec.ofNat 20 dst, src := BitVec.ofNat 20 src
    slot := ⟨s.fld F.HOLM_SLOT_SLOT % 16, Nat.mod_lt _ (by decide)⟩, noSlot := !s.hasSlot, psn := BitVec.ofNat 32 psn
    msg := BitVec.ofNat 32 msg, roff := BitVec.ofNat 32 off, ackPsn := BitVec.ofNat 32 ack, grant := BitVec.ofNat 32 grant
    ip := 0 }

/-- A Sound packet leaves on port `p`: as DATA flits on the bundle to `slot` (R332), or in a frame to `ip` (R333). Where no
link carries it, it does not leave. -/
def State.packetOut (s : State) (p : PortIx) (slot ip kind : Nat) (h : SoundHdr) (data : List Byte) : State :=
  let red := h.flags.getLsbD 2
  let out (s : State) : State :=
    s.emit (.sound p kind h.src.toNat h.dst.toNat h.psn.toNat h.msg.toNat h.roff.toNat h.ackPsn.toNat h.grant.toNat
      h.flags.toNat data)
  if p.val < 2 then
    match (s.port p).ofSlot slot with
    | some x => out (s.sendFlits p x (dataFlits h.dst.toNat red (soundBytes kind h data)))
    | none => s
  else if s.fabricCarries p then
    out ((s.emit (.frame p (soundFrame (Config.nextHopMac ip).toNat (s.fld (F.PORT_MAC_MAC p)) (s.portIp p) ip
      (if red then s.fld (F.SND_TC_RED p) else s.fld (F.SND_TC_NORM p)) (h.src.toNat ^^^ h.dst.toNat)
      (s.fld (F.SND_UDP_PORT p)) (soundBytes kind h data)))).bump (F.PORT_CNT_TX p))
  else s

/-- Send one Sound packet of context `c` to its peer, with ACK_PSN and GRANT as they stand (R331, R346). -/
def State.sendPkt (s : State) (c kind flags psn msg off : Nat) (data : List Byte) (grant : Option Nat := none) : State :=
  let (w, s) := s.ctxGet c
  s.packetOut (s.ctxPort w) (Cx.peerSlot w) (Cx.peerIp w) kind
    (s.header flags data.length (Cx.peerCtx w) c psn msg off ((Cx.rxPsn w + 2 ^ 32 - 1) % 2 ^ 32)
      (grant.getD (s.sound.of c).granted)) data

/-- Slot a packet comes from; 16 where its sender has none. -/
def fromSlot (h : SoundHdr) : Nat := if h.noSlot then 16 else h.slot.val

/-- An answer to a packet that names no context of ours to send from: the header's fields returned to its sender. -/
def State.answer (s : State) (p : PortIx) (h : SoundHdr) (kind off grant : Nat) : State :=
  s.packetOut p (fromSlot h) h.ip.toNat kind (s.header 0 0 h.src.toNat h.dst.toNat 0 0 off 0 grant) []

/-! ### Messages (R336-R338) -/

/-- Message counter `ctr` of atoll `k` rises by 1. -/
def State.raiseMc (s : State) (k : Atoll) (ctr : Nat) : State :=
  s.onSeq k fun q => { q with r := { q.r with mc := SMap.put (fun _ => 0) q.r.mc ctr (SMap.get (fun _ => 0) q.r.mc ctr + 1) } }

/-- The message takes a tracker entry, at its first departure with PSN `psn` (R336). -/
def State.trackTake (s : State) (m : SoundMsg) (psn : Nat) : SoundMsg × State :=
  if m.tracked then (m, s)
  else
    let i := ((List.range (s.sound.trk.length + 1)).find? fun i => !s.sound.trk.contains i).getD 0
    let s := { s with sound := { s.sound with trk := i :: s.sound.trk } }
    ({ m with entry := some i, firstPsn := psn, tide := s.tideNo },
      s.setFld F.SNDCTX_TRK_USED_USED (s.fld F.SNDCTX_TRK_USED_USED + 1))

/-- The entry of a message is free again (R336). -/
def State.trackFree (s : State) (m : SoundMsg) : State :=
  match m.entry with
  | none => s
  | some i =>
    ({ s with sound := { s.sound with trk := s.sound.trk.erase i } }).setFld F.SNDCTX_TRK_USED_USED
      (s.fld F.SNDCTX_TRK_USED_USED - 1)

/-- What the entry of a message of context `c` records is written (R336; log 52: DESIGN CHOICE, unsafe). -/
def State.trackWrite (s : State) (c : Nat) (m : SoundMsg) : State :=
  match m.entry with
  | none => s
  | some i =>
    s.vPut (s.home c) (s.fld F.SNDCTX_TRK_BASE_ADDR + 32 * i) 32
      (Config.trackerEntry [c, m.msg, m.firstPsn, m.len, m.src, if m.lag then 1 else 0, m.roff, m.atoll, m.ctr, m.tide % 65536,
        m.retries]).toNat

/-- Messages of a context that have ended are settled in the order issued: counters rise, failures are counted and
raised, tracker entries are freed (R336, R338). `fuel` bounds them. -/
def State.settleMsgs (s : State) (c : Nat) : Nat → State
  | 0 => s
  | fuel + 1 =>
    match (s.sound.of c).queue with
    | m :: rest =>
      match m.ended with
      | none => s
      | some ok =>
        let s := s.onCtx c fun r =>
          { r with queue := rest, kept := if r.catchup.isEmpty || m.dst.isSome then r.kept else r.kept ++ [m] }
        let s := s.trackFree m
        let s := if m.counted then s.raiseMc (atollOf m.atoll) m.ctr else s
        let s :=
          if ok || m.dst.isSome then s
          else
            let (w, s) := s.ctxGet c
            let s := if Cx.live w then s.ctxSet c fun w => setByteFld w 116 4 (Cx.fails w + 1) else s
            s.raise 0x31 (s.ctxPort w) 4
        State.settleMsgs s c fuel
    | [] => s

/-- Settle every message of `c` that can be settled. -/
def State.settleCtx (s : State) (c : Nat) : State := s.settleMsgs c (s.sound.of c).queue.length

/-- Queue a message of context `c`; one that cannot be sent fails at once (R337). -/
def State.queueMsg (s : State) (c : Nat) (m : SoundMsg) (bad : Bool) : State :=
  let (w, s) := s.ctxGet c
  let fails := bad || Cx.state w != Cx.opened || Cx.via w == 1 || 5 < Cx.via w
  let s := s.onCtx c fun r =>
    { r with queue := r.queue ++ [{ m with msg := Cx.txMsg w, ended := if fails then some false else none }] }
  let s := if fails then s else s.ctxSet c fun w => setByteFld w 60 4 (Cx.txMsg w + 1)
  s.settleCtx c

/-- SEND on atoll `k` with message counter `ctr` and the 32-byte descriptor `d` (R337). -/
def State.sendMsg (s : State) (k : Atoll) (ctr d : Nat) : State :=
  let c := bits d 19 0
  let lag := d.testBit 20
  let len := byteFld d 4 4
  let src := byteFld d 8 8
  let bad := bits d 31 21 != 0 || byteFld d 24 8 != 0 || len == 0 || decide (2 ^ 31 < len) ||
    (lag && !s.inProgram k src len)
  if !s.ctxExists c then (s.raise 0x31 0 4).raiseMc k ctr
  else
    s.queueMsg c
      { msg := 0, atoll := k.val, ctr := ctr, counted := true, lag := lag, src := src, body := none, len := len
        roff := byteFld d 16 4, user := byteFld d 20 4, sent := 0, dst := none, ended := none } bad

/-- Send bytes as a message that raises no counter (reductions, and streams to a context). -/
def State.sendBytes (s : State) (k : Atoll) (c : Nat) (bs : List Byte) (roff user : Nat) : State :=
  if !s.ctxExists c then s
  else
    s.queueMsg c
      { msg := 0, atoll := k.val, ctr := 0, counted := false, lag := false, src := 0, body := some bs, len := bs.length
        roff := roff, user := user, sent := 0, dst := none, ended := none } bs.isEmpty

/-- Send `len` bytes at device virtual address `src` as a message that raises no counter. -/
def State.sendRange (s : State) (k : Atoll) (c src len roff user : Nat) (dst : Option Nat := none) : State :=
  if !s.ctxExists c then s
  else
    s.queueMsg c
      { msg := 0, atoll := k.val, ctr := 0, counted := false, lag := false, src := src, body := none, len := len
        roff := roff, user := user, sent := 0, dst := dst, ended := none } (len == 0)

/-- `n` bytes of a message from byte `o` on, read now, and brought to port `p` (R18, R309, R337). -/
def State.msgBytes (s : State) (p : PortIx) (m : SoundMsg) (o n : Nat) : Option (List Byte) × State :=
  let k := atollOf m.atoll
  match m.body with
  | some bs => (some ((bs.drop o).take n), s.causeway k (s.portAtoll p k) n)
  | none =>
    if m.lag then (some (s.lagBytes k (m.src + o) n), s.causeway k (s.portAtoll p k) n)
    else match s.vRead k (m.src + o) n (some p) with
      | (.ok bs, s) => (some bs, s)
      | (.error _, s) => (none, s)

/-- A message of `c` ends. -/
def State.endMsg (s : State) (c msg : Nat) (ok : Bool) (dst : Option Nat := none) : State :=
  (s.onCtx c fun r =>
    { r with queue := r.queue.map fun m =>
               if m.msg == msg && m.dst == dst && m.ended.isNone then { m with ended := some ok } else m
             unacked := if dst.isSome then r.unacked else r.unacked.filter fun e => e.msg != msg }).settleCtx c

/-! ### Departure (R342, R343) -/

/-- Payload bytes a packet of the context may carry (R331, R333). -/
def State.maxPayload (s : State) (w : Nat) : Nat :=
  if Cx.via w = 0 then 4096 else min 4096 ((s.fld (F.PORT_MTU_BYTES (s.ctxPort w)) - 98) / 128 * 128)

/-- The next packet of a context: its message and its payload bytes. -/
def State.nextPacket (s : State) (c w : Nat) : Option (SoundMsg × Nat) :=
  ((s.sound.of c).queue.find? fun m => m.ended.isNone && decide (m.sent < m.len)).map fun m =>
    (m, min (s.maxPayload w) (m.len - m.sent))

/-- 256-byte units of `n` bytes. -/
def units (n : Nat) : Nat := (n + 255) / 256

/-- What the cache or memory holds of context `c`, without counting a miss. -/
def State.ctxPeek (s : State) (c : Nat) : Nat := (s.ctxGet c).1

/-- A packet of `c` could depart: its size, its weight, whether it is RED (R340, R343). -/
def State.mayDepart (s : State) (c : Nat) : Option (Nat × Nat × Bool) :=
  let w := s.ctxPeek c
  match s.nextPacket c w with
  | none => none
  | some (m, n) =>
    let room := m.tracked || decide (s.fld F.SNDCTX_TRK_USED_USED < 1048576)
    let flits := Cx.via w != 0 || (match s.straitTo (Cx.peerSlot w) with
      | some (p, x) =>
        let b := (s.port p).bundle x
        decide (b.unacked.length + b.queue.length + (n + 32 + 255) / 256 ≤ 256)
      | none => false)
    if Cx.isOpen w && s.ctxLink w && decide (units n ≤ Cx.credit w) &&
        (Cx.quota w == 0 || decide (units n ≤ Cx.quotaLeft w)) && room && flits
    then some (n, Cx.weight w, Cx.red w) else none

/-- A turn of deficit round robin (R342): `l` lists the waiting contexts with size, weight and RED, `d` the deficits,
`sh` the bytes RED and other contexts have had while RED waited. The deficits and bytes after `c` is served, or none
where it is not `c`'s turn: a context whose deficit covers its packet goes before one that needs another round, and RED
contexts together keep SHARE/64 (log 51: DESIGN CHOICE, safe). -/
def drrTurn (l : List (Nat × Nat × Nat × Bool)) (d : SMap Nat) (sh : Nat × Nat) (share c : Nat) :
    Option (SMap Nat × (Nat × Nat)) :=
  match l.find? fun e => e.1 == c with
  | none => none
  | some (_, n, _, red) =>
    let redWaits := l.any fun e => e.2.2.2
    let sh := if redWaits then sh else (0, 0)
    if !red && redWaits && decide (sh.1 * 64 < share * (sh.1 + sh.2 + n)) then none
    else
      let mine := l.filter fun e => e.2.2.2 == red
      let rounds (e : Nat × Nat × Nat × Bool) : Nat :=
        (e.2.1 - SMap.get (fun _ => 0) d e.1 + (e.2.2.1 * 256 - 1)) / (e.2.2.1 * 256)
      let least := mine.foldl (fun a e => min a (rounds e)) (2 ^ 32)
      if (mine.filter fun e => e.1 == c).any fun e => least < rounds e then none
      else
        let d' := mine.foldl (fun (m : SMap Nat) e =>
          let v := SMap.get (fun _ => 0) d e.1 + least * e.2.2.1 * 256
          SMap.put (fun _ => 0) m e.1 (if e.1 = c then v - n else v)) []
        let d' := (l.filter fun e => e.2.2.2 != red).foldl (fun (m : SMap Nat) e =>
          SMap.put (fun _ => 0) m e.1 (SMap.get (fun _ => 0) d e.1)) d'
        some (d', if redWaits then (if red then (sh.1 + n, sh.2) else (sh.1, sh.2 + n)) else (0, 0))

/-- Contexts of a port with a packet that could depart. -/
def State.waitingTx (s : State) (p : PortIx) : List (Nat × Nat × Nat × Bool) :=
  s.sound.run.filterMap fun e =>
    if s.ctxPort (s.ctxPeek e.1) == p then (s.mayDepart e.1).map fun x => (e.1, x.1, x.2.1, x.2.2) else none

/-- Members of group `g` (R348): context, slot, address (log 53: DEDUCED, unsafe). -/
def State.groupList (s : State) (g : Nat) : List (Nat × Nat × Nat) :=
  match (s.vRead s.hub (s.fld F.SNDCTX_GRP_BASE_ADDR + g * 64) 64).1 with
  | .error _ => []
  | .ok g =>
    let v := ofBytes g
    if !v.testBit 31 then []
    else (List.range (min 4096 (byteFld v 24 2))).filterMap fun i =>
      match (s.vRead s.hub (byteFld v 32 8 + 32 * i) 32).1 with
      | .error _ => none
      | .ok e => let m := ofBytes e; some (bits m 19 0, bits m 23 20, byteFld m 4 16)

/-- Members of the group a source context sends to (R348): context, slot, whether on the board. -/
def State.members (s : State) (w : Nat) : List (Nat × Nat × Bool) :=
  (s.groupList (Cx.group w)).map fun m => (m.1, m.2.1, m.2.2 == 0)

/-- Key of a member: its context and its slot. -/
def memberKey (c slot : Nat) : Nat := slot * 2 ^ 20 + c

/-- Address of the member, or the source, at `key`: the group table's, else the context's peer's. -/
def State.memberIp (s : State) (w key : Nat) : Nat :=
  ((s.groupList (Cx.group w)).find? fun m => memberKey m.1 m.2.1 == key).elim (Cx.peerIp w) fun m => m.2.2

/-- Put one packet of a group source on its way: a copy to each member on the board not in catch-up, and one copy a
port to the group address off it (R348). -/
def State.sendGroup (s : State) (c flags psn msg off : Nat) (data : List Byte) : State :=
  let (w, s) := s.ctxGet c
  let ack := (Cx.rxPsn w + 2 ^ 32 - 1) % 2 ^ 32
  let out := (s.sound.of c).catchup.map CatchSt.key
  let ms := s.members w
  let near := ms.filter fun m => m.2.2 && !out.contains (memberKey m.1 m.2.1)
  let s := near.foldl (fun s m =>
    match s.straitTo m.2.1 with
    | some (p, _) => s.packetOut p m.2.1 0 1 (s.header flags data.length m.1 c psn msg off ack 0) data
    | none => s) s
  if ms.any fun m => !m.2.2 then
    ([2, 3, 4, 5] : List PortIx).foldl (fun s p =>
      s.packetOut p 16 (s.groupIp (Cx.group w)) 1 (s.header (flags ||| 16) data.length 0 c psn msg off ack 0) data) s
  else s

/-- FLAGS of a DATA packet. -/
def dataFlags (m : SoundMsg) (w off n : Nat) : Nat :=
  (if off = 0 then 1 else 0) + (if off + n = m.len then 2 else 0) + (if Cx.red w then 4 else 0) +
    (if m.dst.isSome then 8 else 0)

/-- A packet of context `c` straight to a group's member or its source at `key` (R349): over the strait bundle to its slot, or
to its address on the context's port. -/
def State.memberOut (s : State) (c key kind flags psn msg off : Nat) (data : List Byte) : State :=
  let w := s.ctxPeek c
  let slot := key / 2 ^ 20
  let p := ((s.straitTo slot).map Prod.fst).getD (s.ctxPort w)
  s.packetOut p slot (s.memberIp w key) kind (s.header flags data.length (key % 2 ^ 20) c psn msg off 0 0) data

/-- Put a packet of message `m` on its way: `n` bytes from byte `off` on, under sequence number `psn`. -/
def State.emitData (s : State) (c : Nat) (m : SoundMsg) (psn off n : Nat) (data : List Byte) : State :=
  let (w, s) := s.ctxGet c
  let fl := dataFlags m w off n
  match m.dst with
  | some key =>
    s.memberOut c key 1 fl psn m.msg (m.roff + off) data
  | none =>
    if Cx.kind w = 1 then s.sendGroup c fl psn m.msg (m.roff + off) data
    else s.sendPkt c 1 fl psn m.msg (m.roff + off) data

/-- Send a packet of context `c` straight to a group's member or its source at `key` (R349). -/
def State.sendTo (s : State) (c kind key msg off : Nat) (data : List Byte) : State :=
  s.memberOut c key kind 0 0 msg off data

/-- A message that its server cannot read (R349): a member refuses it to the source; the source gives it up for the
member alone, which LAGGED tells it (log 59: DESIGN CHOICE, unsafe), and MISSED is raised. -/
def State.unserved (s : State) (c key msg : Nat) : State :=
  let w := s.ctxPeek c
  let s := s.endMsg c msg false (some key)
  if Cx.kind w = 1 then
    let s := (s.sendTo c 10 key 0 (msg + 1) []).raise 0x31 (s.ctxPort w) 3
    s.onCtx c fun r => { r with catchup := r.catchup.map fun e => if e.key == key then { e with missing := msg + 1 } else e }
  else s.sendPkt c 6 0 0 0 1 []

/-- A packet of context `c` departs, if it could and it is its turn (R340, R342, R343). One whose source cannot be read
fails its message (log 54: DESIGN CHOICE, unsafe) (log 52: DESIGN CHOICE, unsafe). -/
def State.depart (s : State) (c : Nat) : State :=
  let (w, s) := s.ctxGet c
  let p := s.ctxPort w
  match s.nextPacket c w with
  | none => s
  | some (m, n) =>
    if !m.tracked && decide (1048576 ≤ s.fld F.SNDCTX_TRK_USED_USED) then s.raise 0x32 0 3
    else if Cx.credit w < units n then
      s.onCtx c fun r => { r with waitFrom := some (r.waitFrom.getD s.now) }
    else
      match drrTurn (s.waitingTx p) (s.port p).drr (s.port p).shareTx (s.fld (F.SND_RESV_SHARE p)) c with
      | none => s
      | some (d, sh) =>
        match s.msgBytes p m m.sent n with
        | (none, s) =>
          match m.dst with
          | some key => s.unserved c key m.msg
          | none => s.endMsg c m.msg false
        | (some data, s) =>
          let s := s.onPort p fun q => { q with drr := d, shareTx := sh }
          let psn := Cx.txPsn w
          let s := s.emitData c m psn m.sent n data
          let (m', s) := s.trackTake m psn
          let s := if m.tracked then s else s.trackWrite c m'
          let waited := (s.sound.of c).waitFrom.elim 0 fun t => s.now - t
          let s := s.ctxSet c fun w =>
            let w := setByteFld w 56 4 (Cx.txUsed w + units n)
            let w := if Cx.quota w = 0 then w else setByteFld w 36 4 (Cx.quotaLeft w - units n)
            let w := setByteFld (setByteFld w 96 8 (Cx.txBytes w + n)) 112 4 (max (Cx.waitMax w) (min waited (2 ^ 32 - 1)))
            if m.dst.isSome then w else setByteFld w 40 4 (Cx.txPsn w + 1)
          let s := s.bump (F.SND_CNT_TX p) n
          let s := s.onCtx c fun r =>
            { r with
              busy := true, idle := 0, waitFrom := none, ackAt := if r.unacked.isEmpty then s.now else r.ackAt
              queue := r.queue.map fun x =>
                if x.msg == m.msg && x.dst == m.dst then { m' with sent := m.sent + n, lastPsn := psn } else x
              unacked := if m.dst.isSome then r.unacked else r.unacked ++ [⟨psn, m.msg, m.sent, n, s.tideNo⟩] }
          if m.dst.isSome && m.sent + n == m.len then s.endMsg c m.msg true m.dst else s

/-! ### Acknowledgement (R346) -/

/-- Packet sequence number `a` is at or before `b`. -/
def psnLe (a b : Nat) : Bool := decide ((b + 2 ^ 32 - a) % 2 ^ 32 < 2 ^ 31)

/-- The PSN up to which every receiver waited for has acknowledged: the peer, or each member not in catch-up (R338) (log
53: DEDUCED, unsafe). -/
def State.groupAck (s : State) (c w : Nat) : Nat :=
  let r := s.sound.of c
  let out := r.catchup.map CatchSt.key
  let keys := ((s.members w).map fun m => memberKey m.1 m.2.1).filter fun k => !out.contains k
  keys.foldl (fun a k =>
    let x := SMap.get (fun _ => (Cx.txAck w)) r.acks k
    if psnLe x a then x else a) ((Cx.txPsn w + 2 ^ 32 - 1) % 2 ^ 32)

/-- Every packet up to `ack` has been acknowledged: TX_ACK advances, and messages with nothing left complete. -/
def State.ackTo (s : State) (c ack : Nat) : State :=
  let r := s.sound.of c
  let left := r.unacked.filter fun e => !psnLe e.psn ack
  if left.length = r.unacked.length then s
  else
    let s := s.ctxSet c fun w => setByteFld (setByteFld w 44 4 ack) 90 2 0
    (s.onCtx c fun r =>
      { r with
        unacked := left, ackAt := s.now
        queue := r.queue.map fun m =>
          if m.ended.isNone && m.sent == m.len && !(left.any fun e => e.msg == m.msg) && m.dst.isNone
          then { m with ended := some true } else m }).settleCtx c

/-- An acknowledgement from context `src` of slot `slot` (R346, R348). -/
def State.ackIn (s : State) (c src slot ack : Nat) : State :=
  let (w, s) := s.ctxGet c
  if !Cx.isOpen w then s
  else if Cx.kind w = 1 then
    let key := memberKey src slot
    let s := s.onCtx c fun r => { r with acks := SMap.ins r.acks key ack }
    s.ackTo c (s.groupAck c w)
  else s.ackTo c ack

/-- Resend every packet not acknowledged, its source read again; retransmissions use the credits of their first
transmission and are not charged to the quota (R337, R340, R343, R346). -/
def State.resendPkts (s : State) (c : Nat) : State :=
  let (w, s) := s.ctxGet c
  let p := s.ctxPort w
  let again (m : SoundMsg) : Bool := m.dst.isNone && (s.sound.of c).unacked.any fun e => e.msg == m.msg
  let s := s.onCtx c fun r =>
    { r with ackAt := s.now
             queue := r.queue.map fun m => if again m then { m with retries := m.retries + 1 } else m }
  let s := ((s.sound.of c).queue.filter again).foldl (fun s m => s.trackWrite c m) s
  (s.sound.of c).unacked.foldl (fun s e =>
    match (s.sound.of c).queue.find? fun m => m.msg == e.msg && m.dst.isNone with
    | none => s
    | some m =>
      match s.msgBytes p m e.off e.len with
      | (none, s) => s
      | (some data, s) => (s.emitData c m e.psn e.off e.len data).bump (F.SND_CNT_RETX p)) s

/-- A context goes to CLOSED or ERROR: its messages fail, its grant returns to the pool, it is written back (R338,
R340, R347). -/
def State.ctxEnd (s : State) (c st : Nat) (status : Option Nat) : State :=
  let s := s.ungrant c (s.sound.of c).held
  let s := s.onCtx c fun r =>
    { r with queue := r.queue.map fun m => if m.ended.isNone then { m with ended := some false } else m
             unacked := [], staged := [], retryAt := none, catchup := [], kept := [] }
  let s := s.settleCtx c
  s.ctxSet c fun w => let w := Cx.setState w st; match status with | some i => Cx.mark w i | none => w

/-! ### Commands of the harbour (R335) -/

/-- Send CONNECT from context `c`. -/
def State.sendConnect (s : State) (c : Nat) : State :=
  s.sendPkt c 4 0 0 0 0 []

/-- SNDCTX_CMD CONNECT and LISTEN; CLOSE is with the receiving side. -/
def State.ctxOpen (s : State) (c cmd : Nat) : State :=
  if !s.ctxExists c then s
  else
  let s := (s.ungrant c (s.sound.of c).held).onCtx c fun r => { CtxRun.none with queue := r.queue }
  if cmd = 1 then (s.ctxSet c fun w => Cx.setState w Cx.connecting).sendConnect c
  else s.ctxSet c fun w => Cx.setState w Cx.listen

/-! ### Slack (R343, R344, R346, R350) -/

/-- Contexts that the module runs. -/
def SoundSt.live (m : SoundSt) : List Nat := (m.cache.map Prod.fst ++ m.run.map Prod.fst).eraseDups

/-- Step 5 of R45: QUOTA_LEFT is renewed (R343). -/
def State.renewQuotas (s : State) : State :=
  s.each s.sound.live fun s c =>
    let w := s.ctxPeek c
    if Cx.isOpen w && Cx.quota w != 0 then s.ctxSet c fun w => setByteFld w 36 4 (Cx.quota w) else s

/-- Overload of port `p` at the slack that ends a tide (R344). -/
def State.overloadSlack (s : State) (p : PortIx) : State :=
  let m := s.port p
  let full := decide (0 < m.occCyc) && Q.le (Q.mul ⟨19, 20⟩ ⟨m.occCyc, 1⟩) m.occSum
  let mean := if m.occCyc = 0 then 0 else (Q.div (Q.mul ⟨100, 1⟩ m.occSum) ⟨m.occCyc, 1⟩).floor.toNat
  let s := s.setFld (F.SND_STAT_OCC p) (min mean 255)
  let on := s.flag (F.SND_STAT_OVERLOAD p)
  let s := if on then s.bump (F.SND_CNT_OVL_TIDES p) else s
  let s := s.onPort p fun m =>
    { m with occSum := ⟨0, 1⟩, occCyc := 0
             fullRun := if full then m.fullRun + 1 else 0, lightRun := if full then 0 else m.lightRun + 1 }
  if !on && 16 ≤ (s.port p).fullRun then
    ((s.setFld (F.SND_STAT_OVERLOAD p) 1).bump (F.SND_CNT_OVL_EPI p)).raise 0x31 p 0
  else if on && 16 ≤ (s.port p).lightRun then (s.setFld (F.SND_STAT_OVERLOAD p) 0).raise 0x31 p 0
  else s

/-- A context whose WIN is not yet held is granted what the pool has for it, and its peer is told (R340; log 50:
DEDUCED, unsafe). -/
def State.topUp (s : State) (c : Nat) : State :=
  let was := (s.sound.of c).granted
  if Cx.isOpen (s.ctxPeek c) && decide ((s.sound.of c).held < Cx.win (s.ctxPeek c)) then
    let s := s.grant c
    if (s.sound.of c).granted = was then s else s.sendPkt c 2 0 0 0 0 []
  else s

/-- Ramp, admissions, retries, credit from the pool and unspent credit at a slack (R340, R350). -/
def State.soundSlack (s : State) : State :=
  let s := { s with sound := { s.sound with admitted := 0 } }
  let s := if s.fld F.SNDCTX_STAT_PHASE = 1 then s.setFld F.SNDCTX_RAMP_LEFT (s.fld F.SNDCTX_RAMP_LEFT - 1) else s
  s.each (s.sound.run.map Prod.fst) fun s c =>
    let r := s.sound.of c
    let w := s.ctxPeek c
    let s := s.topUp c
    let s := s.onCtx c fun r =>
      { r with busy := false, idle := if r.busy || Cx.credit w == 0 || !Cx.isOpen w then 0 else r.idle + 1 }
    match r.retryAt with
    | some t =>
      if t ≤ s.tideNo ∧ Cx.state w = Cx.connecting then (s.onCtx c fun r => { r with retryAt := none }).sendConnect c else s
    | none => s

/-! ### Commands -/

/-- PACKET_DEPART (R342). -/
def execPacketDepart (c : CtxNo) (s : State) : Outcome State Fault Refusal :=
  if s.ctxExists c.toNat && (s.mayDepart c.toNat).isSome then .next (s.depart c.toNat)
  else if s.ctxExists c.toNat then
    .next (let w := s.ctxPeek c.toNat
      match s.nextPacket c.toNat w with
      | some (m, n) =>
        if !m.tracked && decide (1048576 ≤ s.fld F.SNDCTX_TRK_USED_USED) then s.raise 0x32 0 3
        else if Cx.isOpen w && decide (Cx.credit w < units n) then
          s.onCtx c.toNat fun r => { r with waitFrom := some (r.waitFrom.getD s.now) }
        else s
      | none => s)
  else .next s

/-- GRANT_RETURN (R340): credit held unspent for SND_GRANT_IDLE.TIDES tides is handed back. -/
def execGrantReturn (c : CtxNo) (s : State) : Outcome State Fault Refusal :=
  let c := c.toNat
  if !s.ctxExists c then .next s
  else
    let (w, s) := s.ctxGet c
    let n := Cx.credit w
    if !Cx.isOpen w ∨ n = 0 ∨ (s.sound.of c).idle < s.fld (F.SND_GRANT_IDLE_TIDES (s.ctxPort w)) then .next s
    else
      let s := s.ctxSet c fun w => setByteFld w 56 4 (Cx.txUsed w + n)
      .next ((s.onCtx c fun r => { r with idle := 0 }).sendPkt c 2 32 0 0 0 [] (some n))

/-- RAMP_DONE (R350): 1,024 tides after READY. -/
def execRampDone (s : State) : Outcome State Fault Refusal :=
  if s.fld F.SNDCTX_STAT_PHASE = 1 ∧ s.fld F.SNDCTX_RAMP_LEFT = 0 then
    .next ((s.setFld F.SNDCTX_STAT_PHASE 2).raise 0x32 0 1)
  else .next s

end Sys2Proof.Machine
end

