-- ==== Sys2Proof/Machine/Feeders.lean ====
section
/-! DEFINITION. The feeders and the cove (05_array.md R109, 07_narrow.md R160-R168, 09_reefcode.md R222-R223,
10_backward.md R235-R239): which bytes of the lagoon a feeder's element lies in, and the codes it sends. -/

namespace Sys2Proof.Machine

/-! ### Slots that do not fit together -/

/-- Elements of a packing group of a format (R141). -/
def packGroup (c : Nat) : Nat :=
  if fmtBits c = 6 then 4 else if fmtBits c = 4 then 2 else if fmtBits c = 3 then 8 else if fmtBits c = 2 then 4 else 1

/-- Address and stride in a register of a feeder or cove slot (R222). -/
def lowHalf (v : Nat) : Nat := v % 2 ^ 32
def highHalf (v : Nat) : Nat := v / 2 ^ 32 % 2 ^ 32

/-- The address or the stride is not a multiple of 16. -/
def off16 (v : Nat) : Bool := lowHalf v % 16 != 0 || highHalf v % 16 != 0

/-- The SEQ_FAULT code for which an array operation's slots are refused, if any (R223, R239): `rg` reads a scalar
register. -/
def slotRefusal (op : Nat) (x : ArrayArgs) (rg : SReg → Nat) : Option Nat :=
  let c := x.cove
  let reserved := op == 7 || (op != 6 && x.a.fin.toNat == 3) || 2 ≤ x.row.src.toNat || 2 ≤ x.col.src.toNat ||
    (c.en && (2 ≤ c.mode.toNat || c.res.toNat != 0))
  let served (col : Bool) : Bool := c.en && (c.side == col || c.pair)
  let side (f : FeedSlot) (col : Bool) : Bool :=
    f.en && (f.kstart.toNat % packGroup f.sfmt.toNat != 0 || (f.src.toNat == 1) != served col ||
      (f.src.toNat == 0 && off16 (rg f.areg)) ||
      (served col &&
        (off16 (rg (if c.side == col then c.areg else c.areg2)) ||
         (c.mode.toNat == 1 && (f.rbase.toNat % packGroup f.sfmt.toNat != 0 ||
           (blockScaled f.sfmt.toNat && f.rbase.toNat % 32 != 0))))))
  let bad := (if op = 6 then !x.row.en && !x.col.en else !x.row.en || !x.col.en) ||
    side x.row false || side x.col true ||
    (c.en && ((if c.side then x.col.src else x.row.src).toNat != 1 || (c.pair && (x.row.src.toNat != 1 ||
      x.col.src.toNat != 1 || c.mode.toNat != 1))))
  if reserved then some 1 else if bad then some 6 else none

/-! ### A side of an operation -/

/-- A side with the values of the registers its slots name (R216, R222, R236). -/
def sideOf (f : FeedSlot) (c : CoveSlot) (col : Bool) (rg : SReg → Nat) : SideSt :=
  let cove := f.src.toNat == 1
  let own := c.side == col
  { slot := f
    areg := if cove then rg (if own then c.areg else c.areg2) else rg f.areg
    sreg := if cove then rg (if own then c.sreg else c.sreg2) else rg f.sreg
    qdesc := rg f.qreg
    creg := rg f.creg
    cove := cove
    trans := cove && c.mode.toNat == 1 }

/-- The feeder slot names a Q-descriptor, and a channel-scale array: register s0 means none (R222). -/
def SideSt.named (x : SideSt) : Bool := x.slot.qreg != 0
def SideSt.scaled (x : SideSt) : Bool := x.slot.creg != 0

/-- Lagoon address and bit offset of feeder `i`'s element at K index `k` (R222, R236). -/
def SideSt.elemAt (x : SideSt) (i k : Nat) : Nat × Nat :=
  let w := fmtBits x.slot.sfmt.toNat
  let e := x.slot.kstart.toNat + k
  if x.trans then (lowHalf x.areg + e * highHalf x.areg + i * w / 8, i * w % 8)
  else (lowHalf x.areg + i * highHalf x.areg + e * w / 8, e * w % 8)

/-- Lagoon address of the block-scale byte of that element (R222, R236). -/
def SideSt.scaleAt (x : SideSt) (i k : Nat) : Nat :=
  let e := x.slot.kstart.toNat + k
  if x.trans then lowHalf x.sreg + e * highHalf x.sreg + i / 32
  else lowHalf x.sreg + i * highHalf x.sreg + e / 32

/-- The source's stored code of an element, and its block scale where the stored format has one. -/
def State.sourceCode (s : State) (k : Atoll) (x : SideSt) (i e : Nat) : Nat × Nat :=
  let w := fmtBits x.slot.sfmt.toNat
  let (a, b) := x.elemAt i e
  (s.lagNum k a ((b + w + 7) / 8) / 2 ^ b % 2 ^ w,
   if blockScaled x.slot.sfmt.toNat then s.lagNum k (x.scaleAt i e) 1 else 0x7F)

/-- The element's own value, with the block scale it is stored with (R142, R237). -/
def State.sourceVal (s : State) (k : Atoll) (x : SideSt) (i e : Nat) : Val :=
  let (c, sc) := s.sourceCode k x i e
  scaledVal x.slot.sfmt.toNat c sc

/-- BF16 channel scale of feeder `i` into format `fmt` (R222); 1 where none is given, where the format is none of the GQ
formats (R144, R159), and for a transposed GQ source (R237). -/
def State.feederScale (s : State) (k : Atoll) (x : SideSt) (fmt i : Nat) : Nat :=
  if !x.scaled ∨ !isGq fmt ∨ (x.trans && isGq x.slot.sfmt.toNat) then 0x3F80
  else s.lagNum k (lowHalf x.creg + 2 * (x.slot.rbase.toNat + i)) 2

/-- The side's elements are converted on their way to the array: by a feeder from a wide source (R160), by the cove
in every case but a per-tensor source already in the side's format without a descriptor (R237). -/
def SideSt.converts (x : SideSt) (fmt : Nat) : Bool :=
  let sf := x.slot.sfmt.toNat
  if x.cove then !(sf == fmt && !blockScaled sf && !x.named)
  else (sf == 1 || sf == 2) && sf != fmt

/-! ### Fetching -/

/-- What a feeder sends for one K index: element code, block scale code; and what its conversion counts. -/
structure Fetched where
  code  : Nat
  scale : Nat
  flag  : Option CvtFlag
  val   : Val

/-- The elements of a feeder's row, which ends at `rowEnd`, in the run of 128 that begins at multiple `base` of 128 of
the row, as stages 1 to 5 of R159 give them; the last block is short (R142; the row ends with the operation's K range,
log 35: DESIGN CHOICE, unsafe). -/
def State.fetchSeg (s : State) (k : Atoll) (fmt d : Nat) (x : SideSt) (i base rowEnd c : Nat) (priv : List Nat) :
    List Fetched :=
  let x0 : SideSt := { x with slot := { x.slot with kstart := 0 } }
  let xs := (List.range (min 128 (rowEnd - base))).map fun n => s.sourceVal k x0 i (base + n)
  let st := stage12 d ((priv.filter fun p => decide (base ≤ p ∧ p < base + 128)).map fun p => p - base) xs
  let m := (Qd.xmode d).1
  (pieces 32 4 st).flatMap fun b =>
    let r := convBlock 0 fmt m c b
    let sc := r.scales.headD 0x7F
    ((r.codes.zip r.flags).zip b).map fun z => ⟨z.1.1, sc, if z.2.2 then none else some z.1.2, z.2.1⟩

/-- The K indices `[k0, k1)` of feeder `i`, converted (R159, R160). -/
def State.fetchConv (s : State) (k : Atoll) (fmt d : Nat) (x : SideSt) (i k0 k1 rowEnd : Nat) (priv : List Nat) :
    List Fetched :=
  let c := s.feederScale k x fmt i
  let e0 := x.slot.kstart.toNat + k0
  let e1 := x.slot.kstart.toNat + k1
  let b0 := e0 / 128
  let all := (List.range ((e1 + 127) / 128 - b0)).flatMap fun n =>
    s.fetchSeg k fmt d x i (128 * (b0 + n)) rowEnd c priv
  (all.drop (e0 - 128 * b0)).take (k1 - k0)

/-- The K indices `[k0, k1)` of feeder `i` as stored. -/
def State.fetchPlain (s : State) (k : Atoll) (x : SideSt) (i k0 k1 : Nat) : List Fetched :=
  (List.range (k1 - k0)).map fun n =>
    let (c, sc) := s.sourceCode k x i (k0 + n)
    ⟨c, sc, none, .fin false Q.zero⟩

/-- Counts of a list of conversions (R175). -/
def countFetched (addr fmt c : Nat) (l : List Fetched) : QDelta :=
  let n (f : CvtFlag) : Nat := (l.filter fun z => z.flag == some f).length
  let live := l.filter fun z => z.flag.isSome
  ⟨addr, live.length, n .ovf, n .van, n .nan, 0, finiteMax fmt c (live.map Fetched.val)⟩

/-- Every lagoon range that the fetch of feeder `i`'s elements `[e0, e1)`, counted from element 0 of its row, reads:
the elements and the block scales of their blocks (R222, R236). -/
def SideSt.elemReads (x : SideSt) (i e0 e1 : Nat) : List (Nat × Nat) :=
  let x0 : SideSt := { x with slot := { x.slot with kstart := 0 } }
  let w := fmtBits x.slot.sfmt.toNat
  let sc := blockScaled x.slot.sfmt.toNat
  if e1 ≤ e0 then []
  else if x.trans then
    (List.range (e1 - e0)).flatMap fun j =>
      let (a, b) := x0.elemAt i (e0 + j)
      (a, (b + w + 7) / 8) :: if sc then [(x0.scaleAt i (e0 + j), 1)] else []
  else
    let (a, b) := x0.elemAt i e0
    (a, (b + (e1 - e0) * w + 7) / 8) :: if sc then [(x0.scaleAt i e0, (e1 - 1) / 32 - e0 / 32 + 1)] else []

/-- Every lagoon range the fetch of the K indices `[k0, k1)` and of the privileged positions `ps` of feeder `i` reads:
whole runs of 128 elements, the channel scale and the privileged values themselves where it converts (R159, R166). -/
def SideSt.reads (x : SideSt) (fmt i k0 k1 rowEnd : Nat) (ps : List Nat) : List (Nat × Nat) :=
  let e0 := x.slot.kstart.toNat + k0
  let e1 := x.slot.kstart.toNat + k1
  if !x.converts fmt then x.elemReads i e0 e1
  else
    (if k1 ≤ k0 then [] else x.elemReads i (e0 / 128 * 128) (min rowEnd ((e1 + 127) / 128 * 128))) ++
      (ps.flatMap fun p => x.elemReads i (x.slot.kstart.toNat + p) (x.slot.kstart.toNat + p + 1)) ++
      (if !x.scaled ∨ !isGq fmt ∨ (x.trans && isGq x.slot.sfmt.toNat) then []
       else [(lowHalf x.creg + 2 * (x.slot.rbase.toNat + i), 2)])

end Sys2Proof.Machine
end

