-- ==== Sys2Proof/Machine/Array.lean ====
section
/-! DEFINITION. The atoll array (05_array.md): operations entering the queue, refills, the words the cells hold, the
end of an operation, the ferry chain and the field test. -/

namespace Sys2Proof.Machine

open Host (Outcome)

/-! ### Events of the units that end a slice -/

/-- The array refuses an operation: ARR_FAULT.CODE, the event, and the slice's end (R108). -/
def State.arrFault (s : State) (k : Atoll) (code : Nat) : State :=
  let b := (s.atl k).seq.r.pc / 128
  ((s.setFld (F.ARR_FAULT_CODE k) code).raise 0x11 k 1).endSlice k 2 (b % 2 ^ 16)

/-- A feeder, the cove, the vector engine or the sequencer read a double-bit error: counted, LAG_UE, and the slice is
abandoned (R281). -/
def State.lagFault (s : State) (k : Atoll) : State := ((s.bump (F.LAG_CNT_UE k)).raise 0x16 k 0).abandon k

/-! ### Issue -/

/-- Mnemonic codes of the array slot (R221). -/
abbrev opScout : Nat := 6

/-- A format mismatch of a side under R222, a cove-fed one included (R236): without a Q-descriptor the stored format, else
the descriptor's, is not the array slot's. -/
def sideMismatch (x : SideSt) (fmt d : Nat) : Bool := if x.named then Qd.fmt d != fmt else x.slot.sfmt.toNat != fmt

/-- The descriptor of a side, or zero where its slot names none. -/
def State.sideDesc (s : State) (k : Atoll) (x : SideSt) : Nat × State :=
  if x.slot.en && x.named then s.qGet k x.qdesc else (0, s)

/-- A side converts under a descriptor that waits for the harbour (R174). -/
def State.sideAwaits (s : State) (k : Atoll) (x : SideSt) (fmt : Nat) : Bool :=
  x.slot.en && x.named && x.converts fmt && s.qAwaits k x.qdesc

/-- Merge lagoon ranges that touch, in ascending address. -/
def mergeRanges : List (Nat × Nat) → List (Nat × Nat)
  | [] => []
  | (a, n) :: rest =>
    match mergeRanges rest with
    | [] => [(a, n)]
    | (b, m) :: more => if b ≤ a + n then (a, max (a + n) (b + m) - a) :: more else (a, n) :: (b, m) :: more

/-- The lagoon region a side's feeders read: elements and block scales, in ascending address (R126). -/
def regionOf (x : SideSt) (n klen : Nat) : List (Nat × Nat) :=
  let x0 : SideSt := { x with slot := { x.slot with kstart := 0 } }
  let w := fmtBits x.slot.sfmt.toNat
  let e0 := x.slot.kstart.toNat
  let rows := if x.trans then (List.range klen).map fun e => ((x0.elemAt 0 (e0 + e)).1, (n * w + 7) / 8)
    else (List.range n).map fun i => let (a, b) := x0.elemAt i e0; (a, (b + klen * w + 7) / 8)
  let scales := if !blockScaled x.slot.sfmt.toNat then []
    else if x.trans then (List.range klen).map fun e => (x0.scaleAt 0 (e0 + e), (n + 31) / 32)
    else (List.range n).map fun i => (x0.scaleAt i e0, (e0 + klen + 31) / 32 - e0 / 32)
  mergeRanges ((rows ++ scales).mergeSort fun a b => decide (a.1 ≤ b.1))

/-- An operation of the array slot becomes an entry of the queue. -/
def mkOp (op : Nat) (x : ArrayArgs) (rg : SReg → Nat) : ArrOp :=
  { op := op, a := x.a, fmtR := x.a.fmtRow.toNat, fmtC := x.a.fmtCol.toNat, row := sideOf x.row x.cove false rg, col := sideOf x.col x.cove true rg, len := 0, poss := [],
    fed := [], codes := [], scales := [], privs := [], clk := 0, started := false, behind := false }

/-- Formats that set a SCOUT's rate: the descriptors' of the enabled sides (R221). -/
def scoutFmts (o : ArrOp) (dr dc : Nat) : Nat × Nat :=
  let f := if o.row.slot.en then Qd.fmt dr else Qd.fmt dc
  let g := if o.col.slot.en then Qd.fmt dc else Qd.fmt dr
  (f, g)

/-- The operation with the formats its rate, its reads and its conversions follow: a SCOUT's from its descriptors (R221). -/
def ArrOp.under (o : ArrOp) (dr dc : Nat) : ArrOp :=
  if o.op = opScout then { o with fmtR := (scoutFmts o dr dc).1, fmtC := (scoutFmts o dr dc).2 } else o

/-- Operations of the queue whose step 0 has not entered the array (R221). -/
def ArrSt.waiting (m : ArrSt) : Nat := (m.queue.filter fun o => !o.started).length

/-- FERRY of the array slot. -/
abbrev ferryIn : Nat := 3

/-- The array cannot take the operation yet: the queue is full (R221), its ferried region has not come (R128), the
ferry holds 16 regions (R126), or a conversion waits for the harbour (R174). -/
def State.arrStalls (s : State) (k : Atoll) (o : ArrOp) : Bool :=
  let m := (s.atl k).arr
  let f := o.a.ferry.toNat
  let head := s.fld (F.FEED_FERRY_ROLE k) == 1
  let p := o.under (s.sideDesc k o.row).1 (s.sideDesc k o.col).1
  decide (4 ≤ m.waiting) ||
  (o.op != opScout && f == ferryIn &&
    !(s.flag (F.FEED_FERRY_TAG_VALID k o.a.tag.toNat) && s.fld (F.FEED_FERRY_TAG_NUM k o.a.tag.toNat) == o.a.fnum.toNat)) ||
  (o.op != opScout && head && (f == 1 || f == 2) && decide (16 ≤ m.ferryOut.length)) ||
  s.sideAwaits k o.row (p.fmt false) || s.sideAwaits k o.col (p.fmt true)

/-- Why the array refuses the operation, with the state after its descriptors were read (R108, R119, R222): 0 none.
A SCOUT is refused for nothing but its column count. -/
def State.arrRefuses (s : State) (k : Atoll) (o : ArrOp) : Nat × State :=
  let (dr, s) := s.sideDesc k o.row
  let (dc, s) := s.sideDesc k o.col
  let cols := s.fld (F.ARR_GEOM_COLS k)
  let n := o.a.n.toNat + 1
  if o.op = opScout then (if cols < n then 1 else 0, s)
  else
    let c := arrRefusal o.op (o.fmt false) (o.fmt true) n cols
    (if c = 1 then 1
     else if sideMismatch o.row (o.fmt false) dr || sideMismatch o.col (o.fmt true) dc then 2 else c, s)

/-- Privileged positions a MAC's privileged pass takes, as K indices (R167); a disagreement sets PRIV_MISMATCH in
both descriptors (R168). -/
def State.privPass (s : State) (k : Atoll) (o : ArrOp) (dr dc : Nat) : List Nat × State :=
  let pr := o.row.named && Qd.priv dr
  let pc := o.col.named && Qd.priv dc
  if o.op != 0 || (!pr && !pc) then ([], s)
  else if pr && pc && Qd.privList dr == Qd.privList dc then
    let lo := o.row.slot.kstart.toNat
    let (l, s) := s.privRange k o.row.qdesc dr lo (lo + o.klen)
    (l.map fun e => e.1 - lo, s)
  else
    let s := if o.row.named then s.qMark k o.row.qdesc 5 else s
    ([], if o.col.named then s.qMark k o.col.qdesc 5 else s)

/-- The operation enters the array queue, and an OUT operation on the HEAD atoll queues its region (R126, R167,
R221). -/
def State.arrEnter (s : State) (k : Atoll) (o : ArrOp) : State :=
  let (dr, s) := s.sideDesc k o.row
  let (dc, s) := s.sideDesc k o.col
  let (ps, s) := s.privPass k o dr dc
  let o := o.under dr dc
  let o := { o with len := stepsOf (if o.op = opScout then 0 else o.op) (o.fmt false) (o.fmt true) o.klen, poss := ps }
  let f := o.a.ferry.toNat
  let out : List FerryOut :=
    if o.op != opScout && s.fld (F.FEED_FERRY_ROLE k) == 1 && (f == 1 || f == 2) then
      [⟨regionOf (o.side (f == 2)) ((if f = 2 then o.a.n else o.a.m).toNat + 1) o.klen, o.a.tag.toNat, o.a.fnum.toNat⟩]
    else []
  let s := s.onArr k fun m => { m with queue := m.queue ++ [o], ferryOut := m.ferryOut ++ out }
  s.setFld (F.FEED_FERRY_STAT_OUT_PEND k) (s.atl k).arr.ferryOut.length

/-- A slot's operation issued alone as the current bundle's (log 25: DESIGN CHOICE, safe): refused outside a slice
(R217) or for the cause `bad` gives, stalled with nothing changed, or done. -/
def State.slotIssue (s : State) (k : Atoll) (bad : State → Option State) (stalls : State → Bool)
    (act : State → State) : State :=
  if !s.running k then s.refuse k 2
  else match bad s with
  | some t => t
  | none =>
    if stalls s then s.onSeq k fun q => { q with stalled := true }
    else act (s.onSeq k fun q => { q with stalled := false })

/-- The scalar registers of `r` as the slots read them: s0 reads zero (R212). -/
def SeqRegs.sv (r : SeqRegs) (i : SReg) : Nat :=
  if i = 0 then 0 else (SMap.get (fun _ => (0 : Word64)) r.s i.toNat).toNat

/-- The state in which an array operation is refused, if it is (R108, R223). -/
def State.arrBad (s : State) (k : Atoll) (r : SeqRegs) (op : Nat) (x : ArrayArgs) : Option State :=
  match slotRefusal op x r.sv with
  | some c => some (s.refuse k c)
  | none => let (c, s) := s.arrRefuses k (mkOp op x r.sv); if c ≠ 0 then some (s.arrFault k c) else none

/-- An operation of the array slot issued alone on atoll `k`. -/
def State.arrIssue (s : State) (k : Atoll) (op : Nat) (x : ArrayArgs) : State :=
  let r := (s.atl k).seq.r
  let o := mkOp op x r.sv
  s.slotIssue k (fun s => s.arrBad k r op x) (fun s => s.arrStalls k o) (fun s => s.arrEnter k o)

/-! ### Refills (R109) -/

/-- K indices that the main steps `[t0, t1)` of an operation carry (R106). -/
def ArrOp.stepElems (o : ArrOp) (e4 t0 t1 : Nat) : Nat × Nat :=
  if e4 = 1 then (t0 / 4, min o.klen ((t1 + 3) / 4)) else (min o.klen (t0 * (e4 / 4)), min o.klen (t1 * (e4 / 4)))

/-- Enter a list of values under consecutive keys. -/
def SMap.fill {α : Type} (m : SMap α) (k : Nat) : List α → SMap α
  | [] => m
  | v :: vs => SMap.fill (SMap.ins m k v) (k + 1) vs

/-- The privileged value of a feeder's row at K index `p`: from a wide source itself, else from PRIV_DATA (R166). -/
def State.privFetch (s : State) (k : Atoll) (o : ArrOp) (col : Bool) (d i p : Nat) : Nat × State :=
  let x := o.side col
  let e := x.slot.kstart.toNat + p
  if x.converts (o.fmt col) then (privValue (s.feederScale k x (o.fmt col) i) (s.sourceVal k x i p), s)
  else
    let w := (x.slot.kstart.toNat + o.klen + 4095) / 4096
    let (l, s) := s.privWindow k x.qdesc d (e / 4096)
    match l.find? fun z => z.1 == e with
    | some z => s.vFree k (privAddr d (x.slot.rbase.toNat + i) w e z.2) 2
    | none => (0, s)

/-- Rate of an operation's steps as four times E (R106, R107). -/
def ArrOp.rate (o : ArrOp) : Nat := opRate4 (if o.op = opScout then 0 else o.op) (o.fmt false) (o.fmt true)

/-- Capture the operands of steps `[t0, t1)` of operation `o` for feeder `i` of a side (R109, R159, R166, R173). -/
def State.refillOp (s : State) (k : Atoll) (o : ArrOp) (col : Bool) (i t0 t1 : Nat) : ArrOp × State :=
  let x := o.side col
  let f := feederKey col i
  let (dr, s) := s.sideDesc k o.row
  let (dc, s) := s.sideDesc k o.col
  let d := if col then dc else dr
  let fmt := o.fmt col
  let (k0, k1) := o.stepElems o.rate (min t0 o.len) (min t1 o.len)
  let (priv, s) :=
    if !x.named then ([], s)
    else
      let e0 := (x.slot.kstart.toNat + k0) / 128 * 128
      s.privRange k x.qdesc d e0 ((x.slot.kstart.toNat + k1 + 127) / 128 * 128)
  let c := s.feederScale k x fmt i
  let conv := x.converts fmt
  let known := x.slot.sfmt.toNat == fmt || conv
  let l := if conv then s.fetchConv k fmt d x i k0 k1 (x.slot.kstart.toNat + o.klen) (priv.map Prod.fst) else s.fetchPlain k x i k0 k1
  -- a narrow source in another format: what the feeder sends is open (log 36: DESIGN CHOICE, safe)
  let (fi, s) := if known then (0, s) else s.fresh
  let l := if known then l else l.map fun z => { z with code := (Config.freeBits 16 fi).toNat }
  let s := if conv && (Qd.xmode d).2 && x.named && o.op != opScout then s.qMark k x.qdesc 2 else s
  let inv := if x.slot.sfmt.toNat = 14 ∧ x.named then
      ((s.fetchPlain k x i k0 k1).filter fun z => z.code == 2).length else 0
  let s :=
    if !x.named then s
    else if o.op = opScout then s.qScout k x.qdesc (finiteMax fmt c ((l.filter fun z => z.flag.isSome).map Fetched.val))
    else
      let dl := { countFetched x.qdesc fmt c l with inv := inv }
      if conv || inv != 0 then s.qCount k dl else s
  -- privileged pass
  let p0 := (t0 - o.len) / 4
  let p1 := min o.poss.length ((t1 - o.len + 3) / 4)
  let (ps, s) := ((o.poss.drop p0).take (p1 - p0)).foldl
    (fun (a : List Nat × State) p => let (v, s) := a.2.privFetch k o col d i p; (a.1 ++ [v], s)) ([], s)
  ({ o with
      fed := SMap.ins o.fed f t1
      codes := SMap.fill o.codes (f * 65536 + k0) (l.map Fetched.code)
      scales := l.zipIdx.foldl (fun m z =>
        SMap.ins m (f * 65536 + ((x.slot.kstart.toNat + k0 + z.2) / 32 - x.slot.kstart.toNat / 32)) z.1.scale) o.scales
      privs := SMap.fill o.privs (f * 65536 + p0) ps }, s)

/-- Replace operation number `n` of the queue. -/
def ArrSt.setOp (m : ArrSt) (n : Nat) (o : ArrOp) : ArrSt := { m with queue := m.queue.set n o }

/-- Feeder `i` of a side writes a refill of up to 64 steps of the first operation it still has to fetch, if its queue
has 64 entries free (R109). A pending line makes it wait (R287), a double-bit error ends the slice (R281). -/
def State.refill (s : State) (k : Atoll) (col : Bool) (i : Nat) (delayed : Bool) : State :=
  let m := (s.atl k).arr
  let f := feederKey col i
  match m.queue.zipIdx.find? fun z => z.1.feeders.contains f && decide (SMap.get (fun _ => 0) z.1.fed f < z.1.total) with
  | none => s
  | some (o, n) =>
    if 64 < m.occupancy f then s
    else
      let t0 := SMap.get (fun _ => 0) o.fed f
      let t1 := min (t0 + 64) o.total
      let x := o.side col
      let (k0, k1) := o.stepElems o.rate (min t0 o.len) (min t1 o.len)
      let ps := (o.poss.drop ((t0 - o.len) / 4)).take (min o.poss.length ((t1 - o.len + 3) / 4) - (t0 - o.len) / 4)
      let rs := x.reads (o.fmt col) i k0 k1 (x.slot.kstart.toNat + o.klen) ps
      if rs.any fun r => (s.atl k).strm.pends r.1 r.2 then s.flowNote k rs
      else if rs.any fun r => s.lagErr k r.1 r.2 then s.lagFault k
      else if s.sideAwaits k x (o.fmt col) then s
      else
        let s := s.each rs fun s r => s.lagSeen k r.1 r.2
        let (o, s) := s.refillOp k o col i t0 t1
        let s := s.onArr k fun m => m.setOp n o
        if delayed then s.bump (F.FEED_CNT_CONFLICT k) else s

/-! ### The end of an operation -/

/-- Slabs the cove took for an operation (R235). -/
def ArrOp.slabs (o : ArrOp) : Nat :=
  let n (x : SideSt) (rows : Nat) : Nat :=
    if !x.slot.en || !x.cove then 0
    else if x.trans then (o.klen + 127) / 128 else (rows + 127) / 128 * ((o.klen + 1023) / 1024)
  n o.row (o.a.m.toNat + 1) + n o.col (o.a.n.toNat + 1)

/-- The last step of the operation at the head of the queue has passed its cells: they hold its result, and its bank is
in the state END names, with its region (R111-R115). Where the clocks for it have not passed, the array takes them now;
it does only once every feeder has fetched every step and no read is owed (R110, R116; log 23: DESIGN CHOICE, safe). -/
def State.arrEnd (s : State) (k : Atoll) : State :=
  let m := (s.atl k).arr
  match m.queue with
  | [] => s
  | o :: rest =>
    if o.ready < o.total ∨ (!m.gone o && m.owed [] o) then s
    else
      let last := max o.clk (o.total + m.skew o.a.m.toNat o.a.n.toNat)
      let rest := if o.clk < o.total then (match rest with | x :: l => { x with behind := true } :: l | [] => []) else rest
      (s.bump (F.COVE_CNT_SLABS k) o.slabs).onArr k fun m =>
        let m := { m with
          queue := rest
          stepsNow := m.stepsNow + (o.total - o.clk)
          adv := if o.filed then m.adv else m.adv + (last - o.clk) }
        let m := m.runCells o last
        if o.filed || o.op == opScout then m
        else m.onBank o.a.bank fun _ =>
          ⟨endState o.a.fin.toNat, o.a.m.toNat + 1, o.a.n.toNat + 1, [],
           if o.a.fin = 0 then none else some (m.adv + o.total - last - 1)⟩

/-! ### The ferry (R125-R129) -/

/-- Send a piece on from atoll `k` along the chain, and from the TAIL to a peer, as FERRY flits on its bundle (R127, R129,
R320). -/
def State.ferryOn (s : State) (k : Atoll) (off tag fnum : Nat) (last : Bool) (data : List Byte) : State :=
  let role := s.fld (F.FEED_FERRY_ROLE k)
  if role = 1 ∨ role = 2 then
    let s := s.causeway k ((k.val + 1) % 8) data.length
    (s.bump (F.FEED_CNT_FERRY_TX k) data.length).emit (.ferry k.val ((k.val + 1) % 8) off tag fnum last data)
  else if role = 3 ∧ s.flag (F.FEED_FERRY_PEER_EN k) then
    let p := bport (if s.flag (F.FEED_FERRY_PEER_PORT k) then 1 else 0)
    match (s.port p).ofSlot (s.fld (F.FEED_FERRY_PEER_SLOT k)) with
    | some x =>
      let s := (s.bump (F.FEED_CNT_FERRY_TX k) data.length).causeway k (s.portAtoll p k) data.length
      s.sendFlits p x (ferryFlits off tag fnum last data)
    | none => s.raise 0x12 k 1
  else s

/-- Atoll `k` drops a piece: it takes no part, the HEAD takes pieces from no atoll and none from a peer unless SRC_PEER
is set, and no other atoll takes one from a peer (R127, R129; log 118: DEDUCED, unsafe). -/
def State.orphan (s : State) (k : Atoll) (peer : Bool) : Bool :=
  let role := s.fld (F.FEED_FERRY_ROLE k)
  role == 0 || (role == 1) != peer || (peer && !s.flag (F.FEED_FERRY_SRC_PEER k))

/-- A piece arrives at atoll `k`, from a peer where `peer` is set (R127, R129). -/
def State.ferryArrive (s : State) (k : Atoll) (peer : Bool) (off tag fnum : Nat) (last : Bool) (data : List Byte) : State :=
  if s.orphan k peer then (s.bump (F.FEED_CNT_ORPHAN k)).raise 0x12 k 0
  else
    let s := s.lagWrite k off data
    let s := s.bump (F.FEED_CNT_FERRY_RX k) data.length
    let arr := s.fld (F.FEED_FERRY_STAT_ARRIVING k)
    let s :=
      if last then
        let s := s.setFld (F.FEED_FERRY_STAT_ARRIVING k) (if arr.testBit tag then arr - 2 ^ tag else arr)
        (s.setFld (F.FEED_FERRY_TAG_NUM k tag) fnum).setFld (F.FEED_FERRY_TAG_VALID k tag) 1
      else s.setFld (F.FEED_FERRY_STAT_ARRIVING k) (arr ||| 2 ^ tag)
    s.ferryOn k off tag fnum last data

/-- Send the next piece of at most 4 KiB of the first queued region (R126). -/
def State.ferryPop (s : State) (k : Atoll) : State :=
  match (s.atl k).arr.ferryOut with
  | [] => s
  | r :: rest =>
    match r.ranges with
    | [] => s.onArr k fun m => { m with ferryOut := rest }
    | (a, n) :: more =>
      let m := min n 4096
      let left := if m < n then (a + m, n - m) :: more else more
      let s := s.onArr k fun q => { q with ferryOut := if left.isEmpty then rest else { r with ranges := left } :: rest }
      let s := s.setFld (F.FEED_FERRY_STAT_OUT_PEND k) (s.atl k).arr.ferryOut.length
      s.ferryOn k a r.tag r.fnum left.isEmpty (s.lagBytes k a m)

/-! ### The field test (R124) -/

/-- A write of 1 to ARR_TEST.START arms the field test. -/
def State.testArm (s : State) (k : Atoll) : State := s.onArr k fun m => { m with testArm := true }

/-- The field test begins: slice starts are held, both banks FREE, zero and with the full region. -/
def State.testBegin (s : State) (k : Atoll) : State :=
  let rows := s.fld (F.ARR_GEOM_ROWS k)
  let cols := s.fld (F.ARR_GEOM_COLS k)
  s.onArr k fun m => { m with acc := [], bank0 := ⟨.free, rows, cols, [], none⟩, bank1 := ⟨.free, rows, cols, [], none⟩,
                              testArm := false, testRun := true }

/-- The field test ends, having found the physical column, if any (R124). -/
def State.testEnd (s : State) (k : Atoll) (fail : Option (Fin 33)) : State :=
  if !(s.atl k).arr.testRun then s
  else
    let s := s.onArr k fun m => { m with testRun := false }
    let s := s.setFld (F.ARR_TEST_DONE k) 1
    let s := s.setFld (F.ARR_TEST_FAIL k) (if fail.isSome then 1 else 0)
    let s := s.raise 0x11 k 2
    match fail with
    | none => s.setFld (F.ARR_TEST_FAILCOL k) 0x3F
    | some c =>
      let s := s.setFld (F.ARR_TEST_FAILCOL k) c.val
      let s := s.onArr k fun m => { m with badCols := (m.badCols ++ [c.val]).eraseDups }
      let s := s.setFld (F.ARR_REPAIR_FIELD_FAIL k) 1
      s.raise 0x11 k 3

/-! ### The commands -/

/-- MAC (R151): a multiply-add enters the array queue. -/
def execMac (k : Atoll) (x : ArrayArgs) (s : State) : Outcome State Fault Refusal := .next (s.arrIssue k 0 x)
/-- L1 (R120). -/
def execL1 (k : Atoll) (x : ArrayArgs) (s : State) : Outcome State Fault Refusal := .next (s.arrIssue k 1 x)
/-- L2SQ (R120). -/
def execL2sq (k : Atoll) (x : ArrayArgs) (s : State) : Outcome State Fault Refusal := .next (s.arrIssue k 2 x)
/-- MAXPLUS (R120). -/
def execMaxplus (k : Atoll) (x : ArrayArgs) (s : State) : Outcome State Fault Refusal := .next (s.arrIssue k 3 x)
/-- MINPLUS (R120). -/
def execMinplus (k : Atoll) (x : ArrayArgs) (s : State) : Outcome State Fault Refusal := .next (s.arrIssue k 4 x)
/-- CMPCOUNT (R120). -/
def execCmpcount (k : Atoll) (x : ArrayArgs) (s : State) : Outcome State Fault Refusal := .next (s.arrIssue k 5 x)
/-- SCOUT (R173, R221). -/
def execScout (k : Atoll) (x : ArrayArgs) (s : State) : Outcome State Fault Refusal := .next (s.arrIssue k opScout x)

/-- FEEDER_REFILL (R109) (log 99: DESIGN CHOICE, unsafe). -/
def execFeederRefill (k : Atoll) (col : Bool) (feeder : Fin 1024) (delayed : Bool) (s : State) :
    Outcome State Fault Refusal := .next (s.refill k col feeder.val delayed)

/-- ARRAY_OP_END (R114) (log 99: DESIGN CHOICE, unsafe). -/
def execArrayOpEnd (k : Atoll) (s : State) : Outcome State Fault Refusal := .next (s.arrEnd k)

/-- FERRY_PIECE (R127): from the predecessor along the causeway, or, with `src`, from a peer: its FERRY flits are accepted in
SEQ order and reach the atoll from their port die (R129, R309, R320). -/
def execFerryPiece (k : Atoll) (src : Option StraitIn) (off : BitVec 29) (tag : BitVec 4) (fnum : BitVec 16) (last : Bool)
    (data : List Byte) (s : State) : Outcome State Fault Refusal :=
  match src with
  | none => .next (s.ferryArrive k false off.toNat tag.toNat fnum.toNat last data)
  | some v =>
    let p := bport v.port
    let (ok, s) := s.seqIn p v.peer.toNat v.t (max 1 ((data.length + 255) / 256))
    .next (if ok then
        (s.causeway (s.portAtoll p k) k data.length).ferryArrive k true off.toNat tag.toNat fnum.toNat last data
      else s)

/-- FERRY_SEND (R126). -/
def execFerrySend (k : Atoll) (s : State) : Outcome State Fault Refusal := .next (s.ferryPop k)

/-- TEST_DONE (R124). -/
def execTestDone (k : Atoll) (failCol : Option (Fin 33)) (s : State) : Outcome State Fault Refusal :=
  .next (s.testEnd k failCol)

end Sys2Proof.Machine
end

