-- ==== Sys2Proof/Machine/Vector.lean ====
section
/-! DEFINITION. The vector engine's registers and main pipe (08_vector.md R182-R209): element access, refusals, the
elementwise operations, reductions, statistics, scans, permutations and softmax. -/

namespace Sys2Proof

/-- The operation's format is BF16. -/
def VOp.bf (o : VOp) : Bool := o.fmt.toNat == 2

/-- Element count n (R184). -/
def VOp.n (o : VOp) : Nat := o.cnt.toNat + 1

/-- Floating format of the operation. -/
def VOp.ff (o : VOp) : Machine.FFmt := if o.bf then Machine.bf16 else Machine.fp32

/-- The store converts with a Q-descriptor: its SB names a register other than s0 (R203). -/
def VOp.converting (o : VOp) : Bool := o.sb != 0

/-- Bytes a plain VLD or VST touches (R203). -/
def VOp.lagSize (o : VOp) : Nat := (if o.sub.toNat = 0 then 4 else 2) * o.n

end Sys2Proof

namespace Sys2Proof.Machine

open Host (Outcome)

/-! ### Opcodes (R187) -/

namespace Opc
abbrev vadd : Nat := 0x01
abbrev vsub : Nat := 0x02
abbrev vmul : Nat := 0x03
abbrev vfma : Nat := 0x04
abbrev vdiv : Nat := 0x05
abbrev vsqrt : Nat := 0x06
abbrev vrsqrt : Nat := 0x07
abbrev vexp : Nat := 0x08
abbrev vlog : Nat := 0x09
abbrev vmax : Nat := 0x0A
abbrev vmin : Nat := 0x0B
abbrev vabs : Nat := 0x0C
abbrev vneg : Nat := 0x0D
abbrev vscalb : Nat := 0x0E
abbrev vcmp : Nat := 0x10
abbrev vsel : Nat := 0x11
abbrev vplog : Nat := 0x12
abbrev vcvtw : Nat := 0x18
abbrev viota : Nat := 0x19
abbrev vld : Nat := 0x20
abbrev vst : Nat := 0x21
abbrev vred : Nat := 0x28
abbrev vxfin : Nat := 0x29
abbrev vnorm : Nat := 0x2A
abbrev vscan : Nat := 0x30
abbrev vgather : Nat := 0x34
abbrev vscatter : Nat := 0x35
abbrev vsoftmax : Nat := 0x38
abbrev vlse : Nat := 0x39
abbrev vtload : Nat := 0x40
abbrev vfun : Nat := 0x41
abbrev vdfun : Nat := 0x42
abbrev vrand : Nat := 0x48
abbrev vdigest : Nat := 0x4C
abbrev vlsq : Nat := 0x50
abbrev vlsqf : Nat := 0x51
abbrev vupd : Nat := 0x58
end Opc

/-! ### Registers and elements (R183) -/

/-- Word `e` of vector register `r`. -/
def VecSt.word (v : VecSt) (r e : Nat) : Nat := (SMap.get (fun _ => (0 : Word32)) v.v (r * 4096 + e)).toNat

/-- Set word `e` of vector register `r`. -/
def VecSt.setWord (v : VecSt) (r e x : Nat) : VecSt :=
  { v with v := SMap.put (fun _ => (0 : Word32)) v.v (r * 4096 + e) (BitVec.ofNat 32 x) }

/-- 16-bit element `e` of register `r`, of its upper 4,096 where `hi`. -/
def VecSt.half (v : VecSt) (r e : Nat) (hi : Bool) : Nat :=
  let i := if hi then e + 4096 else e
  v.word r (i / 2) / 2 ^ (16 * (i % 2)) % 2 ^ 16

/-- Set a 16-bit element. -/
def VecSt.setHalf (v : VecSt) (r e : Nat) (hi : Bool) (x : Nat) : VecSt :=
  let i := if hi then e + 4096 else e
  let w := v.word r (i / 2)
  v.setWord r (i / 2) (if i % 2 = 0 then withBits w 15 0 x else withBits w 31 16 x)

/-- Element `e` of register `r` as the operation's format reads it. -/
def VecSt.elem (v : VecSt) (o : VOp) (r : VReg) (e : Nat) : Nat :=
  if o.bf then v.half r.toNat e o.hi else v.word r.toNat e

/-- Its value. -/
def VecSt.ev (v : VecSt) (o : VOp) (r : VReg) (e : Nat) : Val := o.ff.val (v.elem o r e)

/-- Set element `e` of register `r` to a code of the operation's format. -/
def VecSt.setElem (v : VecSt) (o : VOp) (r : VReg) (e x : Nat) : VecSt :=
  if o.bf then v.setHalf r.toNat e o.hi x else v.setWord r.toNat e x

/-- Bit `e` of predicate `p`. -/
def SeqRegs.pred (r : SeqRegs) (p e : Nat) : Bool := (SMap.get (fun _ => (0 : BitVec 4096)) r.p p).getLsbD e

/-- Element `e` is unmasked (R184). -/
def SeqRegs.live (r : SeqRegs) (o : VOp) (e : Nat) : Bool := 8 ≤ o.pm.toNat || r.pred o.pm.toNat e

/-- The unmasked elements. -/
def SeqRegs.lanes (r : SeqRegs) (o : VOp) : List Nat := (List.range o.n).filter fun e => r.live o e

/-- Set bits of a predicate: for each listed element its bit. -/
def SeqRegs.setPred (r : SeqRegs) (p : Nat) (l : List (Nat × Bool)) : SeqRegs :=
  let old := SMap.get (fun _ => (0 : BitVec 4096)) r.p p
  let clr := l.foldl (fun a e => a ||| 2 ^ e.1) 0
  let new := l.foldl (fun a e => if e.2 then a ||| 2 ^ e.1 else a) 0
  let bits' := (old &&& ~~~ BitVec.ofNat 4096 clr) ||| BitVec.ofNat 4096 new
  { r with p := SMap.put (fun _ => (0 : BitVec 4096)) r.p p bits' }

/-- Write scalar register `i`; s0 discards it (R212). -/
def SeqRegs.setS (r : SeqRegs) (i : SReg) (v : Nat) : SeqRegs :=
  if i = 0 then r else { r with s := SMap.put (fun _ => (0 : Word64)) r.s i.toNat (BitVec.ofNat 64 v) }

/-- Write a scalar register of atoll `k`. -/
def State.setS (s : State) (k : Atoll) (i : SReg) (v : Nat) : State :=
  s.onSeq k fun q => { q with r := q.r.setS i v }

/-- Write each listed element of VD. -/
def State.putElems (s : State) (k : Atoll) (o : VOp) (l : List (Nat × Nat)) : State :=
  s.onVec k fun v => l.foldl (fun v e => v.setElem o o.vd e.1 e.2) v

/-! ### Refusals (R184, R187, R209) -/

/-- Operations whose elements are FP32 or BF16 by FMT. -/
def needsFmt (op : Nat) : Bool :=
  (1 ≤ op && op ≤ 0x0E) || op == Opc.vcmp || op == Opc.vsel || op == Opc.vred || op == Opc.vscan ||
  op == Opc.vgather || op == Opc.vscatter || op == Opc.vsoftmax || op == Opc.vlse || op == Opc.vfun ||
  op == Opc.vdfun

/-- Highest SUB an operation lists, where it lists any (R187, R192, R195, R203, R205, R244). -/
def subMax (op : Nat) : Nat :=
  if op = Opc.vcmp ∨ op = Opc.vplog then 6 else if op = Opc.vcvtw ∨ op = Opc.vred then 5
  else if op = Opc.vld ∨ op = Opc.vst ∨ op = Opc.vrand then 3 else if op = Opc.vscan then 2
  else if op = Opc.vupd then 1 else 15

/-- The operation has a packed 16-bit side (R184). -/
def packedSide (op : Nat) (o : VOp) : Bool :=
  if op = Opc.vcvtw then o.sub.toNat ≤ 3 else if op = Opc.vld ∨ op = Opc.vst then o.sub.toNat == 1 else o.bf

/-- A listed main-pipe opcode (R187). -/
def listedOpc (op : Nat) : Bool :=
  (1 ≤ op && op ≤ 0x0E) || (0x10 ≤ op && op ≤ 0x12) || op == 0x18 || op == 0x19 || op == 0x20 || op == 0x21 ||
  (0x28 ≤ op && op ≤ 0x2A) || op == 0x30 || op == 0x34 || op == 0x35 || op == 0x38 || op == 0x39 ||
  (0x40 ≤ op && op ≤ 0x42) || op == 0x48 || op == 0x4C || op == 0x50 || op == 0x51 || op == 0x58

/-- The table slot is loaded with a valid pair (R200). -/
def VecSt.tabOk (v : VecSt) (t : Nat) : Bool := (SMap.get (fun _ => (none : Option TabSt)) v.tab t).isSome

/-- VEC_FAULT.CODE for which a main-pipe operation is refused, 0 none (R184, R187, R200, R203-R205, R208, R244). -/
def State.vecCode (s : State) (k : Atoll) (r : SeqRegs) (op : Nat) (o : VOp) : Nat × State :=
  let f := o.fmt.toNat
  let sub := o.sub.toNat
  if !listedOpc op || (needsFmt op && f != 0 && f != 2) || (o.hi && !packedSide op o) || subMax op < sub then (1, s)
  else if op = Opc.vld ∨ (op = Opc.vst ∧ !o.converting) then
    (if s.inProgram k (r.sv o.sa) o.lagSize then 0 else 4, s)
  else if op = Opc.vst then
    if 2 ≤ sub then (1, s)
    else
      let (d, s) := s.qGet k (r.sv o.sb)
      let fmt := Qd.fmt d
      let blocks := if blockScaled fmt then (o.n + 31) / 32 else 0
      if (lowHalf (r.sv o.sd) % 128 ≠ 0 ∧ (Qd.rot d ≠ 0 ∨ blockScaled fmt)) ∨
          !s.inProgram k (r.sv o.sa) ((o.n * fmtBits fmt + 7) / 8) ∨
          !s.inProgram k (lowHalf (r.sv o.sc)) (max 1 blocks) then (4, s)
      else (0, s)
  else if op = Opc.vfun ∨ op = Opc.vdfun then (if (s.atl k).vec.tabOk o.tab.toNat then 0 else 3, s)
  else if op = Opc.vrand then (if r.sv o.sa < s.fld (F.VEC_GCG_COUNT k) then 0 else 5, s)
  else if op = Opc.vlsq ∨ op = Opc.vlsqf then
    let (d, s) := s.qGet k (r.sv o.sb)
    (if isGq (Qd.fmt d) then 0 else 1, s)
  else if op = Opc.vupd then
    let opt := bits o.ext.toNat 30 29
    let fin := ((s.atl k).seq.slice.elim 0 fun x => x.finishes.length)
    if f ≠ 0 ∨ o.hi ∨ opt = 3 ∨ o.xi.toNat = 15 ∨ bits o.ext.toNat 27 0 ≠ 0 ∨ (sub = 1 ∧ 64 ≤ fin) ∨
        (sub = 1 ∧ bits o.ext.toNat 30 28 ≠ 0) then (1, s)
    else
      let a := r.sv o.sa
      if a % 128 ≠ 0 ∨ !s.inProgram k a 128 then (4, s)
      else if sub = 1 then (0, s)
      else
        let mf := bits (s.lagNum k (a + 36) 1) 3 0
        let w := if mf = 2 then 2 else if mf = 3 ∨ mf = 4 then 1 else 4
        let n := (r.sv o.sb + o.n) * w
        let bad (off : Nat) : Bool := !s.inProgram k (s.lagNum k (a + off) 4) n
        if (opt ≤ 1 ∧ (bad 48 ∨ bad 52)) ∨ (opt = 0 ∧ (bad 56 ∨ bad 60)) then (4, s) else (0, s)
  else (0, s)

/-- The slice ends with VEC_FAULT (R209). -/
def State.vecFault (s : State) (k : Atoll) (code : Nat) : State :=
  let b := (s.atl k).seq.r.pc / 128
  ((s.setFld (F.VEC_FAULT_CODE k) code).raise 0x14 k 0).endSlice k 3 (b % 2 ^ 16)

/-- The operation names a register pair beyond s63 (R230 code 8). -/
def pairBeyond (op : Nat) (o : VOp) : Bool := (op == Opc.vnorm || op == Opc.vdigest) && o.sd.toNat == 63

/-- The state in which a main-pipe operation is refused, if it is. -/
def State.vecBad (s : State) (k : Atoll) (r : SeqRegs) (op : Nat) (o : VOp) : Option State :=
  if bits o.ext.toNat 27 0 ≠ 0 ∧ op ≠ Opc.vupd then some (s.refuse k 1)
  else if o.ext ≠ 0 ∧ op ≠ Opc.vupd then some (s.refuse k 1)
  else if pairBeyond op o then some (s.refuse k 8)
  else let (c, s) := s.vecCode k r op o; if c ≠ 0 then some (s.vecFault k c) else none

/-! ### Elementwise operations (R186, R187) -/

/-- The exact result of an elementwise operation on its element values; `j` is the integer of VSCALB. -/
def elemFn (op : Nat) (a b c : Val) (j : Int) : Val :=
  if op = Opc.vadd then a.add b else if op = Opc.vsub then a.sub b else if op = Opc.vmul then a.mul b
  else if op = Opc.vfma then (a.mul b).add c else if op = Opc.vdiv then a.div b
  else if op = Opc.vsqrt then a.sqrt else if op = Opc.vrsqrt then a.rsqrt
  else if op = Opc.vmax then a.maxv b else if op = Opc.vmin then a.minv b
  else if op = Opc.vabs then a.abs else if op = Opc.vneg then a.negate
  else a.scalb (max (-1000) (min 1000 j))

/-- Code of the result, rounded once into the operation's format. -/
def elemCode (op : Nat) (f : FFmt) (a b c : Val) (j : Int) : Nat :=
  if op = Opc.vexp then f.exp a else if op = Opc.vlog then f.ln a else f.enc (elemFn op a b c j)

/-- An elementwise operation of the first group of R187. -/
def State.vElem (s : State) (k : Atoll) (r : SeqRegs) (op : Nat) (o : VOp)
    (v : VecSt := (s.atl k).vec) : State :=
  let bc := o.bcast && (op == Opc.vadd || op == Opc.vsub || op == Opc.vmul)
  let b0 := o.ff.val (r.sv o.sa % 2 ^ (if o.bf then 16 else 32))
  let j := signed 64 (r.sv o.sa)
  s.putElems k o ((r.lanes o).map fun e =>
    (e, elemCode op o.ff (v.ev o o.va e) (if bc then b0 else v.ev o o.vb e) (v.ev o o.vc e) j))

/-- An IEEE 754-2019 relation by SUB (R187 VCMP). -/
def vRel (sub : Nat) (a b : Val) : Bool :=
  if a.isNan || b.isNan then sub == 1 || sub == 6
  else if sub = 0 then a.eqv b else if sub = 1 then !a.eqv b else if sub = 2 then a.ltv b
  else if sub = 3 then !b.ltv a else if sub = 4 then b.ltv a else if sub = 5 then !a.ltv b else false

/-- VCMP (R187). -/
def State.vCmp (s : State) (k : Atoll) (r : SeqRegs) (o : VOp)
    (v : VecSt := (s.atl k).vec) : State :=
  s.onSeq k fun q => { q with r := q.r.setPred o.pd.toNat ((r.lanes o).map fun e =>
    (e, vRel o.sub.toNat (v.ev o o.va e) (v.ev o o.vb e))) }

/-- VSEL (R187). -/
def State.vSel (s : State) (k : Atoll) (r : SeqRegs) (o : VOp)
    (v : VecSt := (s.atl k).vec) : State :=
  s.putElems k o ((r.lanes o).map fun e => (e, v.elem o (if r.pred o.ps.toNat e then o.va else o.vb) e))

/-- VPLOG (R187): not masked. -/
def State.vPlog (s : State) (k : Atoll) (r : SeqRegs) (o : VOp) : State :=
  let f (e : Nat) : Bool :=
    let a := r.pred o.ps.toNat e
    let b := r.pred (o.pm.toNat % 8) e
    match o.sub.toNat with
    | 0 => a && b
    | 1 => a || b
    | 2 => a != b
    | 3 => a && !b
    | 4 => !a
    | 5 => true
    | _ => false
  s.onSeq k fun q => { q with r := q.r.setPred o.pd.toNat ((List.range o.n).map fun e => (e, f e)) }

/-- One conversion of VCVTW (R187). -/
def cvtw (sub c : Nat) : Nat :=
  match sub with
  | 0 => bf16.enc (fp32.val c)
  | 1 => fp32.enc (bf16.val c)
  | 2 => fp16.enc (fp32.val c)
  | 3 => fp32.enc (fp16.val c)
  | 4 => fp32.enc (Val.ofQ ⟨signed 32 c, 1⟩)
  | _ =>
    match fp32.val c with
    | .nan => 0
    | .inf n => if n then 2 ^ 31 else 2 ^ 31 - 1
    | .fin n m => unsigned 32 (max (-(2 ^ 31 : Nat) : Int) (min ((2 ^ 31 - 1 : Nat) : Int) ((if n then m.neg else m).rint)))

/-- VCVTW (R187): the 16-bit side is packed, and HI acts on it alone (R184). -/
def State.vCvtw (s : State) (k : Atoll) (r : SeqRegs) (o : VOp)
    (v : VecSt := (s.atl k).vec) : State :=
  let sub := o.sub.toNat
  s.onVec k fun w => (r.lanes o).foldl (fun w e =>
    let c := if sub = 1 ∨ sub = 3 then v.half o.va.toNat e o.hi else v.word o.va.toNat e
    if sub = 0 ∨ sub = 2 then w.setHalf o.vd.toNat e o.hi (cvtw sub c) else w.setWord o.vd.toNat e (cvtw sub c)) w

/-- VIOTA (R187). -/
def State.vIota (s : State) (k : Atoll) (r : SeqRegs) (o : VOp) : State :=
  s.onVec k fun v => (r.lanes o).foldl (fun v e => v.setWord o.vd.toNat e (r.sv o.sa + e * r.sv o.sb)) v

/-! ### Exact accumulators (R191-R194) -/

/-- Add a term (R191). -/
def XaSt.add (x : XaSt) (t : Val) : XaSt :=
  let n := x.count + 1
  let neg := x.allNeg && (match t with | .fin s m => s && m.isZero | _ => false)
  if n = 2 ^ 40 then { x with count := n, special := .nan, allNeg := neg }
  else
    let sp := match t, x.special with
      | .nan, _ => Special.nan
      | _, .nan => .nan
      | .inf false, .negInf => .nan
      | .inf false, _ => .posInf
      | .inf true, .posInf => .nan
      | .inf true, _ => .negInf
      | .fin _ _, p => p
    { x with count := n, special := sp, sum := (Q.add x.sum t.toQ).norm, allNeg := neg }

/-- The value of an accumulator (R191). -/
def XaSt.val (x : XaSt) : Val :=
  match x.special with
  | .nan => .nan
  | .posInf => .inf false
  | .negInf => .inf true
  | .none => if x.sum.isZero then .fin (x.allNeg && 0 < x.count) Q.zero else Val.ofQ x.sum

/-- Accumulator `i` of atoll `k`. -/
def State.xa (s : State) (k : Atoll) (i : Nat) : XaSt := SMap.get (fun _ => XaSt.zero) (s.atl k).vec.xa i

/-- Set accumulator `i`. -/
def State.setXa (s : State) (k : Atoll) (i : Nat) (x : XaSt) : State :=
  s.onVec k fun v => { v with xa := SMap.put (fun _ => XaSt.zero) v.xa i x }

/-- Accumulator `i` goes on as `y`; the 2^40-th term raises XA_OVF (R191). -/
def State.xaTo (s : State) (k : Atoll) (i : Nat) (y : XaSt) : State :=
  let x := s.xa k i
  let s := s.setXa k i y
  if x.count < 2 ^ 40 ∧ 2 ^ 40 ≤ y.count then (s.bump (F.VEC_CNT_XA_OVF k)).raise 0x14 k 2 else s

/-- Add terms to accumulator `i` (R191). -/
def State.xaAdd (s : State) (k : Atoll) (i : Nat) (ts : List Val) : State := s.xaTo k i (ts.foldl XaSt.add (s.xa k i))

/-- Rank of ARGMAX and ARGMIN: +0 above −0 (R192); `a` is above `b`. -/
def rankAbove (a b : Val) : Bool := b.ltv a || (a.isZero && b.isZero && b.neg? && !a.neg?)

/-- Index of the extreme element, lowest on a tie, or of the lowest NaN; all ones when empty (R192). -/
def argExtreme (isMax : Bool) (l : List (Nat × Val)) : Nat :=
  match l.find? fun e => e.2.isNan with
  | some e => e.1
  | none =>
    match l with
    | [] => 0xFFFFFFFF
    | e :: es => (es.foldl (fun a b => if (if isMax then rankAbove b.2 a.2 else rankAbove a.2 b.2) then b else a) e).1

/-- VRED (R192). -/
def State.vRed (s : State) (k : Atoll) (r : SeqRegs) (o : VOp)
    (v : VecSt := (s.atl k).vec) : State :=
  let l := (r.lanes o).map fun e => (e, v.ev o o.va e)
  let sub := o.sub.toNat
  if sub ≤ 1 then
    let ts := l.map fun e => if sub = 1 then e.2.mul e.2 else e.2
    if o.acc then s.xaAdd k o.xi.toNat ts
    else s.setS k o.sd (fp32.enc (ts.foldl XaSt.add XaSt.zero).val)
  else if sub = 2 then s.setS k o.sd (fp32.enc (l.foldl (fun a e => a.maxv e.2) (Val.inf true)))
  else if sub = 3 then s.setS k o.sd (fp32.enc (l.foldl (fun a e => a.minv e.2) (Val.inf false)))
  else s.setS k o.sd (argExtreme (sub == 4) l)

/-- VXFIN (R193). -/
def State.vXfin (s : State) (k : Atoll) (o : VOp) : State :=
  let s' := s.setS k o.sd (fp32.enc (s.xa k o.xi.toNat).val)
  if o.clr then s'.setXa k o.xi.toNat XaSt.zero else s'

/-- VNORM (R194): mean and reciprocal deviation (log 37: DEDUCED, unsafe). -/
def State.vNorm (s : State) (k : Atoll) (r : SeqRegs) (o : VOp) : State :=
  let x1 := s.xa k o.xi.toNat
  let x2 := s.xa k ((o.xi.toNat + 1) % 16)
  let n := r.sv o.sa
  let eps := fp32.val (r.sv o.sb % 2 ^ 32)
  let bad := x1.special != .none || x2.special != .none
  let nq : Q := ⟨n, 1⟩
  let mean := if bad then fp32.nan else if n = 0 then 0 else fp32.enc (x1.val.div (.fin false nq))
  let var := if n = 0 then Q.zero
    else Q.max Q.zero (Q.div (Q.sub (Q.mul nq x2.sum) (Q.mul x1.sum x1.sum)) (Q.mul nq nq))
  let rstd := if bad then fp32.nan else fp32.enc (Val.rsqrt (Val.add (.fin false var) eps))
  (s.setS k o.sd mean).setS k (o.sd + 1) rstd

/-! ### Scans (R195) -/

/-- One element of a scan: the accumulator before it and the one after it. -/
def scanStep (sub : Nat) (a : XaSt × Val) (x : Val) : XaSt × Val :=
  if sub = 0 then (a.1.add x, a.2) else (a.1, if sub = 1 then a.2.maxv x else a.2.minv x)

/-- The identity (R195). -/
def scanZero (sub : Nat) : XaSt × Val := (XaSt.zero, if sub = 1 then Val.inf true else Val.inf false)

/-- The value a scan writes. -/
def scanOut (sub : Nat) (a : XaSt × Val) : Val := if sub = 0 then a.1.val else a.2

/-- Run a scan over elements in order; each carries its index, whether a new segment begins at it, whether it is
unmasked, and its value. Gives the outputs of unmasked elements and the last accumulator. -/
def scanRun (sub : Nat) (incl : Bool) (start : XaSt × Val) :
    List (Nat × Bool × Bool × Val) → List (Nat × Val) × (XaSt × Val)
  | [] => ([], start)
  | (e, new, live, x) :: rest =>
    let a := if new then scanZero sub else start
    let b := if live then scanStep sub a x else a
    let (l, z) := scanRun sub incl b rest
    (if live then (e, scanOut sub (if incl then b else a)) :: l else l, z)

/-- VSCAN (R195) (log 37: DEDUCED, unsafe). -/
def State.vScan (s : State) (k : Atoll) (r : SeqRegs) (o : VOp)
    (v : VecSt := (s.atl k).vec) : State :=
  let sub := o.sub.toNat
  let carry := o.carry && sub == 0
  let xa := s.xa k o.xi.toNat
  let start : XaSt × Val := if carry then ({ XaSt.zero.add xa.val with count := xa.count }, Val.nan) else scanZero sub
  let begins (e : Nat) : Bool := e != 0 && r.pred o.ps.toNat e
  let items := (List.range o.n).map fun e =>
    -- forward: a segment begins at e; reverse: one ends behind e, at its last element
    (e, (if o.rev then e + 1 != o.n && begins (e + 1) else begins e), r.live o e, v.ev o o.va e)
  let (out, z) := scanRun sub o.incl start (if o.rev then items.reverse else items)
  let s := s.putElems k o (out.map fun e => (e.1, o.ff.enc e.2))
  if carry then s.xaTo k o.xi.toNat z.1 else s

/-! ### Permutations (R196, R197) -/

/-- Count out-of-range indices and raise OOB once (R197). -/
def State.oob (s : State) (k : Atoll) (n : Nat) : State :=
  if n = 0 then s else (s.bump (F.VEC_CNT_OOB k) n).raise 0x14 k 1

/-- VGATHER. -/
def State.vGather (s : State) (k : Atoll) (r : SeqRegs) (o : VOp)
    (v : VecSt := (s.atl k).vec) : State :=
  let l := (r.lanes o).map fun e => (e, v.word o.vb.toNat e)
  let s := s.putElems k o (l.map fun e => (e.1, if e.2 < o.n then v.elem o o.va e.2 else 0))
  s.oob k (l.filter fun e => decide (o.n ≤ e.2)).length

/-- VSCATTER: of several elements with one index the highest stands. -/
def State.vScatter (s : State) (k : Atoll) (r : SeqRegs) (o : VOp)
    (v : VecSt := (s.atl k).vec) : State :=
  let l := (r.lanes o).map fun e => (v.word o.vb.toNat e, v.elem o o.va e)
  let s := s.putElems k o (l.filter fun e => decide (e.1 < o.n))
  s.oob k (l.filter fun e => decide (o.n ≤ e.1)).length

/-! ### Softmax and log-sum-exp (R198) -/

/-- Segments of the n elements: first element and the one behind the last. -/
def segments (r : SeqRegs) (o : VOp) : List (Nat × Nat) :=
  let st := (List.range o.n).filter fun e => e == 0 || r.pred o.ps.toNat e
  st.zip (st.drop 1 ++ [o.n])

/-- What one segment gives: softmax codes on its unmasked positions, the lse code, and whether it counts as fully
masked. `xs` are the unmasked positions with their scaled values; `f` is the format of the outputs (log 37: DEDUCED,
unsafe). -/
def softSegment (f : FFmt) (xs : List (Nat × Val)) : List (Nat × Nat) × Nat × Bool :=
  if xs.any fun e => e.2.isNan then (xs.map fun e => (e.1, f.nan), f.nan, false)
  else
    let m := xs.foldl (fun a e => a.maxv e.2) (Val.inf true)
    match m with
    | .nan => ([], f.nan, false)
    | .inf true => (xs.map fun e => (e.1, 0), f.enc (.inf true), true)
    | .inf false =>
      let n := (xs.filter fun e => e.2.isInf && !e.2.neg?).length
      (xs.map fun e => (e.1, if e.2.isInf && !e.2.neg? then f.enc (Val.ofQ ⟨1, n⟩) else 0), f.enc (.inf false), false)
    | .fin _ _ =>
      let ts := xs.map fun e => (e.1, fp32.mag (fp32.exp (e.2.sub m)))
      let sum := (ts.foldl (fun a e => Q.add a e.2) Q.zero).norm
      let lse := if Q.eq sum Q.one then f.enc m else f.encIv (Iv.add (Iv.ofQ m.toQ) (Iv.ln sum))
      (ts.map fun e => (e.1, f.enc (.fin false (Q.div e.2 sum))), lse, false)

/-- VSOFTMAX and VLSE. -/
def State.vSoft (s : State) (k : Atoll) (r : SeqRegs) (o : VOp) (lse : Bool)
    (v : VecSt := (s.atl k).vec) : State :=
  let tau := if o.scale then fp32.val (r.sv o.sa % 2 ^ 32) else .fin false Q.one
  (segments r o).foldl (fun s g =>
    let pos := (List.range (g.2 - g.1)).map fun i => g.1 + i
    let xs := (pos.filter fun e => r.live o e).map fun e => (e, (v.ev o o.va e).mul tau)
    let (out, l, full) := softSegment o.ff xs
    let s := if full then s.bump (F.VEC_CNT_FULLMASK k) else s
    s.putElems k o (if lse then pos.map fun e => (e, l)
      else out ++ (pos.filter fun e => !r.live o e).map fun e => (e, 0))) s

end Sys2Proof.Machine
end

