-- ==== Sys2Proof/Machine/Reduce.lean ====
section
/-! DEFINITION. Reductions (15_reductions.md): the descriptor and its cache (R359), a REDUCE's departure (R360, R361),
the deadline (R362, R363), contributions as they land (R364), the close with its sum, results and counts (R364-R369),
lost owners (R368) and held closes (R370). -/

namespace Sys2Proof.Machine

open Host (Outcome)

/-! ### The descriptor (R359) -/

namespace Rd

def ifmt (w : Nat) : Nat := bits w 3 0
def drop (w : Nat) : Bool := w.testBit 4
def adapt (w : Nat) : Bool := w.testBit 5
def hsteps (w : Nat) : Nat := byteFld w 1 1
def ranks (w : Nat) : Nat := bits (byteFld w 2 2) 12 0
def self (w : Nat) : Nat := bits (byteFld w 4 2) 11 0
def ddef (w : Nat) : Nat := byteFld w 6 2
def dmin (w : Nat) : Nat := byteFld w 8 2
def dmax (w : Nat) : Nat := byteFld w 10 2
def margin (w : Nat) : Nat := byteFld w 12 2
def est (w : Nat) : Nat := byteFld w 14 2
def foldF (w : Nat) : Nat := byteFld w 16 4
def n (w : Nat) : Nat := byteFld w 20 4
def src (w : Nat) : Nat := byteFld w 24 8
def ranktab (w : Nat) : Nat := byteFld w 32 8
def loff (w : Nat) : Nat := byteFld w 40 4
def step (w : Nat) : Nat := byteFld w 44 4
def closed (w : Nat) : Nat := byteFld w 48 4

/-- A count field at byte `b` risen by `x`, wrapping. -/
def count (w b x : Nat) : Nat := setByteFld w b 4 (byteFld w b 4 + x)
/-- STATUS bit `i` set: 0 BAD, 1 MISSING, 2 FELL, 3 EXTENDED. -/
def mark (w i : Nat) : Nat := withBits w (8 * 96 + i) (8 * 96 + i) 1

/-- Element bytes of a contribution. -/
def ib (w : Nat) : Nat := if ifmt w = 2 then 2 else 4
/-- Elements of a full shard (R356). -/
def shard (w : Nat) : Nat := 32 * ((n w + 32 * ranks w - 1) / (32 * ranks w))
/-- Elements of rank `j`'s shard. -/
def shardLen (w j : Nat) : Nat := min (n w) ((j + 1) * shard w) - j * shard w

/-- Offset in the landing region of rank `r`'s slot in the contribution bank of step `st` (R358). -/
def slotAt (w st r : Nat) : Nat := (st % 3 * ranks w + r) * shard w * ib w
/-- Offset of shard `j` in the result bank of step `st`. -/
def resultAt (w st j : Nat) : Nat :=
  3 * ranks w * shard w * ib w + st % 2 * ranks w * shard w * 4 + j * shard w * 4
/-- Offset of count record `j` of step `st`. -/
def countAt (w st j : Nat) : Nat :=
  3 * ranks w * shard w * ib w + 2 * ranks w * shard w * 4 + st % 2 * ranks w * 8 + j * 8
/-- Bytes of the landing region. -/
def region (w : Nat) : Nat := 3 * ranks w * shard w * ib w + 2 * ranks w * shard w * 4 + 2 * ranks w * 8

/-- A descriptor that is not reduced (R361). -/
def bad (w : Nat) : Bool :=
  ranks w == 0 || 4096 < ranks w || ranks w ≤ self w || (ifmt w != 0 && ifmt w != 2) || dmin w == 0 ||
    dmax w < dmin w || bits w 7 6 != 0 || bits (byteFld w 2 2) 15 13 != 0 || bits (byteFld w 4 2) 15 12 != 0 ||
    byteFld w 52 4 != 0 || bits (byteFld w 96 2) 15 4 != 0 || byteFld w 100 28 != 0

/-- The deadline of a step (R363). -/
def deadline (w : Nat) : Nat :=
  if hsteps w = 0 ∨ !adapt w then ddef w else max (dmin w) (min (dmax w) ((est w + margin w) / 16 + 1))

/-- The estimate after a close that measured `p` (R363). -/
def learn (w p : Nat) : Nat :=
  let e : Int := if hsteps w = 0 then 16 * p else (est w : Int) + (16 * (p : Int) - est w) / 8
  setByteFld (setByteFld (setByteFld w 14 2 (unsigned 16 e)) 1 1 (min (hsteps w + 1) 255)) 98 2 p

end Rd

/-- A count record (R365). -/
def countRecord (step : Nat) (missing : Bool) (folded ontime : Nat) : Nat :=
  step % 2 ^ 32 * 2 ^ 32 + (if missing then 2 ^ 31 else 0) + folded % 2 ^ 13 * 2 ^ 16 + ontime % 2 ^ 13

/-- USER of a transfer: step modulo 2^20 and sending rank (R358). -/
def redUser (step rank : Nat) : Nat := step % 2 ^ 20 * 4096 + rank % 4096

/-! ### The cache -/

def StepSt.at (m : StepSt) (i : Nat) : Option RedSt := SMap.get (fun _ => (none : Option RedSt)) m.red i

/-- `s` with the descriptor in cache slot `i` changed. -/
def State.onRed (s : State) (k : Atoll) (i : Nat) (f : RedSt → RedSt) : State :=
  s.onStep k fun m => { m with red := SMap.put (fun _ => (none : Option RedSt)) m.red i ((m.at i).map f) }

/-- Cache slot of the descriptor at `addr`. -/
def StepSt.slotOf (m : StepSt) (addr : Nat) : Option Nat :=
  (m.red.find? fun e => e.2.any fun r => r.addr == addr).map Prod.fst

/-- Write a cached descriptor back, OPEN0 and OPEN1 as its open steps stand (R359). -/
def State.redWriteBack (s : State) (k : Atoll) (i : Nat) : State :=
  match (s.atl k).step.at i with
  | none => s
  | some r =>
    let o := r.steps.filter fun x => !x.closed
    let put (w b : Nat) (x : Option RedStep) : Nat :=
      setByteFld (setByteFld w b 6 (x.elim 0 RedStep.anchor)) (b + 6) 2 (x.elim 0 RedStep.deadline)
    let w := put (put r.word 56 o[0]?) 64 o[1]?
    (s.onRed k i fun r => { r with word := w }).vPut k r.addr 128 w

/-- The cache slot of the descriptor at `addr`, read if it is not cached: a free slot, or the least recently used
descriptor without a step is written back; none where all 64 have steps. -/
def State.redGet (s : State) (k : Atoll) (addr : Nat) : Option Nat × State :=
  let touch (s : State) (i : Nat) : State := s.onStep k fun m => { m with order := i :: m.order.erase i }
  match (s.atl k).step.slotOf addr with
  | some i => (some i, touch s i)
  | none =>
    let m := (s.atl k).step
    let free := (List.range 64).find? fun i => (m.at i).isNone
    let old := m.order.reverse.find? fun i => (m.at i).any fun r => r.steps.isEmpty
    match free.orElse fun _ => old with
    | none => (none, s)
    | some i =>
      let s := s.redWriteBack k i
      let (w, s) := s.vFree k addr 128
      (some i, touch (s.onStep k fun m =>
        { m with red := SMap.put (fun _ => (none : Option RedSt)) m.red i (some ⟨addr, w, [], [], [], []⟩) }) i)

/-- The landing region of a reduction on atoll `k` (R358). -/
def State.landAt (s : State) (k : Atoll) (w : Nat) : Nat := s.fld (F.STEP_LAND_ADDR k) + Rd.loff w

/-- Entry `j` of a rank table (R357): its atoll if it is on this module, or its context. -/
def State.rankOf (s : State) (k : Atoll) (w j : Nat) : (Atoll ⊕ Nat) × State :=
  let (e, s) := s.vFree k (Rd.ranktab w + 4 * j) 4
  (if e.testBit 31 then .inl (atollOf (bits e 30 28)) else .inr (bits e 19 0), s)

/-! ### Counters in step order (R369) -/

/-- Steps whose RANKS count records are all in raise their counter, oldest first; `fuel` bounds them. -/
def State.settleRed (s : State) (k : Atoll) (i : Nat) : Nat → State
  | 0 => s
  | fuel + 1 =>
    match (s.atl k).step.at i with
    | some r =>
      (match r.steps with
       | x :: rest =>
         if x.closed && (List.range (Rd.ranks r.word)).all fun j => x.counts.contains j then
           State.settleRed ((s.onRed k i fun r => { r with steps := rest }).raiseMc k x.ctr) k i fuel
         else s
       | [] => s)
    | none => s

/-- Count record `j` of step `st` is in. -/
def State.countIn (s : State) (k : Atoll) (i st j : Nat) : State :=
  (s.onRed k i fun r =>
    { r with steps := r.steps.map fun x =>
        if x.step % 2 ^ 32 == st && !x.counts.contains j then { x with counts := j :: x.counts } else x }).settleRed k i 8

/-! ### Contributions (R364) -/

/-- How an arrival is handled (R364). -/
inductive Arrival where
  | lands | late | stale | early | dup
  deriving DecidableEq, Repr

/-- Class of a contribution of step `st` (modulo 2^20) from rank `j`. -/
def RedSt.classify (r : RedSt) (st j : Nat) : Arrival :=
  let c := Rd.closed r.word
  let d := (2 ^ 20 - c % 2 ^ 20 + st) % 2 ^ 20
  let has (x : Nat) : Bool :=
    r.steps.any (fun y => y.step == x && y.landed.any fun e => e.1 == j) || r.early.any fun e => e.1 == x && e.2.1 == j
  if d = 1 ∨ d = 2 then (if has (c + d) then .dup else .lands)
  else if d = 0 then (if r.prev.contains j || r.late.contains j then .dup else .late)
  else if d < 2 ^ 19 then .early else .stale

/-- The cached reduction of atoll `k` whose landing region holds offset `o`, and the offset in it. -/
def StepSt.regionOf (m : StepSt) (o : Nat) : Option (Nat × RedSt × Nat) :=
  m.red.findSome? fun e => e.2.bind fun r =>
    if Rd.loff r.word ≤ o ∧ o < Rd.loff r.word + Rd.region r.word then some (e.1, r, o - Rd.loff r.word) else none

/-- A contribution at landing offset `o` that is discarded, so that its bytes are treated as never sent. -/
def State.discards (s : State) (k : Atoll) (o user : Nat) : Bool :=
  match (s.atl k).step.regionOf o with
  | some (_, r, off) =>
    decide (off < 3 * Rd.ranks r.word * Rd.shard r.word * Rd.ib r.word) &&
      (match r.classify (user / 4096) (user % 4096) with
       | .lands => false
       | .late => Rd.drop r.word
       | _ => true)
  | none => false

/-- The number of the step a contribution that lands belongs to: the one after the last closed, or the one after that. -/
def Rd.landsAt (word st : Nat) : Nat :=
  Rd.closed word + (if (2 ^ 20 - Rd.closed word % 2 ^ 20 + st) % 2 ^ 20 = 1 then 1 else 2)

/-- A contribution of a rank has landed, or come and been discarded (R364). -/
def State.contribute (s : State) (k : Atoll) (i st j tide : Nat) : State :=
  match (s.atl k).step.at i with
  | none => s
  | some r =>
    let word (s : State) (f : Nat → Nat) : State := s.onRed k i fun r => { r with word := f r.word }
    match r.classify st j with
    | .lands =>
      let x := Rd.landsAt r.word st
      s.onRed k i fun r =>
        if r.steps.any fun y => y.step == x && !y.closed then
          { r with steps := r.steps.map fun y =>
              if y.step == x then { y with landed := (j, tide) :: y.landed } else y }
        else { r with early := r.early ++ [(x, j, tide)] }
    | .late =>
      let s := (word s fun w => Rd.count w 72 1).bump (F.STEP_CNT_LATE k)
      let s := s.raise 0x19 k 1
      if Rd.drop r.word then (word s fun w => Rd.count w 80 1).bump (F.STEP_CNT_DROP k)
      else s.onRed k i fun r => { r with late := r.late ++ [j] }
    | .stale => (((word s fun w => Rd.count w 84 1).bump (F.STEP_CNT_STALE k)).raise 0x19 k 4)
    | .early => (((word s fun w => Rd.count w 88 1).bump (F.STEP_CNT_EARLY k)).raise 0x19 k 4)
    | .dup => (((word s fun w => Rd.count w 92 1).bump (F.STEP_CNT_DUP k)).raise 0x19 k 4)

/-- A transfer has landed at offset `o` of atoll `k`'s landing area (R358, R365): a contribution, a result, or a count
record. One that no cached descriptor claims is kept. -/
def State.redLanded (s : State) (k : Atoll) (u : Unclaimed) : State :=
  match (s.atl k).step.regionOf u.roff with
  | none => s.onStep k fun m => { m with unclaimed := m.unclaimed ++ [u] }
  | some (i, r, off) =>
    let w := r.word
    if off < 3 * Rd.ranks w * Rd.shard w * Rd.ib w then s.contribute k i (u.user / 4096) (u.user % 4096) u.tide
    else
      let base := Rd.countAt w 0 0
      if off < base then s
      else
        let (v, s) := s.vFree k (s.landAt k w + off / 8 * 8) 8
        s.countIn k i (v / 2 ^ 32) ((off - base) / 8 % max 1 (Rd.ranks w))

/-- Transfers kept for descriptors that are cached now. -/
def State.claim (s : State) (k : Atoll) : State :=
  let l := (s.atl k).step.unclaimed
  (s.onStep k fun m => { m with unclaimed := [] }).each l fun s u => s.redLanded k u

/-! ### Transfers out -/

/-- Write `bs` of atoll `k` at landing offset `o` of the rank on this module's atoll `a` and let its step engine see
it (R357). -/
def State.localLand (s : State) (k a : Atoll) (o : Nat) (bs : List Byte) (user : Nat) : State :=
  let s := if s.discards a o user then s else (s.vWrite a (s.fld (F.STEP_LAND_ADDR a) + o) bs none (some k)).2
  s.redLanded a ⟨o, bs.length, user, s.tideNo⟩

/-- Bytes read at `va`; free values where they cannot be read (log 33: DESIGN CHOICE, safe). -/
def State.vBytes (s : State) (k : Atoll) (va n : Nat) : List Byte × State :=
  match s.vRead k va n with
  | (.ok bs, s) => (bs, s)
  | (.error _, s) => let (i, s) := s.fresh; (bytesOf n (Config.freeBits (8 * n) i).toNat, s)

/-- Send bytes to rank `j`'s landing region. -/
def State.toRank (s : State) (k : Atoll) (w j o : Nat) (bs : List Byte) (user : Nat) : State :=
  match s.rankOf k w j with
  | (.inl a, s) => if !s.inService a then s else s.localLand k a (Rd.loff w + o) bs user
  | (.inr c, s) => s.sendBytes k c bs (Rd.loff w + o) user

/-! ### A lost owner (R368) -/

/-- Rank `j` of the reduction in slot `i` is lost: its record of every step still waiting for it is written MISSING. -/
def State.rankLost (s : State) (k : Atoll) (i j : Nat) : State :=
  match (s.atl k).step.at i with
  | none => s
  | some r =>
    let open' := r.steps.filter fun x => !x.counts.contains j
    open'.foldl (fun s x =>
      let s := (s.vWrite k (s.landAt k r.word + Rd.countAt r.word x.step j) (bytesOf 8 (countRecord x.step true 0 0))).2
      let s := s.onRed k i fun r => { r with word := Rd.mark r.word 1 }
      let s := (s.bump (F.STEP_CNT_MISSING k)).raise 0x19 k 2
      s.countIn k i (x.step % 2 ^ 32) j) s

/-- Rank `j`'s owner is lost: its context is in ERROR or CLOSED, or its atoll is out of service (R368, R457) (log 119:
DEDUCED, unsafe). -/
def State.ownerGone (s : State) : Atoll ⊕ Nat → Bool
  | .inl a => !s.inService a
  | .inr c => s.ctxExists c && (Cx.state (s.ctxPeek c) == Cx.closed || Cx.state (s.ctxPeek c) == Cx.error)

/-- The ranks whose owners are lost already when a step opens: their records of it are MISSING (R368, R457). -/
def State.lostRanks (s : State) (k : Atoll) (i : Nat) : State :=
  match (s.atl k).step.at i with
  | none => s
  | some r =>
    (List.range (Rd.ranks r.word)).foldl (fun s j =>
      if j = Rd.self r.word then s
      else
        let (o, s) := s.rankOf k r.word j
        if s.ownerGone o then s.rankLost k i j else s) s

/-! ### A REDUCE departs (R360, R361) -/

/-- A descriptor that is not reduced (R361): every count record of the step MISSING (R372), DESC_BAD, the counter
raised. -/
def State.reduceBad (s : State) (k : Atoll) (i ctr : Nat) : State :=
  match (s.atl k).step.at i with
  | none => s
  | some r =>
    let w := r.word
    let st := Rd.step w
    let n := min (Rd.ranks w) 4096
    let s := (List.range n).foldl (fun s j =>
      (s.vWrite k (s.landAt k w + Rd.countAt w st j) (bytesOf 8 (countRecord st true 0 0))).2) s
    let s := s.bump (F.STEP_CNT_MISSING k) n
    let s := s.onRed k i fun r => { r with word := setByteFld (setByteFld (Rd.mark r.word 0) 44 4 (st + 1)) 48 4 st }
    (((s.redWriteBack k i).raiseIf (n ≠ 0) 0x19 k 2).raise 0x19 k 3).raiseMc k ctr

/-- The shards of step `st` are sent to their owners, and the own one copied (R360). -/
def State.sendShards (s : State) (k : Atoll) (w st : Nat) : State :=
  let me := Rd.self w
  let user := redUser st me
  let own := Rd.shardLen w me * Rd.ib w
  let (bs, s) := s.vBytes k (Rd.src w + me * Rd.shard w * Rd.ib w) own
  let s := (s.vWrite k (s.landAt k w + Rd.slotAt w st me) bs).2
  (List.range (Rd.ranks w)).foldl (fun s j =>
    let len := Rd.shardLen w j * Rd.ib w
    if j = me ∨ len = 0 then s
    else
      let va := Rd.src w + j * Rd.shard w * Rd.ib w
      match s.rankOf k w j with
      | (.inl a, s) =>
        let (bs, s) := s.vBytes k va len
        if !s.inService a then s else s.localLand k a (Rd.loff w + Rd.slotAt w st me) bs user
      | (.inr c, s) => s.sendRange k c va len (Rd.loff w + Rd.slotAt w st me) user) s

/-- REDUCE departs (R360); one that would open a third step waits in the engine. -/
def State.reduceNow (s : State) (k : Atoll) (ctr addr : Nat) : State :=
  -- while a restore is under way no REDUCE departs (R385)
  if 3 ≤ s.fld F.CKPT_STAT_STATE then s.onStep k fun m => { m with waiting := m.waiting ++ [(ctr, addr)] } else
  match s.redGet k (addr / 128 * 128) with
  | (none, s) => s.onStep k fun m => { m with waiting := m.waiting ++ [(ctr, addr)] }
  | (some i, s) =>
    match (s.atl k).step.at i with
    | none => s
    | some r =>
      let w := r.word
      if Rd.bad w then s.reduceBad k i ctr
      else if (Rd.step w + 2 ^ 32 - Rd.closed w) % 2 ^ 32 = 3 then
        s.onStep k fun m => { m with waiting := m.waiting ++ [(ctr, addr)] }
      else
        let st := Rd.step w
        let s := s.claim k
        let s := s.onRed k i fun r =>
          let come := r.early.filter fun e => e.1 == st
          { r with
            word := setByteFld r.word 44 4 (st + 1)
            early := r.early.filter fun e => e.1 != st
            steps := r.steps ++ [
              { step := st, anchor := s.tideNo, deadline := Rd.deadline w, ctr := ctr
                landed := (Rd.self w, s.tideNo) :: come.map Prod.snd
                held := none, closeAt := none, closed := false, counts := [] }] }
        (s.sendShards k w st).lostRanks k i

/-! ### The close (R362-R367) -/

/-- One element of a reduced shard (R364). -/
def reduceElem (terms : List Val) : Nat := fp32.enc (terms.foldl XaSt.add XaSt.zero).val

/-- Value of a contribution's element in `bs`. -/
def redVal (ifmt : Nat) (bs : List Byte) (e : Nat) : Val :=
  if ifmt = 2 then bf16.val (ofBytes ((bs.drop (2 * e)).take 2)) else fp32.val (ofBytes ((bs.drop (4 * e)).take 4))

/-- Contributions of step `x` that are on time (R362): those landed before the slack that begins tide A + D, or before
the slack the harbour's answer names; every one that landed where the close was held to its end, or `all` (R377). -/
def RedStep.onTime (x : RedStep) (held all : Bool) : List (Nat × Nat) :=
  if all || held then x.landed
  else x.landed.filter fun e => decide (e.2 < x.closeAt.getD (x.anchor + x.deadline))

/-- The result bytes of shard SELF of step `x` over the ranks `now`, and the number of contributions folded in
(R364). -/
def State.redSum (s : State) (k : Atoll) (r : RedSt) (x : RedStep) (now : List Nat) : List Byte × Nat × State :=
  let w := r.word
  let len := Rd.shardLen w (Rd.self w)
  let fold := if Rd.drop w then [] else r.late
  let f := if Rd.foldF w = 0 then fp32.val 0x3F800000 else fp32.val (Rd.foldF w)
  let read (s : State) (st j : Nat) := s.vBytes k (s.landAt k w + Rd.slotAt w st j) (len * Rd.ib w)
  let (now, s) := now.foldl (fun (a : List (List Byte) × State) j =>
    let (bs, s) := read a.2 x.step j; (a.1 ++ [bs], s)) ([], s)
  let (old, s) := fold.foldl (fun (a : List (List Byte) × State) j =>
    let (bs, s) := read a.2 (x.step - 1) j; (a.1 ++ [bs], s)) ([], s)
  let out := (List.range len).flatMap fun e =>
    bytesOf 4 (reduceElem (now.map (fun bs => redVal (Rd.ifmt w) bs e) ++
      old.map fun bs => f.mul (redVal (Rd.ifmt w) bs e)))
  (out, fold.length, s)

/-- Every rank's contribution to the owner's shard is among `l`; an empty shard needs none. -/
def RedSt.complete (r : RedSt) (l : List (Nat × Nat)) : Bool :=
  Rd.shardLen r.word (Rd.self r.word) == 0 || (List.range (Rd.ranks r.word)).all fun j => l.any fun e => e.1 == j

/-- The REDUCEs that waited try to depart again, in order (R360, R385). -/
def State.reduceWaiting (s : State) (k : Atoll) : State :=
  let l := (s.atl k).step.waiting
  (s.onStep k fun m => { m with waiting := [] }).each l fun s e => s.reduceNow k e.1 e.2

/-- Close the oldest open step of cache slot `i` (R364-R366): sum, results, counts, the estimate, the contributions
that came late, and the REDUCEs that waited for it. -/
def State.closeStep (s : State) (k : Atoll) (i : Nat) (fell held all : Bool) : State :=
  match (s.atl k).step.at i with
  | none => s
  | some r =>
    match r.steps.find? fun x => !x.closed with
    | none => s
    | some x =>
      let w := r.word
      let me := Rd.self w
      let good := x.onTime held all
      let behind := x.landed.filter fun e => !good.contains e
      let (bs, folded, s) := s.redSum k r x (good.map Prod.fst)
      let rec' := bytesOf 8 (countRecord x.step false folded good.length)
      let user := redUser x.step me
      let s := (s.vWrite k (s.landAt k w + Rd.resultAt w x.step me) bs).2
      let s := (s.vWrite k (s.landAt k w + Rd.countAt w x.step me) rec').2
      let last := good.foldl (fun a e => max a e.2) x.anchor
      let p := if r.complete good then last - x.anchor else min (2 * x.deadline) (Rd.dmax w)
      let s := s.onRed k i fun r =>
        let v := Rd.learn (setByteFld (Rd.count r.word 76 folded) 48 4 x.step) p
        { r with
          word := if fell then Rd.mark v 2 else v
          steps := r.steps.map fun y => if y.step == x.step then { y with closed := true, held := none } else y
          late := [], prev := good.map Prod.fst }
      let s := (s.bump (F.STEP_CNT_CLOSE k)).bump (F.STEP_CNT_FOLD k) folded
      let s := (List.range (Rd.ranks w)).foldl (fun s j =>
        if j = me then s
        else
          let s := if bs.isEmpty then s else s.toRank k w j (Rd.resultAt w x.step me) bs user
          s.toRank k w j (Rd.countAt w x.step me) rec' user) s
      let s := behind.foldl (fun s e => s.contribute k i (x.step % 2 ^ 20) e.1 e.2) s
      let s := (s.answered 0x19 k 0 (i * 2 ^ 32 + x.step)).redWriteBack k i
      (s.countIn k i (x.step % 2 ^ 32) me).reduceWaiting k

/-- The oldest open step of slot `i` comes to its close (R362, R370): in host mode a close with a contribution missing
is held. None closes during a snapshot stop; at its end (`all`) the contributions landed by then are on time (R377). -/
def State.comeToClose (s : State) (k : Atoll) (i : Nat) (all : Bool := false) : State :=
  if s.ckpt.stop.isSome then s else
  match (s.atl k).step.at i with
  | none => s
  | some r =>
    match r.steps.find? fun x => !x.closed with
    | none => s
    | some x =>
      match x.closeAt with
      | some t => if t ≤ s.tideNo then s.closeStep k i false false all else s
      | none =>
        if s.tideNo < x.anchor + x.deadline then s
        else if x.held.isSome then (if r.complete x.landed || !s.hosted 0x19 k 0 then s.closeStep k i false true all else s)
        else if s.hosted 0x19 k 0 && !r.complete (x.onTime false all) then
          let s := s.onRed k i fun r =>
            { r with steps := r.steps.map fun y => if y.step == x.step then { y with held := some s.tideNo } else y }
          (s.raise 0x19 k 0).awaitHost 0x19 k 0 (i * 2 ^ 32 + x.step)
        else s.closeStep k i false false all

/-- STEP_CMD (R370): 1 CLOSE at the next slack, 2 EXTEND by a tide, for the held close in a slot. -/
def State.stepCmd (s : State) (k : Atoll) (i cmd : Nat) : State :=
  match (s.atl k).step.at i with
  | none => s
  | some r =>
    match r.steps.find? fun x => !x.closed && x.held.isSome && x.closeAt.isNone with
    | none => s
    | some x =>
      let put (s : State) (f : RedStep → RedStep) : State :=
        s.onRed k i fun r => { r with steps := r.steps.map fun y => if y.step == x.step then f y else y }
      let s' := s.answered 0x19 k 0 (i * 2 ^ 32 + x.step)
      if cmd = 1 then put s' fun y => { y with closeAt := some (s.tideNo + 1) }
      else if cmd = 2 then
        (put s' fun y => { y with held := none, deadline := s.tideNo + 1 - y.anchor }).onRed k i fun r =>
          { r with word := Rd.mark r.word 3 }
      else s

/-- No answer came: the step closes at the next slack with STATUS.FELL (R370). -/
def State.stepFallback (s : State) (k : Atoll) (i : Nat) : State :=
  s.onRed k i fun r =>
    { r with
      word := Rd.mark r.word 2
      steps := r.steps.map fun y =>
        if !y.closed && y.held.isSome && y.closeAt.isNone then { y with closeAt := some (s.tideNo + 1) } else y }

/-! ### Contexts that are lost (R368) -/

/-- The context `c` went to ERROR or CLOSED: its rank is lost in every cached reduction that names it (R368). -/
def State.ownerLost (s : State) (c : Nat) : State :=
  allAtolls.foldl (fun s k =>
    ((s.atl k).step.red.map Prod.fst).foldl (fun s i =>
      match (s.atl k).step.at i with
      | none => s
      | some r =>
        (List.range (Rd.ranks r.word)).foldl (fun s j =>
          if j = Rd.self r.word then s
          else match s.rankOf k r.word j with
            | (.inr c', s) => if c' = c then s.rankLost k i j else s
            | (.inl _, s) => s) s) s) s

/-! ### Command -/

/-- REDUCTION_CLOSE (R364): step s closes at tide A + D. -/
def execReductionClose (k : Atoll) (slot : Fin 64) (s : State) : Outcome State Fault Refusal :=
  .next (s.comeToClose k slot)

end Sys2Proof.Machine
end

