-- ==== Sys2Proof/Machine/Digest.lean ====
section
/-! DEFINITION. The fold digest of R207, and the 64-bit mixing of the GCG generator (R205). -/

namespace Sys2Proof.Machine

/-- One bit of the CRC-64 of R207: polynomial 0x42F0_E1EB_A9EA_3693, not reflected. -/
def crc64Bit (c : BitVec 64) : BitVec 64 := if c.msb then (c <<< 1) ^^^ 0x42F0E1EBA9EA3693#64 else c <<< 1

/-- One byte into the CRC. -/
def crc64Byte (c : BitVec 64) (b : Byte) : BitVec 64 :=
  let c := c ^^^ ((b.zeroExtend 64) <<< 56)
  crc64Bit (crc64Bit (crc64Bit (crc64Bit (crc64Bit (crc64Bit (crc64Bit (crc64Bit c)))))))

/-- CRC of a block's bytes, initial value 0. -/
def crc64 (bs : List Byte) : BitVec 64 := bs.foldl crc64Byte 0

/-- H and L terms of block `beta` (R207). -/
def digestTerm (beta : Nat) (bs : List Byte) : BitVec 64 × BitVec 64 :=
  let k := crc64 bs ^^^ BitVec.ofNat 64 bs.length
  (k * BitVec.ofNat 64 (2 * beta + 1), k.rotateLeft (beta % 64))

/-- Cut a byte sequence into blocks of 4 KiB; `fuel` bounds them. -/
def blocks4k : Nat → List Byte → List (List Byte)
  | 0, _ => []
  | f + 1, bs => if bs.isEmpty then [] else bs.take 4096 :: blocks4k f (bs.drop 4096)

/-- H and L of a byte sequence whose first block is `beta0` (R207). -/
def foldDigest (beta0 : Nat) (bs : List Byte) : BitVec 64 × BitVec 64 :=
  (blocks4k (bs.length / 4096 + 1) bs).zipIdx.foldl
    (fun a b => let (h, l) := digestTerm (beta0 + b.2) b.1; (a.1 + h, a.2 ^^^ l)) (0, 0)

/-- The digest as 128 bits: H above L (R207). -/
def digest128 (bs : List Byte) : BitVec 128 := let (h, l) := foldDigest 0 bs; h ++ l

/-- One of the three rounds of a draw (R205). -/
def gcgRound (seed x : BitVec 64) : BitVec 64 :=
  let x := (x ^^^ (x >>> 31)) * 0xC3A55E2D71B94F6B#64
  let x := (x ^^^ (x >>> 29)) * 0x8F1D3C97E2A605D5#64
  (x ^^^ (x >>> 32)) + seed

/-- One draw: 32 bits (R205). -/
def gcgDraw (seed stream ctr : Nat) : Nat :=
  let sd := BitVec.ofNat 64 seed
  let x := (BitVec.ofNat 64 ctr ^^^ sd) + BitVec.ofNat 64 stream * 0x6B4E92C1D8F33A17#64
  (gcgRound sd (gcgRound sd (gcgRound sd x))).toNat / 2 ^ 32

end Sys2Proof.Machine
end

