-- ==== Sys2Proof/Machine/Protect.lean ====
section
/-! DEFINITION. Protected state (16_checkpoint.md R373-R375): the protection list as pieces by atoll, shares and their
manifests, and the landing of a partner's copy (R380). -/

namespace Sys2Proof.Machine

/-! ### Pieces -/

/-- A range to protect: the atoll whose translator gives its place, VA, length, TENSOR, COMPARE. -/
structure Range where
  via    : Atoll
  va     : Nat
  len    : Nat
  tensor : Nat
  cmp    : Bool
  deriving DecidableEq, Repr

/-- Entries of the protection list, or none where it cannot be read (R373). -/
def State.protList (s : State) : Option (List Nat) :=
  (List.range (s.fld F.CKPT_LIST_COUNT_COUNT)).foldr (fun i acc =>
    match acc, (s.vRead s.hub (s.fld F.CKPT_LIST_BASE_ADDR + 16 * i) 16).1 with
    | some l, .ok bs => some (ofBytes bs :: l)
    | _, _ => none) (some [])

/-- A list entry is misaligned or sets a reserved bit (R373). -/
def protBad (e : Nat) : Bool := bits e 51 0 % 4096 != 0 || bits e 63 53 != 0

/-- What a snapshot protects, in list order: the entries of the list, then each in-service atoll's stream records, then
the cursor entries of those records (R373, R374; log 67: DEDUCED, unsafe). -/
def State.protRanges (s : State) (l : List Nat) : List Range :=
  (l.map fun e => ⟨s.hub, bits e 51 0, byteFld e 8 4 * 4096, byteFld e 12 4, e.testBit 52⟩) ++
  (s.serving.map fun k =>
    ⟨k, s.fld (F.VEC_GCG_BASE_ADDR k), 32 * s.fld (F.VEC_GCG_COUNT k), 0xFFFFFFF0 + k.val, false⟩) ++
  (if s.fld F.CKPT_CURSOR_BASE_ADDR = 0 then [] else
    s.serving.map fun k =>
      ⟨s.hub, s.fld F.CKPT_CURSOR_BASE_ADDR + 65536 * k.val, 16 * s.fld (F.VEC_GCG_COUNT k), 0xFFFFFFFF, false⟩)

/-- Device-physical pages of a range as (VA, address, length); none where one fails translation. -/
def State.rangePages (s : State) (k : Atoll) (va len : Nat) (write : Bool) : Option (List (Nat × Nat × Nat)) :=
  (pagePieces (len / 65536 + 2) va len).foldr (fun e acc =>
    match acc, (s.translate k e.1 write).1 with
    | some l, .ok a => some ((e.1, a, e.2) :: l)
    | _, _ => none) (some [])

/-- Pages joined into pieces: one for each run of pages in one atoll (R375). -/
def joinPages : List (Nat × Nat × Nat) → List (Nat × Nat × Nat)
  | [] => []
  | (va, a, n) :: l =>
    match joinPages l with
    | (k, va', n') :: r => if k = a / atollSpan then (k, va, n + n') :: r else (a / atollSpan, va, n) :: (k, va', n') :: r
    | [] => [(a / atollSpan, va, n)]

/-- Pieces of a range, their digests and offsets still open; none where a page fails translation. -/
def State.rangePieces (s : State) (r : Range) : Option (List Piece) :=
  (s.rangePages r.via r.va r.len false).map fun l =>
    (joinPages l).map fun e => ⟨e.1, e.2.1, e.2.2, 0, r.tensor, r.cmp, 0⟩

/-- Offsets given to pieces of one share from `o` on, in order. -/
def layPieces : Nat → List Piece → List Piece
  | _, [] => []
  | o, p :: l => { p with off := o } :: layPieces (o + p.len) l

/-- Pieces that fall in atoll `k`'s share, laid out behind its manifest (R375). -/
def sharePieces (l : List Piece) (k : Nat) : List Piece :=
  let mine := l.filter fun p => p.share == k
  layPieces (64 + 64 * mine.length) mine

/-- Bytes of a share, manifest included. -/
def shareBytes (l : List Piece) : Nat := 64 + 64 * l.length + (l.map Piece.len).sum

/-- Bytes of a share as CKPT_SNAP_SIZE gives it. -/
def State.snapSize (s : State) : Nat := s.fld F.CKPT_SNAP_SIZE_SIZE * 2 ^ 26

/-- Every piece the snapshot protects: those whose pages translate, and whether all do. -/
def State.protPieces (s : State) : List Piece × Bool :=
  match s.protList with
  | none => ([], false)
  | some l =>
    (s.protRanges l).foldl (fun (a : List Piece × Bool) r =>
      match s.rangePieces r with | some ps => (a.1 ++ ps, a.2) | none => (a.1, false)) ([], true)

/-- Some in-service atoll's protected bytes exceed its share (R376). -/
def State.protOverflow (s : State) (l : List Piece) : Bool :=
  s.serving.any fun k => decide (s.snapSize < shareBytes (sharePieces l k.val))

/-! ### Shares and manifests (R375) -/

/-- Device-physical address of atoll `k`'s snapshot share, and of its partner share. -/
def State.snapAt (s : State) (k : Nat) : Nat := k * atollSpan + s.fld F.CKPT_SNAP_OFS_OFS * 2 ^ 26
def State.partAt (s : State) (k : Nat) : Nat := k * atollSpan + s.fld F.CKPT_PART_OFS_OFS * 2 ^ 26

/-- A manifest record. -/
def Piece.record (p : Piece) : List Byte :=
  bytesOf 8 p.va ++ bytesOf 8 p.len ++ bytesOf 8 p.off ++ bytesOf 4 p.tensor ++ bytesOf 1 (if p.cmp then 1 else 0) ++
  bytesOf 3 0 ++ bytesOf 16 p.digest ++ bytesOf 16 0

/-- The piece a manifest record of share `k` names. -/
def pieceOf (k : Nat) (bs : List Byte) : Piece :=
  let w := ofBytes bs
  ⟨k, byteFld w 0 8, byteFld w 8 8, byteFld w 16 8, byteFld w 24 4, (byteFld w 28 1).testBit 0, byteFld w 32 16⟩

/-- A share's manifest header and records. -/
def State.manifest (s : State) (id : Nat) (l : List Piece) : List Byte :=
  let recs := l.flatMap Piece.record
  bytesOf 6 id ++ bytesOf 4 (s.fld F.HOLM_BOOT_COUNT) ++ bytesOf 1 (s.fld F.HOLM_ATOLLS_IN_SERVICE) ++
  bytesOf 1 (s.fld F.HOLM_SLOT_SLOT) ++ bytesOf 4 l.length ++ bytesOf 8 (shareBytes l) ++
  bytesOf 16 (digest128 recs).toNat ++ bytesOf 24 0 ++ recs

/-- The bytes of a range as they stand. -/
def State.rangeBytes (s : State) (k : Atoll) (va len : Nat) : List Byte :=
  ((s.rangePages k va len false).getD []).flatMap fun e => s.devBytes e.2.1 e.2.2

/-- Translator of a piece: the atoll of a stream-record table, else the module's (log 66: DESIGN CHOICE, unsafe). -/
def State.pieceVia (s : State) (p : Piece) : Atoll :=
  if 0xFFFFFFF0 ≤ p.tensor ∧ p.tensor < 0xFFFFFFF8 then atollOf (p.tensor - 0xFFFFFFF0) else s.hub

/-- Copy a piece into its share at `base`, poisoned atoms as poisoned atoms (log 68: PRESUMED, unsafe). -/
def State.copyPiece (s : State) (base : Nat) (p : Piece) : State :=
  ((s.rangePages (s.pieceVia p) p.va p.len false).getD []).foldl (fun s e =>
    let dst := base + p.off + (e.1 - p.va)
    let s' := (s.devWrite dst (s.devBytes e.2.1 e.2.2)).1
    (List.range ((e.2.2 + 127) / 128)).foldl (fun s' i =>
      if s.devPoison (e.2.1 + 128 * i) 1 then s'.poisonAtom ((dst + 128 * i) / 128 * 128) else s') s') s

/-- Write atoll `k`'s share: manifest first, data behind it. -/
def State.writeShare (s : State) (id : Nat) (all : List Piece) (k : Nat) : State :=
  let l := (sharePieces all k).map fun p =>
    { p with digest := (digest128 (s.rangeBytes (s.pieceVia p) p.va p.len)).toNat }
  let s := (s.devWrite (s.snapAt k) (s.manifest id l)).1
  l.foldl (fun s p => s.copyPiece (s.snapAt k) p) s

/-! ### A partner's copy (R380; the messages' form is the model's, log 69: DESIGN CHOICE, unsafe) -/

/-- Bytes of one message of a partner copy. -/
abbrev partChunk : Nat := 0x20_0000

/-- USER of a message of a partner copy: atoll, share size in 64 MiB units, number of the message. -/
def partUser (k size i : Nat) : Nat := k * 2 ^ 29 + size % 2 ^ 12 * 2 ^ 17 + i % 2 ^ 17

/-- Context `c` carries partner copies. -/
def State.isPartner (s : State) (c : Nat) : Bool := c != 0 && c == s.fld F.CKPT_PCTX_CTX && s.fld F.CKPT_PART_SIZE_SIZE != 0

/-- A message of a partner copy from slot `slot` is refused: the partner share is smaller than the sender's share, the
atoll is out of service, or a copy from another slot is held. -/
def State.partRefused (s : State) (slot user : Nat) : Bool :=
  decide (s.fld F.CKPT_PART_SIZE_SIZE < bits user 28 17) || !s.inService (bits user 31 29) ||
  (match s.ckpt.keeps with | some k => k != slot | none => false)

/-- Where a byte of a partner copy lands. -/
def State.partPlace (s : State) (user off : Nat) : Nat := s.partAt (bits user 31 29) + bits user 16 0 * partChunk + off

/-- A payload of a partner copy lands in the partner share. -/
def State.partLand (s : State) (slot user off : Nat) (data : List Byte) : State :=
  let s := (s.devWrite (s.partPlace user off) data).1
  { s with ckpt := { s.ckpt with keeps := some slot } }

end Sys2Proof.Machine
end

