-- ==== Sys2Proof/Machine/Replica.lean ====
section
/-! DEFINITION. What each layer of a checkpoint holds, its manifests as a restore reads them, and the questions and
answers of replicas (16_checkpoint.md R379, R385, R386). -/

namespace Sys2Proof.Machine

/-- Key of a share's byte in a layer outside the stacks. -/
abbrev shareKey (k o : Nat) : Nat := k * 2 ^ 38 + o

/-- `n` bytes of atoll `k`'s share from `o` on, as layer `l` holds it (`slot`: flash slot). -/
def State.layerBytes (s : State) (l slot k o n : Nat) : List Byte :=
  match l with
  | 1 => s.devBytes (s.snapAt k + o) n
  | 2 => SMap.getRange memDefault s.ckpt.partMem (shareKey k o) n
  | 3 => SMap.getRange memDefault (SMap.get (fun _ => []) s.ckpt.flashMem slot) (shareKey k o) n
  | _ => SMap.getRange memDefault s.ckpt.storeMem (shareKey k o) n

/-- A flash slot's VALID, WRITING, READING and ID (R391). -/
def State.flashSlot (s : State) (i : Nat) : Bool × Bool × Bool × Nat :=
  SMap.get (fun _ => (false, false, false, 0)) s.ckpt.flash i

/-- Layer `l` holds the checkpoint `id`: its flash slot, 0 for the other layers. -/
def State.layerHas (s : State) (l id : Nat) : Option Nat :=
  match l with
  | 1 => if s.layer 1 = 2 ∧ s.fld F.CKPT_ID_ID = id then some 0 else none
  | 2 => if s.ckpt.partId = some id then some 0 else none
  | 3 => (s.ckpt.flash.find? fun e => e.2.1 && e.2.2.2.2 == id).map Prod.fst
  | _ => if s.ckpt.storeId = some id then some 0 else none

/-- Manifest records of atoll `k`'s share in a layer, for the checkpoint `id` (R375). -/
def State.sharePiecesIn (s : State) (l slot id k : Nat) : List Piece :=
  let h := ofBytes (s.layerBytes l slot k 0 64)
  if byteFld h 0 6 ≠ id then []
  else (List.range (byteFld h 12 4)).map fun i => pieceOf k (s.layerBytes l slot k (64 + 64 * i) 64)

/-- The manifest of atoll `k`'s own share has its digest (R385). -/
def State.manifestGood (s : State) (k : Nat) : Bool :=
  let h := ofBytes (s.layerBytes 1 0 k 0 64)
  byteFld h 24 16 == (digest128 (s.layerBytes 1 0 k 64 (64 * byteFld h 12 4))).toNat

/-- Every manifest record a layer holds of the checkpoint `id`. -/
def State.layerPieces (s : State) (l slot id : Nat) : List Piece :=
  let ks := if l = 1 then s.serving.map Fin.val else List.range 8
  ks.flatMap fun k => s.sharePiecesIn l slot id k

/-- A piece's bytes in a layer. -/
def State.pieceBytes (s : State) (l slot : Nat) (p : Piece) : List Byte := s.layerBytes l slot p.share p.off p.len

/-- The bytes have the digest of the piece's manifest record (R207). -/
def Piece.holds (p : Piece) (bs : List Byte) : Bool := (digest128 bs).toNat == p.digest

/-- The question a piece asks its replica (R386; its form is the model's, log 69: DESIGN CHOICE, unsafe). -/
def Piece.question (p : Piece) (id : Nat) : List Byte :=
  bytesOf 16 p.digest ++ bytesOf 8 id ++ bytesOf 4 p.tensor ++ bytesOf 8 p.len

/-- USER of a question, and of an answer. -/
abbrev userAsk : Nat := 1
abbrev userAnswer : Nat := 2

/-- Context `c` is the replica context (R386). -/
def State.isReplica (s : State) (c : Nat) : Bool := c != 0 && c == s.fld F.CKPT_RCTX_CTX

/-- Answer a replica's question from the manifest of the same ID in any layer held (R386). -/
def State.answerReplica (s : State) (c : Nat) (bs : List Byte) : State :=
  let q := ofBytes bs
  let id := byteFld q 16 8
  match [1, 2, 3, 4].findSome? fun l =>
    (s.layerHas l id).bind fun slot =>
      ((s.layerPieces l slot id).find? fun p => p.tensor == byteFld q 24 4 && p.len == byteFld q 28 8).map
        fun p => (p, s.pieceBytes l slot p) with
  | some (p, b) =>
    s.sendBytes s.hub c (bytesOf 4 p.tensor ++ bytesOf 8 p.len ++ bytesOf 16 p.digest ++
      bytesOf 1 (if p.holds b then 1 else 0) ++ b) 0 userAnswer
  | none => s

end Sys2Proof.Machine
end

