-- ==== Sys2Proof/Machine/VectorMem.lean ====
section
/-! DEFINITION. The vector engine's loads, stores and conversions (R203, R204), function tables (R199-R202), the GCG
generator (R205, R206), the fold digest (R207), the learned-scale gradient (R208) and the drain pipe (R188-R190). -/

namespace Sys2Proof.Machine

/-! ### Loads and stores (R203) -/

/-- VLD: a double-bit error of the range it reads ends the slice (R281). -/
def State.vLoad (s : State) (k : Atoll) (r : SeqRegs) (o : VOp) : State :=
  let a := r.sv o.sa
  let sub := o.sub.toNat
  if s.lagErr k a o.lagSize then s.lagFault k
  else
    let s := s.lagSeen k a o.lagSize
    let at' (e : Nat) : Nat := if sub = 0 then s.lagNum k (a + 4 * e) 4 else s.lagNum k (a + 2 * e) 2
    s.onVec k fun v => (r.lanes o).foldl (fun v e =>
      if sub = 0 then v.setWord o.vd.toNat e (at' e)
      else if sub = 1 then v.setHalf o.vd.toNat e o.hi (at' e)
      else if sub = 2 then v.setWord o.vd.toNat e (fp32.enc (bf16.val (at' e)))
      else v.setWord o.vd.toNat e (fp32.enc (fp16.val (at' e)))) v

/-- Writes whose ranges touch, joined into one. -/
def joinWrites : List (Nat × List Byte) → List (Nat × List Byte)
  | [] => []
  | (a, x) :: rest =>
    match joinWrites rest with
    | [] => [(a, x)]
    | (b, y) :: more => if a + x.length = b then (a, x ++ y) :: more else (a, x) :: (b, y) :: more

/-- A plain VST: masked elements are not written (R184); neighbouring elements are written together, so that a lagoon word
they cover is written whole (R281). -/
def State.vStore (s : State) (k : Atoll) (r : SeqRegs) (o : VOp)
    (v : VecSt := (s.atl k).vec) : State :=
  let a := r.sv o.sa
  let sub := o.sub.toNat
  (joinWrites ((r.lanes o).map fun e =>
    if sub = 0 then (a + 4 * e, bytesOf 4 (v.word o.va.toNat e))
    else
      let c := if sub = 1 then v.half o.va.toNat e o.hi
        else if sub = 2 then bf16.enc (fp32.val (v.word o.va.toNat e)) else fp16.enc (fp32.val (v.word o.va.toNat e))
      (a + 2 * e, bytesOf 2 c))).foldl (fun s w => s.lagWrite k w.1 w.2) s

/-- Source value of element `e` of a converting VST: FP32, or packed BF16 with SUB 1 (R203). -/
def VecSt.storeVal (v : VecSt) (o : VOp) (e : Nat) : Val :=
  if o.sub.toNat = 1 then bf16.val (v.half o.va.toNat e o.hi) else fp32.val (v.word o.va.toNat e)

/-- A converting VST (R159, R203): element codes, block scales and privileged values written, conversions counted; as
a scout (MEAS) it only measures (R173). A masked element is neither converted nor written (R184). -/
def State.vConvert (s : State) (k : Atoll) (r : SeqRegs) (o : VOp)
    (v : VecSt := (s.atl k).vec) : State :=
  let addr := r.sv o.sb
  let (d, s) := s.qGet k addr
  let fmt := Qd.fmt d
  let w := fmtBits fmt
  let off := lowHalf (r.sv o.sd)
  let row := highHalf (r.sv o.sd)
  let c := if isGq fmt then bits (r.sv o.sc) 47 32 else 0x3F80
  let (priv, s) := s.privRange k addr d off (off + o.n)
  let mask := (List.range o.n).filter fun e => !r.live o e
  let xs := (List.range o.n).map fun e => if mask.contains e then Val.fin false Q.zero else v.storeVal o e
  let st := stage12 d (priv.map fun p => p.1 - off) xs
  let st := st.zipIdx.map fun e => (e.1.1, e.1.2 || mask.contains e.2)
  if o.meas then s.qScout k addr (scoutRun fmt c st)
  else
    let (m, noScout) := Qd.xmode d
    let s := if noScout then s.qMark k addr 2 else s
    let cv := convRun addr fmt m c st
    let a := r.sv o.sa
    let old := s.lagBytes k a ((o.n * w + 7) / 8)
    let codes := cv.codes.zipIdx.map fun e => if mask.contains e.2 then unpackElem w old e.2 else e.1
    let s := if w = 0 then s else s.lagWrite k a (packElems w codes)
    let s := if blockScaled fmt then s.lagWrite k (lowHalf (r.sv o.sc)) (cv.scales.map fun x => BitVec.ofNat 8 x) else s
    let win := (off + o.n + 4095) / 4096
    let s := priv.foldl (fun s p =>
      if mask.contains (p.1 - off) then s
      else s.vPut k (privAddr d row win p.1 p.2) 2 (privValue c (v.storeVal o (p.1 - off)))) s
    s.qCount k cv.delta

/-! ### Function tables (R199-R202) -/

/-- Read a table pair at lagoon address `a`; none where its header is not valid (R199, R200). -/
def State.readTab (s : State) (k : Atoll) (a : Nat) : Option TabSt :=
  let w32 (o : Nat) : Word32 := BitVec.ofNat 32 (s.lagNum k (a + o) 4)
  let words (o n : Nat) : List Word32 := (List.range n).map fun i => w32 (o + 4 * i)
  let lo := w32 0
  let w := signed 8 (s.lagNum k (a + 4) 1)
  let modes := s.lagNum k (a + 5) 1
  let finite := match fp32.val lo.toNat with | .fin _ _ => true | _ => false
  if finite && decide (-126 ≤ w ∧ w ≤ 120) && modes < 16 && s.lagNum k (a + 40) 24 == 0 then
    some ⟨lo, w, modes, words 8 4, words 24 4, words 64 1024, words 4160 1024⟩
  else none

/-- VTLOAD (R200). -/
def State.vTload (s : State) (k : Atoll) (r : SeqRegs) (o : VOp) : State :=
  let a := r.sv o.sa
  if s.lagErr k a 8256 then s.lagFault k
  else
    let s := s.lagSeen k a 8256
    let t := s.readTab k a
    let s := s.onVec k fun v => { v with tab := SMap.put (fun _ => (none : Option TabSt)) v.tab o.tab.toNat t }
    let s := s.setFld (F.VEC_TAB_VALID k o.tab.toNat) (if t.isSome then 1 else 0)
    if t.isSome then s.setFld (F.VEC_TAB_TAG k o.tab.toNat) (s.lagNum k (a + 6) 2) else s

/-- Where an evaluation of a table fell (R201). -/
inductive TabRange where
  | inside | below | above
  deriving DecidableEq, Repr

/-- The exact value of table F or D of a pair at `x` (R201). -/
def tabEval (t : TabSt) (deriv : Bool) (x : Val) : Val × TabRange :=
  let seg := if deriv then t.dSeg else t.fSeg
  let edge := if deriv then t.dEdge else t.fEdge
  let cf (s i : Nat) : Val := fp32.val (seg.getD (4 * s + i) 0).toNat
  let ed (i : Nat) : Val := fp32.val (edge.getD i 0).toNat
  let linear (hi : Bool) : Bool := t.modes.testBit ((if deriv then 2 else 0) + (if hi then 1 else 0))
  let line (i : Nat) : Val :=
    if x.isInf then (if (ed (i + 1)).isZero then ed i else (ed (i + 1)).mul x) else (ed i).add ((ed (i + 1)).mul x)
  let below : Val := if linear false then line 0 else cf 0 0
  let above : Val := if linear true then line 2 else
    (((cf 255 0).add (cf 255 1)).add (cf 255 2)).add (cf 255 3)
  match x with
  | .nan => (.nan, .inside)
  | .inf true => (below, .below)
  | .inf false => (above, .above)
  | .fin _ _ =>
    let u := Q.scale (Q.sub x.toQ (fp32.val t.lo.toNat).toQ) (-t.w)
    if Q.lt u Q.zero then (below, .below)
    else if Q.le ⟨256, 1⟩ u then (above, .above)
    else
      let s := u.floor.toNat
      let f : Val := .fin false (Q.sub u ⟨s, 1⟩).norm
      ((cf s 0).add (f.mul ((cf s 1).add (f.mul ((cf s 2).add (f.mul (cf s 3)))))), .inside)

/-- Count evaluations outside the range (R201). -/
def State.countRange (s : State) (k : Atoll) (l : List TabRange) : State :=
  let lo := (l.filter fun x => x == .below).length
  let hi := (l.filter fun x => x == .above).length
  (s.bump (F.VEC_CNT_RANGE_LO k) lo).bump (F.VEC_CNT_RANGE_HI k) hi

/-- The pair in a slot; an empty pair where there is none. -/
def VecSt.pair (v : VecSt) (t : Nat) : TabSt :=
  (SMap.get (fun _ => (none : Option TabSt)) v.tab t).getD ⟨0, 0, 0, [], [], [], []⟩

/-- VFUN and VDFUN (R202). -/
def State.vTab (s : State) (k : Atoll) (r : SeqRegs) (o : VOp) (deriv : Bool)
    (v : VecSt := (s.atl k).vec) : State :=
  let t := v.pair o.tab.toNat
  let l := (r.lanes o).map fun e => (e, tabEval t deriv (v.ev o o.va e))
  let s := s.putElems k o (l.map fun e =>
    (e.1, o.ff.enc (if deriv then e.2.1.mul (v.ev o o.vb e.1) else e.2.1)))
  s.countRange k (l.map fun e => e.2.2)

/-! ### The GCG generator (R205, R206) -/

/-- The cached stream record of index `i`, read where it is not cached (R206). -/
def State.gcgGet (s : State) (k : Atoll) (i : Nat) : Nat × State :=
  match (s.atl k).vec.gcg.find? fun g => g.k == i with
  | some g => (g.word, s.onVec k fun v => { v with gcg := g :: v.gcg.filter fun g => g.k != i })
  | none =>
    let (w, s) := s.vFree k (s.fld (F.VEC_GCG_BASE_ADDR k) + 32 * i) 32
    (w, s.onVec k fun v => { v with gcg := (⟨i, w⟩ :: v.gcg).take 64 })

/-- The next counter of a record: the slice's delta where it holds one (R206). -/
def State.gcgCtr (s : State) (k : Atoll) (i w : Nat) : Nat :=
  match (s.atl k).seq.slice.bind fun x => x.gcg.find? fun g => g.1 == i with
  | some g => g.2
  | none => byteFld w 16 8

/-- Hold the slice's advance of a record's counter (R206). -/
def State.gcgAdvance (s : State) (k : Atoll) (i c : Nat) : State :=
  s.onSeq k fun q => { q with slice := q.slice.map fun x =>
    { x with gcg := (x.gcg.filter fun g => g.1 != i) ++ [(i, c % 2 ^ 64)] } }

/-- Write back the slice's counters: record by record, CTR alone (R206, R227). -/
def State.gcgWriteBack (s : State) (k : Atoll) (l : List (Nat × Nat)) : State :=
  l.foldl (fun s g =>
    let (w, s) := s.gcgGet k g.1
    let w := setByteFld w 16 8 g.2
    let s := s.onVec k fun v => { v with gcg := v.gcg.map fun x => if x.k == g.1 then { x with word := w } else x }
    s.vPut k (s.fld (F.VEC_GCG_BASE_ADDR k) + 32 * g.1) 32 w) s

/-- rne(μ + σ × sqrt(−2 ln u1) × cos(2π u2), fp32), the expression exact (R205, log 30: DESIGN CHOICE, unsafe). -/
def normalDraw (mu sigma : Val) (a1 a2 : Nat) : Nat :=
  let u1 : Q := Q.scale ⟨(a1 : Int) + 1, 1⟩ (-24)
  let u2 : Q := Q.scale ⟨a2, 1⟩ (-24)
  let zero := a1 + 1 = 2 ^ 24 ∨ a2 * 4 = 2 ^ 24 ∨ a2 * 4 = 3 * 2 ^ 24
  let neg := decide (2 ^ 24 < a2 * 4 ∧ a2 * 4 < 3 * 2 ^ 24)
  match mu, sigma with
  | .fin _ _, .fin _ sm =>
    if zero ∨ sm.isZero then fp32.enc (mu.add (sigma.mul (.fin neg Q.zero)))
    else
      let g := Iv.mul (Iv.sqrt (Iv.scaleInt (Iv.ln u1) (-2))) (Iv.cos2pi u2)
      fp32.encIv (Iv.add (Iv.ofQ mu.toQ) (Iv.mul (Iv.ofQ sigma.toQ) g))
  | _, _ => fp32.enc (mu.add (sigma.mul (.fin neg (if zero then Q.zero else Q.one))))

/-- VRAND (R205): masked elements consume their draws. -/
def State.vRand (s : State) (k : Atoll) (r : SeqRegs) (o : VOp) : State :=
  let i := r.sv o.sa
  let (w, s) := s.gcgGet k i
  let ctr := s.gcgCtr k i w
  let sub := o.sub.toNat
  let d := if sub = 2 then 2 else 1
  let draw (c : Nat) : Nat := gcgDraw (byteFld w 0 8) (byteFld w 8 8) (c % 2 ^ 64)
  let b := r.sv o.sb
  let mu := fp32.val (b % 2 ^ 32)
  let sg := fp32.val (b / 2 ^ 32 % 2 ^ 32)
  let s :=
    if sub = 3 then
      s.onSeq k fun q => { q with r := q.r.setPred o.pd.toNat ((r.lanes o).map fun e =>
        (e, decide (draw (ctr + e) / 2 ^ 8 < b % 2 ^ 24))) }
    else
      s.onVec k fun v => (r.lanes o).foldl (fun v e =>
        let x := draw (ctr + d * e)
        v.setWord o.vd.toNat e
          (if sub = 0 then x
           else if sub = 1 then fp32.enc (mu.add (sg.mul (.fin false (Q.scale ⟨(x / 2 ^ 8 : Nat), 1⟩ (-24)))))
           else normalDraw mu sg (x / 2 ^ 8) (draw (ctr + d * e + 1) / 2 ^ 8))) v
  let s := s.gcgAdvance k i (ctr + d * o.n)
  s.raiseIf (decide (2 ^ 64 ≤ ctr + d * o.n)) 0x14 k 3

/-! ### Digest and learned scale -/

/-- VDIGEST (R207). -/
def State.vDigest (s : State) (k : Atoll) (r : SeqRegs) (o : VOp)
    (v : VecSt := (s.atl k).vec) : State :=
  let bs := (List.range o.n).flatMap fun e => bytesOf 4 (v.word o.va.toNat e)
  let (h, l) := foldDigest (r.sv o.sa) bs
  (s.setS k o.sd (r.sv o.sd + h.toNat)).setS k (o.sd + 1) (Nat.xor (r.sv (o.sd + 1)) l.toNat)

/-- Qmax of R178. -/
def qmaxOf (fmt : Nat) : Nat := if fmt = 13 then 4 else 1

/-- One element of VLSQ: the term t_e and dL/dx_e (R178). `sc` is the element's block scale code. -/
def lsqElem (fmt c : Nat) (g x : Nat) (sc : Nat) : Nat × Nat :=
  match scaleExp sc with
  | none => (fp32.nan, g)
  | some e =>
    let gv := fp32.val g
    let xv := fp32.val x
    let (code, flag) := convert fmt xv e c
    let q := elemVal fmt code
    match flag with
    | .nan => (fp32.nan, g)
    | .ovf => (fp32.enc ((gv.scalb e).mul q), 0)
    | _ =>
      let v := (xv.div (bf16.val c)).scalb (-e)
      (fp32.enc ((gv.scalb e).mul (q.sub v)), g)

/-- VLSQ (R208). -/
def State.vLsq (s : State) (k : Atoll) (r : SeqRegs) (o : VOp)
    (v : VecSt := (s.atl k).vec) : State :=
  let c := r.sv o.sa % 2 ^ 16
  let (d, s) := s.qGet k (r.sv o.sb)
  let g (e : Nat) : Nat := v.word o.va.toNat e
  if !scaleGood c then
    let s := s.onVec k fun w => (r.lanes o).foldl (fun w e => w.setWord o.vd.toNat e (g e)) w
    s.setXa k o.xi.toNat { s.xa k o.xi.toNat with marked := true }
  else
    let l := (r.lanes o).map fun e =>
      let b := e / 32
      (e, lsqElem (Qd.fmt d) c (g e) (v.word o.vb.toNat e) (v.word o.vc.toNat (b / 4) / 2 ^ (8 * (b % 4)) % 256))
    let s := s.onVec k fun w => l.foldl (fun w e => w.setWord o.vd.toNat e.1 e.2.2) w
    s.xaAdd k o.xi.toNat (l.map fun e => fp32.val e.2.1)

/-- VLSQF (R178, R179, R208). -/
def State.vLsqf (s : State) (k : Atoll) (r : SeqRegs) (o : VOp) : State :=
  let addr := r.sv o.sb
  let (d, s) := s.qGet k addr
  let x := s.xa k o.xi.toNat
  let s := s.setXa k o.xi.toNat XaSt.zero
  if x.marked then (s.setS k o.sd 0).qMark k addr 6
  else
    let sum := fp32.enc x.val
    let gamma := fp32.enc (Val.rsqrt (.fin false ⟨(x.count * qmaxOf (Qd.fmt d) : Nat), 1⟩))
    s.setS k o.sd (fp32.enc ((fp32.val gamma).mul (fp32.val sum)))

/-! ### The drain pipe (R188-R190) -/

/-- VEC_FAULT.CODE for which a VDRAIN is refused, 0 none (R188, R200). -/
def State.drainCode (s : State) (k : Atoll) (d : DrainOp) : Nat :=
  if (d.cnt.toNat + 1) % 256 ≠ 0 then 2
  else if d.fn ∧ !(s.atl k).vec.tabOk d.tab.toNat then 3 else 0

/-- How the cells of a group stand when it is to issue (R115-R117): LIVE, or readable from an advancing clock on, with the
operations whose work its words then hold. -/
inductive GroupView where
  | live
  | readable (from' : Nat) (ops : List ArrOp)
  deriving DecidableEq, Repr

/-- The region by which a bank's groups are numbered: that of the last operation that wrote it (R115); while an earlier one's
release still bars it, the earlier one's. -/
def ArrSt.region (m : ArrSt) (bank : Bool) : BankSt :=
  match (m.queue.filter fun o => o.started && o.op != opScout && !o.filed && o.a.bank == bank && o.clk != 0).getLast? with
  | some o =>
    if (m.bank bank).unread.isEmpty then { m.bank bank with rows := o.a.m.toNat + 1, cols := o.a.n.toNat + 1 } else m.bank bank
  | none => m.bank bank

/-- Group `g` of a bank: the last operation that has begun on its cells governs it, else the bank as it stands; an operation
whose step 0 has not reached them has not changed them (R117). No group is read before T + 1,026 + g (R115). -/
def ArrSt.group (m : ArrSt) (bank : Bool) (g : Nat) : GroupView :=
  let b := m.region bank
  let ops := m.queue.filter fun o => o.started && o.op != opScout && o.a.bank == bank &&
    (match m.meets o b g with | some t => decide (t < o.clk) | none => false)
  match ops.getLast? with
  | some o =>
    if o.clk < o.total ∨ o.a.fin = 0 then .live else .readable (m.adv + o.total - o.clk - 1 + 1026 + g) ops
  | none => if b.state = .live then .live else .readable (b.endAt.elim 0 fun t => t + 1026 + g) []

/-- Groups of a VDRAIN that it has read before: those of the same operation that waited at a LIVE group. -/
def VecSt.drainedOf (v : VecSt) (d : DrainOp) (g0 : Nat) : Nat :=
  match v.drained with
  | some (e, h, n) => if e = d ∧ h = g0 then n else 0
  | none => 0

/-- Groups of a VDRAIN, from its group `r` on, until the first that is LIVE; `fuel` bounds them. -/
def ArrSt.drainable (m : ArrSt) (d : DrainOp) (g0 : Nat) : Nat → Nat → Nat
  | 0, r => r
  | fuel + 1, r =>
    if (m.region d.bank).groups ≤ g0 + r then ArrSt.drainable m d g0 fuel (r + 1)
    else match m.group d.bank (g0 + r) with
      | .live => r
      | .readable _ _ => ArrSt.drainable m d g0 fuel (r + 1)

/-- A VDRAIN must wait: the next group it reads is LIVE (R117, R189). -/
def State.drainStalls (s : State) (k : Atoll) (r : SeqRegs) (d : DrainOp) : Bool :=
  let m := (s.atl k).arr
  let g0 := r.sv d.sa
  let n := (d.cnt.toNat + 1) / 256
  let r0 := (s.atl k).vec.drainedOf d g0
  decide (m.drainable d g0 (n - r0) r0 < n)

/-- The drain chain's value of word `w` at row `i`, column `j`: the value after scale and bias, as FP32 (R190). -/
def drainScale (v : VecSt) (d : DrainOp) (w i j : Nat) : Nat :=
  let x := match d.interp.toNat with
    | 0 => fp32.val w
    | 1 => Val.ofQ ⟨signed 32 w, 1⟩
    | _ => Val.ofQ ⟨w, 1⟩
  let x := if d.csRow then x.mul (bf16.val (v.half d.va.toNat i false)) else x
  let x := if d.csCol then x.mul (bf16.val (v.half d.vb.toNat j false)) else x
  fp32.enc (if d.bias then x.add (fp32.val (v.word d.vc.toNat j)) else x)

/-- One word through the drain chain (R190): the code written, and where its table evaluation fell. -/
def drainWord (v : VecSt) (d : DrainOp) (w i j : Nat) : Nat × Option TabRange :=
  if d.interp.toNat = 3 then (w, none)
  else
    let z := drainScale v d w i j
    let (y, t) := if d.fn then
        let (p, t) := tabEval (v.pair d.tab.toNat) false (fp32.val z)
        (fp32.enc p, some t)
      else (z, none)
    (if d.outf then bf16.enc (fp32.val y) else y, t)

/-- Write element `e` of the drain's destination: packed BF16 with OUTF, unless RAW. -/
def VecSt.setDrain (v : VecSt) (d : DrainOp) (e c : Nat) : VecSt :=
  if d.outf && d.interp.toNat != 3 then v.setHalf d.vd.toNat e false c else v.setWord d.vd.toNat e c

/-- Mark a group read in array clock `t`; a bank all of whose groups have been read becomes FREE (R116). -/
def BankSt.mark (b : BankSt) (g t : Nat) : BankSt :=
  let rd := if b.read.any fun e => e.1 == g then b.read else (g, t) :: b.read
  if b.state ≠ .released then b
  else if b.groups ≤ rd.length then { b with state := .free, read := rd } else { b with read := rd }

/-- Read group number `r` of the operation (R188); with the clocks it waits for its bound behind the pipe's `queued` clocks
(R115, R189). -/
def State.drainGroup (s : State) (k : Atoll) (v : VecSt) (d : DrainOp) (g0 r : Nat) : State :=
  let m := (s.atl k).arr
  let b := m.region d.bank
  let h := g0 + r
  let queued := ((s.atl k).vec.drainOwed.map Prod.snd).foldl (· + ·) 0
  if b.groups ≤ h then
    let s := s.onVec k fun w => (List.range 256).foldl (fun w c => w.setDrain d (256 * r + c) 0)
      { w with drainOwed := w.drainOwed ++ [(false, 1)] }
    s.oob k 1
  else
    let (from', ops) := match m.group d.bank h with | .readable f l => (f, l) | .live => (0, [])
    let wait := from' - (m.adv + queued)
    let i := h / b.blocks
    let c0 := 256 * (h % b.blocks)
    let l := (List.range 256).map fun c =>
      if b.cols ≤ c0 + c then (c, 0, none)
      else let (y, t) := drainWord v d (m.wordAfter ops d.bank i (c0 + c)) i (c0 + c); (c, y, t)
    let s := s.onVec k fun w => l.foldl (fun w e => w.setDrain d (256 * r + e.1) e.2.1)
      { w with drainOwed := w.drainOwed ++ (if wait = 0 then [] else [(true, wait)]) ++ [(false, 1)] }
    let s := s.countRange k (l.filterMap fun e => e.2.2)
    s.onArr k fun m => m.onBank d.bank fun b => b.mark h (m.time + queued + wait)

/-- Groups `r` to `n - 1` of a VDRAIN are read. -/
def State.drainFrom (s : State) (k : Atoll) (v : VecSt) (d : DrainOp) (g0 r n : Nat) : State :=
  (List.range (n - r)).foldl (fun s i => s.drainGroup k v d g0 (r + i)) s

/-- VDRAIN (R188-R190); `v` is the vector state its operands are read from (R216). Each group is read with the words it has
at its bound, and the pipe's clocks are counted as they pass. -/
def State.drain (s : State) (k : Atoll) (r : SeqRegs) (d : DrainOp) (v : VecSt := (s.atl k).vec) : State :=
  let g0 := r.sv d.sa
  let s := s.drainFrom k v d g0 (v.drainedOf d g0) ((d.cnt.toNat + 1) / 256)
  s.onVec k fun v => { v with drained := none }

/-- A VDRAIN that waits at a LIVE group has read the groups before it (R117). -/
def State.drainPart (s : State) (k : Atoll) (r : SeqRegs) (d : DrainOp) : State :=
  let g0 := r.sv d.sa
  let v := (s.atl k).vec
  let r0 := v.drainedOf d g0
  let n := (s.atl k).arr.drainable d g0 ((d.cnt.toNat + 1) / 256 - r0) r0
  if n ≤ r0 then s
  else (s.drainFrom k v d g0 r0 n).onVec k fun v => { v with drained := some (d, g0, n) }

/-- The state in which a VDRAIN is refused, if it is. -/
def State.drainBad (s : State) (k : Atoll) (d : DrainOp) : Option State :=
  let c := s.drainCode k d
  if c ≠ 0 then some (s.vecFault k c) else none

end Sys2Proof.Machine
end

