-- ==== Sys2Proof/Machine/Streams.lean ====
section
/-! DEFINITION. The stream engine (12_streams.md): descriptors and their refusal (R282-R288), issue, the move of a
stream with its cursor, completion in issue order, faults in flight and their answers (R296-R300), the skiff merge
buffer (R292), invalidation and edits of translations (R294, R295). -/

namespace Sys2Proof.Machine

open Host (Outcome)

/-- Atoll whose lagoon a side of kind LAG or RLAG names. -/
def sideAtoll (k : Atoll) (d kind : Nat) : Atoll := if kind = 2 then atollOf (Sd.peer d) else k

/-- `[lo, hi)` leaves program space, or its atoll is out of service (R288). -/
def State.leavesLagoon (s : State) (k : Atoll) (d kind : Nat) (lo hi : Int) : Bool :=
  let j := sideAtoll k d kind
  (kind == 1 || kind == 2) && (!s.inService j || decide (lo < 0 ∨ (s.lagTop j : Int) < hi))

/-- A descriptor the engine refuses (R288), its Q-descriptor's format apart. -/
def State.streamRefused (s : State) (k : Atoll) (d : Nat) : Bool :=
  let sf := Sd.fmt d false
  let df := Sd.fmt d true
  let reserved := d.testBit 7 || d.testBit 15 || byteFld d 3 1 != 0 || byteFld d 114 14 != 0 ||
    2 ≤ Sd.op d || Sd.dims d == 0 || 5 < Sd.dims d || sf == 15 || df == 15
  let formats := if Sd.op d = 0 then sf != df else !Sd.wide sf || (Sd.qdesc d == 0 && !Sd.wide df)
  let ragged := Sd.count d 0 * fmtBits sf % 8 != 0 || Sd.count d 0 * fmtBits df % 8 != 0
  let unaligned (dst : Bool) : Bool :=
    fmtBits (Sd.fmt d dst) < 8 && Sd.kind d dst != 3 && (Sd.base d dst % 16 != 0 ||
      [1, 2, 3, 4].any fun i => 1 < Sd.count d i && Sd.stride d dst i % 16 != 0)
  let outside (dst : Bool) : Bool :=
    let (lo, hi) := Sd.extent d dst
    s.leavesLagoon k d (Sd.kind d dst) lo hi
  let scales := Sd.op d == 1 && blockScaled df && !Sd.meas d &&
    s.leavesLagoon k d (Sd.kind d true) (Sd.dscale d) (Sd.dscale d + Sd.rows d * Sd.scaleRow d : Nat)
  let channels := Sd.op d == 1 && Sd.cscale d != 0 &&
    s.leavesLagoon k d (Sd.kind d false) (Sd.cscale d) (Sd.cscale d + 2 * Sd.rows d : Nat)
  reserved || Sd.kind d false == 3 || formats || ragged || unaligned false || unaligned true ||
    outside false || outside true || scales || channels

/-- Take the descriptor at `addr` through the skiff path (R285): its bytes, and why it is a fault if it is one, with
the fault's address (R288, R296). -/
def State.takeDesc (s : State) (k : Atoll) (addr : Nat) : Nat × Option (Nat × Nat) × State :=
  let va := addr % 2 ^ 52
  if addr % 128 ≠ 0 then (0, some (fkBadDesc, va), s)
  else
    match s.vRead k va 128 with
    | (.error f, s) => (0, some (f, va), s)
    | (.ok bs, s) =>
      let d := ofBytes bs
      if s.streamRefused k d then (d, some (fkBadDesc, va), s)
      else if Sd.op d = 1 ∧ Sd.qdesc d ≠ 0 then
        let (q, s) := s.qGet k (Sd.qdesc d)
        if Qd.fmt q = Sd.fmt d true then (d, none, s) else (d, some (fkBadDesc, va), s)
      else (d, none, s)

/-! ### Streams of the engine -/

/-- Streams in flight, to 64 (R285). -/
def StrmSt.active (m : StrmSt) : Nat := (m.streams.filter fun x => !x.done).length

/-- The lagoon lines `[a, a + n)` touches. -/
def linesOf (a n : Nat) : List Nat :=
  if n = 0 then [] else (List.range ((a + n - 1) / 128 - a / 128 + 1)).map fun i => a / 128 + i

/-- Bytes of a run that are written once its elements before `i` are (R284, R296). -/
def bytesBefore (w i : Nat) : Nat := (i * w + 7) / 8

/-- Lines a FLOW stream still has to write from element `e` on (R287): those of its runs, and of its block scales. -/
def pendingLines (d e : Nat) : List Nat :=
  if !Sd.flow d || Sd.kind d true != 1 || Sd.meas d then []
  else
    let n := Sd.count d 0
    let w := fmtBits (Sd.fmt d true)
    let r0 := e / n
    ((List.range (Sd.rows d - r0)).flatMap fun j =>
      let r := r0 + j
      let i0 := if j = 0 then e % n else 0
      let b0 := bytesBefore w i0
      let run := linesOf (Sd.runAt d true r + b0) ((n * w + 7) / 8 - b0)
      let sc := if Sd.op d = 1 ∧ blockScaled (Sd.fmt d true) then
        linesOf (Sd.dscale d + r * Sd.scaleRow d + i0 / 32) (Sd.scaleRow d - i0 / 32) else []
      run ++ sc).eraseDups

/-- ISSUE (R285): the descriptor is read and copied, the stream takes the lowest free engine slot, waits for
NOT_BEFORE, and marks its lines. -/
def State.issueStream (s : State) (k : Atoll) (ctr addr : Nat) (detach : Bool) : State :=
  let (d, bad, s) := s.takeDesc k addr
  let m := (s.atl k).strm
  let slot := ((List.range 64).find? fun i => (m.inSlot i).isNone).getD 0
  let x : StreamSt :=
    { slot := slot, ctr := ctr, detach := detach, addr := addr, desc := d, bad := bad
      waits := bad.isNone && decide (s.tideNo < Sd.notBefore d)
      cursor := 0, fault := none, recorded := false, out := [], done := false
      lines := if bad.isNone then pendingLines d 0 else []
      delta := if detach && bad.isNone && Sd.op d == 1 && Sd.qdesc d != 0 then some (QDelta.zero (Sd.qdesc d)) else none }
  s.onStrm k fun m =>
    { m with streams := m.streams ++ [x], flowWait := m.flowWait.filter fun e => m.pends e.1 e.2 }

/-- Streams whose tide has come start (R285). -/
def State.startStreams (s : State) (k : Atoll) : State :=
  s.onStrm k fun m =>
    { m with streams := m.streams.map fun x => { x with waits := x.waits && decide (s.tideNo < Sd.notBefore x.desc) } }

/-! ### Moving bytes -/

/-- Offsets of the `n` bytes from lagoon address `a` on whose word has a double-bit error (R281). -/
def State.badOffsets (s : State) (j : Atoll) (a n : Nat) : List Nat :=
  if s.lagErr j a n then (List.range n).filter fun i => (s.atl j).strm.lagBad.contains ((a + i) / 8) else []

/-- Bytes read at a side: those before the first failure, the offsets of those in lagoon words with a double-bit error, and
the failure, as fault kind and address (R281, R296). A walk or a request that a channel holds stops it with kind 0 (R263). -/
def State.sideRead (s : State) (k : Atoll) (d kind a n : Nat) : List Byte × List Nat × Option (Nat × Nat) × State :=
  if kind = 0 then
    (atomPieces (n / 128 + 2) a (List.replicate n 0)).foldl
      (fun (x : List Byte × List Nat × Option (Nat × Nat) × State) e =>
        match x with
        | (acc, b, some f, s) => (acc, b, some f, s)
        | (acc, b, none, s) =>
          if s.walkWaits k e.1 then (acc, b, some (0, e.1 % 2 ^ 52), s)
          else match s.translate k e.1 false with
          | (.error f, s) => (acc, b, some (f, e.1 % 2 ^ 52), s)
          | (.ok p, s) =>
            if s.holds (s.place p) false then (acc, b, some (0, e.1 % 2 ^ 52), s)
            else
              let s := s.reach k p e.2.length false (decide (Sd.size d ≤ 256))
              match s.devRead p e.2.length with
              | none => (acc, b, some (fkPoison, e.1 % 2 ^ 52), s)
              | some bs => (acc ++ bs, b, none, s)) ([], [], none, s)
  else
    let j := sideAtoll k d kind
    let bad := s.badOffsets j a n
    let s := if bad.isEmpty then s
      else (s.bump (F.LAG_CNT_UE j) (wordsIn (s.atl j).strm.lagBad a n).length).raise 0x16 j 0
    ((s.lagBytes j a n), bad, none, (s.lagSeen j a n).causeway j k n)

/-- Write `bs` at a side: how many bytes were written, and the failure. `bad` are the offsets of bytes built from a
lagoon word with a double-bit error: an atom with one is written as poisoned, a lagoon word with one has the error
(R281; log 39: DEDUCED, unsafe). -/
def State.sideWrite (s : State) (k : Atoll) (d kind a : Nat) (bs : List Byte) (bad : List Nat) :
    Nat × Option (Nat × Nat) × State :=
  if kind = 0 then
    let skiff := decide (Sd.size d ≤ 256)
    (atomPieces (bs.length / 128 + 2) a bs).foldl
      (fun (x : Nat × Option (Nat × Nat) × State) e =>
        match x with
        | (n, some f, s) => (n, some f, s)
        | (n, none, s) =>
          if s.walkWaits k e.1 then (n, some (0, e.1 % 2 ^ 52), s)
          else match s.translate k e.1 true with
          | (.error f, s) => (n, some (f, e.1 % 2 ^ 52), s)
          | (.ok p, s) =>
            if !skiff && s.holds (s.place p) true then (n, some (0, e.1 % 2 ^ 52), s)
            else
              let s := s.reach k p e.2.length true skiff
              let s := if skiff then s.skiffWrite p e.2 else (s.atomWrite p e.2).1
              let s := if bad.any fun i => decide (n ≤ i ∧ i < n + e.2.length) then s.poisonAtom p else s
              (n + e.2.length, none, s)) (0, none, s)
  else if kind = 3 then (bs.length, none, s)
  else
    let j := sideAtoll k d kind
    let s := (s.lagWrite j a bs).causeway k j bs.length
    (bs.length, none, s.each (bad.map fun i => (a + i) / 8).eraseDups fun s w => s.lagFlip j w true)

/-- Counts of a converting stream: in its slice's delta, or its own if it is detached (R286). -/
def State.streamCount (s : State) (k : Atoll) (x : StreamSt) (c : QDelta) : State :=
  if x.detach then s.onStream k x.slot fun x => { x with delta := x.delta.map fun e => e.merge c }
  else s.qCount k c

/-- The channel scale of row `r` (R286), and whether its lagoon word has a double-bit error (R281); 1 where the format is none of the GQ formats (R144, R159). -/
def State.rowScale (s : State) (k : Atoll) (d r : Nat) : Nat × Bool × Option Stop × State :=
  if Sd.cscale d = 0 ∨ !isGq (Sd.fmt d true) then (0x3F80, false, none, s)
  else
    match s.sideRead k d (Sd.kind d false) (Sd.cscale d + 2 * r) 2 with
    | (bs, bad, none, s) => (ofBytes bs, !bad.isEmpty, none, s)
    | (_, _, some (f, va), s) => (0, false, some (f, va, false), s)

/-- Convert the source codes of a segment that begins at element `b` of row `r`: element codes, block scales,
privileged values with their addresses and elements, what is counted of each element, and NO_SCOUT (R159, R166, R286). -/
def State.segConvert (s : State) (k : Atoll) (d q r b c : Nat) (xs : List Val) :
    (List Nat × List Nat × List (Nat × Nat × Nat) × List Fetched) × State :=
  let n := Sd.count d 0
  let df := Sd.fmt d true
  let (priv, s) := s.privRange k (Sd.qdesc d) q b (b + xs.length)
  let st := stage12 q (priv.map fun p => p.1 - b) xs
  let (m, noScout) := Qd.xmode q
  let s := if noScout && !Sd.meas d then s.qMark k (Sd.qdesc d) 2 else s
  let cv := convRun (Sd.qdesc d) df m c st
  let pv := priv.map fun p =>
    (privAddr q r ((n + 4095) / 4096) p.1 p.2, privValue c (xs.getD (p.1 - b) (.fin false Q.zero)), p.1 - b)
  let fs := ((cv.codes.zip cv.flags).zip st).map fun z =>
    (⟨z.1.1, 0, if z.2.2 then none else some z.1.2, z.2.1⟩ : Fetched)
  ((cv.codes, cv.scales, pv, fs), s)

/-- Elements of a segment of `n` that are built from one of the elements `bad`: those of its rotation or scale block of
`unit` elements (R281). -/
def builtFrom (unit n : Nat) (bad : List Nat) : List Nat :=
  if bad.isEmpty then [] else (List.range n).filter fun i => bad.any fun x => x / unit == i / unit

/-- Poison the atom of device virtual address `va`, if it translates. -/
def State.poisonVa (s : State) (k : Atoll) (va : Nat) : State :=
  match s.translate k va true with
  | (.ok a, s) => s.poisonAtom a
  | (.error _, s) => s

/-- Write the block scales and privileged values of a segment that begins at element `b` of row `r` (R166, R286); `bad` are
its elements whose block, and `one` those that themselves, are built from a bad lagoon word (R281). -/
def State.sideScales (s : State) (k : Atoll) (d r b : Nat) (scales : List Nat) (pv : List (Nat × Nat × Nat))
    (bad one : List Nat) : Option (Nat × Nat) × State :=
  let w : Nat × Option (Nat × Nat) × State :=
    if blockScaled (Sd.fmt d true) then
      s.sideWrite k d (Sd.kind d true) (Sd.dscale d + r * Sd.scaleRow d + b / 32)
        (scales.map fun x => BitVec.ofNat 8 x) (bad.map fun i => i / 32).eraseDups
    else (0, none, s)
  match w with
  | (_, some g, s) => (some g, s)
  | (_, none, s) => (none, pv.foldl (fun s p =>
      let s := s.vPut k p.1 2 p.2.1
      if one.contains p.2.2 then s.poisonVa k p.1 else s) s)

/-- Move the elements of row `r` from `i0` to the end of its 128-element segment: the element reached, and why the
move stopped if it did. A segment entered at `i0` behind its start goes on with the first byte not yet written; its block
scales and privileged values stand (R284, R296). -/
def State.moveSeg (s : State) (k : Atoll) (x : StreamSt) (r i0 : Nat) : Nat × Option Stop × State :=
  let d := x.desc
  let n := Sd.count d 0
  let sf := Sd.fmt d false
  let df := Sd.fmt d true
  let ws := fmtBits sf
  let wd := fmtBits df
  let b := i0 / 128 * 128
  let e1 := min n (b + 128)
  let done := bytesBefore wd (i0 - b)
  let read (o : Nat) (s : State) := s.sideRead k d (Sd.kind d false) (Sd.runAt d false r + o) (bytesBefore ws e1 - o)
  let finish (bs : List Byte) (bad : List Nat) (f : Option (Nat × Nat)) (s : State) : Nat × Option Stop × State :=
    let (m, g, s) := s.sideWrite k d (Sd.kind d true) (Sd.runAt d true r + b * wd / 8 + done) bs bad
    let s := s.bump (F.STRM_CNT_WR k) m
    let s := if Sd.kind d true = 3 then s.onStream k x.slot fun x => { x with out := x.out ++ bs } else s
    match g, f with
    | some g, _ => (min e1 (b + (done + m) * 8 / max 1 wd), some (g.1, g.2, true), s)
    | none, some f => (min e1 (b + (done + m) * 8 / max 1 wd), some (f.1, f.2, false), s)
    | none, none => (e1, none, s)
  if Sd.op d = 0 then
    let (bs, bad, f, s) := read (b * ws / 8 + done) s
    let s := s.bump (F.STRM_CNT_RD k) bs.length
    if Sd.meas d then
      (match f with | some f => (i0, some (f.1, f.2, false), s) | none => (e1, none, s))
    else finish bs bad f s
  else
    let (bs, bad, f, s) := read (b * ws / 8) s
    let s := s.bump (F.STRM_CNT_RD k) bs.length
    match f with
    | some f => (i0, some (f.1, f.2, false), s)
    | none =>
      let xs := (List.range (e1 - b)).map fun i => elemVal sf (unpackElem ws bs i)
      let hit (l : List Nat) : List Nat :=
        (l.flatMap fun i => (List.range (bytesBefore wd (i + 1) - i * wd / 8)).map fun j => i * wd / 8 + j).eraseDups.filterMap
          fun y => if done ≤ y then some (y - done) else none
      let badEl := (bad.map fun y => y * 8 / ws).eraseDups
      if Sd.qdesc d = 0 then
        if Sd.meas d then (e1, none, s)
        else
          let codes := xs.map fun v => match floatOf df with | some f => f.enc v | none => 0
          finish ((packElems wd codes).drop done) (hit badEl) none s
      else
        match s.rowScale k d r with
        | (_, _, some st, s) => (i0, some st, s)
        | (c, badC, none, s) =>
          let (q, s) := s.qGet k (Sd.qdesc d)
          let ((codes, scales, pv, fs), s) := s.segConvert k d q r b c xs
          if Sd.meas d then
            let live := (fs.zip xs).filterMap fun z => if z.1.flag.isSome then some z.1.val else none
            (e1, none, s.qScout k (Sd.qdesc d) (finiteMax df c live))
          else
            let unit := max (if blockScaled df then 32 else 1) (if Qd.rot q = 0 then 1 else 2 ^ (Qd.rot q + 4))
            let badEl := if badC then List.range (e1 - b) else badEl
            let all := builtFrom unit (e1 - b) badEl
            match (if i0 = b then s.sideScales k d r b scales pv all badEl else (none, s)) with
            | (some g, s) => (i0, some (g.1, g.2, true), s)
            | (none, s) =>
              let (e, st, s) := finish ((packElems wd codes).drop done) (hit all) none s
              (e, st, s.streamCount k x (countFetched (Sd.qdesc d) df c ((fs.drop (i0 - b)).take (e - i0))))

/-- Move a stream from its cursor on: the element reached, and why it stopped if it did. Each turn is one segment of
128 elements of a row. -/
def State.moveStream (s : State) (k : Atoll) (x : StreamSt) : Nat × Option Stop × State :=
  let n := Sd.count x.desc 0
  let per := (n + 127) / 128
  let g0 := x.cursor / n * per + x.cursor % n / 128
  (List.range (Sd.rows x.desc * per - g0)).foldl
    (fun (z : Nat × Option Stop × State) j =>
      match z with
      | (e, some st, s) => (e, some st, s)
      | (e, none, s) =>
        let g := g0 + j
        let r := g / per
        let i0 := if j = 0 then x.cursor % n else g % per * 128
        let (e', st, s) := s.moveSeg k x r i0
        (if e' = n ∧ st.isNone then (r + 1) * n else max e (r * n + e'), st, s)) (x.cursor, none, s)

/-! ### Completion (R284) -/

/-- A stream's last byte is written: its lines clear, a detached one's delta folds, and its counter is raised once
every earlier stream of the counter has been counted (R284, R286, R287). -/
def State.finishStream (s : State) (k : Atoll) (x : StreamSt) : State :=
  let s := match ((s.atl k).strm.inSlot x.slot).bind StreamSt.delta with | some c => s.qFold k c | none => s
  let s := s.onStream k x.slot fun x => { x with done := true, lines := [] }
  s.settle k x.ctr 128

/-! ### Faults (R296-R300) -/

/-- Abort a stream (R299): a detached one is only cancelled; an attached one voids its slice, which is held for its
address, or abandoned at once for kinds 7 and 8. -/
def State.abortStream (s : State) (k : Atoll) (x : StreamSt) (st : Stop) : State :=
  let s := s.abortDetached k x st
  if x.detach then s
  else
    let s := s.voidSlice k st.2.1 st.2.2
    if st.1 = fkPoison ∨ st.1 = fkBadDesc then s.abandonHeld k else s

/-- The stream stops at its cursor (R296): its delivered lines clear, and the fault is recorded. -/
def State.stopStream (s : State) (k : Atoll) (x : StreamSt) (cursor : Nat) (st : Stop) : State :=
  let s := s.onStream k x.slot fun x =>
    { x with cursor := cursor, fault := some st, recorded := false
             lines := if x.bad.isSome then [] else pendingLines x.desc cursor }
  match (s.atl k).strm.inSlot x.slot with
  | some x => (s.recordFault State.abortStream k x st).assignFaults State.abortStream k 64
  | none => s

/-- A stream of atoll `k` can move now: it has started and is not stopped, the translator is writing no edits (R295), no
snapshot stop is under way (R377), and its descriptor does not wait for the harbour (R174) (log 41: DESIGN CHOICE,
unsafe). -/
def State.canMove (s : State) (k : Atoll) (x : StreamSt) : Bool :=
  !s.ckpt.stop.isSome && !x.waits && x.fault.isNone && !x.done && !s.flag (F.XLAT_STAT_EDITING k) &&
  !(x.bad.isNone && Sd.op x.desc == 1 && Sd.qdesc x.desc != 0 && s.qAwaits k (Sd.qdesc x.desc))

/-- Run the stream in engine slot `i` to its end or to its fault: what stopped it, and the state with what it moved.
`none` where no stream there can move. -/
def State.runStream (s : State) (k : Atoll) (i : Nat) : Option (StreamSt × Nat × Option Stop × State) :=
  match (s.atl k).strm.inSlot i with
  | none => none
  | some x =>
    if !s.canMove k x then none
    else
      match x.bad with
      | some (f, va) => some (x, 0, some (f, va, false), s)
      | none => let (e, st, s) := s.moveStream k x; some (x, e, st, s)

/-- The stream in slot `i` runs to its end and completes (R284); one that meets a fault stops there (R296). -/
def State.completeStream (s : State) (k : Atoll) (i : Nat) : State :=
  match s.runStream k i with
  | none => s
  | some (x, _, none, s) => s.finishStream k x
  | some (x, e, some st, s) =>
    if st.1 = 0 then s.onStream k x.slot fun x => { x with cursor := e, lines := pendingLines x.desc e }
    else s.stopStream k x e st

/-- The stream in slot `i` meets a fault (R296); nothing happens where it would meet none. -/
def State.faultStream (s : State) (k : Atoll) (i : Nat) : State :=
  match s.runStream k i with
  | some (x, e, some st, s') => if st.1 = 0 then s else s'.stopStream k x e st
  | _ => s

/-! ### Answers to faults -/

/-- The stream a waiting record stands for. -/
def State.fltStream (s : State) (k : Atoll) (r : Nat) : Option StreamSt :=
  let e := (s.atl k).strm.fltAt r
  if e.state = .waitSelf ∨ e.state = .waitHost then
    ((s.atl k).strm.inSlot e.stream).filter fun x => x.fault.isSome && x.recorded
  else none

/-- RESUME (R298): the stream goes on at its cursor; a descriptor that could not be read is read again. -/
def State.resumeStream (s : State) (k : Atoll) (r : Nat) (x : StreamSt) : State :=
  let s := (s.onFlt k r fun e => { e with state := .resumed }).answered 0x17 k 0 r
  let s :=
    if x.bad.isSome then
      let (d, bad, s) := s.takeDesc k x.addr
      s.onStream k x.slot fun x =>
        { x with desc := d, bad := bad, waits := bad.isNone && decide (s.tideNo < Sd.notBefore d)
                 lines := if bad.isNone then pendingLines d 0 else []
                 delta := if x.detach && bad.isNone && Sd.op d == 1 && Sd.qdesc d != 0
                   then some (QDelta.zero (Sd.qdesc d)) else none }
    else s
  (s.onStream k x.slot fun x => { x with fault := none, recorded := false }).assignFaults State.abortStream k 64

/-- ABORT of a waiting record (R299). -/
def State.abortRec (s : State) (k : Atoll) (r : Nat) (x : StreamSt) : State :=
  let s := (s.onFlt k r fun e => { e with state := .aborted }).answered 0x17 k 0 r
  (s.abortStream k x (x.fault.getD (0, 0, false))).assignFaults State.abortStream k 64

/-- Device-physical address of the level-3 entry of `va`, where its tables exist, read from memory (R293). -/
def State.l3Entry (s : State) (k : Atoll) (va : Nat) : Option Nat :=
  let num (a : Nat) : Nat := ofBytes (s.devBytes a 8)
  let e1 := num (s.fld (F.XLAT_ROOT_ROOT k) * 2 ^ 21 + 8 * vaIndex 1 va)
  if !e1.testBit 0 then none
  else
    let e2 := num (entryPA e1 + 8 * vaIndex 2 va)
    if !e2.testBit 0 || e2.testBit 1 then none else some (entryPA e2 + 8 * vaIndex 3 va)

/-- The holm supplies the frame of a DEMAND fault (R297): zero-fills it, writes the entry, invalidates the address. -/
def State.supply (s : State) (k : Atoll) (va frame : Nat) : State :=
  match s.l3Entry k va with
  | none => s
  | some a =>
    let s := (s.devWrite (frame % 2 ^ 48 / 256 * 256) (List.replicate 65536 0)).1
    let e := ofBytes (s.devBytes a 8)
    let e' := frame % 2 ^ 48 / 256 * 256 + bits e 3 2 * 4 + 1
    let s := (s.putEntry k a e').invVa k va
    let s := s.setFld (F.XLAT_POOL_NEXT_NEXT k) (s.fld (F.XLAT_POOL_NEXT_NEXT k) + 1)
    s.bump (F.XLAT_CNT_DEMAND k)

/-- The self-mode service of record `r` completes (R297). -/
def State.served (s : State) (k : Atoll) (r : Nat) : State :=
  match s.fltStream k r with
  | none => s
  | some x =>
    let e := (s.atl k).strm.fltAt r
    if e.state ≠ .waitSelf ∨ e.kind ≠ fkDemand then s
    else
      match s.poolFrame k with
      | (some f, s) => ((s.supply k e.va f).raise 0x17 k 1).resumeStream k r x
      | (none, s) => (s.raise 0x18 k 0).abortRec k r x

/-- The harbour's answer did not come, or its function went to self mode: the self rule applies (R297, R451). -/
def State.strmSelfRule (s : State) (k : Atoll) (r : Nat) : State :=
  match s.fltStream k r with
  | none => s
  | some x =>
    if ((s.atl k).strm.fltAt r).state ≠ .waitHost then s
    else
      let s := s.answered 0x17 k 0 r
      let s := s.onFlt k r fun e => { e with state := .waitSelf }
      (s.selfServe State.abortStream k r x (x.fault.getD (0, 0, false))).assignFaults State.abortStream k 64

/-- Re-walk the address a voided slice is held for (R299): whether it now succeeds (log 41: DESIGN CHOICE, unsafe). -/
def State.rewalk (s : State) (k : Atoll) (va : Nat) (write : Bool) : Bool × State :=
  if s.flag (F.XLAT_STAT_EDITING k) then (false, s)
  else match s.translate k va write with
    | (.ok _, s) => (true, s)
    | (.error _, s) => (false, s)

/-- A slice at its fit test is tested; where it opens, the other slots of its SLICE bundle are still to act (R225). -/
def State.retest (s : State) (k : Atoll) : State :=
  let (s, ok) := s.tryOpen k
  if ok then s.onSeq k fun q => { q with passed := true } else s

/-- Record `r` stands for the stream whose abort voided the slice held now. -/
def State.heldFor (s : State) (k : Atoll) (r : Nat) : Option (Nat × Bool) :=
  match (s.atl k).seq.run with
  | some (.voided va w _) =>
    let e := (s.atl k).strm.fltAt r
    if e.state = .aborted ∧ !e.detach ∧ e.va = va then some (va, w) else none
  | _ => none

/-- STRM_FLT_CMD `cmd` for record `r`; a command that does not fit the record's state is ignored (R297-R299). -/
def State.fltCmd (s : State) (k : Atoll) (r cmd : Nat) : State :=
  let waitsHost := ((s.atl k).strm.fltAt r).state == .waitHost
  if cmd = 1 ∧ waitsHost then
    match s.fltStream k r with | some x => s.resumeStream k r x | none => s
  else if cmd = 2 ∧ waitsHost then
    match s.fltStream k r with | some x => s.abortRec k r x | none => s
  else if cmd = 3 then
    match s.heldFor k r with
    | some (va, w) =>
      (match s.rewalk k va w with
       | (true, s) => (s.reissue k).retest k
       | (false, s) => s.abandonHeld k)
    | none => s
  else if cmd = 4 then
    match s.heldFor k r with | some _ => s.abandonHeld k | none => s
  else s

/-- The voided slice of atoll `k` at a slack (R299): re-walked, and reissued on success; else one more tide waited. -/
def State.voidSlack (s : State) (k : Atoll) : State :=
  match (s.atl k).seq.run with
  | some (.voided va w n) =>
    (match s.rewalk k va w with
     | (true, s) => s.reissue k
     | (false, s) =>
       s.onSeq k fun q => { q with run := some (.voided va w (n + 1)) })
  | _ => s

/-! ### Invalidations and edits -/

/-- XLAT_CMD (R294): 1 INV_VA, 2 INV_ALL; 0 and 3 ignored. -/
def State.xlatCmd (s : State) (k : Atoll) (v : Nat) : State :=
  let c := bits v 1 0
  if c = 1 then (s.invVa k (bits v 51 16 * 65536)).setFld (F.XLAT_STAT_INV_DONE k) 0
  else if c = 2 then (s.invAll k).setFld (F.XLAT_STAT_INV_DONE k) 0
  else s

/-! ### Acceptance of the stream slot -/

/-- The stream slot cannot be accepted now: 64 streams in flight (R285), or edits being written (R295) (log 41: DESIGN
CHOICE, unsafe). -/
def State.issueStalls (s : State) (k : Atoll) : Bool :=
  64 ≤ (s.atl k).strm.active || s.flag (F.XLAT_STAT_EDITING k)

/-- A WAIT's target has been reached (R224). -/
def waitMet (ctr : Word32) (target : Nat) : Bool := decide ((ctr - BitVec.ofNat 32 target).toNat < 2 ^ 31)

/-! ### Commands -/

/-- STREAM_ISSUE (R285): the stream slot of the current bundle. -/
def execStreamIssue (k : Atoll) (ctr : BitVec 4) (r : SReg) (detach : Bool) (s : State) : Outcome State Fault Refusal :=
  .next (s.slotIssue k (fun _ => none) (fun s => s.issueStalls k)
    fun s => s.issueStream k ctr.toNat ((s.atl k).seq.r.sv r) detach)

/-- STREAM_WAIT (R224): stalls until the target is reached. -/
def execStreamWait (k : Atoll) (ctr : BitVec 4) (r : SReg) (s : State) : Outcome State Fault Refusal :=
  let q := (s.atl k).seq.r
  .next (s.slotIssue k (fun _ => none) (fun _ => !waitMet (SMap.get (fun _ => 0) q.sc ctr.toNat) (q.sv r)) id)

/-- FAULT_SERVED (R297). -/
def execFaultServed (k : Atoll) (r : FaultIx) (s : State) : Outcome State Fault Refusal := .next (s.served k r)

/-- STREAM_FAULT (R296). -/
def execStreamFault (k : Atoll) (i : StreamIx) (s : State) : Outcome State Fault Refusal := .next (s.faultStream k i)

/-- VOIDWAIT_EXPIRY (R299): the tides of STRM_VOIDWAIT have passed without a successful walk. -/
def execVoidwaitExpiry (k : Atoll) (s : State) : Outcome State Fault Refusal :=
  match (s.atl k).seq.run with
  | some (.voided _ _ n) => if s.fld (F.STRM_VOIDWAIT_TIDES k) ≤ n then .next (s.abandonHeld k) else .next s
  | _ => .next s

/-- SKIFF_FLUSH (R292). -/
def execSkiffFlush (k : Atoll) (s : State) : Outcome State Fault Refusal := .next (s.skiffFlush k)

/-- INV_DONE (R294): no stream still holds a translation made before the invalidation. -/
def execInvDone (k : Atoll) (s : State) : Outcome State Fault Refusal :=
  if s.flag (F.XLAT_STAT_INV_DONE k) then .next s
  else .next ((s.setFld (F.XLAT_STAT_INV_DONE k) 1).raise 0x18 k 2)

/-- EDITS_DONE (R295): the writes of the records end; walks that waited for them go on. -/
def execEditsDone (k : Atoll) (s : State) : Outcome State Fault Refusal :=
  if !s.flag (F.XLAT_STAT_EDITING k) then .next s else .next ((s.setFld (F.XLAT_STAT_EDITING k) 0).raise 0x18 k 1)

end Sys2Proof.Machine
end

