-- ==== Sys2Proof/Machine/SoundIn.lean ====
section
/-! DEFINITION. Sound packets as they arrive (14_sound_transport.md): the checks of R331, landing and arrival records
(R339), staging (R340), loss (R346, R347), groups and catch-up (R348, R349), admission (R350, R351), and the commands of
the harbour to contexts (R335). -/

namespace Sys2Proof.Machine

open Host (Outcome)

/-! ### What a received packet carries beside its payload -/

/-- A packet may come in on port `p` from its sender (R314, R326). -/
def State.hears (s : State) (p : PortIx) (h : SoundHdr) : Bool :=
  if p.val < 2 then ((s.port p).ofSlot (fromSlot h)).isSome else s.fabricCarries p

/-- Receive a packet of `n` payload bytes: discarded and counted under R331, or handed to `f`. A CONNECT for a context
beyond the table is answered under R350 instead (log 56: DEDUCED, unsafe). -/
def State.packetIn (s : State) (p : PortIx) (h : SoundHdr) (n : Nat) (conn : Bool) (f : State → State) : State :=
  if !s.hears p h then s
  else if h.ver ≠ 1 ∨ n < h.len.toNat then s.bump (F.SND_CNT_BAD p)
  else if !conn && !s.ctxExists h.dst.toNat then s.bump (F.SND_CNT_BAD p)
  else f s

/-- Credits received (R340): TX_GRANT follows GRANT where it has advanced; a group source has what the member with the
least grant gave (log 57: DEDUCED, unsafe). With RETURN the peer hands credits back. -/
def State.grantIn (s : State) (c : Nat) (h : SoundHdr) : State :=
  if h.flags.getLsbD 5 then s.ungrant c h.grant.toNat
  else
    let (w, s) := s.ctxGet c
    let ahead (g old : Nat) : Bool := decide (0 < (g + 2 ^ 32 - old) % 2 ^ 32) && psnLe old g
    if Cx.kind w = 1 then
      let key := memberKey h.src.toNat (fromSlot h)
      let s := s.onCtx c fun r =>
        { r with grants := if ahead h.grant.toNat (SMap.get (fun _ => 0) r.grants key)
                             then SMap.ins r.grants key h.grant.toNat else r.grants }
      let r := s.sound.of c
      let keys := ((s.members w).map fun m => memberKey m.1 m.2.1).filter fun k => !(r.catchup.map CatchSt.key).contains k
      let least := keys.foldl (fun (a : Option Nat) k =>
        let g := SMap.get (fun _ => 0) r.grants k
        some (a.elim g fun a => if psnLe a g then a else g)) none
      s.ctxSet c fun w => setByteFld w 52 4 (least.getD (Cx.txGrant w))
    else if ahead h.grant.toNat (Cx.txGrant w) then s.ctxSet c fun w => setByteFld w 52 4 h.grant.toNat
    else s

/-- GRANT and ACK_PSN of a received packet (R340, R346). -/
def State.carriedIn (s : State) (c : Nat) (h : SoundHdr) : State :=
  if !Cx.isOpen (s.ctxPeek c) then s
  else (s.grantIn c h).ackIn c h.src.toNat (fromSlot h) h.ackPsn.toNat

/-- A context goes to CLOSED or ERROR under the rules of the receiving side: its reductions lose their owner (R368) and
a partner reached through it is lost (R380). -/
def State.ctxFall (s : State) (c st : Nat) (status : Option Nat) : State :=
  let s := (s.ctxEnd c st status).ownerLost c
  if status = some 2 ∧ c = s.fld F.CKPT_PCTX_CTX then s.partnerLost else s

/-! ### Landing (R339) -/

/-- The arrival record of a message (R339, R348; its layout is the model's, log 48: DESIGN CHOICE, unsafe): status 0 OK,
1 CATCHUP. -/
def arrivalRecord (src msg roff len user status seq : Nat) : List Byte :=
  bytesOf 4 src ++ bytesOf 4 msg ++ bytesOf 4 roff ++ bytesOf 4 len ++ bytesOf 4 user ++ bytesOf 8 status ++ bytesOf 4 seq

/-- The landing region of context `c` with bytes `w` is its home's reduction landing area (R357). -/
def State.isRed (s : State) (c w : Nat) : Bool := Cx.red w && Cx.rxBase w == s.fld (F.STEP_LAND_ADDR (s.home c))

/-- The last packet of a message has landed: its arrival record is written and its counter raised, and the message goes
to the reduction or the replica check it belongs to (R338, R360, R386). -/
def State.arrived (s : State) (c w : Nat) (h : SoundHdr) (user : Nat) : State :=
  let k := s.home c
  let red := s.isRed c w
  let r := s.sound.of c
  let slot := Cx.rxSeq w % 2 ^ Cx.rlog w
  let rec' := arrivalRecord h.src.toNat h.msg.toNat r.rxRoff r.rxLen user (if h.flags.getLsbD 3 then 1 else 0)
    (Cx.rxSeq w + 1)
  let s := (s.vWrite k (Cx.rxRing w + 32 * slot) rec').2
  let s := if Cx.ctrEn w then s.raiseMc k (Cx.rxCtr w) else s
  let s := s.ctxSet c fun w => setByteFld (setByteFld w 92 4 (Cx.rxSeq w + 1)) 64 4 (h.msg.toNat + 1)
  if red then s.redLanded k ⟨r.rxRoff, r.rxLen, user, s.tideNo⟩
  else if s.isReplica c && user == userAsk then
    match s.vRead k (Cx.rxBase w + r.rxRoff) r.rxLen with
    | (.ok bs, s) => s.answerReplica c bs
    | (.error _, s) => s
  else s

/-- A payload accepted in order lands, from the port it came in on; with LAST its message has arrived (R18, R289, R339). -/
def State.land (s : State) (c : Nat) (h : SoundHdr) (data : List Byte) (user : Nat) : State :=
  let (w, s) := s.ctxGet c
  let k := s.home c
  let o := h.roff.toNat
  let red := s.isRed c w
  let p := s.ctxPort w
  let s :=
    if s.isPartner c then
      ((s.bump (F.STRM_CNT_REMOTE k) data.length).causeway (s.portAtoll p k) k data.length).partLand (fromSlot h) user o data
    else if red && s.discards k o user then s else (s.vWrite k (Cx.rxBase w + o) data (some p)).2
  let s := s.onCtx c fun r =>
    if h.flags.getLsbD 0 then { r with rxRoff := o, rxLen := data.length } else { r with rxLen := r.rxLen + data.length }
  let s := s.ctxSet c fun w => setByteFld w 104 8 (Cx.rxBytes w + data.length)
  if h.flags.getLsbD 1 then s.arrived c w h user else s

/-- A payload accepted: its bytes fill staging until they drain (R340; log 50: DEDUCED, unsafe) and land, at the end of
a snapshot stop if one is under way (R377). -/
def State.stage (s : State) (p : PortIx) (c : Nat) (h : SoundHdr) (data : List Byte) (user : Nat) : State :=
  let s := s.bump (F.SND_CNT_RX p) data.length
  let s := s.onCtx c fun r => { r with staged := r.staged ++ [units data.length] }
  if s.ckpt.stop.isSome then { s with sound := { s.sound with later := s.sound.later ++ [(c, h, data, user)] } }
  else s.land c h data user

/-- What a snapshot stop kept from landing lands now (log 60: DEDUCED, safe). -/
def State.landLater (s : State) : State :=
  let l := s.sound.later
  { s with sound := { s.sound with later := [] } }.each l fun s e => s.land e.1 e.2.1 e.2.2.1 e.2.2.2

/-- A payload lies outside the landing region (R339), or belongs to a partner copy the module refuses (R380). -/
def State.beyond (s : State) (c w : Nat) (h : SoundHdr) (n user : Nat) : Bool :=
  if s.isPartner c then s.partRefused (fromSlot h) user || decide (partChunk < h.roff.toNat + n)
  else decide (Cx.rxLen w < h.roff.toNat + n)

/-- DATA in order of the source, at RX_PSN (R339, R346). -/
def State.dataInOrder (s : State) (p : PortIx) (c : Nat) (h : SoundHdr) (data : List Byte) (user : Nat) : State :=
  let (w, s) := s.ctxGet c
  if h.psn.toNat ≠ Cx.rxPsn w then
    -- a duplicate is acknowledged again, a gap is answered with NAK (R346)
    if psnLe h.psn.toNat (Cx.rxPsn w) then s.sendPkt c 2 0 0 0 0 [] else s.sendPkt c 3 0 0 0 0 []
  else if s.beyond c w h data.length user then
    -- the NAK that tells of BOUNDS carries ROFF 1 (log 49: DESIGN CHOICE, unsafe)
    (s.sendPkt c 3 0 0 0 1 []).ctxFall c Cx.error (some 0)
  else
    let s := s.ctxSet c fun w => setByteFld w 48 4 (Cx.rxPsn w + 1)
    (s.stage p c h data user).sendPkt c 2 0 0 0 0 []

/-- CATCHUP-flagged DATA of a server (R349): the message the member expects next, in order. The ACK of a member in
catch-up names the message it expects next (log 59: DESIGN CHOICE, unsafe). -/
def State.dataServed (s : State) (p : PortIx) (c : Nat) (h : SoundHdr) (data : List Byte) (user : Nat) : State :=
  let (w, s) := s.ctxGet c
  let r := s.sound.of c
  let next := if h.flags.getLsbD 0 then true else decide (h.roff.toNat = r.rxRoff + r.rxLen)
  if Cx.state w ≠ Cx.catchup ∨ h.msg.toNat ≠ Cx.rxMsg w ∨ !next then s
  else if Cx.rxLen w < h.roff.toNat + data.length then (s.sendPkt c 3 0 0 0 1 []).ctxFall c Cx.error (some 0)
  else
    let s := s.stage p c h data user
    if h.flags.getLsbD 1 then s.sendPkt c 2 0 0 ((Cx.rxMsg w + 1) % 2 ^ 32) 0 [] else s

/-- SOUND_DATA's effect (R339, R346, R347, R349) (log 47: DESIGN CHOICE, safe). -/
def State.dataIn (s : State) (p : PortIx) (h : SoundHdr) (payload : List Byte) (user : Nat) : State :=
  let c := h.dst.toNat
  let data := payload.take h.len.toNat
  let w := s.ctxPeek c
  if !Cx.isOpen w then (s.ctxGet c).2.answer p h 9 0 0
  else if h.flags.getLsbD 3 then s.dataServed p c h data user
  else
    let s := s.carriedIn c h
    if Cx.state w = Cx.catchup then
      -- in step again at the boundary of the first message it lacks
      if h.flags.getLsbD 0 && h.msg.toNat == Cx.rxMsg w then
        (s.ctxSet c fun w => Cx.setState (setByteFld w 48 4 h.psn.toNat) Cx.opened).dataInOrder p c h data user
      else s
    else s.dataInOrder p c h data user

/-! ### Groups at their source (R349) -/

/-- The first message of a context of which not every packet has departed. -/
def CtxRun.boundary (r : CtxRun) (w : Nat) : Nat :=
  ((r.queue.find? fun m => m.dst.isNone && m.ended.isNone && decide (m.sent < m.len)).map SoundMsg.msg).getD (Cx.txMsg w)

/-- A message has begun to depart and not ended: the source stands at no boundary. -/
def CtxRun.midway (r : CtxRun) : Bool :=
  r.queue.any fun m => m.dst.isNone && m.ended.isNone && decide (0 < m.sent ∧ m.sent < m.len)

/-- A member in catch-up has every message before `msg`: at a boundary of the source it is in step again. -/
def State.memberAck (s : State) (c key msg : Nat) : State :=
  let w := s.ctxPeek c
  let r := s.sound.of c
  if !r.catchup.any fun e => e.key == key then s
  else if msg = r.boundary w ∧ !r.midway then
    s.onCtx c fun r =>
      let left := r.catchup.filter fun e => e.key != key
      { r with acks := SMap.ins r.acks key ((Cx.txPsn w + 2 ^ 32 - 1) % 2 ^ 32), catchup := left
               kept := if left.isEmpty then [] else r.kept }
  else s.onCtx c fun r =>
    { r with catchup := r.catchup.map fun e =>
        if e.key == key && psnLe e.missing msg then { e with missing := msg } else e }

/-- Messages `[a, b)` of a group source: those kept and those in flight. -/
def CtxRun.messages (r : CtxRun) (a b : Nat) : List SoundMsg :=
  (r.kept ++ r.queue.filter fun m => m.dst.isNone).filter fun m => decide (a ≤ m.msg ∧ m.msg < b)

/-- Copies of messages queued for the member `key` (R349). -/
def State.serveCopies (s : State) (c key : Nat) (ms : List SoundMsg) : State :=
  s.onCtx c fun r =>
    { r with queue := r.queue ++ ms.map fun m =>
        { m with sent := 0, dst := some key, entry := none, retries := 0, ended := none, counted := false } }

/-- Choose the nearest member that has acknowledged the messages a member lacks and has not been asked, and ask it; the
source serves them itself where none is left (R349). -/
def State.askServer (s : State) (c key : Nat) : State :=
  let w := s.ctxPeek c
  let r := s.sound.of c
  match r.catchup.find? fun e => e.key == key with
  | none => s
  | some e =>
    let need := r.messages e.missing e.upto
    let out := r.catchup.map CatchSt.key
    let cand := (s.members w).filter fun m =>
      let k := memberKey m.1 m.2.1
      !out.contains k && !e.tried.contains k &&
        need.all fun x => psnLe x.lastPsn (SMap.get (fun _ => Cx.txAck w) r.acks k)
    let rank (m : Nat × Nat × Bool) : Nat :=
      let d := match s.straitTo m.2.1 with | some (p, x) => (((s.port p).bundle x).delay).getD 255 | none => 255
      (if m.2.2 then 0 else 2 ^ 16) + min d 255 * 256 + m.2.1
    match cand.foldl (fun (a : Option (Nat × Nat × Bool)) m =>
      match a with | some b => if rank m < rank b then some m else some b | none => some m) none with
    | some m =>
      let k := memberKey m.1 m.2.1
      let s := s.onCtx c fun r =>
        { r with catchup := r.catchup.map fun e => if e.key == key then { e with tried := k :: e.tried } else e }
      s.sendTo c 11 k e.upto e.missing (bytesOf 4 (key % 2 ^ 20))
    | none =>
      let s := s.serveCopies c key need
      ((List.range (e.upto - e.missing)).map (e.missing + ·)).foldl (fun s x =>
        if need.any fun m => m.msg == x then s else s.unserved c key x) s

/-- A group source at a slack (R349): members that lag go to catch-up, and members in catch-up are served. -/
def State.catchupSlack (s : State) (c : Nat) : State :=
  let w := s.ctxPeek c
  if Cx.kind w ≠ 1 ∨ !Cx.isOpen w then s
  else
    let lag := match (s.vRead s.hub (s.fld F.SNDCTX_GRP_BASE_ADDR + Cx.group w * 64) 64).1 with
      | .ok g => let l := bits (byteFld (ofBytes g) 4 1) 7 0; if l = 0 then 4 else l
      | .error _ => 4
    let s := (s.members w).foldl (fun s m =>
      let key := memberKey m.1 m.2.1
      let r := s.sound.of c
      let ack := SMap.get (fun _ => Cx.txAck w) r.acks key
      if r.catchup.any fun e => e.key == key then s
      else match r.unacked.find? fun e => !psnLe e.psn ack with
        | none => s
        | some e =>
          if s.tideNo ≤ e.tide + lag then s
          else
            let s := s.onCtx c fun r => { r with catchup := r.catchup ++ [⟨key, e.msg, e.msg, []⟩] }
            let p := s.ctxPort w
            let s := ((s.sendTo c 10 key 0 e.msg []).bump (F.SND_CNT_CATCHUP p)).raise 0x31 p 2
            s.ackTo c (s.groupAck c w)) s
    (s.sound.of c).catchup.foldl (fun s e =>
      let b := (s.sound.of c).boundary (s.ctxPeek c)
      if e.upto ≤ e.missing ∧ e.missing < b then
        let s := s.onCtx c fun r =>
          { r with catchup := r.catchup.map fun x => if x.key == e.key then { x with upto := b, tried := [] } else x }
        s.askServer c e.key
      else if e.missing = b ∧ !(s.sound.of c).midway then s.memberAck c e.key e.missing
      else s) s

/-- Every group source at a slack. -/
def State.groupsSlack (s : State) : State := s.each (s.sound.run.map Prod.fst) fun s c => s.catchupSlack c

/-! ### Groups at a member (R349) -/

/-- LAGGED: the member goes to CATCHUP; one in CATCHUP that hears of a later message has missed those before it (log 59:
DESIGN CHOICE, unsafe). -/
def State.laggedIn (s : State) (p : PortIx) (c first : Nat) : State :=
  let (w, s) := s.ctxGet c
  if Cx.state w = Cx.opened then
    (s.ctxSet c fun w => Cx.setState w Cx.catchup).onCtx c fun r => { r with rxRoff := 0, rxLen := 0 }
  else if Cx.state w = Cx.catchup ∧ Cx.rxMsg w < first then
    let n := first - Cx.rxMsg w
    let s := s.ctxSet c fun w => setByteFld (Cx.mark w 3) 64 4 first
    let s := if Cx.ctrEn w then (List.range n).foldl (fun s _ => s.raiseMc (s.home c) (Cx.rxCtr w)) s else s
    (s.raise 0x31 p 3).sendPkt c 2 0 0 first 0 []
  else s

/-- The message `msg` as member context `c`'s arrival ring has it: ROFF, length, USER. -/
def State.ringEntry (s : State) (c w msg : Nat) : Option (Nat × Nat × Nat) :=
  (List.range (2 ^ Cx.rlog w)).findSome? fun i =>
    match (s.vRead (s.home c) (Cx.rxRing w + 32 * i) 32).1 with
    | .error _ => none
    | .ok bs =>
      let v := ofBytes bs
      if byteFld v 4 4 = msg ∧ byteFld v 0 4 = Cx.peerCtx w ∧ byteFld v 28 4 ≠ 0
      then some (byteFld v 8 4, byteFld v 12 4, byteFld v 16 4) else none

/-- SERVE (R349): the messages from the first missing one to the one MSG names, from the server's own landing region; a
context that is not OPEN, or that has not all of them, refuses. -/
def State.serveIn (s : State) (p : PortIx) (h : SoundHdr) (member : Nat) : State :=
  let c := h.dst.toNat
  let (w, s) := s.ctxGet c
  let key := ((s.members w).find? fun m => m.1 == member).map fun m => memberKey m.1 m.2.1
  let have' := (List.range (h.msg.toNat - h.roff.toNat)).filterMap fun i =>
    (s.ringEntry c w (h.roff.toNat + i)).map fun e => (h.roff.toNat + i, e)
  if Cx.state w ≠ Cx.opened ∨ have'.length < h.msg.toNat - h.roff.toNat then s.answer p h 6 1 0
  else
    match key with
    | none => s.answer p h 6 1 0
    | some key =>
      s.serveCopies c key (have'.map fun (e : Nat × Nat × Nat × Nat) =>
        { msg := e.1, atoll := (s.home c).val, ctr := 0, counted := false, lag := false, src := Cx.rxBase w + e.2.1
          body := none, len := e.2.2.1, roff := e.2.1, user := e.2.2.2, sent := 0, dst := some key, ended := none })

/-! ### Admission (R350, R351) -/

/-- NOT_READY with the hint of SNDCTX_ADMIT. -/
def State.notReadyTo (s : State) (p : PortIx) (h : SoundHdr) : State :=
  (s.answer p h 7 0 (s.fld F.SNDCTX_ADMIT_HINT)).bump F.SNDCTX_CNT_NOTREADY

/-- REFUSE with a cause. -/
def State.refuseTo (s : State) (p : PortIx) (h : SoundHdr) (cause : Nat) : State :=
  (s.answer p h 6 cause 0).bump F.SNDCTX_CNT_REFUSE

/-- The peer fields of a context are zero or name the caller. -/
def peerMatches (w : Nat) (h : SoundHdr) (off : Bool) (ip : Nat) : Bool :=
  let z (a b : Nat) : Bool := a == 0 || a == b
  z (Cx.peerCtx w) h.src.toNat && (off || z (Cx.peerSlot w) h.slot.val) && (!off || z (Cx.peerIp w) ip)

/-- ACCEPT a CONNECT: the context becomes OPEN with the caller as its peer and an initial grant. -/
def State.acceptTo (s : State) (a : Admission) : State :=
  let c := a.hdr.dst.toNat
  let s := s.onCtx c fun r => { CtxRun.none with queue := r.queue }
  let s := s.ctxSet c fun w =>
    let w := setByteFld w 4 4 (a.hdr.src.toNat + a.hdr.slot.val * 2 ^ 20)
    let w := if a.offboard then setByteFld w 8 16 a.ip else w
    Cx.setState (setByteFld w 52 4 a.hdr.grant.toNat) Cx.opened
  let s := (s.grant c).sendPkt c 5 0 0 0 0 []
  { s with sound := { s.sound with admitted := s.sound.admitted + 1 } }.bump F.SNDCTX_CNT_ADMIT

/-- The ramp's limit of 4,096 admissions a tide is reached. -/
def State.rampFull (s : State) : Bool := s.fld F.SNDCTX_STAT_PHASE == 1 && decide (4096 ≤ s.sound.admitted)

/-- The self rule of R350 for a CONNECT from READY on, to a context that reads `w`. -/
def State.admitAs (s : State) (w : Nat) (a : Admission) : State :=
  if Cx.state w ≠ Cx.listen ∨ !peerMatches w a.hdr a.offboard a.ip then s.refuseTo a.port a.hdr 1
  else if s.rampFull then s.notReadyTo a.port a.hdr
  else s.acceptTo a

/-- The same for a CONNECT that waited: its context is read now. -/
def State.admitNow (s : State) (a : Admission) : State :=
  let (w, s) := s.ctxGet a.hdr.dst.toNat
  s.admitAs w a

/-- CONNECT (R350, R351) (log 61: DESIGN CHOICE, unsafe). -/
def State.connectIn (s : State) (a : Admission) : State :=
  let c := a.hdr.dst.toNat
  if s.fld F.SNDCTX_STAT_PHASE = 0 then s.notReadyTo a.port a.hdr
  else if !s.ctxExists c then (s.refuseTo a.port a.hdr 2).raise 0x32 0 2
  else
    let (w, s) := s.ctxGet c
    let takes := Cx.state w == Cx.listen && peerMatches w a.hdr a.offboard a.ip && !s.rampFull
    if takes && s.hosted 0x32 0 0 then
      if 256 ≤ s.sound.admissions.length then s.notReadyTo a.port a.hdr
      else
        (({ s with sound := { s.sound with admissions := s.sound.admissions ++ [a] } }).raise 0x32 0 0).awaitHost 0x32 0 0 c
    else s.admitAs w a

/-- Take the oldest waiting CONNECT out of the queue. -/
def State.admitPop (s : State) : Option Admission × State :=
  match s.sound.admissions with
  | [] => (none, s)
  | a :: rest =>
    (some a, ({ s with sound := { s.sound with admissions := rest } }).answered 0x32 0 0 a.hdr.dst.toNat)

/-- SNDCTX_ADMIT_CMD (R351): 1 ACCEPT, 2 REFUSE, 3 DEFER the oldest (log 61: DESIGN CHOICE, unsafe). -/
def State.admitCmd (s : State) (cmd : Nat) : State :=
  if cmd = 0 ∨ 3 < cmd then s
  else match s.admitPop with
    | (none, s) => s
    | (some a, s) =>
      if cmd = 1 then s.admitNow a else if cmd = 2 then s.refuseTo a.port a.hdr 1 else s.notReadyTo a.port a.hdr

/-- No answer came for a CONNECT to context `c`: the self rule applies (R351). -/
def State.admitFallback (s : State) (c : Nat) : State :=
  match s.sound.admissions.find? fun a => a.hdr.dst.toNat == c with
  | none => s
  | some a => ({ s with sound := { s.sound with admissions := s.sound.admissions.erase a } }).admitNow a

/-! ### Answers to a caller (R350), and the ends of a context -/

/-- ACCEPT: the caller's context is OPEN, grants in its turn, and says so in an ACK (log 58: DESIGN CHOICE, unsafe) (log
55: DEDUCED, safe). -/
def State.acceptIn (s : State) (p : PortIx) (h : SoundHdr) : State :=
  let c := h.dst.toNat
  let (w, s) := s.ctxGet c
  if Cx.state w = Cx.connecting then
    let s := s.onCtx c fun r => { r with retryAt := none }
    let s := s.ctxSet c fun w =>
      Cx.setState (setByteFld (setByteFld w 52 4 h.grant.toNat) 4 4 (h.src.toNat + h.slot.val * 2 ^ 20)) Cx.opened
    (s.grant c).sendPkt c 2 0 0 0 0 []
  else if Cx.isOpen w then s.carriedIn c h
  else s.answer p h 9 0 0

/-- REFUSE: a caller's context goes to ERROR; a server that refuses is passed over for the next (R349) (log 55: DEDUCED,
safe). -/
def State.refuseIn (s : State) (p : PortIx) (h : SoundHdr) : State :=
  let c := h.dst.toNat
  let (w, s) := s.ctxGet c
  if Cx.state w = Cx.connecting then s.ctxFall c Cx.error none
  else if Cx.isOpen w then
    let k := memberKey h.src.toNat (fromSlot h)
    s.each ((s.sound.of c).catchup.filter fun e => e.tried.head? == some k) fun s e => s.askServer c e.key
  else s.answer p h 9 0 0

/-- NOT_READY: the caller sends CONNECT again after the hint. -/
def State.notReadyIn (s : State) (p : PortIx) (h : SoundHdr) : State :=
  let c := h.dst.toNat
  let (w, s) := s.ctxGet c
  if Cx.state w = Cx.connecting then s.onCtx c fun r => { r with retryAt := some (s.tideNo + max 1 h.grant.toNat) }
  else if Cx.isOpen w then s
  else s.answer p h 9 0 0

/-- A packet that only a context OPEN or CATCHUP takes; another is answered with RESET (R347). -/
def State.whenOpen (s : State) (p : PortIx) (h : SoundHdr) (f : State → State) : State :=
  let (w, s) := s.ctxGet h.dst.toNat
  if Cx.isOpen w then f s else s.answer p h 9 0 0

/-- NAK (R346): every packet after ACK_PSN is resent; one that tells of BOUNDS puts the context in ERROR (R339). -/
def State.nakIn (s : State) (h : SoundHdr) : State :=
  let c := h.dst.toNat
  if h.roff = 1 then s.ctxFall c Cx.error (some 0) else (s.carriedIn c h).resendPkts c

/-- ACK (R346). -/
def State.ackPktIn (s : State) (h : SoundHdr) : State :=
  let c := h.dst.toNat
  let key := memberKey h.src.toNat (fromSlot h)
  if (s.sound.of c).catchup.any fun e => e.key == key then (s.grantIn c h).memberAck c key h.msg.toNat
  else s.carriedIn c h

/-- RESET (R347) (log 55: DEDUCED, safe). -/
def State.resetIn (s : State) (c : Nat) : State :=
  let (w, s) := s.ctxGet c
  if 2 ≤ Cx.state w ∧ Cx.state w ≤ 4 then s.ctxFall c Cx.error (some 2) else s

/-- SNDCTX_CMD (R335): 1 CONNECT, 2 LISTEN, 3 CLOSE. -/
def State.ctxCmd (s : State) (c cmd : Nat) : State :=
  if cmd = 0 ∨ 3 < cmd ∨ !s.ctxExists c then s
  else if cmd < 3 then s.ctxOpen c cmd
  else (s.sendPkt c 8 0 0 0 0 []).ctxFall c Cx.closed none

/-- A timeout of context `c`, SND_RTO.CYCLES after TX_ACK last advanced (R346): time passes up to then, if the tide has
as long (log 110: DESIGN CHOICE, unsafe). -/
def State.retxTimeout (s : State) (c : Nat) : State :=
  let (w, s) := s.ctxGet c
  let p := s.ctxPort w
  if !Cx.isOpen w ∨ (s.sound.of c).unacked.isEmpty then s
  else match s.runTo ((s.sound.of c).ackAt + s.fld (F.SND_RTO_CYCLES p)) with
  | none => s
  | some s =>
  if s.fld (F.SND_RETRY_MAX p) ≤ Cx.retries w + 1 then
    ((s.ctxSet c fun w => setByteFld w 90 2 (Cx.retries w + 1)).ctxFall c Cx.error (some 1)).raise 0x31 p 1
  else (s.ctxSet c fun w => setByteFld w 90 2 (Cx.retries w + 1)).resendPkts c

/-- Staged bytes of context `c` drain if it is its turn (R340, R342). -/
def State.waitingRx (s : State) (p : PortIx) : List (Nat × Nat × Nat × Bool) :=
  s.sound.run.filterMap fun e =>
    match e.2.staged with
    | n :: _ => let w := s.ctxPeek e.1; if s.ctxPort w == p then some (e.1, 256 * n, Cx.weight w, Cx.red w) else none
    | [] => none

def State.drainCtx (s : State) (p : PortIx) (c : Nat) : State :=
  if s.ckpt.stop.isSome then s
  else match drrTurn (s.waitingRx p) (s.port p).drrIn (s.port p).shareRx (s.fld (F.SND_RESV_SHARE p)) c with
    | none => s
    | some (d, sh) =>
      let n := (s.sound.of c).staged.headD 0
      let s := s.onPort p fun m => { m with drrIn := d, shareRx := sh }
      let s := s.onCtx c fun r => { r with staged := r.staged.tail }
      ((s.ungrant c n).grant c).sendPkt c 2 0 0 0 0 []

/-- At READY every context CONNECTING, OPEN or CATCHUP is set to LISTEN, and the ramp begins (R347, R350). -/
def State.soundReady (s : State) : State :=
  let s := (s.setFld F.SNDCTX_STAT_PHASE 1).setFld F.SNDCTX_RAMP_LEFT 1024
  s.each (List.range (s.fld F.SNDCTX_COUNT_COUNT)) fun s c =>
    if 2 ≤ Cx.state (s.ctxPeek c) ∧ Cx.state (s.ctxPeek c) ≤ 4 then s.ctxSet c fun w => Cx.setState w Cx.listen else s

/-! ### Packets joined from flits (R332) -/

/-- The header in 32 bytes (R331), with its KIND. -/
def soundHeader (bs : List Byte) : Nat × SoundHdr :=
  let w := ofBytes (bs.take 32)
  (bits w 7 4,
   { ver := BitVec.ofNat 4 w, flags := BitVec.ofNat 8 (byteFld w 1 1), len := BitVec.ofNat 16 (byteFld w 2 2)
     dst := BitVec.ofNat 20 (byteFld w 4 4), src := BitVec.ofNat 20 (byteFld w 8 4)
     slot := ⟨byteFld w 8 4 / 2 ^ 20 % 16, Nat.mod_lt _ (by decide)⟩, noSlot := (byteFld w 8 4).testBit 24
     psn := BitVec.ofNat 32 (byteFld w 12 4), msg := BitVec.ofNat 32 (byteFld w 16 4)
     roff := BitVec.ofNat 32 (byteFld w 20 4), ackPsn := BitVec.ofNat 32 (byteFld w 24 4)
     grant := BitVec.ofNat 32 (byteFld w 28 4), ip := 0 })

/-- A Sound packet of each KIND (R331) (log 47: DESIGN CHOICE, safe). -/
def State.soundIn (s : State) (p : PortIx) (kind : Nat) (h : SoundHdr) (payload : List Byte) (user : Nat)
    (offboard : Bool) (ip : Nat) : State :=
  let c := h.dst.toNat
  s.packetIn p h payload.length (kind == 4) fun s =>
    match kind with
    | 1 => s.dataIn p h payload user
    | 2 => s.whenOpen p h fun s => s.ackPktIn h
    | 3 => s.whenOpen p h fun s => s.nakIn h
    | 4 => s.connectIn ⟨p, h, offboard, ip, s.tideNo⟩
    | 5 => s.acceptIn p h
    | 6 => s.refuseIn p h
    | 7 => s.notReadyIn p h
    | 8 => s.whenOpen p h fun s => s.ctxFall c Cx.closed none
    | 9 => s.resetIn c
    | 10 => s.whenOpen p h fun s => s.laggedIn p c h.roff.toNat
    | 11 => s.serveIn p h (ofBytes (payload.take 4) % 2 ^ 20)
    | _ => s.bump (F.SND_CNT_BAD p)

/-- A whole packet `bs` came in (R331-R333), for each of the contexts `dst`, or for the one it names: the USER of a DATA packet
is in no byte of it, and a free value. -/
def State.packetBytes (s : State) (p : PortIx) (bs : List Byte) (offboard : Bool) (ip : Nat) (dst : Option (List Nat)) :
    State :=
  let (kind, h) := soundHeader bs
  let h := { h with ip := BitVec.ofNat 128 ip }
  let (i, s) := if kind = 1 then s.fresh else (0, s)
  let user := if kind = 1 then (Config.freeBits 32 i).toNat else 0
  s.each (dst.elim [h] fun l => l.map fun c => { h with dst := BitVec.ofNat 20 c }) fun s h =>
    s.soundIn p kind h (bs.drop 32) user offboard ip

/-- Contexts of this module that are members of the groups with multicast address `ip`, by their address, on port `p`
(R348; log 53: DEDUCED, unsafe). -/
def State.homed (s : State) (p : PortIx) (ip : Nat) : List Nat :=
  (((List.range (s.fld F.SNDCTX_GRP_COUNT_COUNT)).filter fun g => 0 < g && s.groupIp g == ip).flatMap fun g =>
    ((s.groupList g).filter fun m => m.2.2 == s.portIp p).map Prod.fst).eraseDups

/-! ### Commands -/

/-- SOUND_DATA (R339). -/
def execSoundData (port : PortIx) (h : SoundHdr) (payload : List Byte) (user : Word32) (s : State) :
    Outcome State Fault Refusal := .next (s.soundIn port 1 h payload user.toNat false 0)

/-- ACK (R346). -/
def execAck (port : PortIx) (h : SoundHdr) (s : State) : Outcome State Fault Refusal :=
  .next (s.soundIn port 2 h [] 0 false 0)

/-- NAK of a packet (R346). -/
def execSoundNak (port : PortIx) (h : SoundHdr) (s : State) : Outcome State Fault Refusal :=
  .next (s.soundIn port 3 h [] 0 false 0)

/-- CONNECT (R350). -/
def execConnect (port : PortIx) (h : SoundHdr) (offboard : Bool) (ip : BitVec 128) (s : State) :
    Outcome State Fault Refusal := .next (s.soundIn port 4 { h with ip := ip } [] 0 offboard ip.toNat)

/-- ACCEPT (R350). -/
def execAccept (port : PortIx) (h : SoundHdr) (s : State) : Outcome State Fault Refusal :=
  .next (s.soundIn port 5 h [] 0 false 0)

/-- REFUSE (R350). -/
def execRefuse (port : PortIx) (h : SoundHdr) (s : State) : Outcome State Fault Refusal :=
  .next (s.soundIn port 6 h [] 0 false 0)

/-- NOT_READY (R350). -/
def execNotReady (port : PortIx) (h : SoundHdr) (s : State) : Outcome State Fault Refusal :=
  .next (s.soundIn port 7 h [] 0 false 0)

/-- CLOSE (R335). -/
def execClose (port : PortIx) (h : SoundHdr) (s : State) : Outcome State Fault Refusal :=
  .next (s.soundIn port 8 h [] 0 false 0)

/-- RESET (R347). -/
def execReset (port : PortIx) (h : SoundHdr) (s : State) : Outcome State Fault Refusal :=
  .next (s.soundIn port 9 h [] 0 false 0)

/-- LAGGED (R349). -/
def execLagged (port : PortIx) (h : SoundHdr) (s : State) : Outcome State Fault Refusal :=
  .next (s.soundIn port 10 h [] 0 false 0)

/-- SERVE (R349): names the member by its context. -/
def execServe (port : PortIx) (h : SoundHdr) (member : CtxNo) (s : State) : Outcome State Fault Refusal :=
  .next (s.soundIn port 11 h (bytesOf 4 member.toNat) 0 false 0)

/-- DATA_FLIT (R312, R332): the packet whose last flit it is, is taken as Sound takes it. -/
def execDataFlit (port : BPort) (peer : Word64) (t : Trailer) (body : List Byte) (s : State) :
    Outcome State Fault Refusal :=
  match s.dataFlitIn (bport port) peer.toNat t body with
  | (none, s) => .next s
  | (some bs, s) => .next (s.packetBytes (bport port) bs false 0 none)

/-- FRAME (R325, R333): a Sound packet in a good frame is taken by the context it names, or, sent to a group's address, by the
group's members that the module homes (R348). -/
def execFrame (port : PortIx) (f : Frame) (s : State) : Outcome State Fault Refusal :=
  onFabric port s (match s.frameIn port f with
    | (none, s) => s
    | (some bs, s) =>
      s.packetBytes port bs true f.srcIp.toNat
        (if f.dstIp.toNat = s.portIp port then none else some (s.homed port f.dstIp.toNat)))

/-- STAGING_DRAIN (R340). -/
def execStagingDrain (port : PortIx) (c : CtxNo) (s : State) : Outcome State Fault Refusal :=
  .next (s.drainCtx port c.toNat)

/-- RETRANSMIT_TIMEOUT (R346). -/
def execRetransmitTimeout (c : CtxNo) (s : State) : Outcome State Fault Refusal :=
  if s.ctxExists c.toNat then .next (s.retxTimeout c.toNat) else .next s

/-- STREAM_COMPLETE (R284): the stream in slot `i` moves all it still has to and is counted in order; one that goes to a
Sound context has sent its payload (R282) (log 99: DESIGN CHOICE, unsafe). -/
def execStreamComplete (k : Atoll) (i : StreamIx) (s : State) : Outcome State Fault Refusal :=
  match s.runStream k i with
  | some (x, _, none, t) =>
    let out := ((t.atl k).strm.inSlot x.slot).elim [] StreamSt.out
    let t := if Sd.kind x.desc true = 3 then t.sendBytes k (Sd.ctx x.desc) out 0 0 else t
    .next (t.finishStream k x)
  | _ => .next (s.completeStream k i)

end Sys2Proof.Machine
end

