-- ==== Sys2Proof/Machine/Checkpoint.lean ====
section
/-! DEFINITION. Snapshots and restores (16_checkpoint.md R376-R388): the stop and its end, the layers and the partner,
loading, checking, comparing and realigning, and the commands of the harbour. -/

namespace Sys2Proof.Machine

open Host (Outcome)

/-- `s` with the checkpoint state changed by `f`. -/
def State.onCkpt (s : State) (f : CkptSt → CkptSt) : State := { s with ckpt := f s.ckpt }

/-! ### Layers (R379-R384) -/

/-- Layer `l`, copying, fails; a flash slot it was writing stays invalid (R381). -/
def State.layerFail (s : State) (l : Nat) : State :=
  if s.layer l ≠ 1 then s
  else
    let s := match l, s.ckpt.fslot with
      | 3, some i => s.onCkpt fun m => { m with fslot := none, flash := SMap.ins m.flash i (false, false, false, 0) }
      | _, _ => s
    s.layerEnd l false

/-- Every layer still copying fails (R376, R410). -/
def State.failLayers (s : State) : State := s.each [2, 3, 4] State.layerFail

/-- The atolls' memory controllers stop: every layer that is copying fails, and a stop under way is over (16_checkpoint.md,
“When the coolant or the input fails”). -/
def State.dropLayers (s : State) : State :=
  let s := s.failLayers
  if s.layer 1 ≠ 1 then s
  else ((s.onCkpt fun m => { m with stop := none }).setFld F.CKPT_STAT_STATE 0).layerEnd 1 false

/-- Slot `i` is on feed B: by CKPT_FEED where `host`, else by the board's halves (R382). -/
def State.onFeedB (s : State) (host : Bool) (i : Nat) : Bool :=
  if host then (s.fld F.CKPT_FEED_B).testBit i else if s.flag F.HOLM_BOARD_SIZE16 then 8 ≤ i else 4 ≤ i

/-- The partner the self rule gives (R382). -/
def State.selfPartner (s : State) : Option Nat :=
  let me := s.fld F.HOLM_SLOT_SLOT
  let l := s.boardPeers
  let across := if s.flag F.HOLM_BOARD_SIZE16 then (me + 8) % 16 else (me + 4) % 8
  if across ∈ l then some across
  else (l.find? fun i => s.onFeedB false i != s.onFeedB false me).orElse fun _ => l.head?

/-- The partner the harbour names, if it is present (R383). -/
def State.hostPartner (s : State) : Option Nat :=
  if s.flag F.CKPT_PARTNER_VALID ∧ s.fld F.CKPT_PARTNER_SLOT ∈ s.boardPeers then some (s.fld F.CKPT_PARTNER_SLOT) else none

/-- The partner of this checkpoint is chosen (R382): PSLOT and CO_FED. -/
def State.setPartner (s : State) (host : Bool) (o : Option Nat) : State :=
  let s := s.onCkpt fun m => { m with partner := o, needs := false }
  match o with
  | none => s
  | some i =>
    let co := s.onFeedB host i == s.onFeedB host (s.fld F.HOLM_SLOT_SLOT)
    (s.setFld F.CKPT_STAT_PSLOT i).setFld F.CKPT_STAT_CO_FED (if co then 1 else 0)

/-- Choose the partner at a stop (R382, R383). -/
def State.choosePartner (s : State) : State :=
  let s := { s.setPartner false none with waits := s.waits.filter fun w => !(w.page == 9 && w.bit ≤ 1) }
  let s := s.onCkpt fun m => { m with asked := false }
  if !s.hosted 0x09 0 1 then s.setPartner false s.selfPartner
  else match s.hostPartner with
    | some i => s.setPartner true (some i)
    | none =>
      if (s.fld F.CKPT_CTL_LAYERS).testBit 0 || s.hosted 0x09 0 0 then
        ((s.onCkpt fun m => { m with needs := true }).raise 0x09 0 7).awaitHost 0x09 0 1 0
      else s

/-- Bytes copied into atoll `k`'s share. -/
def State.copied (s : State) (k : Nat) : Nat := byteFld (ofBytes (s.layerBytes 1 0 k 0 64)) 16 8

/-- Every share as a layer stores it. -/
def State.shareImage (s : State) : SMap Byte :=
  s.serving.foldl (fun (m : SMap Byte) k =>
    SMap.putRange memDefault m (shareKey k.val 0) (s.devBytes (s.snapAt k.val) (s.copied k.val))) []

/-- Send the shares to the partner as messages (R380, log 69: DESIGN CHOICE, unsafe). -/
def State.sendShares (s : State) (c : Nat) : State :=
  s.each s.serving fun s k =>
    let n := s.copied k.val
    s.each (List.range ((n + partChunk - 1) / partChunk)) fun s i =>
      s.sendBytes k c (s.devBytes (s.snapAt k.val + i * partChunk) (min partChunk (n - i * partChunk))) 0
        (partUser k.val (s.fld F.CKPT_SNAP_SIZE_SIZE) i)

/-- The flash slot a new checkpoint takes (R381): an invalid one, else the oldest that holds neither the newest safe
checkpoint nor one being read. -/
def State.flashPick (s : State) : Option Nat :=
  let n := s.fld F.FLASH_STAT_SLOTS
  let free := (List.range n).find? fun i => let f := s.flashSlot i; !f.1 && !f.2.1 && !f.2.2.1
  free.orElse fun _ =>
    ((s.ckpt.flash.filter fun e =>
      decide (e.1 < n) && e.2.1 && !e.2.2.2.1 && e.2.2.2.2 != s.fld F.CKPT_SAFE_ID_ID).foldl
        (fun (a : Option (Nat × Nat)) e => match a with
          | some b => if e.2.2.2.2 < b.2 then some (e.1, e.2.2.2.2) else a
          | none => some (e.1, e.2.2.2.2)) none).map Prod.fst

/-- Layer `l` begins to copy, and fails at once where its destination cannot take it (R380, R381, R457). -/
def State.startLayer (s : State) (l : Nat) : State :=
  if s.layer l ≠ 0 ∨ s.layer 1 ≠ 2 then s
  else
    let begin' (s : State) : State := (s.setFld (layerFld l) 1).trickle
    match l with
    | 2 =>
      (match s.ckpt.partner with
       | none => if s.ckpt.needs then s.onCkpt fun m => { m with asked := true } else s
       | some i =>
         let c := s.fld F.CKPT_PCTX_CTX
         let s := (begin' s).raiseIf (s.flag F.CKPT_STAT_CO_FED) 0x09 0 5
         if i ∈ s.boardPeers ∧ s.ctxExists c ∧ Cx.isOpen (s.ctxPeek c) then (s.sendShares c).onCkpt fun m => { m with partId := none }
         else s.layerFail 2)
    | 3 =>
      (match s.flashPick with
       | none => (begin' s).layerFail 3
       | some i =>
         let was := (s.flashSlot i).1
         let s := if was then s.setFld F.FLASH_STAT_VALID (s.fld F.FLASH_STAT_VALID - 1) else s
         (begin' s).onCkpt fun m => { m with fslot := some i, flash := SMap.ins m.flash i (false, true, false, 0) })
    | _ =>
      let size := s.snapSize
      let s := (begin' s).onCkpt fun m => { m with stored := false }
      if s.fld F.CKPT_STORE_LEN_BYTES < s.serving.length * size ∨ !s.flag F.HBR_PCIE_UP then s.layerFail 4
      else (s.emits (s.serving.zipIdx.map fun e =>
        .outbound true (s.fld F.CKPT_STORE_BASE_ADDR + e.2 * size) (s.copied e.1.val))).onCkpt fun m => { m with storeId := none }

/-- The enabled layers that have not started start together (R379). -/
def State.startLayers (s : State) : State :=
  s.each [2, 3, 4] fun s l => if (s.fld F.CKPT_CTL_LAYERS).testBit (l - 2) then s.startLayer l else s

/-- CKPT_CMD PARTNER, FLASH or STORE in host mode (R384). -/
def State.layerCmd (s : State) (l : Nat) : State :=
  if s.hosted 0x09 0 0 ∧ s.layer 1 = 2 ∧ s.layer l = 0 ∧ s.fld F.CKPT_STAT_STATE ≤ 2
  then (s.answered 0x09 0 0 0).startLayer l else s

/-- A copying layer has its last byte (R380, R381), or fails. STORE waits for the harbour's word. -/
def State.layerDone (s : State) (l : Nat) (ok : Bool) : State :=
  if s.layer l ≠ 1 then s
  else if !ok then s.layerFail l
  else
    let id := s.fld F.CKPT_ID_ID
    let img := s.shareImage
    match l with
    | 2 => (s.onCkpt fun m => { m with partMem := img, partId := some id }).layerEnd 2 true
    | 3 =>
      (match s.ckpt.fslot with
       | none => s
       | some i =>
         let s := s.onCkpt fun m =>
           { m with fslot := none, flash := SMap.ins m.flash i (true, false, false, id), flashMem := SMap.ins m.flashMem i img }
         let n := (s.serving.map fun k => s.copied k.val).sum
         let s := (s.bump F.FLASH_CNT_WR n).setFld F.FLASH_STAT_VALID (s.fld F.FLASH_STAT_VALID + 1)
         (s.raise 0x08 0 0).layerEnd 3 true)
    | _ => s.onCkpt fun m => { m with storeMem := img, storeId := some id, stored := true }

/-- CKPT_CMD STORE_DURABLE (R381). -/
def State.storeDurable (s : State) : State :=
  if s.layer 4 = 1 ∧ s.ckpt.stored then s.layerEnd 4 true else s

/-! ### The stop (R376-R378) -/

/-- Write back every cached Q-descriptor, reduction descriptor and Sound context (R377); stream records are written at
each publication (R206). -/
def State.writeBackAll (s : State) : State :=
  let s := s.each s.serving fun s k =>
    let s := ((s.atl k).vec.qcache.filter QCache.dirty).foldl (fun s c => s.qWriteBack k c) s
    let s := s.onVec k fun v => { v with qcache := v.qcache.map fun c => { c with dirty := false } }
    ((s.atl k).step.red.map Prod.fst).foldl (fun s i => s.redWriteBack k i) s
  s.each s.sound.cache fun s e => s.vPut (s.home e.1) (s.ctxAddr e.1) 128 e.2

/-- An arm is refused with `cause` (R376). -/
def State.armRefused (s : State) (cause : Nat) : State :=
  ((s.setFld F.CKPT_STAT_CAUSE cause).bump F.CKPT_CNT_REFUSED).raise 0x09 0 1

/-- Why an arm starts nothing; the lowest cause where several hold (R376) (log 75: DESIGN CHOICE, unsafe). -/
def State.armCause (s : State) (l : List Piece) (mapped : Bool) : Option Nat :=
  let copying := [2, 3, 4].any fun l => s.layer l == 1
  if s.ckpt.stop.isSome then some 1
  else if copying && !s.flag F.CKPT_CTL_SUPERSEDE then some 2
  else if s.ckpt.restore.isSome then some 3
  else if s.protOverflow l then some 4
  else if !mapped then some 5
  else none

/-- The stop begins: the shares are copied, the layers of the new checkpoint are NONE (R376-R379) (log 75: DESIGN
CHOICE, unsafe). -/
def State.stopBegin (s : State) (l : List Piece) : State :=
  let s := s.failLayers.writeBackAll
  let id := s.tideNo
  let s := s.setFld F.CKPT_ID_ID id
  let s := s.each [2, 3, 4] fun s l => s.setFld (layerFld l) 0
  let s := ((s.setFld (layerFld 1) 1).setFld F.CKPT_STAT_STATE 1).setFld F.CKPT_STAT_CO_FED 0
  let s := ((s.setFld F.CKPT_STAT_SAFE 0).setFld F.CKPT_STAT_DEEPEST 0).bump F.CKPT_CNT_SNAP
  let s := s.choosePartner
  let pmax := (s.serving.map fun k => shareBytes (sharePieces l k.val)).foldl max 0
  let s := s.each s.serving fun s k => s.writeShare id l k.val
  s.onCkpt fun m => { m with stop := some ⟨s.now, 40000 + (2240000 * 8 * pmax + 2 ^ 40 - 1) / 2 ^ 40, pmax⟩ }

/-- Step 7 of R45: an applied CKPT_ARM.GO begins a stop, or is refused (R376). -/
def State.snapArm (s : State) : State :=
  if s.fld F.CKPT_ARM_GO = 0 then s
  else
    let s := { s.setFld F.CKPT_ARM_GO 0 with staged := SMap.del s.staged R.CKPT_ARM }
    let (l, mapped) := s.protPieces
    match s.armCause l mapped with
    | some c => s.armRefused c
    | none => s.stopBegin l

/-- Requests that waited in a channel's hold for the stop's end proceed (log 60: DEDUCED, safe). -/
def State.releaseHolds (s : State) : State :=
  s.each allAtolls fun s k =>
    (((s.atl k).mc.chans.filter fun e => !e.2.hold.isEmpty).map Prod.fst).foldl (fun s c => s.drainHold k c) s

/-- Closes whose slack fell in the stop are taken at its end, over the contributions landed by then (R377). -/
def State.stoppedCloses (s : State) : State :=
  s.each s.serving fun s k => ((s.atl k).step.red.map Prod.fst).foldl (fun s i => s.comeToClose k i true) s

/-- A slack at which every share is complete ends the stop: STACKS is DONE and the layers begin, or wait for the harbour
(R377, R379, R384). -/
def State.stopEnd (s : State) : State :=
  match s.ckpt.stop with
  | none => s
  | some x =>
    if s.now < x.begun + x.len then s
    else
      let s := s.onCkpt fun m => { m with stop := none }
      let s := (s.setFld F.CKPT_STOP_LAST_CYCLES x.len).setFld F.CKPT_STOP_LAST_TIDES ((x.len + s.tideLen - 1) / s.tideLen)
      let s := ((s.setFld F.CKPT_PMAX_BYTES x.pmax).setFld F.CKPT_STAT_STATE 0).raise 0x09 0 0
      let s := (s.layerEnd 1 true).landLater.releaseHolds.memDrain.stoppedCloses
      if s.hosted 0x09 0 0 then (s.raise 0x09 0 6).awaitHost 0x09 0 0 0 else s.startLayers

/-- A harbour that named its partner since is answered at a slack (R383). -/
def State.partnerSlack (s : State) : State :=
  if !s.ckpt.needs ∨ !s.hosted 0x09 0 1 then s
  else match s.hostPartner with
    | none => s
    | some i =>
      let s := (s.answered 0x09 0 1 0).setPartner true (some i)
      if s.ckpt.asked then s.startLayer 2 else s

/-! ### Restoring pieces (R385) -/

/-- Write a piece's bytes back through the current translations; none where its VA does not translate. -/
def State.putPiece (s : State) (p : Piece) (bs : List Byte) : Option State :=
  (s.rangePages (s.pieceVia p) p.va p.len true).map fun l =>
    l.foldl (fun s e => (s.devWrite e.2.1 ((bs.drop (e.1 - p.va)).take e.2.2)).1) s

/-- A flash page of slot `i` is found uncorrectable: the slot is invalid, and FLASH_ERR is raised (R391). -/
def State.flashBad (s : State) (i : Nat) : State :=
  let f := s.flashSlot i
  let s := if f.1 then s.setFld F.FLASH_STAT_VALID (s.fld F.FLASH_STAT_VALID - 1) else s
  let s := s.onCkpt fun m => { m with flash := SMap.ins m.flash i (false, f.2) }
  (s.bump F.FLASH_CNT_ERR).raise 0x08 0 2

/-- Read a piece from a layer, flash reads counted; none where a flash page of it is found uncorrectable, which is a
free value (R391). -/
def State.readPiece (s : State) (l slot : Nat) (p : Piece) : Option (List Byte) × State :=
  let bs := s.pieceBytes l slot p
  if l ≠ 3 then (some bs, s)
  else
    let (i, s) := (s.bump F.FLASH_CNT_RD p.len).fresh
    if Config.freeBits 1 i = 1 then (none, s.flashBad slot) else (some bs, s)

/-- Load a piece again from the deeper layers that hold the same ID, in turn until its digest agrees (R385). -/
def State.reload (s : State) (id : Nat) (p : Piece) : List Nat → State × Bool
  | [] => (s, false)
  | l :: ls =>
    match (s.layerHas l id).bind fun slot =>
        ((s.layerPieces l slot id).find? fun q => q.tensor == p.tensor && q.va == p.va && q.len == p.len).map (slot, ·) with
    | none => State.reload s id p ls
    | some (slot, q) =>
      let (bs, s) := s.readPiece l slot q
      let s := (s.putPiece p (bs.getD [])).getD s
      if bs.any p.holds then (s, true) else State.reload s id p ls

/-- Layers deeper than `l`. -/
def deeper (l : Nat) : List Nat := [2, 3, 4].filter fun x => decide (l < x)

/-- LOAD and the first half of CHECK for one piece: loaded, and loaded again where its own digest differs or its flash
page is lost (R385, R391); the truth value tells whether it translated. -/
def State.loadPiece (s : State) (src slot id : Nat) (p : Piece) : State × Bool :=
  let (bs, s) := s.readPiece src slot p
  match s.putPiece p (bs.getD []) with
  | none => (s.bump F.CKPT_CNT_UNMAPPED, false)
  | some s =>
    if bs.any p.holds then (s, true)
    else
      let (s, ok) := s.reload id p (deeper src)
      (if ok then s else s.bump F.CKPT_CNT_BAD, true)

/-! ### Realignment (R387) -/

/-- A stream record out of step: its atoll, address and expected counter. -/
abbrev Realign := Atoll × Nat × Nat

/-- Records of the loaded stream pieces whose counter differs from what the cursor gives. -/
def State.misaligned (s : State) (l : List Piece) : List Realign :=
  if s.fld F.CKPT_CURSOR_BASE_ADDR = 0 then []
  else l.flatMap fun p =>
    let k := s.pieceVia p
    let first := (l.filter fun q => q.tensor == p.tensor).foldl (fun a q => min a q.va) p.va
    (List.range (p.len / 32)).filterMap fun i =>
      let a := p.va + 32 * i
      let n := 4096 * k.val + (a - first) / 32
      match (s.vRead k a 32).1, (s.vRead s.hub (s.fld F.CKPT_CURSOR_BASE_ADDR + 16 * n) 16).1 with
      | .ok r, .ok c =>
        let r := ofBytes r
        let c := ofBytes c
        let want := (byteFld c 8 8 + byteFld r 24 4 * byteFld c 0 8) % 2 ^ 64
        if byteFld r 24 4 ≠ 0 ∧ byteFld r 16 8 ≠ want then some (k, a, want) else none
      | _, _ => none

/-- Set the counters to their expected values. -/
def State.realignAll (s : State) (l : List Realign) : State :=
  (l.foldl (fun s e => (s.vWrite e.1 (e.2.1 + 16) (bytesOf 8 e.2.2)).2) s).bump F.CKPT_CNT_REALIGN l.length

/-! ### The course of a restore (R385-R387) -/

/-- ID of the checkpoint a restore's source holds. -/
def State.sourceId (s : State) (src slot : Nat) : Option Nat :=
  match src with
  | 1 => if s.layer 1 = 2 then some (s.fld F.CKPT_ID_ID) else none
  | 2 => if Cx.isOpen (s.ctxPeek (s.fld F.CKPT_PCTX_CTX)) then s.ckpt.partId else none
  | 3 => let f := s.flashSlot slot; if f.1 then some f.2.2.2 else none
  | 4 => s.ckpt.storeId
  | _ => none

def State.onRestore (s : State) (f : RestoreSt → RestoreSt) : State :=
  s.onCkpt fun m => { m with restore := m.restore.map f }

/-- The replica context is there to compare with (R386). -/
def State.replicaOpen (s : State) : Bool :=
  let c := s.fld F.CKPT_RCTX_CTX
  c != 0 && s.ctxExists c && Cx.isOpen (s.ctxPeek c)

/-- CKPT_CMD RESTORE (R385): every piece is loaded and checked, and the replica asked for those marked COMPARE. -/
def State.restoreCmd (s : State) (src slot : Nat) : State :=
  let busy := allAtolls.any fun k => (s.atl k).seq.entry.isSome
  let refuse (s : State) : State := (s.setFld F.CKPT_STAT_CAUSE 1).raise 0x09 0 1
  if !s.ready ∨ s.ckpt.stop.isSome ∨ s.ckpt.restore.isSome ∨ busy then refuse s
  else match s.sourceId src slot with
    | none => refuse s
    | some id =>
      let s := (s.onCkpt fun m => { m with restore := some ⟨src, slot, id, [], [], [], false⟩ }).setFld F.CKPT_STAT_STATE 3
      let s := if src = 3 then s.onCkpt fun m => { m with flash := SMap.ins m.flash slot (true, false, true, id) } else s
      let s := s.each (s.layerPieces src slot id) fun s p =>
        match s.loadPiece src slot id p with
        | (s, false) => s
        | (s, true) =>
          let s := if 0xFFFFFFF0 ≤ p.tensor ∧ p.tensor < 0xFFFFFFF8
            then s.onRestore fun r => { r with streams := r.streams ++ [p] } else s
          if !p.cmp then s
          else if s.replicaOpen then
            (s.sendBytes s.hub (s.fld F.CKPT_RCTX_CTX) (p.question id) 0 userAsk).onRestore fun r =>
              { r with waiting := r.waiting ++ [p] }
          else s.bump F.CKPT_CNT_UNCHECKED
      if s.ckpt.restore.any fun r => !r.waiting.isEmpty then s.setFld F.CKPT_STAT_STATE 4 else s

/-- REALIGN (R387): at once in self mode, held for the harbour in host mode. -/
def State.realignStep (s : State) : State :=
  match s.ckpt.restore with
  | none => s
  | some r =>
    let l := s.misaligned r.streams
    if !l.isEmpty && s.hosted 0x09 0 3 then
      let s := (s.onRestore fun r => { r with realign := true }).setFld F.CKPT_STAT_STATE 6
      (s.raise 0x09 0 9).awaitHost 0x09 0 3 0
    else (s.realignAll l).setFld F.CKPT_STAT_STATE 5

/-- The restore ends, committed or not (R385): plan entries and REDUCEs go on; what the atolls cache of the memory it
wrote is dropped (log 70: DEDUCED, unsafe). -/
def State.restoreEnd (s : State) : State :=
  let s := { s with waits := s.waits.filter fun w => !(w.page == 9 && (w.bit == 2 || w.bit == 3)) }
  let s := s.onCkpt fun m =>
    { m with
      restore := none
      flash := m.flash.map fun e => (e.1, e.2.1, e.2.2.1, false, e.2.2.2.2) }
  let s := s.each allAtolls fun s k => s.onVec k fun v => { v with qcache := [], gcg := [] }
  (((s.setFld F.CKPT_STAT_STATE 0).trickle).raise 0x09 0 10).each allAtolls State.reduceWaiting

/-- After a comparison is resolved: CHECK goes on, is held, or gives way to REALIGN. -/
def State.checkNext (s : State) : State :=
  match s.ckpt.restore with
  | none => s
  | some r =>
    if !r.held.isEmpty then s.setFld F.CKPT_STAT_STATE 6
    else if !r.waiting.isEmpty then s.setFld F.CKPT_STAT_STATE 4
    else s.realignStep

/-- A mismatch resolved by the next deeper own layer, if there is one (R386). -/
def State.mendNext (s : State) (r : RestoreSt) (p : Piece) : State := (s.reload r.id p (deeper r.src)).1

/-- A mismatch resolved by the replica's bytes, accepted only if they have its digest (R386). -/
def State.mendFetch (s : State) (p : Piece) (x : ReplicaInfo) : Option State :=
  if digest128 x.bytes = x.digest ∧ x.bytes.length = p.len then s.putPiece p x.bytes else none

/-- The self rule for a mismatch (R386). -/
def State.mendSelf (s : State) (r : RestoreSt) (p : Piece) (x : ReplicaInfo) : State :=
  if x.passed then (s.mendFetch p x).getD (s.mendNext r p) else s.mendNext r p

/-- REPLICA_ANSWER (R386). -/
def State.replicaAnswer (s : State) (x : ReplicaInfo) : State :=
  match s.ckpt.restore with
  | none => s
  | some r =>
    match r.waiting.find? fun p => p.tensor == x.tensor.toNat && p.len == x.len with
    | none => s
    | some p =>
      let s := s.onRestore fun r => { r with waiting := r.waiting.erase p }
      if p.digest = x.digest.toNat then s.checkNext
      else
        let s := (s.bump F.CKPT_CNT_MISMATCH).raise 0x09 0 8
        if s.hosted 0x09 0 2 then
          let s := s.onRestore fun r => { r with held := r.held ++ [(p, x)] }
          ((s.raise 0x09 0 9).awaitHost 0x09 0 2 (p.share * 2 ^ 64 + p.off)).checkNext
        else (s.mendSelf r p x).checkNext

/-- The oldest mismatch held is resolved by `f` (R386). -/
def State.answerMismatch (s : State) (f : State → RestoreSt → Piece → ReplicaInfo → State) : State :=
  match s.ckpt.restore with
  | some r =>
    (match r.held with
     | (p, x) :: rest =>
       let s := (s.answered 0x09 0 2 (p.share * 2 ^ 64 + p.off)).onRestore fun r => { r with held := rest }
       (f s r p x).checkNext
     | [] => s)
  | none => s

/-- REALIGN and KEEP of a held realignment (R387). -/
def State.answerRealign (s : State) (keep : Bool) : State :=
  match s.ckpt.restore with
  | some r =>
    if !r.realign then s
    else
      let s := (s.answered 0x09 0 3 0).onRestore fun r => { r with realign := false }
      (if keep then s else s.realignAll (s.misaligned r.streams)).setFld F.CKPT_STAT_STATE 5
  | none => s

/-- RESTORE_DONE (R385): pieces without a partner stay UNCHECKED, the streams are realigned, and the restore commits
unless it is held. -/
def State.restoreDone (s : State) : State :=
  match s.ckpt.restore with
  | none => s
  | some r =>
    if !r.held.isEmpty ∨ r.realign then s
    else if s.fld F.CKPT_STAT_STATE = 5 then s.restoreEnd
    else
      let s := (s.bump F.CKPT_CNT_UNCHECKED r.waiting.length).onRestore fun r => { r with waiting := [] }
      let s := s.realignStep
      if s.fld F.CKPT_STAT_STATE = 5 then s.restoreEnd else s

/-- CKPT_CMD (R388): a command that does not fit the state is ignored. -/
def State.ckptCmd (s : State) (cmd src slot : Nat) : State :=
  match cmd with
  | 1 => s.layerCmd 2
  | 2 => s.layerCmd 3
  | 3 => s.layerCmd 4
  | 4 => s.storeDurable
  | 5 => s.restoreCmd src slot
  | 6 => s.answerRealign false
  | 7 => s.answerRealign true
  | 8 => if s.ckpt.restore.isSome then s.restoreEnd else s
  | 9 => s.answerMismatch fun s _ p x => (s.mendFetch p x).getD s
  | 10 => s.answerMismatch fun s r p _ => s.mendNext r p
  | 11 => s.answerMismatch fun s _ _ _ => s
  | _ => s

/-- The self rule of HOST bit `b` of the CKPT page (R383, R384, R386, R387). -/
def State.ckptFallback (s : State) (b : Nat) : State :=
  match b with
  | 0 => (s.answered 0x09 0 0 0).startLayers
  | 1 =>
    let s := (s.answered 0x09 0 1 0).setPartner false s.selfPartner
    if s.ckpt.asked then s.startLayer 2 else s
  | 2 => s.answerMismatch State.mendSelf
  | _ => s.answerRealign false

/-- FLASH_SLOT_SIZE changed at a slack: every slot is invalid (R391). -/
def State.slotsErased (s : State) : State :=
  let n := 130048 / max 1 (s.fld F.FLASH_SLOT_SIZE_SIZE)
  let s := s.onCkpt fun m => { m with flash := [], flashMem := [] }
  ((s.setFld F.FLASH_STAT_VALID 0).setFld F.FLASH_STAT_SLOTS n).raise 0x08 0 1

/-! ### Commands -/

/-- Code of a layer above STACKS. -/
def layerCode : Layer → Nat
  | .partner => 2
  | .flash => 3
  | .store => 4

/-- LAYER_DONE (R379-R381). -/
def execLayerDone (l : Layer) (ok : Bool) (s : State) : Outcome State Fault Refusal := .next (s.layerDone (layerCode l) ok)

/-- REPLICA_ANSWER (R386). -/
def execReplicaAnswer (r : ReplicaInfo) (s : State) : Outcome State Fault Refusal := .next (s.replicaAnswer r)

/-- RESTORE_DONE (R385). -/
def execRestoreDone (s : State) : Outcome State Fault Refusal := .next s.restoreDone

end Sys2Proof.Machine
end

