-- ==== Sys2Proof/Machine/Rules.lean ====
section
/-! DEFINITION. Staged copies (03_control_pages.md R71) and the consistency checker (R72, R80): the state as a ticket would
leave it, every rule of the catalogue, and the first one that fails. -/

namespace Sys2Proof.Machine

/-! ### Bindings and staged copies (R71) -/

/-- The ticket page `p` (directory index) is bound to. -/
def State.boundTo (s : State) (p : Nat) : Option Nat :=
  let b := pageBase (pageOfIx p).1 (pageOfIx p).2
  if s.flag (F.PG_STAGE_STAT_BOUND b) then some (s.fld (F.PG_STAGE_STAT_TICKET b)) else none

/-- Pages bound to ticket `t`, in directory order. -/
def State.pagesOf (s : State) (t : Nat) : List Nat := (List.range 169).filter fun p => s.boundTo p == some t

/-- Bits of the ST fields of the register at window offset `a` (R10). -/
def stMask (a : Nat) : Nat :=
  match regAt (a / 0x100000) (a % 0x1000) with | some d => d.st | none => 0

/-- Bits no field of the register at `a` assigns. -/
def reservedMask (a : Nat) : Nat :=
  match regAt (a / 0x100000) (a % 0x1000) with | some d => (2 ^ 64 - 1) ^^^ d.all | none => 2 ^ 64 - 1

/-- Staged copy of the register at `a`: what was staged since its page was bound, else its live value. -/
def State.stagedRd (s : State) (a : Nat) : Nat := ((SMap.find s.staged a).map BitVec.toNat).getD (s.rd a &&& stMask a)

/-- The live register at `a` with the ST bits of `v`. -/
def State.withStaged (s : State) (a v : Nat) : Nat := (s.rd a &&& ((2 ^ 64 - 1) ^^^ stMask a)) ||| (v &&& stMask a)

/-- Window offset `a` lies on page `p`. -/
def onPage (p a : Nat) : Bool := a / 0x1000 * 0x1000 == pageBase (pageOfIx p).1 (pageOfIx p).2

/-- Staged registers of the pages of ticket `t`: window offset and value. -/
def State.stagedOf (s : State) (t : Nat) : List (Nat × Nat) :=
  let ps := s.pagesOf t
  (s.staged.filter fun e => ps.any fun p => onPage p e.1).map fun e => (e.1, e.2.toNat)

/-- The state as it would stand if ticket `t` applied now (R72): live values, overlaid with its staged values. -/
def State.overlay (s : State) (t : Nat) : State := s.each (s.stagedOf t) fun s e => s.wr e.1 (s.withStaged e.1 e.2)

/-- The ticket has board scope. -/
def State.boardScope (s : State) (t : Nat) : Bool := t == 2 || s.fld (F.COMMIT_OPT_SCOPE t) == 1

/-- Records of a board ticket (R77): one for each 32-bit word of each register staged since its page was bound. -/
def State.ticketRecords (s : State) (t : Nat) : List CommitRecord :=
  (s.stagedOf t).flatMap fun e =>
    let c := e.1 / 0x100000
    let i := e.1 % 0x100000 / 0x1000
    let off := e.1 % 0x1000
    let rec' (o v : Nat) : CommitRecord := ⟨BitVec.ofNat 8 c, BitVec.ofNat 8 i, BitVec.ofNat 11 o, BitVec.ofNat 32 v⟩
    match regAt c off with
    | some d => if d.wide then [rec' off e.2, rec' (off + 4) (e.2 / 2 ^ 32)] else [rec' off e.2]
    | none => []

/-! ### Rules -/

/-- First failing operand: class, instance, offset. -/
abbrev Hit := Nat × Nat × Nat

/-- A rule reads the live state, the state as the ticket would leave it, and the ticket. -/
abbrev Rule := State → State → Nat → Option Hit

/-- Bound pages of class `c` in service, by instance: a page out of service holds nothing for its rules (R61). -/
def State.boundIn (s : State) (t c : Nat) : List Nat :=
  ((s.pagesOf t).filter fun p => (pageOfIx p).1 == c && !s.pageLost c (pageOfIx p).2).map fun p => (pageOfIx p).2

/-- A rule of each bound page of class `c`: the offset that fails. -/
def perPage (c : Nat) (f : State → State → Nat → Nat → Option Nat) : Rule :=
  fun s o t => (s.boundIn t c).findSome? fun i => (f s o t i).map fun off => (c, i, off)

/-- A rule that takes the instances of class `c` together (log 72: DEDUCED, unsafe). -/
def together (c : Nat) (f : State → State → Option Hit) : Rule :=
  fun s o t => if (s.pagesOf t).any fun p => (pageOfIx p).1 == c then f s o else none

/-- `off` where the condition holds. -/
def failAt (off : Nat) (b : Bool) : Option Nat := if b then some off else none

/-- The register at `a` would change (log 72: DEDUCED, unsafe). -/
def changes (s o : State) (a : Nat) : Bool := s.rd a != o.rd a

/-- Value out of a closed range. -/
def outside (lo hi v : Nat) : Bool := decide (v < lo ∨ hi < v)

/-- Two ranges of bytes overlap. -/
def overlap (a n b m : Nat) : Bool := decide (0 < n ∧ 0 < m ∧ a < b + m ∧ b < a + n)

/-! #### TIDE, PWR, THERM, AGE, RST, FLASH, MGMT -/

def rule0103 (s o : State) (t _ : Nat) : Option Nat :=
  if s.boardScope t ∨ s.boardPeers.isEmpty then none
  else [0x80, 0x88, 0x84, 0xA0, 0x10].find? fun off => changes s o (pageBase 1 0 + off)

def tideRules : List (Nat × Rule) :=
  [(0x0101, perPage 1 fun _ o _ _ => failAt 0x80 (outside 2500 1000000 (o.fld F.TIDE_LEN_LEN))),
   (0x0102, perPage 1 fun _ o _ _ => failAt 0x88 (outside 0 25 (o.fld F.TIDE_GRACE_PCT))),
   (0x0103, perPage 1 rule0103)]

def rule0301 (_ o : State) (_ _ : Nat) : Option Nat :=
  let w := o.fld F.PWR_CAP_WATTS
  if outside 1200 4500 w || w % 25 != 0 then some 0x80
  else failAt 0x84 (outside 1 32 (o.fld F.PWR_POLICY_OVER_TOL) || outside 10 60 (o.fld F.PWR_POLICY_DROOP_MV))

def powerRules : List (Nat × Rule) :=
  [(0x0301, perPage 3 rule0301),
   (0x0401, perPage 4 fun _ o _ _ =>
     failAt 0x80 (outside 70 100 (o.fld F.THERM_LIM_THROTTLE) || outside 70 95 (o.fld F.THERM_LIM_STACK_THR))),
   (0x0501, perPage 5 fun _ o _ _ =>
     let b := o.fld F.AGE_GUARD_BASE_MV
     let w := o.fld F.AGE_GUARD_WORST_MV
     failAt 0x84 (decide (w < b ∨ 100 < w)))]

def resetRules : List (Nat × Rule) :=
  [(0x0601, perPage 6 fun _ o _ _ => failAt 0xB4 (decide (o.fld F.RST_WDOG_PERIOD < 16))),
   (0x0602, perPage 6 fun s o _ _ => failAt 0xBC (o.flag F.RST_SLOT_VALID && s.boardPeers.contains (o.fld F.RST_SLOT_SLOT)))]

def rule0801 (s o : State) : Option Hit :=
  let v := o.fld F.FLASH_SLOT_SIZE_SIZE
  let busy := s.ckpt.flash.any fun e => e.2.2.1 || e.2.2.2.1
  if v < 2 ∨ v < s.serving.length * o.fld F.CKPT_SNAP_SIZE_SIZE ∨ 130048 < v ∨ (changes s o R.FLASH_SLOT_SIZE && busy)
  then some (0x08, 0, 0x80) else none

/-- Static addresses the I3C rules reserve (R445). -/
def badStatic (a : Nat) : Bool := a ≤ 7 || 0x78 ≤ a || [0x3E, 0x5E, 0x6E, 0x76].contains a

/-! #### CKPT -/

/-- A share of `size` bytes at local offset `ofs` lies outside allocatable memory on an atoll in service (R22, R457). -/
def State.shareOut (s : State) (ofs size : Nat) : Bool :=
  size != 0 && s.serving.any fun k => decide (s.fld (F.MC_ALLOC_TOP_TOP k) < ofs + size)

def rule0901 (s o : State) (_ _ : Nat) : Option Nat :=
  let a := o.fld F.CKPT_SNAP_OFS_OFS * 2 ^ 26
  let b := o.fld F.CKPT_PART_OFS_OFS * 2 ^ 26
  let n := o.fld F.CKPT_PART_SIZE_SIZE * 2 ^ 26
  if s.shareOut a o.snapSize then some 0x88
  else if s.shareOut b n then some 0x98
  else failAt 0x88 (overlap a o.snapSize b n)

def rule0902 (_ o : State) (_ _ : Nat) : Option Nat :=
  match o.protList with
  | none => some 0xA8
  | some l =>
    if l.any protBad then some 0xA8
    else
      let (ps, mapped) := o.protPieces
      if !l.isEmpty && !mapped then some 0xA8
      else failAt 0x90 (o.snapSize != 0 && o.protOverflow ps)

def rule0903 (s o : State) (_ _ : Nat) : Option Nat :=
  if s.fld F.CKPT_STAT_STATE = 0 then none
  else [0x88, 0x90, 0x98, 0xA0, 0xA8, 0xB0, 0xB8, 0xD0, 0xD4].find? fun off => changes s o (pageBase 9 0 + off)

def rule0904 (_ o : State) (_ _ : Nat) : Option Nat :=
  let l := o.fld F.CKPT_CTL_LAYERS
  failAt 0x80 ((l.testBit 0 && o.fld F.CKPT_PCTX_CTX == 0) || (l.testBit 2 && o.fld F.CKPT_STORE_LEN_BYTES == 0))

def ckptRules : List (Nat × Rule) :=
  [(0x0801, fun s o t => (together 8 rule0801 s o t).orElse fun _ => together 9 rule0801 s o t),
   (0x0901, perPage 9 rule0901), (0x0902, perPage 9 rule0902), (0x0903, perPage 9 rule0903),
   (0x0904, perPage 9 rule0904),
   (0x0A01, perPage 0x0A fun _ o _ _ => failAt 0x80 (badStatic (o.fld F.MGMT_ADDR_STATIC)))]

/-! #### HBR -/

/-- Enabled completion rings whose LOG2 is legal: base and bytes. -/
def State.rings (o : State) : List (Nat × Nat × Nat) :=
  (List.range 8).filterMap fun k =>
    let l := o.fld (F.HBR_CR_SIZE_LOG2 k)
    if o.flag (F.HBR_CR_SIZE_EN k) ∧ 10 ≤ l ∧ l ≤ 16 then some (k, o.fld (F.HBR_CR_BASE_BASE k), 64 * 2 ^ l) else none

def rule0B01 (s o : State) (_ _ : Nat) : Option Nat :=
  (List.range 8).findSome? fun k =>
    if s.fld (F.HBR_CR_HEAD_HEAD k) = s.fld (F.HBR_CR_TAIL_TAIL k) then none
    else ([R.HBR_CR_BASE k, R.HBR_CR_SIZE k].find? fun a => changes s o a).map fun a => a % 0x1000

def rule0B02 (s o : State) (_ _ : Nat) : Option Nat :=
  ((List.range 8).findSome? fun k =>
    if o.flag (F.HBR_CR_SIZE_EN k) && outside 10 16 (o.fld (F.HBR_CR_SIZE_LOG2 k)) then some (R.HBR_CR_SIZE k % 0x1000) else none).orElse
  fun _ => o.rings.findSome? fun e =>
    if e.2.1 % e.2.2 ≠ 0 ∨ s.carveSize < e.2.1 + e.2.2 then some (R.HBR_CR_BASE e.1 % 0x1000) else none

def rule0B03 (s o : State) (_ _ : Nat) : Option Nat :=
  let q := o.fld F.HBR_QREGION_BASE * 2 ^ 25
  failAt 0x80 (decide (s.carveSize < q + 2 ^ 25) || o.rings.any fun e => overlap q (2 ^ 25) e.2.1 e.2.2)

def rule0B04 (s o : State) (_ _ : Nat) : Option Nat :=
  failAt 0x80 (changes s o R.HBR_QREGION &&
    (List.range 128).any fun n => s.fld (F.HBR_QSTAT_HEAD n) != s.fld (F.HBR_QSTAT_TAIL n))

def harbourRules : List (Nat × Rule) :=
  [(0x0B01, perPage 0x0B rule0B01), (0x0B02, perPage 0x0B rule0B02), (0x0B03, perPage 0x0B rule0B03),
   (0x0B04, perPage 0x0B rule0B04)]

/-! #### FEED, COVE, VEC -/

/-- ROLE of an atoll; none where it is out of service (R61). -/
def State.role (s o : State) (k : Nat) : Nat := if s.inService k then o.fld (F.FEED_FERRY_ROLE k) else 0

/-- Atolls of the ferry chain from atoll `k` on, clockwise, to TAIL; none where it breaks (R125). -/
def State.chainFrom (s o : State) : Nat → Nat → Except Nat (List Nat)
  | 0, k => .error k
  | fuel + 1, k =>
    let r := s.role o k
    if r = 3 then .ok [k]
    else if r = 2 then (match State.chainFrom s o fuel ((k + 1) % 8) with | .ok l => .ok (k :: l) | .error e => .error e)
    else .error k

def rule1201 (s o : State) : Option Hit :=
  let on := (List.range 8).filter fun k => s.role o k != 0
  let heads := on.filter fun k => s.role o k == 1
  match on, heads with
  | [], _ => none
  | k :: _, [] => some (0x12, k, 0x80)
  | _, [h] =>
    (match s.chainFrom o 8 ((h + 1) % 8) with
     | .error k => some (0x12, k, 0x80)
     | .ok l => (on.find? fun k => k != h && !l.contains k).map fun k => (0x12, k, 0x80))
  | _, _ :: h :: _ => some (0x12, h, 0x80)

/-- The first FEED page, ascending, that satisfies `f`. -/
def feedHit (f : Nat → Bool) : Option Hit := ((List.range 8).find? f).map fun k => (0x12, k, 0x80)

def rule1202 (s o : State) : Option Hit :=
  feedHit fun k => (o.flag (F.FEED_FERRY_PEER_EN k) && s.role o k != 3) || (o.flag (F.FEED_FERRY_SRC_PEER k) && s.role o k != 1)

def rule1203 (s o : State) : Option Hit :=
  feedHit fun k => o.flag (F.FEED_FERRY_PEER_EN k) && !s.boardPeers.contains (o.fld (F.FEED_FERRY_PEER_SLOT k))

def rule1204 (s o : State) : Option Hit :=
  feedHit fun k => changes s o (R.FEED_FERRY k) &&
    (s.fld (F.FEED_FERRY_STAT_OUT_PEND k) != 0 || s.fld (F.FEED_FERRY_STAT_ARRIVING k) != 0)

/-- Weight-gradient entries with LEN not 0 of atoll `k`'s table; none where it cannot be read (R72, R243). -/
def State.wgdTable (o : State) (k : Atoll) : Option (List (Nat × Nat)) :=
  (List.range (o.fld (F.COVE_WGD_COUNT_COUNT k))).foldr (fun i acc =>
    match acc, (o.vRead k (o.fld (F.COVE_WGD_BASE_ADDR k) + 16 * i) 16).1 with
    | some l, .ok bs => let w := ofBytes bs; some (if byteFld w 8 6 = 0 then l else (bits w 51 0, byteFld w 8 6) :: l)
    | _, _ => none) (some [])

/-- Some two entries of a list overlap. -/
def anyOverlap : List (Nat × Nat) → Bool
  | [] => false
  | e :: l => l.any (fun x => overlap e.1 e.2 x.1 x.2) || anyOverlap l

def rule1301 (s o : State) : Option Hit :=
  let tabs := s.serving.map fun k => (k, o.wgdTable k)
  match tabs.find? fun e => e.2.isNone with
  | some e => some (0x13, e.1, 0x88)
  | none =>
    let upTo (n : Nat) : List (Nat × Nat) := (tabs.take n).flatMap fun e => e.2.getD []
    ((List.range tabs.length).find? fun n => anyOverlap (upTo (n + 1))).map fun n =>
      (0x13, ((tabs[n]?).map fun e => e.1.val).getD 0, 0x88)

def rule1403 (s o : State) (_ i : Nat) : Option Nat :=
  let held := ((s.atl (atollOf i)).seq.slice.map fun x => !x.gcg.isEmpty).getD false
  failAt (if changes s o (R.VEC_GCG_BASE i) then 0x88 else 0x90)
    (held && (changes s o (R.VEC_GCG_BASE i) || changes s o (R.VEC_GCG i)))

def unitRules : List (Nat × Rule) :=
  [(0x1201, together 0x12 rule1201), (0x1202, together 0x12 rule1202), (0x1203, together 0x12 rule1203),
   (0x1204, together 0x12 rule1204), (0x1301, together 0x13 rule1301),
   (0x1302, perPage 0x13 fun _ o _ i => failAt 0x88 (o.fld (F.COVE_WGD_COUNT_COUNT i) != 0 && o.fld (F.COVE_WGD_BASE_ADDR i) % 16 != 0)),
   (0x1303, perPage 0x13 fun _ o _ i => failAt 0x90 (outside 0 1024 (o.fld (F.COVE_WGD_COUNT_COUNT i)))),
   (0x1401, perPage 0x14 fun _ o _ i => failAt 0x88 (o.fld (F.VEC_GCG_COUNT i) != 0 && o.fld (F.VEC_GCG_BASE_ADDR i) % 32 != 0)),
   (0x1402, perPage 0x14 fun _ o _ i => failAt 0x90 (outside 0 4096 (o.fld (F.VEC_GCG_COUNT i)))),
   (0x1403, perPage 0x14 rule1403)]

/-! #### STRM, XLAT, STEP, MC, CWY -/

/-- Some position of the wheel holds code `c`. -/
def wheelHas (w c : Nat) : Bool := (List.range 16).any fun p => wheelAt w p == c

/-- Records of atoll `k`'s edit list; none where it cannot be read (R295). -/
def State.editList (o : State) (k : Atoll) : Option (List EditRec) :=
  (List.range (o.fld (F.XLAT_EDIT_COUNT_COUNT k))).foldr (fun i acc =>
    match acc, (o.vRead k (o.fld (F.XLAT_EDIT_BASE_ADDR k) + 32 * i) 32).1 with
    | some l, .ok bs => let w := ofBytes bs; some (⟨byteFld w 0 8, byteFld w 8 8, byteFld w 16 8, byteFld w 24 8⟩ :: l)
    | _, _ => none) (some [])

/-- Frames of atoll `k`'s pool list; none where it cannot be read (R297). -/
def State.poolList (o : State) (k : Atoll) : Option (List Nat) :=
  (List.range (o.fld (F.XLAT_POOL_COUNT_COUNT k))).foldr (fun i acc =>
    match acc, (o.vRead k (o.fld (F.XLAT_POOL_BASE_ADDR k) + 8 * i) 8).1 with
    | some l, .ok bs => some (ofBytes bs :: l)
    | _, _ => none) (some [])

/-- What the records of a list would write, each over what those before it wrote: the entries, latest first, and whether
every record can be written (R295). -/
def State.editPlan (o : State) (k : Atoll) (l : List EditRec) : List (Nat × Nat) × Bool :=
  l.foldl (fun (x : List (Nat × Nat) × Bool) e =>
    let read (a : Nat) : Option Nat :=
      match x.1.find? fun y => y.1 == a with
      | some y => some y.2
      | none => (o.devRead a 8).map ofBytes
    match e.writes read (o.fld (F.XLAT_ROOT_ROOT k) * 2 ^ 21) with
    | .error _ => (x.1, false)
    | .ok none => (x.1, x.2 && !e.map)
    | .ok (some w) => (w.reverse ++ x.1, x.2)) ([], true)

/-- The edit list and the pool list: no page and no table of theirs lies outside allocatable memory (R22, R305). -/
def rule1801 (_ o : State) (_ i : Nat) : Option Nat :=
  let k := atollOf i
  match o.editList k with
  | none => some 0x88
  | some l =>
    if l.any (fun e => e.map && !e.demand && !o.allocatable e.pa) ||
        (o.editPlan k l).1.any (fun w => w.2.testBit 0 && !o.allocatable (entryPA w.2)) then some 0x88
    else match o.poolList k with
      | none => some 0x98
      | some fs => failAt 0x98 (fs.any fun f => !o.allocatable f)

def rule1802 (_ o : State) (_ i : Nat) : Option Nat :=
  let k := atollOf i
  let l := (o.editList k).getD []
  if l.any fun e => bits e.va 51 0 % e.page != 0 || (e.map && !e.demand && e.pa % e.page != 0) || (e.map && e.big && e.demand)
  then some 0x88
  else failAt 0x88 (!(o.editPlan k l).2)

def rule1803 (_ o : State) (_ i : Nat) : Option Nat :=
  let r := o.fld (F.XLAT_ROOT_ROOT i) * 2 ^ 21
  let top := min carveLocal (o.fld (F.MC_ALLOC_TOP_TOP (r / atollSpan)))
  failAt 0x80 (r != 0 && !(o.stacked r && decide (r % atollSpan + 2 ^ 21 ≤ top)))

/-- A device virtual address that maps into the carve-out, the reserve or an atoll out of service, or whose tables cannot
be read (R72, R293). -/
def State.mapsBadly (o : State) (k : Atoll) (va : Nat) : Bool :=
  match (o.leaf k (va % 2 ^ 52)).1 with
  | .error f => f == fkForbidden || f == fkPoison
  | .ok _ => false

/-- Some page of a range maps badly. -/
def State.rangeBad (o : State) (k : Atoll) (va n : Nat) : Bool :=
  (pagePieces (n / 65536 + 2) va n).any fun e => o.mapsBadly k e.1

/-- Open steps of atoll `k`'s step engine (STEP_STAT.OPEN). -/
def State.openSteps (s : State) (k : Atoll) : Nat :=
  ((s.atl k).step.red.map fun e => (e.2.map fun r => (r.steps.filter fun x => !x.closed).length).getD 0).sum

def atollRules : List (Nat × Rule) :=
  [(0x1701, perPage 0x17 fun _ o _ i => failAt 0x80 (wheelHas (o.fld (F.STRM_WHEEL i)) 3)),
   (0x1702, perPage 0x17 fun _ o _ i => failAt 0x80 ([0, 1, 2].any fun c => !wheelHas (o.fld (F.STRM_WHEEL i)) c)),
   (0x1703, perPage 0x17 fun _ o _ i => failAt 0x88 (o.fld (F.STRM_VOIDWAIT_TIDES i) == 0)),
   (0x1801, perPage 0x18 rule1801), (0x1802, perPage 0x18 rule1802), (0x1803, perPage 0x18 rule1803),
   (0x1804, perPage 0x18 fun _ o _ i =>
     if 1024 < o.fld (F.XLAT_EDIT_COUNT_COUNT i) then some 0x90
     else failAt 0xA0 (outside 0 4096 (o.fld (F.XLAT_POOL_COUNT_COUNT i)))),
   (0x1901, perPage 0x19 fun _ o _ i =>
     let a := o.fld (F.STEP_LAND_ADDR i)
     failAt 0x80 (a % 128 != 0 || o.mapsBadly (atollOf i) a)),
   (0x1902, perPage 0x19 fun s o _ i => failAt 0x80 (changes s o (R.STEP_LAND i) && s.openSteps (atollOf i) != 0)),
   (0x1A01, perPage 0x1A fun _ o _ i => failAt 0xA0 (o.fld (F.MC_EBB_PACE_GRANULES i) == 0)),
   (0x1A02, perPage 0x1A fun _ o _ i => let p := o.fld (F.MC_SCRUB_PERIOD i); failAt 0x94 (p != 0 && decide (p < 256))),
   (0x1A03, perPage 0x1A fun _ o _ i => let p := o.fld (F.MC_RETRAIN_PERIOD i); failAt 0x98 (p != 0 && decide (p < 768))),
   (0x1A04, perPage 0x1A fun _ o _ i =>
     failAt 0x9C (o.fld (F.MC_ROW_THR_CE i) == 0 || o.fld (F.MC_ROW_THR_WINDOW i) == 0)),
   (0x1B01, perPage 0x1B fun _ o _ i => failAt 0x84 ([0, 1, 2, 3].any fun c => !wheelHas (o.fld (F.CWY_WHEEL i)) c))]

/-! #### PORT, SND, SNDCTX -/

def rule3003 (_ o : State) (_ i : Nat) : Option Nat :=
  (if i < 2 then [0xB0, 0xC0] else [0x98, 0x9C]).find? fun off => o.rd (pageBase 0x30 i + off) &&& stMask (pageBase 0x30 i + off) != 0

def rule3103 (_ o : State) (_ i : Nat) : Option Nat :=
  if 2 ≤ i then none else [0x98, 0x9C, 0xA0, 0xA4, 0xA8, 0xAC].find? fun off => o.rd (pageBase 0x31 i + off) != 0

/-- The tables of the contexts (R354): the context table through the translator of each home. -/
def rule3202 (_ o : State) (_ _ : Nat) : Option Nat :=
  let n := o.fld F.SNDCTX_COUNT_COUNT
  if n = 0 then none
  else
    let c := (o.fld F.SNDCTX_BASE_ADDR, 128 * n)
    let t := (o.fld F.SNDCTX_TRK_BASE_ADDR, 2 ^ 25)
    let g := (o.fld F.SNDCTX_GRP_BASE_ADDR, 64 * o.fld F.SNDCTX_GRP_COUNT_COUNT)
    let hub := o.hub
    if c.1 % 128 ≠ 0 ∨ (o.serving.any fun k => o.rangeBad k c.1 c.2) then some 0x80
    else if t.1 % 32 ≠ 0 ∨ o.rangeBad hub t.1 t.2 ∨ overlap c.1 c.2 t.1 t.2 then some 0x90
    else failAt 0x98 (g.2 != 0 && (g.1 % 64 != 0 || o.rangeBad hub g.1 g.2 || overlap c.1 c.2 g.1 g.2 || overlap t.1 t.2 g.1 g.2))

def rule3203 (s o : State) (_ _ : Nat) : Option Nat :=
  if s.fld F.SNDCTX_STAT_OPEN = 0 ∧ s.fld F.SNDCTX_TRK_USED_USED = 0 then none
  else [0x80, 0x88, 0x90, 0x98].find? fun off => changes s o (pageBase 0x32 0 + off)

def portRules : List (Nat × Rule) :=
  [(0x3001, perPage 0x30 fun _ o _ i =>
     failAt 0x98 (decide (i < 2) && (o.fld (F.PORT_LANE_THR_TIDES i) == 0 || o.fld (F.PORT_LANE_THR_ERRS i) == 0))),
   (0x3002, perPage 0x30 fun _ o _ i => failAt 0xC0 (decide (2 ≤ i) && outside 1280 9216 (o.fld (F.PORT_MTU_BYTES i)))),
   (0x3003, perPage 0x30 rule3003),
   (0x3101, perPage 0x31 fun _ o _ i => failAt 0x88 (outside 0 32 (o.fld (F.SND_RESV_SHARE i)))),
   (0x3102, perPage 0x31 fun _ o _ i =>
     if o.fld (F.SND_RETRY_MAX i) = 0 then some 0x90
     else if o.fld (F.SND_RTO_CYCLES i) = 0 then some 0x8C
     else failAt 0x94 (o.fld (F.SND_GRANT_IDLE_TIDES i) == 0)),
   (0x3103, perPage 0x31 rule3103),
   (0x3201, perPage 0x32 fun _ o _ _ =>
     if 1048576 < o.fld F.SNDCTX_COUNT_COUNT then some 0x88
     else if 4096 < o.fld F.SNDCTX_GRP_COUNT_COUNT then some 0xA0
     else failAt 0xA8 (decide (o.fld F.SNDCTX_ADMIT_HINT < 8))),
   (0x3202, perPage 0x32 rule3202), (0x3203, perPage 0x32 rule3203)]

/-! #### Generic rules (R80) -/

/-- A rule of every bound page: the offset that fails. -/
def everyPage (f : State → State → Nat → Nat → Option Nat) : Rule :=
  fun s o t => (s.pagesOf t).findSome? fun p => (f s o t p).map fun off => ((pageOfIx p).1, (pageOfIx p).2, off)

def genericRules : List (Nat × Rule) :=
  [(0xFF01, everyPage fun s _ _ p =>
     (s.staged.find? fun e => onPage p e.1 && (e.2.toNat &&& reservedMask e.1) != 0).map fun e => e.1 % 0x1000),
   (0xFF02, everyPage fun _ o _ p =>
     let (c, i) := pageOfIx p
     failAt 0x10 (o.fld (F.PG_MODE_SPLIT_HOST (pageBase c i)) &&& (0xFFFF ^^^ hostBits c) != 0)),
   (0xFF03, fun s _ t =>
     if s.boardScope t ∧ 4096 < (s.ticketRecords t).length then (s.pagesOf t).head?.map fun p => ((pageOfIx p).1, (pageOfIx p).2, 0)
     else none),
   (0xFF04, everyPage fun s _ _ p => failAt 0 (s.pageLost (pageOfIx p).1 (pageOfIx p).2)),
   (0xFF05, everyPage fun s _ t p => failAt 8 (s.boundTo p != some t))]

/-- The catalogue, ascending (R80). -/
def catalogue : List (Nat × Rule) :=
  tideRules ++ powerRules ++ resetRules ++ ckptRules ++ harbourRules ++ unitRules ++ atollRules ++ portRules ++ genericRules

/-- The first failing rule of ticket `t` and its first failing operand (R72): the checker reads the tables as they stand
in device memory. -/
def State.firstFailure (s : State) (t : Nat) : Option (Nat × Hit) :=
  let o := s.overlay t
  let o := o.each allAtolls fun o k => o.onStrm k fun m => { m with tlb := [] }
  catalogue.findSome? fun r => (r.2 s o t).map fun h => (r.1, h)

/-- KIND of a rule where the chapters give it, 0 where they do not (R80). -/
def ruleKind (n : Nat) : Nat :=
  if n ∈ [0x0101, 0x0102, 0x0301, 0x0401, 0x0501, 0x0904, 0x0A01, 0x1302, 0x1303, 0x1401, 0x1402, 0x1701, 0x1703, 0x1804,
          0x1A01, 0x1A02, 0x1A03, 0x1A04, 0x3001, 0x3002, 0x3003, 0x3101, 0x3102, 0x3103, 0x3201, 0x0601] then 1
  else if n = 0x0103 then 6
  else if n / 256 = 0xFF ∨ n / 256 = 0x0B then 0
  else 7

/-- A rule whose kind has one operand: RANGE (R80). -/
def oneOperand (n : Nat) : Bool := ruleKind n == 1

end Sys2Proof.Machine
end

