-- ==== Sys2Proof/Machine/Commit.lean ====
section
/-! DEFINITION. Tickets (03_control_pages.md R70-R79): binding and staging, the commands of COMMIT_CMD, checking,
applying at slack, the board protocol as its initiator and as a peer, and ticket 3 for self-mode actions (R76, R455). -/

namespace Sys2Proof.Machine

open Host (Outcome)

/-! ### States and results -/

abbrev tkIdle : Nat := 0
abbrev tkOpen : Nat := 1
abbrev tkChecking : Nat := 2
abbrev tkPassed : Nat := 3
abbrev tkFailed : Nat := 4
abbrev tkArmed : Nat := 5
abbrev tkVoting : Nat := 6
abbrev tkDiverged : Nat := 7

/-- COMMIT_STAT.STATE of ticket `t`. -/
def State.tk (s : State) (t : Ticket) : Nat := s.fld (F.COMMIT_STAT_STATE t)

def State.setTk (s : State) (t : Ticket) (st : Nat) : State := s.setFld (F.COMMIT_STAT_STATE t) st

/-- COMMIT_STAT.RESULT: 1 PASSED, 2 FAILED, 3 APPLIED, 4 FAILED_AT_APPLY, 5 ABORTED, 6 LATE, 7 BADCMD, 8 VOTE_FAILED,
9 DIVERGED. -/
def State.setResult (s : State) (t : Ticket) (r : Nat) : State := s.setFld (F.COMMIT_STAT_RESULT t) r

/-- COMMIT_FAIL and COMMIT_FAIL_AT (R72, R77). -/
def State.report (s : State) (t : Ticket) (rule : Nat) (h : Hit) (remote : Option Nat) : State :=
  let s := (s.setFld (F.COMMIT_FAIL_RULE t) rule).setFld (F.COMMIT_FAIL_CLASS t) h.1
  let s := (s.setFld (F.COMMIT_FAIL_INSTANCE t) h.2.1).setFld (F.COMMIT_FAIL_AT_OFFSET t) h.2.2
  (s.setFld (F.COMMIT_FAIL_AT_REMOTE t) (if remote.isSome then 1 else 0)).setFld (F.COMMIT_FAIL_AT_SLOT t) (remote.getD 0)

/-- COMMIT_STAT.PAGES follows the pages bound. -/
def State.countPages (s : State) (t : Nat) : State := s.setFld (F.COMMIT_STAT_PAGES t) (min 255 (s.pagesOf t).length)

/-! ### Pages (R71) -/

/-- Base of page `p`. -/
def pageAt (p : Nat) : Nat := pageBase (pageOfIx p).1 (pageOfIx p).2

/-- Page `p` has no staged value of its own: its staged copies equal live, DIRTY and WRITES are clear. -/
def State.cleanPage (s : State) (p : Nat) : State :=
  let s := s.unstage (pageOfIx p).1 (pageOfIx p).2
  (s.setFld (F.PG_STAGE_STAT_DIRTY (pageAt p)) 0).setFld (F.PG_STAGE_STAT_WRITES (pageAt p)) 0

/-- Bind page `p` to ticket `t`: its staged copies are loaded from live. -/
def State.bindPage (s : State) (p t : Nat) : State :=
  let s := s.cleanPage p
  ((s.setFld (F.PG_STAGE_STAT_BOUND (pageAt p)) 1).setFld (F.PG_STAGE_STAT_TICKET (pageAt p)) t).countPages t

/-- Unbind page `p`. -/
def State.unbindPage (s : State) (p : Nat) : State :=
  let t := s.boundTo p
  let s := s.cleanPage p
  let s := (s.setFld (F.PG_STAGE_STAT_BOUND (pageAt p)) 0).setFld (F.PG_STAGE_STAT_TICKET (pageAt p)) 0
  match t with | some t => s.countPages t | none => s

/-- Unbind every page of ticket `t`, its staged values discarded. -/
def State.dropPages (s : State) (t : Nat) : State := s.each (s.pagesOf t) State.unbindPage

/-- A stage operation on page `p` is refused (R71). -/
def State.stageRefused (s : State) (p : Nat) : State :=
  s.raiseHdr (pageOfIx p).1 (pageOfIx p).2 (F.PG_STAGE_STAT_REFUSED (pageAt p))

/-- Ticket `n` as an index. -/
def ticketOf (n : Nat) : Ticket := ⟨n % 4, Nat.mod_lt _ (by decide)⟩

/-- The ticket takes staged writes and releases: OPEN, PASSED or FAILED. -/
def State.takes (s : State) (t : Nat) : Bool := [tkOpen, tkPassed, tkFailed].contains (s.tk (ticketOf t))

/-- A write or a release in PASSED or FAILED returns the ticket to OPEN. -/
def State.reopen (s : State) (t : Nat) : State := if s.tk (ticketOf t) = tkOpen then s else s.setTk (ticketOf t) tkOpen

/-- PG_STAGE_CTL of page `p` (R71). -/
def State.stageCtl (s : State) (p : Nat) (bind release : Bool) (t : Nat) : State :=
  match bind, release, s.boundTo p with
  | true, true, _ => s.stageRefused p
  | true, false, some _ => s.stageRefused p
  | true, false, none => if s.tk (ticketOf t) = tkOpen then s.bindPage p t else s.stageRefused p
  | false, true, some u => if s.takes u then (s.unbindPage p).reopen u else s.stageRefused p
  | _, _, _ => s

/-- The register that holds window offset `a`, and where it begins (R8). -/
def regHit (a : Nat) : Option (RegDesc × Nat) :=
  let c := a / 0x100000
  let off := a % 0x1000
  match regAt c off with
  | some d => some (d, a)
  | none => if 4 ≤ off then (regAt c (off - 4)).bind fun d => if d.wide then some (d, a - 4) else none else none

/-- Stage one 32-bit word of the register at live offset `a`; reserved bits stay as written, for rule 0xFF01. -/
def State.stageWord (s : State) (a v : Nat) : State :=
  match regHit a with
  | none => s
  | some (d, b) =>
    if d.st = 0 then s
    else
      let keep := d.st ||| reservedMask b
      let sh := (a - b) * 8
      let w := withBits (s.stagedRd b) (sh + 31) sh v &&& keep
      let p := pageIx (a / 0x100000) (a % 0x100000 / 0x1000)
      let s := { s with staged := SMap.ins s.staged b (BitVec.ofNat 64 w) }
      (s.setFld (F.PG_STAGE_STAT_DIRTY (pageAt p)) 1).bump (F.PG_STAGE_STAT_WRITES (pageAt p))

/-! ### Messages of the board protocol (R77, R319) -/

/-- Send COMMIT flits to the peer in `slot`. -/
def State.commitFlits (s : State) (slot : Nat) (l : List Flit) : State :=
  match s.straitTo slot with | some (p, x) => s.sendFlits p x l | none => s

/-- A message to every present peer, in the flits `l`. -/
def State.tellPeers (s : State) (m : Msg) (l : List Flit) : State :=
  (s.emit m).each s.boardPeers fun s i => s.commitFlits i l

/-- The module's own slot. -/
def State.slotNo (s : State) : Nat := s.fld F.HOLM_SLOT_SLOT

/-- The initiator's decision is sent at once (R77). -/
def State.tellDecision (s : State) (t : Ticket) (go : Bool) : State :=
  let k : TicketSt := s.tickets[t]
  s.tellPeers (.decision k.init k.gen k.target go) [decisionFlit k.init k.gen k.target go]

/-- A peer's vote goes to the initiator alone (R319). -/
def State.sendVote (s : State) (init gen target : Nat) (fail : Option (Nat × Hit)) : State :=
  let (rule, h) := fail.getD (0, (0, 0, 0))
  (s.emit (.vote init gen target s.slotNo fail.isNone rule h.1 h.2.1 h.2.2)).commitFlits init
    [voteFlit init gen target s.slotNo fail.isNone rule h.1 h.2.1 h.2.2]

/-! ### Commands of COMMIT_CMD (R70) -/

/-- A command the state does not list (R70). -/
def State.badCmd (s : State) (t : Ticket) : State := s.setResult t 7

/-- OPEN. -/
def State.openTk (s : State) (by' : Requester) (t : Ticket) : State :=
  if t = 2 ∨ (t = 3 ∧ by' ≠ .holm) ∨ s.tk t ≠ tkIdle then s.badCmd t
  else
    let s := s.setFld (F.COMMIT_GEN_GEN t) ((s.fld (F.COMMIT_GEN_GEN t) + 1) % 2 ^ 16)
    (s.onTicket t fun k => { TicketSt.none with again := k.again }).setTk t tkOpen

/-- The ticket returns to IDLE with its pages unbound and its staged values discarded. -/
def State.toIdle (s : State) (t : Ticket) : State :=
  let s := if t = 3 then { s with selfActs := s.selfActs.map fun a => { a with bound := false } } else s
  ((s.dropPages t).onTicket t fun k => { TicketSt.none with again := k.again }).setTk t tkIdle

/-- An abort by command or decision (R75, R81). -/
def State.abortTk (s : State) (t : Ticket) (result : Nat) : State := ((s.toIdle t).setResult t result).raise 0x02 0 3

/-- ARM of a PASSED ticket (R73, R77). -/
def State.armTk (s : State) (t : Ticket) : State :=
  let now := s.tideNo
  let named := s.flag (F.COMMIT_OPT_AT_TIDE t)
  let board := s.flag (F.COMMIT_OPT_SCOPE t) && !s.boardPeers.isEmpty
  let n := if named then s.fld (F.COMMIT_TIDE_TIDE t) else if board then now + 4 else now + 1
  if n < (if board then now + 4 else now + 1) then (s.setResult t 6).raise 0x02 0 5
  else if board then
    let g := s.fld (F.COMMIT_GEN_GEN t)
    let recs := s.ticketRecords t
    let s := s.onTicket t fun k =>
      { k with target := n, board := true, init := s.slotNo, gen := g, votes := [], decided := none, asked := s.boardPeers }
    (s.setTk t tkVoting).tellPeers (.prepare s.slotNo g n recs) (prepareFlits s.slotNo g n recs.length (recs.length + 1) 0 recs)
  else (s.onTicket t fun k => { k with target := n, board := false }).setTk t tkArmed

/-- ABORT where the state takes it (R70, R75, R77). -/
def State.abortCmd (s : State) (t : Ticket) : State :=
  let k : TicketSt := s.tickets[t]
  if s.tk t = tkVoting then
    if k.decided.isSome then s.badCmd t
    else
      let s := s.tellDecision t false
      (s.abortTk t 5).onTicket t fun q => { q with again := some (k.gen, k.target) }
  else if s.tk t = tkArmed ∧ k.board then s.badCmd t
  else if [tkOpen, tkPassed, tkFailed, tkArmed].contains (s.tk t) then s.abortTk t 5
  else s.badCmd t

/-- RESOLVE (R78): no slice starts before the next slack. -/
def State.resolveTk (s : State) (t : Ticket) : State :=
  if t ≠ 2 ∨ s.tk t ≠ tkDiverged then s.badCmd t
  else (s.toIdle t).each allAtolls fun s k => s.onSeq k fun q => { q with hold := 2 ^ 32 }

/-- COMMIT_CMD (R70). -/
def State.commitCmd (s : State) (by' : Requester) (t : Ticket) (cmd : Nat) : State :=
  match cmd with
  | 1 => s.openTk by' t
  | 2 => if s.tk t = tkOpen ∨ s.tk t = tkFailed then s.setTk t tkChecking else s.badCmd t
  | 3 => if s.tk t = tkPassed then s.armTk t else s.badCmd t
  | 4 => s.abortCmd t
  | 5 => s.resolveTk t
  | _ => s

/-- The check of ticket `t` completes (R72); ticket 2 votes (R77) (log 73: DEDUCED, unsafe). -/
def State.checkTk (s : State) (t : Ticket) : State :=
  if s.tk t ≠ tkChecking then s
  else
    let fail := s.firstFailure t
    let s := match fail with
      | none => ((s.report t 0 (0, 0, 0) none).setTk t tkPassed).setResult t 1
      | some (r, h) => (((s.report t r h none).setTk t tkFailed).setResult t 2).bump F.COMMIT_CNT_FAILED
    let s := s.raise 0x02 0 0
    let k : TicketSt := s.tickets[t]
    if t.val = 2 ∧ k.board = true then (s.onTicket t fun k => { k with votedPass := fail.isNone }).sendVote k.init k.gen k.target fail
    else s

/-! ### Applying (R74) -/

/-- What a page's new values do beside the registers themselves, at the slack at which they apply; `o` is the state
before, `w` the registers staged. -/
def State.pageApplied (s o : State) (w : List Nat) (p : Nat) : State :=
  let (c, i) := pageOfIx p
  let k := atollOf i
  let ch (a : Nat) : Bool := s.rd a != o.rd a
  match c with
  | 0x01 =>
    -- program space follows the policy (R279)
    let top := if s.flag F.TIDE_POLICY_MODE then saveBase else lagSpan
    s.each allAtolls fun s k => s.setFld (F.LAG_TOP_TOP k) top
  | 0x06 =>
    -- a slot assigned (R432)
    if w.contains R.RST_SLOT ∧ s.flag F.RST_SLOT_VALID then
      let s := (s.setFld F.HOLM_SLOT_SLOT (s.fld F.RST_SLOT_SLOT)).setFld F.HOLM_SLOT_ASSIGNED 1
      -- it joins as a follower of the peer that leads, if one does (R50, R52, R53)
      let led := (s.boardPeers.filter fun i => (SMap.get (fun _ => PeerSt.none) s.tide.peers i).leads).min?
      let s := s.setFld F.TIDE_STAT_LEADER (led.getD s.slotNo)
      (s.onTide fun t => { t with alignRun := 0, unaligned := t.running && led.isSome, lost := 0 }).raise 0x06 0 2
    else s
  | 0x08 => if ch R.FLASH_SLOT_SIZE then s.slotsErased else s
  | 0x09 =>
    if ch R.CKPT_PART_OFS ∨ ch R.CKPT_PART_SIZE then s.onCkpt fun m => { m with keeps := none } else s
  | 0x14 => if ch (R.VEC_GCG_BASE i) ∨ ch (R.VEC_GCG i) then s.onVec k fun v => { v with gcg := [] } else s
  | 0x18 =>
    let s := if ch (R.XLAT_ROOT i) then s.invAll k else s
    let s := if w.contains (R.XLAT_POOL_BASE i) ∨ w.contains (R.XLAT_POOL_COUNT i) then s.setFld (F.XLAT_POOL_NEXT_NEXT i) 0 else s
    -- the edit records, as the check read them: a walk from now on sees them written (R295; log 41: DEDUCED, safe)
    let l := ((s.onStrm k fun m => { m with tlb := [] }).editList k).getD []
    if l.isEmpty then s else (l.foldl (fun s e => s.writeEdit k e) s).setFld (F.XLAT_STAT_EDITING i) 1
  | 0x32 =>
    if ch R.SNDCTX_BASE ∨ ch R.SNDCTX_COUNT then { s with sound := { s.sound with cache := [] } } else s
  | _ => s

/-- Ticket `t` applies at this slack, or fails its second check (R74). -/
def State.applyTk (s : State) (t : Ticket) : State :=
  match s.firstFailure t with
  | some (r, h) =>
    let s := ((s.report t r h none).bump F.COMMIT_CNT_FAILED).raise 0x02 0 2
    if 2 ≤ t.val then (s.toIdle t).setResult t 4
    else ((s.onTicket t fun k => { TicketSt.none with again := k.again }).setTk t tkFailed).setResult t 4
  | none =>
    let o := s
    let ps := s.pagesOf t
    let w := (s.stagedOf t).map Prod.fst
    let s := (s.overlay t).toIdle t
    let s := ((s.setResult t 3).setFld (F.COMMIT_DONE_TIDE_TIDE t) s.tideNo).bump F.COMMIT_CNT_APPLIED
    (s.raise 0x02 0 1).each ps fun s p => s.pageApplied o w p

/-! ### The board protocol (R77, R78) -/

/-- Whether the message's tag and target are those of ticket 2. -/
def State.onBoard (s : State) (init gen target : Nat) : Bool :=
  let k := s.tickets[(2 : Ticket)]
  k.board && k.init == init && k.gen == gen && k.target == target

/-- Ticket 2 was refused for a PREPARE: rule 0xFF05 or another, voted at once. -/
def State.voteNo (s : State) (g : BoardTag) (r : Nat) (h : Hit) : State :=
  s.sendVote g.init g.gen.toNat g.target.toNat (some (r, h))

/-- The directory index of the page a record names, if the directory lists it. -/
def recordPage (r : CommitRecord) : Option Nat :=
  if r.inst.toNat < classCount r.cls.toNat then some (pageIx r.cls.toNat r.inst.toNat) else none

/-- Ticket 2 holds every record of its PREPARE: it binds the named pages, stages the records and checks, or votes fail;
a page the directory does not list fails under rule 0xFF04 (log 104: DESIGN CHOICE, unsafe). -/
def State.takePrepare (s : State) (g : BoardTag) (recs : List CommitRecord) : State :=
  match recs.find? fun r => (recordPage r).isNone with
  | some r => (s.toIdle 2).voteNo g 0xFF04 (r.cls.toNat, r.inst.toNat, 0)
  | none =>
    let ps := (recs.filterMap recordPage).eraseDups
    match ps.find? fun p => (s.boundTo p).isSome with
    | some p => (s.toIdle 2).voteNo g 0xFF05 ((pageOfIx p).1, (pageOfIx p).2, 8)
    | none =>
      let s := s.each ps fun s p => s.bindPage p 2
      let s := s.each recs fun s r =>
        s.stageWord (pageBase r.cls.toNat r.inst.toNat + r.off.toNat) r.value.toNat
      s.setTk 2 tkChecking

/-- A PREPARE message arrives (R77, R79, R319): `first` is the index of its first record (log 73: DEDUCED, unsafe). -/
def State.prepareIn (s : State) (g : BoardTag) (total first : Nat) (recs : List CommitRecord) : State :=
  if !s.hasSlot then s
  else if first = 0 then
    if s.tk 2 ≠ tkIdle then s.voteNo g 0xFF05 (0, 0, 0)
    else
      let s := s.setFld (F.COMMIT_GEN_GEN 2) ((s.fld (F.COMMIT_GEN_GEN 2) + 1) % 2 ^ 16)
      let s := s.onTicket 2 fun k =>
        { TicketSt.none with
          target := g.target.toNat, board := true, init := g.init, gen := g.gen.toNat, gather := recs, total := total
          heardNow := true, again := k.again }
      let s := s.setTk 2 tkOpen
      if total ≤ recs.length then s.takePrepare g recs else s
  else
    let k := s.tickets[(2 : Ticket)]
    if s.tk 2 = tkOpen ∧ s.onBoard g.init g.gen.toNat g.target.toNat = true ∧ first = k.gather.length ∧ first < k.total then
      let l := k.gather ++ recs
      let s := s.onTicket 2 fun k => { k with gather := l }
      if k.total ≤ l.length then s.takePrepare g l else s
    else s

/-- A peer's vote reaches the initiator (R77): the first of each voter counts. -/
def State.voteIn (s : State) (g : BoardTag) (v : VoteGot) : State :=
  s.each [(0 : Ticket), 1] fun s t =>
    let k : TicketSt := s.tickets[t]
    if s.tk t = tkVoting ∧ k.decided = none ∧ g.init.val = k.init ∧ g.gen.toNat = k.gen ∧ g.target.toNat = k.target ∧
        k.votes.all (fun w => w.slot != v.slot) = true then
      s.onTicket t fun k => { k with votes := k.votes ++ [v] }
    else s

/-- The initiator's decision reaches a peer (R77, R78). -/
def State.decisionIn (s : State) (init gen target : Nat) (go : Bool) : State :=
  let k := s.tickets[(2 : Ticket)]
  if !s.onBoard init gen target || k.discarded || k.decided.isSome then s
  else
    let held := s.onTicket 2 fun k => { k with decided := some go }
    if s.tk 2 = tkDiverged then if go then held else s.abortTk 2 5
    else if s.tk 2 = tkPassed ∧ go = true then held.setTk 2 tkArmed
    else held

/-- The initiator was heard: its silence begins anew with the next tide (R78). -/
def State.heardInit (s : State) (slot : Nat) : State :=
  s.onTicket 2 fun k => if k.board && k.init == slot then { k with silent := 0, heardNow := true } else k

/-- Slots whose vote ticket `t` counts (R77): the present peers, and those its PREPARE was sent to that have gone before
they voted (R323). -/
def State.voters (s : State) (t : Ticket) : List Nat :=
  let k : TicketSt := s.tickets[t]
  (List.range 16).filter fun i => s.boardPeers.contains i || (k.asked.contains i && k.votes.all fun v => v.slot != i)

/-- The lowest slot whose vote failed or is missing, with what it reported. -/
def State.refuser (s : State) (t : Ticket) : Option (Nat × Nat × Hit) :=
  (s.voters t).findSome? fun i =>
    match s.tickets[t].votes.find? fun v => v.slot == i with
    | some v => if v.pass then none else some (i, v.rule, (v.cls, v.inst, v.off))
    | none => some (i, 0, (0, 0, 0))

/-- The initiator decides ticket `t` (R77 step 4). -/
def State.decideTk (s : State) (t : Ticket) : State :=
  let go := (s.refuser t).isNone
  let s := (s.tellDecision t go).onTicket t fun k => { k with decided := some go }
  match s.refuser t with
  | none => s.setTk t tkArmed
  | some (i, r, h) => (s.report t r h (some i)).setResult t 8

/-- Every ticket whose decision falls due at the mark point of the current tide (R77 step 4). -/
def State.decideDue (s : State) : State :=
  s.each [(0 : Ticket), 1] fun s t =>
    let k : TicketSt := s.tickets[t]
    if s.tk t = tkVoting ∧ k.decided = none ∧ k.target ≤ s.tideNo + 2 then s.decideTk t else s

/-- The decision a mark of this tide carries: kind, initiator, generation, target (R77 step 5, R317). Of two tickets
decided for one tide it carries the lower one's (log 105: DESIGN CHOICE, unsafe). -/
def State.markDecision (s : State) : Nat × Nat × Nat × Nat :=
  ([(0 : Ticket), 1].findSome? fun t =>
    let k : TicketSt := s.tickets[t]
    match k.decided, k.again with
    | some go, _ =>
      if k.board && s.tideNo + 1 == k.target then some (if go then 1 else 2, s.slotNo, k.gen, k.target) else none
    | none, some (g, n) => if s.tideNo < n then some (2, s.slotNo, g, n) else none
    | none, none => none).getD (0, 0, 0, 0)

/-! ### Tickets at slack step 3 (R74, R77, R78) -/

/-- What a slack changes of every ticket: an abort told up to its target ends, and a tide without the initiator
counts (R77, R78). -/
def TicketSt.turn (k : TicketSt) (now : Nat) : TicketSt :=
  { k with
    again := k.again.filter fun a => decide (now < a.2)
    silent := if k.heardNow then 0 else k.silent + 1
    heardNow := false }

/-- Ticket `t` at the slack that begins the current tide. -/
def State.ticketSlack (s : State) (t : Ticket) : State :=
  let s := s.onTicket t fun k => k.turn s.tideNo
  let k : TicketSt := s.tickets[t]
  let st := s.tk t
  if t.val < 2 ∨ t.val = 3 then
    if s.tideNo < k.target ∨ (st ≠ tkArmed ∧ st ≠ tkVoting) then s
    else if st = tkArmed then s.applyTk t
    else if k.decided.isSome then (s.abortTk t 8)
    else (s.tellDecision t false).abortTk t 8
  else if !k.board || s.tideNo < k.target || st = tkIdle || k.discarded then s
  else if k.decided = some true ∧ k.votedPass then s.applyTk t
  else if k.decided.isSome ∨ !k.votedPass then s.abortTk t 5
  else if st = tkDiverged then s
  else ((s.setTk t tkDiverged).setResult t 9).raise 0x02 0 4

/-! ### Self-mode actions through ticket 3 (R76, R455) -/

/-- The page a self-mode action binds: the atoll's MC page, or the AGE page. -/
def SelfAct.page : SelfAct → Nat
  | .mapped k => pageIx 0x1A k
  | .retire k _ => pageIx 0x1A k
  | .replan => pageIx 0x05 0

/-- The action's page is bound to ticket 0, 1 or 2. -/
def State.actBlocked (s : State) (a : SelfAct) : Bool := (s.boundTo a.page).isSome

/-- Ticket 3, if it is idle, binds the pages of the actions that find theirs free, and is armed for tide `n`. Actions
that do not find it free begin their wait (R455) (log 73: DEDUCED, unsafe). -/
def State.bindActs (s : State) (n : Nat) : State :=
  let now := s.tideNo
  let busy := s.tk 3 != tkIdle
  let l := s.selfActs.map fun a =>
    if a.bound then a
    else if s.actBlocked a.act then { a with since := some (a.since.getD now) }
    else if busy then a else { a with bound := true }
  let ready := if busy then [] else ((l.filter fun a => a.bound).map fun a => a.act.page).eraseDups
  let s := { s with selfActs := l }
  if ready.isEmpty then s
  else
    let s := (s.openTk .holm 3).each ready fun s p => s.bindPage p 3
    (s.onTicket 3 fun k => { k with target := n, board := false }).setTk 3 tkArmed

/-- SELF_WAIT_ABORT (R455): the first action that has waited 64 tides for a ticket 0 or 1 not yet armed. -/
def State.selfWaitAbort (s : State) : State :=
  let due := s.selfActs.findSome? fun a =>
    match a.since, s.boundTo a.act.page with
    | some t0, some t =>
      if t0 + 64 ≤ s.tideNo ∧ t < 2 ∧ [tkOpen, tkChecking, tkPassed, tkFailed].contains (s.tk (ticketOf t)) then some t else none
    | _, _ => none
  match due with
  | some t => (s.abortTk (ticketOf t) 5).bindActs (s.tideNo + 1)
  | none => s

/-! ### The catalogue window (R80) -/

/-- Word `w` of record `i`, of rule `n`: NUMBER, KIND and the class of OPERAND_A where the chapters give them, the
reserved bits of FLAGS and of the operands 0, OPERAND_B 0 for a rule of one operand; fields lie from bit 0 up, and what
no chapter gives is the firmware image's (log 71: DESIGN CHOICE, safe). -/
def ruleWordOf (i n w : Nat) : Nat :=
  let v := (Config.ruleWord i w).toNat
  match w with
  | 0 => withBits (if ruleKind n = 0 then withBits v 31 27 0 else withBits (withBits v 31 27 0) 23 16 (ruleKind n)) 15 0 n
  | 1 => if n / 256 = 0xFF then v else withBits v 7 0 (n / 256)
  | 2 => v % 128
  | 3 => if oneOperand n then 0 else v
  | 4 => if oneOperand n then 0 else v % 128
  | 7 => 0
  | _ => v

/-- Word `w` of the record COMMIT_RULE_IDX names, 0 past the catalogue. -/
def State.ruleData (s : State) (w : Nat) : Nat :=
  let i := s.fld F.COMMIT_RULE_IDX_RECORD
  match catalogue[i]? with
  | none => 0
  | some (n, _) => ruleWordOf i n w

/-- Reading word 7 advances the index (R80). -/
def State.ruleRead (s : State) (w : Nat) : State :=
  if w = 7 then s.setFld F.COMMIT_RULE_IDX_RECORD (s.fld F.COMMIT_RULE_IDX_RECORD + 1) else s

/-! ### The commands -/

/-- BIND (R71). -/
def execBind (page : PageIx) (t : Ticket) (s : State) : Outcome State Fault Refusal := .next (s.stageCtl page true false t)

/-- RELEASE (R71). -/
def execRelease (page : PageIx) (s : State) : Outcome State Fault Refusal := .next (s.stageCtl page false true 0)

/-- OPEN (R70). -/
def execOpenTicket (by' : Requester) (t : Ticket) (s : State) : Outcome State Fault Refusal := .next (s.commitCmd by' t 1)

/-- CHECK (R72). -/
def execCheck (t : Ticket) (s : State) : Outcome State Fault Refusal := .next (s.commitCmd .harbour t 2)

/-- CHECK_DONE (R72). -/
def execCheckDone (t : Ticket) (s : State) : Outcome State Fault Refusal := .next (s.checkTk t)

/-- ARM (R73, R77). -/
def execArm (t : Ticket) (s : State) : Outcome State Fault Refusal := .next (s.commitCmd .harbour t 3)

/-- ABORT (R75, R77). -/
def execAbort (t : Ticket) (s : State) : Outcome State Fault Refusal := .next (s.commitCmd .harbour t 4)

/-- RESOLVE (R78). -/
def execResolve (t : Ticket) (s : State) : Outcome State Fault Refusal := .next (s.commitCmd .harbour t 5)

/-- COMMIT_RULE_DATA_READ (R80). -/
def execCommitRuleDataRead (word : Fin 8) (s : State) : Outcome State Fault Refusal :=
  .next ((s.emit (.regRead (R.COMMIT_RULE_DATA word) (s.ruleData word))).ruleRead word)

/-- PREPARE (R77, R79). -/
def execPrepare (via : StraitIn) (tag : BoardTag) (total first : Nat) (records : List CommitRecord) (s : State) :
    Outcome State Fault Refusal :=
  .next (s.commitIn via (max 1 ((records.length + 29) / 30)) fun s => s.prepareIn tag total first records)

/-- VOTE (R77). -/
def execVote (via : StraitIn) (tag : BoardTag) (voter : Slot) (pass : Bool) (rule : BitVec 16) (cls inst : BitVec 8) (off : BitVec 11)
    (s : State) : Outcome State Fault Refusal :=
  .next (s.commitIn via 1 fun s => s.voteIn tag ⟨voter, pass, rule.toNat, cls.toNat, inst.toNat, off.toNat⟩)

/-- DECISION (R77, R78). -/
def execDecision (via : StraitIn) (tag : BoardTag) (go : Bool) (s : State) : Outcome State Fault Refusal :=
  .next (s.commitIn via 1 fun s => (s.heardInit tag.init).decisionIn tag.init tag.gen.toNat tag.target.toNat go)

/-- DIVERGED_TIMEOUT (R78): 16 tides with nothing from the initiator (log 74: DESIGN CHOICE, unsafe). -/
def execDivergedTimeout (s : State) : Outcome State Fault Refusal :=
  let k := s.tickets[(2 : Ticket)]
  if s.tk 2 = tkDiverged ∧ k.discarded = false ∧ 16 ≤ k.silent then
    .next ((s.dropPages 2).onTicket 2 fun k => { k with discarded := true })
  else .next s

/-- SELF_WAIT_ABORT (R455) (log 74: DESIGN CHOICE, unsafe). -/
def execSelfWaitAbort (s : State) : Outcome State Fault Refusal := .next s.selfWaitAbort

end Sys2Proof.Machine
end

