-- ==== Sys2Proof/Machine/Ageing.lean ====
section
/-! DEFINITION. Wear gauges and the margin plan (17_power.md R396, R412-R415, R417): readings, guard bands, plans due,
their withdrawal of points, and how a plan comes into force. -/

namespace Sys2Proof.Machine

open Host (Outcome)

/-- Factory nominal voltage of point `p`, mV (log 5: DESIGN CHOICE, unsafe). -/
def vNom (p : Nat) : Nat := 580 + 20 * p

/-- Highest core voltage a point may need, mV (R396). -/
abbrev vMax : Nat := 950

/-- Core voltage in force of atoll `k` at point `p`, mV; 0 is a withdrawn point (R396). -/
def State.vAt (s : State) (k p : Nat) : Nat := SMap.get (fun i => vNom (i % 16) + 15) s.age.v (k * 16 + p)

def State.onAge (s : State) (f : AgeSt → AgeSt) : State := { s with age := f s.age }

/-- Points not withdrawn under guard band `g` (R396). -/
def pointsOk (g : Nat) : List Nat := (List.range 15).filter fun p => vNom p + g ≤ vMax

/-- Top point under guard band `g`, if a point is left. -/
def topOf (g : Nat) : Option Nat := (pointsOk g).getLast?

/-- Guard band a drift demands now (R413, R414). -/
def State.guardFor (s : State) (drift : Nat) : Nat :=
  if s.flag F.AGE_STAT_WORST then s.fld F.AGE_GUARD_WORST_MV else s.fld F.AGE_GUARD_BASE_MV + drift

/-- Guards of every atoll and of the other dies under their last drifts. -/
def State.planOf (s : State) : List Nat × List Nat :=
  ((List.range 8).map fun k => s.guardFor (s.fld (F.AGE_ATL_DRIFT k)),
   (List.range 8).map fun d => s.guardFor (s.fld (F.AGE_DIE_DRIFT d)))

/-- The plan of guard `g` for atoll `k`; one that would leave no point leaves the plan in force (R415). -/
def State.planAtoll (s : State) (k : Atoll) (g : Nat) : State :=
  match topOf g with
  | none => s
  | some top =>
    let old := s.fld (F.AGE_ATL_TOP_PT k)
    let s := (s.setFld (F.AGE_ATL_GUARD k) g).setFld (F.AGE_ATL_PLANNED k) (s.fld (F.AGE_ATL_DRIFT k))
    let s := (s.setFld (F.AGE_ATL_TOP_PT k) top).setFld (F.PWR_ATL_SET_TOP_PT k) top
    let s := s.each (List.range 15) fun s p =>
      s.onAge fun a =>
        { a with v := SMap.put (fun i => vNom (i % 16) + 15) a.v (k.val * 16 + p) (if vNom p + g ≤ vMax then vNom p + g else 0) }
    s.raiseIf (decide (top < old)) 0x05 0 3

/-- No plan waits. -/
def State.planClear (s : State) : State :=
  let s := (s.onAge fun a => { a with pending := none }).setFld F.AGE_STAT_PENDING 0
  s.each (List.range 8) fun s k => s.wr (R.AGE_ATL_PEND k) 0

/-- The plan due comes into force (R413) (log 79: DESIGN CHOICE, unsafe). -/
def State.replan (s : State) : State :=
  match s.age.pending with
  | none => s
  | some (gs, ds) =>
    let s := s.each s.serving fun s k => s.planAtoll k (gs.getD k 0)
    let s := s.each (List.range 8) fun s d =>
      (s.setFld (F.AGE_DIE_GUARD d) (ds.getD d 0)).onAge fun a =>
        { a with dieWas := SMap.put (fun _ => 0) a.dieWas d (s.fld (F.AGE_DIE_DRIFT d)) }
    (s.planClear.answered 0x05 0 0 0).raise 0x05 0 2

/-- The self-mode action of a re-plan is queued for ticket 3 (R76). -/
def State.queueReplan (s : State) : State :=
  if s.selfActs.any fun a => a.act == .replan then s
  else { s with selfActs := s.selfActs ++ [⟨.replan, none, false⟩] }

/-- A plan is due: in self mode it applies at the next slack, in host mode it is shown and the harbour asked (R413,
R417). -/
def State.planDue (s : State) : State :=
  let (gs, ds) := s.planOf
  let s := s.onAge fun a => { a with pending := some (gs, ds), withdraw := some gs }
  if s.hosted 0x05 0 0 then
    let s := s.setFld F.AGE_STAT_PENDING 1
    let s := s.each (List.range 8) fun s k =>
      (s.setFld (F.AGE_ATL_PEND_GUARD k) (gs.getD k 0)).setFld (F.AGE_ATL_PEND_TOP_PT k) ((topOf (gs.getD k 0)).getD 0)
    let s := s.raise 0x05 0 1
    if s.awaits 0x05 0 0 0 then s else s.awaitHost 0x05 0 0 0
  else s.queueReplan

/-- An atoll or another die drifted more than 5 mV beyond its plan (R413). -/
def State.drifted (s : State) : Bool :=
  s.serving.any (fun k => decide (s.fld (F.AGE_ATL_PLANNED k) + 5 < s.fld (F.AGE_ATL_DRIFT k))) ||
  (List.range 8).any fun d => decide (SMap.get (fun _ => 0) s.age.dieWas d + 5 < s.fld (F.AGE_DIE_DRIFT d))

/-- The drifts of a reading are recorded (R412); they are held to the eight bits of their fields. -/
def State.putDrifts (s : State) (drifts dies : List Nat) : State :=
  let s := s.each s.serving fun s k => s.setFld (F.AGE_ATL_DRIFT k) (min (drifts.getD k 0) 255)
  let s := s.each (List.range 8) fun s d => s.setFld (F.AGE_DIE_DRIFT d) (min (dies.getD d 0) 255)
  let s := s.setFld F.AGE_LAST_TIDE s.tideNo
  s.onAge fun a => { a with reading := false, hist := s.fld F.AGE_HIST_TIDES }

/-- A reading completes (R412, R413). -/
def State.readingDone (s : State) (drifts dies : List Nat) : State :=
  if !s.age.reading then s
  else
    let s := (s.putDrifts drifts dies).raise 0x05 0 0
    if s.drifted then s.planDue else s

/-- The withdrawal of points a due plan asks for takes effect at the next slack, whatever the harbour answers (R417)
(log 79: DESIGN CHOICE, unsafe). -/
def State.withdrawPoints (s : State) : State :=
  match s.age.withdraw with
  | some gs =>
    let s := s.onAge fun a => { a with withdraw := none }
    s.each s.serving fun s k =>
      match topOf (gs.getD k 0) with
      | some top =>
        if top < s.fld (F.AGE_ATL_TOP_PT k) then
          let s := (s.setFld (F.AGE_ATL_TOP_PT k) top).setFld (F.PWR_ATL_SET_TOP_PT k) top
          let s := s.each (List.range 15) fun s p =>
            if p ≤ top then s
            else s.onAge fun a => { a with v := SMap.put (fun i => vNom (i % 16) + 15) a.v (k.val * 16 + p) 0 }
          s.raise 0x05 0 3
        else s
      | none => s
  | none => s

/-- Ageing at a slack, before the power allocation: history counts (R412, R414), readings begin, the worst case ends, and
points are withdrawn. -/
def State.ageSlack (s : State) : State :=
  let s := s.bump F.AGE_HIST_TIDES
  let s := if s.age.asked ∨ s.tideNo % 2 ^ 24 = 0 then s.onAge fun a => { a with asked := false, reading := true } else s
  let s := s.withdrawPoints
  if s.flag F.AGE_STAT_WORST ∧ 2 ^ 28 ≤ s.fld F.AGE_HIST_TIDES then (s.setFld F.AGE_STAT_WORST 0).planDue else s

/-- AGE_CMD: 1 READ, 2 APPLY, 3 DEFER (R412, R417). -/
def State.ageCmd (s : State) (cmd : Nat) : State :=
  if cmd = 1 then s.onAge fun a => { a with asked := true }
  else if cmd = 2 ∧ s.awaits 0x05 0 0 0 then (s.answered 0x05 0 0 0).queueReplan
  else if cmd = 3 ∧ s.awaits 0x05 0 0 0 then s.planClear.answered 0x05 0 0 0
  else s

/-- READING (R412). -/
def execReading (drifts dieDrifts : List Nat) (s : State) : Outcome State Fault Refusal :=
  .next (s.readingDone drifts dieDrifts)

/-! ### Self-mode actions applied (R76) -/

/-- What a self-mode action does once ticket 3 applies. -/
def State.perform (s : State) : SelfAct → State
  | .mapped k => s.mapDone k
  | .retire k page => s.retirePage k page
  | .replan => s.replan

/-- Step 3 of R45: the armed tickets apply in ascending number, ticket 3 with the self-mode actions it was bound for; an
action whose ticket fails binds it again (R74, R455). -/
def State.ticketsSlack (s : State) : State :=
  let s := s.bindActs s.tideNo
  let s := ((s.ticketSlack 0).ticketSlack 1).ticketSlack 2
  let acts := (s.selfActs.filter fun a => a.bound).map SelfWait.act
  let s := s.ticketSlack 3
  let s := if s.fld (F.COMMIT_STAT_RESULT 3) = 3 ∧ s.tk 3 = tkIdle then
      let s := { s with selfActs := s.selfActs.filter fun a => !acts.contains a.act }
      s.each acts State.perform
    else s
  if s.selfActs.any (fun a => a.since.isSome && !s.actBlocked a.act) || !acts.isEmpty then s.bindActs (s.tideNo + 1) else s

end Sys2Proof.Machine
end

