-- ==== Sys2Proof/Machine/Power.lean ====
section
/-! DEFINITION. Power (17_power.md R393-R408, R416): energy counters, phase estimates, the allocation of the cap at each
slack with its floors and reasons, and what limits a point within a tide. -/

namespace Sys2Proof.Machine

open Host (Outcome)

def State.onPower (s : State) (f : PwrSt → PwrSt) : State := { s with pwr := f s.pwr }

/-! ### Points -/

/-- Order of points by speed: a stopped clock (15) is below point 0. -/
def rankPt (p : Nat) : Nat := if p = 15 then 0 else p + 1

/-- The slower of two points. -/
def slowerPt (p q : Nat) : Nat := if rankPt p < rankPt q then p else q

/-- PWR_ATL_SET.MHZ follows the point the clock runs at, halved while a droop stretches it (R397, R407). -/
def State.showMHz (s : State) (k : Atoll) : State :=
  let f := pointMHz (s.atl k).pwr.runPt
  s.setFld (F.PWR_ATL_SET_MHZ k) (if (s.atl k).pwr.droop then f / 2 else f)

/-- The setpoint of atoll `k` becomes `p` for `reason`: until the change is complete the clock runs at the lower of the
old and the new point (R397). -/
def State.setPt (s : State) (k : Atoll) (p reason : Nat) : State :=
  let s := (s.setFld (F.PWR_ATL_SET_PT k) p).setFld (F.PWR_ATL_SET_REASON k) reason
  (s.onPwr k fun a => { a with runPt := slowerPt a.runPt p }).showMHz k

/-- Atoll `k` is lowered one point for `reason` (R403, R408); THERM and VIN_LOW hold it there. -/
def State.lowerPt (s : State) (k : Atoll) (reason : Nat) : State :=
  let p := s.fld (F.PWR_ATL_SET_PT k)
  let q := if p = 15 then 15 else p - 1
  let s := if reason = 3 ∨ reason = 5 then
      s.onPwr k fun a => { a with reasons := (reason, q) :: a.reasons.filter fun r => r.1 != reason }
    else s
  if q = p then s else s.setPt k q reason

/-! ### Energy (R394, R395, R399) -/

/-- A counter that wraps at 64 bits, risen by `n`. -/
def State.wrapAdd (s : State) (f : Fld) (n : Nat) : State := s.setFld f ((s.fld f + n) % 2 ^ 64)

/-- The energies of the tide of `c` reference cycles that ends are counted (R394, R395; log 65: DESIGN CHOICE, unsafe).
-/
def State.countEnergy (s : State) (m : TideMeasure) (c : Nat) : State :=
  let at' (l : List Nat) (i : Nat) : Nat := l.getD i 0
  let s := ((s.wrapAdd F.PWR_E_IN m.input).wrapAdd F.PWR_E_HBR m.harbour).wrapAdd F.PWR_E_HOLM m.holm
  let s := s.each (List.range 6) fun s p => s.wrapAdd (F.PWR_E_PORT p) (at' m.ports p)
  s.each allAtolls fun s k =>
    let s := (s.wrapAdd (F.PWR_E_ATL k) (at' m.atolls k)).wrapAdd (F.PWR_E_STK k) (at' m.stacksE k)
    let s := s.each (s.atl k).pwr.ran fun s e =>
      s.wrapAdd (F.PWR_E_QUEUE (16 * k.val + e.1)) ((at' m.atolls k + at' m.stacksE k) * e.2 / max c 1)
    s.onPwr k fun a => { a with ran := [] }

/-- The estimate of a phase tag and its samples, if it has history (R399). -/
def AtlPwr.history (a : AtlPwr) (tag : Nat) : Option (Nat × Nat) := (a.est.find? fun e => e.1 == tag).map Prod.snd

/-- A sample `x` of a phase tag, pJ per clock: the first sets the estimate, each later one moves it by a sixteenth; 256
tags are kept (R399; log 77: DESIGN CHOICE, unsafe). -/
def AtlPwr.learn (a : AtlPwr) (tag : Nat) (x : Q) : AtlPwr :=
  let (v, n) := match a.history tag with
    | some (e, n) => (let e := (f32 e).toQ; (e.add (Q.mul ⟨1, 16⟩ (x.sub e))).norm, n + 1)
    | none => (x, 1)
  { a with est := ((tag, fp32.enc (Val.ofQ v), min n (2 ^ 32 - 1)) :: a.est.filter fun e => e.1 != tag).take 256 }

/-- Square of the ratio of two voltages; 1 where either is of no point. -/
def vRatio2 (a b : Nat) : Q := if a = 0 ∨ b = 0 then ⟨1, 1⟩ else ⟨(a * a : Nat), b * b⟩

/-- Estimates of atoll `k` from the slices that ended in the tide, its energy `e` in µJ shared among its array clocks
(R399; log 65: DESIGN CHOICE, unsafe). -/
def State.learnPhases (s : State) (k : Atoll) (e : Nat) : State :=
  let a := (s.atl k).pwr
  let c := s.clocks k - a.clk0
  let top := s.vAt k (s.fld (F.PWR_ATL_SET_TOP_PT k))
  s.onPwr k fun a =>
    let a := a.phases.foldl (fun (a : AtlPwr) (x : Nat × Nat × Nat) =>
      if c = 0 ∨ x.2.1 = 0 then a
      else a.learn x.1 (Q.mul ⟨(1000000 * e : Nat), c⟩ (if x.2.2 = 15 then ⟨1, 1⟩ else vRatio2 top (s.vAt k x.2.2))).norm) a
    { a with phases := [], clk0 := s.clocks k }

/-! ### The allocation (R398-R402) -/

/-- Mean power in W of `e` µJ over `c` reference cycles. -/
def wattsOf (e c : Nat) : Q := ⟨(100 * e : Nat), max c 1⟩

/-- The slice held on atoll `k` for reissue or resume, with its remaining budget (R398, R401). -/
def State.heldSlice (s : State) (k : Atoll) : List (Nat × Nat) :=
  match (s.atl k).seq.slice, (s.atl k).seq.run with
  | some x, some (.cut _ _) => [(x.phase, x.budget - x.used)]
  | some x, some .reissue => [(x.phase, x.budget)]
  | some x, some (.voided _ _ _) => [(x.phase, x.budget)]
  | _, _ => []

/-- Phase tags and budgets that form atoll `k`'s predicted phases and its floor. -/
def State.predicted (s : State) (k : Atoll) : List (Nat × Nat) := (s.atl k).pwr.passed ++ s.heldSlice k

/-- Demand of the predicted phases at the top point, W; the share where one has no history (R398). -/
def State.demandOf (s : State) (k : Atoll) (share : Q) : Q :=
  let a := (s.atl k).pwr
  let tags := (s.predicted k).map Prod.fst
  let f := pointMHz (s.fld (F.PWR_ATL_SET_TOP_PT k))
  if tags.any fun t => (a.history t).isNone then share
  else tags.foldl (fun d t => d.max (Q.mul (f32 ((a.history t).elim 0 Prod.fst)).toQ ⟨f, 1000000⟩).norm) Q.zero

/-- Highest LEVEL of the SWELLs due on atoll `k` in the current tide (R400). -/
def State.swellDue (s : State) (k : Atoll) : Option Nat :=
  (((s.atl k).pwr.swells.filter fun x => x.1 == s.tideNo).map fun x => x.2.2).max?

/-- P_k(p) of R398 for a demand `d` at the top point. -/
def State.powerAt (s : State) (k : Atoll) (d : Q) (p : Nat) : Q :=
  if p = 15 then Q.zero
  else
    let top := s.fld (F.PWR_ATL_SET_TOP_PT k)
    (Q.mul (Q.mul d (vRatio2 (s.vAt k p) (s.vAt k top))) ⟨pointMHz p, max 1 (pointMHz top)⟩).norm

/-- The snapshot stop goes on through the tide that begins (R377). -/
def State.stopGoes (s : State) : Bool := s.ckpt.stop.any fun x => decide (s.now < x.begun + x.len)

/-- The floor of R401: the point that runs the predicted budgets within a tide; point 0 through a snapshot stop (R448). -/
def State.floorPt (s : State) (k : Atoll) : Nat :=
  if s.stopGoes then 0 else
  let sum := ((s.predicted k).map Prod.snd).sum
  let mhz := (sum * 100 + s.markPoint - 1) / max 1 s.markPoint
  min ((mhz + 99) / 100 - 7) (s.fld (F.PWR_ATL_SET_TOP_PT k))

/-- Highest point at most `top` whose power fits `alloc`, or point 0. -/
def State.capPt (s : State) (k : Atoll) (d alloc : Q) : Nat :=
  let top := s.fld (F.PWR_ATL_SET_TOP_PT k)
  (((List.range (top + 1)).filter fun p => (s.powerAt k d p).le alloc).getLast?).getD 0

/-- What the controller works out for an atoll at a slack. -/
structure Alloc where
  k     : Atoll
  /-- demand of the phases at the top point, with SWELL, and the allocation, W -/
  base  : Q
  d     : Q
  alloc : Q
  floor : Nat
  /-- point the cap gives, PHASE_OVER in force, the harbour's point, the point so far -/
  cap   : Nat
  exceeded : Bool
  host  : Option Nat
  pt    : Nat
  deriving DecidableEq, Repr

/-- The self rule's point: the cap's, lowered by PHASE_OVER, never below the floor (R398, R404). -/
def Alloc.self (a : Alloc) : Nat := max a.floor (if a.exceeded then a.cap - 1 else a.cap)

/-- The atoll with the highest power at its current point that can be lowered, ties to the lowest number (R402). -/
def State.highest (s : State) (l : List (Atoll × Q × Nat)) : Option Atoll :=
  (l.foldl (fun (b : Option (Atoll × Q)) x =>
    if x.2.2 = 0 ∨ x.2.2 = 15 then b
    else
      let p := s.powerAt x.1 x.2.1 x.2.2
      match b with
      | some (k, q) => if q.lt p then some (x.1, p) else some (k, q)
      | none => some (x.1, p)) none).map Prod.fst

/-- Lower one point at a time until the power fits `room` or every atoll is at point 0 (R402). -/
def State.shed (s : State) (room : Q) : Nat → List (Atoll × Q × Nat) → List (Atoll × Q × Nat)
  | 0, l => l
  | n + 1, l =>
    let sum := l.foldl (fun t x => (t.add (s.powerAt x.1 x.2.1 x.2.2)).norm) Q.zero
    if sum.le room then l
    else match s.highest l with
      | some k => s.shed room n (l.map fun x => if x.1 = k then (x.1, x.2.1, x.2.2 - 1) else x)
      | none => l

/-- Host points are in force: host mode, and the harbour's beat within its timeout (R416). -/
def State.hostPoints (s : State) : Bool :=
  let t := s.fld (F.PG_HOST_TIMEOUT_TIDES (pageBase 0x03 0))
  s.hosted 0x03 0 0 && !s.pwr.expired && (t == 0 || decide (s.tideNo < s.pwr.beat + t))

/-- The point the reasons THERM and VIN_LOW, a trip and the coolant stop leave of `p`. -/
def State.heldPt (s : State) (k : Atoll) (p : Nat) : Nat :=
  if s.flag F.THERM_STAT_COOLANT_STOP || (s.fld F.THERM_STAT_TRIPPED).testBit k then 15
  else (s.atl k).pwr.reasons.foldl (fun p r => slowerPt p r.2) p

/-- The binding reason of R405 at point `p`: its limit is the lowest, ties in the order of R405. -/
def State.reasonOf (s : State) (a : Alloc) (below : Bool) (p : Nat) : Nat :=
  let top := s.fld (F.PWR_ATL_SET_TOP_PT a.k)
  if p = top then (if top < 14 then 6 else 15)
  else
    let held (r : Nat) : List (Nat × Nat) := (s.atl a.k).pwr.reasons.filter fun x => x.1 == r
    let stop := s.flag F.THERM_STAT_COOLANT_STOP
    let other := s.flag F.THERM_STAT_OTHER_TRIP
    let l : List (Nat × Nat) :=
      (if stop && !other then [(8, 15)] else []) ++
      (if stop && other || (s.fld F.THERM_STAT_TRIPPED).testBit a.k then [(3, 15)] else []) ++ held 3 ++ held 5 ++
      (if below && decide (a.pt < a.floor) then [(4, a.pt)] else []) ++ [(6, top)] ++
      (match a.host with | some h => if h < a.self then [(7, h)] else [] | none => []) ++
      (if a.exceeded then [(1, max a.floor (a.cap - 1))] else []) ++ [(0, max a.floor a.cap)]
    (l.foldl (fun (b : Nat × Nat) x => if rankPt x.2 < rankPt b.2 then x else b) (15, 14)).1

/-- A quantity in W as a 16-bit field shows it. -/
def wField (q : Q) : Nat := min 65535 q.floor.toNat

/-- Step 4 of R45 (R398-R402, R404, R416): every atoll's point for the tide that begins, from the tide of `c` reference
cycles that ended (log 80: DESIGN CHOICE, unsafe). -/
def State.allocate (s : State) (m : TideMeasure) (c : Nat) : State :=
  let first := s.pwr.first || !s.ready
  let sum := m.atolls.sum + m.stacksE.sum + m.ports.sum + m.harbour + m.holm
  let (free, s) := if !first && sum = 0 then s.fresh else (0, s)
  let ratio : Q := if sum = 0 then ⟨(Config.freeBits 10 free).toNat, 1000⟩ else ⟨m.input, sum⟩
  let eta : Q := if first then ⟨94, 100⟩ else if ratio.lt ⟨85, 100⟩ then ⟨85, 100⟩ else if Q.lt ⟨98, 100⟩ ratio then ⟨98, 100⟩ else ratio
  let other : Q := if first then ⟨1600, 1⟩ else wattsOf (m.stacksE.sum + m.ports.sum + m.harbour + m.holm) c
  let inside := Q.mul ⟨s.fld F.PWR_CAP_WATTS, 1⟩ eta
  let b := (inside.sub other).norm
  let ks := s.serving
  let n := max 1 ks.length
  let share := (Q.mul b ⟨1, n⟩).norm
  let host := s.hostPoints
  let tol := s.fld F.PWR_POLICY_OVER_TOL
  let ds := ks.map fun k =>
    let base := s.demandOf k share
    (k, base, match s.swellDue k with | some l => base.max (Q.mul ⟨(l + 1 : Nat), 16⟩ share) | none => base)
  let sumD := ds.foldl (fun t x => (t.add x.2.2).norm) Q.zero
  let as := ds.map fun (x : Atoll × Q × Q) =>
    let (k, base, d) := x
    let alloc := if sumD.le b then (d.add (Q.mul (b.sub sumD) ⟨1, n⟩)).norm else (Q.mul d (b.div sumD)).norm
    let e := m.atolls.getD k 0
    let exceeded := !first && Q.lt (Q.mul (s.atl k).pwr.alloc ⟨(c * (64 + tol) : Nat), 6400⟩) ⟨e, 1⟩
    let top := s.fld (F.PWR_ATL_SET_TOP_PT k)
    let fl := s.floorPt k
    let a : Alloc := ⟨k, base, d, alloc, fl, s.capPt k base alloc, exceeded, none, 0⟩
    let h := if host && s.flag (F.PWR_HSET_VALID k) then some (max fl (min top (s.fld (F.PWR_HSET_PT k)))) else none
    { a with host := h, pt := h.getD a.self }
  let atFloor := as.foldl (fun t (a : Alloc) => (t.add (s.powerAt a.k a.base a.floor)).norm) Q.zero
  let room := (inside.sub other).norm
  let below := room.lt atFloor
  let as := if below then
      let l := s.shed room 128 (as.map fun a => (a.k, a.base, a.floor))
      as.map fun a => { a with pt := ((l.find? fun x => x.1 == a.k).map fun x => x.2.2).getD a.floor }
    else as
  let s := s.setFld F.PWR_STAT_ETA (Q.mul eta ⟨1000, 1⟩).floor.toNat
  let s := s.setFld F.PWR_STAT_CAP_BELOW_FLOOR (if below then 1 else 0)
  let s := s.setFld F.PWR_STAT_HOST_ACTIVE (if host then 1 else 0)
  let s := (s.setFld F.PWR_BUDGET_ATOLLS (wField b)).setFld F.PWR_BUDGET_OTHER (wField other)
  let s := s.raiseIf below 0x03 0 0
  let s := s.each as fun s a =>
    let p := s.heldPt a.k a.pt
    let r := s.reasonOf a below p
    let s := (s.setFld (F.PWR_ATL_ALLOC_DEMAND a.k) (wField a.d)).setFld (F.PWR_ATL_ALLOC_ALLOC a.k) (wField a.alloc)
    let s := s.setFld (F.PWR_ATL_SET_FLOOR_PT a.k) a.floor
    let s := s.onPwr a.k fun w =>
      { w with base := a.base, alloc := a.alloc, passed := [], swells := w.swells.filter fun x => decide (s.tideNo < x.1) }
    s.setPt a.k p r
  s.onPower fun w => { w with first := w.first && !s.ready }

/-! ### What a slack does beside (R393, R406, R408) -/

/-- Episodes and tides of each reason over the tide that ends (R406; log 78: DESIGN CHOICE, unsafe). -/
def State.reasonSlack (s : State) : State :=
  let bound := s.pwr.bound
  let s := s.each (List.range 9) fun s r =>
    if r ∈ bound then
      let s := s.bump (F.PWR_THR_TIDES r)
      if r ∈ s.pwr.episodes then s.bump (F.PWR_THR_LAST r)
      else (s.bump (F.PWR_THR_EPI r)).setFld (F.PWR_THR_LAST r) 1
    else s
  s.onPower fun w => { w with episodes := bound, bound := [] }

/-- Bit `k` of an atoll mask field cleared. -/
def State.clearBit (s : State) (f : Fld) (k : Nat) : State :=
  let v := s.fld f
  s.setFld f (if v.testBit k then v - 2 ^ k else v)

def State.setBit (s : State) (f : Fld) (k : Nat) : State := s.setFld f (s.fld f ||| 2 ^ k)

/-- THERM, trips and VIN_LOW end at a slack where the readings allow it (R393, R408). -/
def State.releaseSlack (s : State) (m : TideMeasure) : State :=
  let thr : Int := s.fld F.THERM_LIM_THROTTLE
  let s := s.each s.serving fun s k =>
    match m.atollTemp[k.val]? with
    | none => s
    | some t =>
      let s := if (s.fld F.THERM_STAT_TRIPPED).testBit k ∧ t < 1600 then s.clearBit F.THERM_STAT_TRIPPED k else s
      if (s.fld F.THERM_STAT_THROTTLED).testBit k ∧ t < (thr - 3) * 16 then
        let s := s.onPwr k fun a => { a with reasons := a.reasons.filter fun r => r.1 != 3 }
        (s.clearBit F.THERM_STAT_THROTTLED k).raise 0x04 0 0
      else s
  if s.flag F.PWR_STAT_VIN_LOW ∧ 48000 ≤ m.vin then
    let s := s.each allAtolls fun s k => s.onPwr k fun a => { a with reasons := a.reasons.filter fun r => r.1 != 5 }
    (s.setFld F.PWR_STAT_VIN_LOW 0).raise 0x03 0 2
  else s

/-- Power at a slack that ends a tide of `c` reference cycles: step 4 of R45. -/
def State.powerSlack (s : State) (m : TideMeasure) (c : Nat) : State :=
  let s := s.countEnergy m c
  let s := s.each allAtolls fun s k => s.learnPhases k (m.atolls.getD k 0)
  let s := (s.reasonSlack.releaseSlack m).ageSlack
  let s := if s.hosted 0x03 0 0 then s else s.onPower fun w => { w with beat := s.tideNo, expired := false }
  s.allocate m c

/-! ### Views of the PWR page -/

/-- PWR_PH_EST and PWR_PH_CNT of the tag PWR_PH_IDX names (R399). -/
def State.phaseView (s : State) : Nat × Nat :=
  ((s.atl (atollOf (s.fld F.PWR_PH_IDX_ATOLL))).pwr.history (s.fld F.PWR_PH_IDX_TAG)).getD (0, 0)

/-- PWR_ATL_SWELL: the nearest pending SWELL of atoll `k` (R400). -/
def State.swellView (s : State) (k : Atoll) : Nat :=
  let l := (s.atl k).pwr.swells.filter fun x => decide (s.tideNo < x.1)
  match (l.map Prod.fst).min? with
  | none => 0
  | some t =>
    match l.find? fun x => x.1 == t with
    | some (_, ph, lv) => lv * 2 ^ 20 + ph * 2 ^ 8 + min 255 (t - s.tideNo)
    | none => 0

/-- AGE_PLAN of the point AGE_PLAN_IDX names (R396). -/
def State.planView (s : State) : Nat :=
  let p := s.fld F.AGE_PLAN_IDX_PT
  if 14 < p then 0 else vNom p * 2 ^ 16 + s.vAt (s.fld F.AGE_PLAN_IDX_ATOLL) p

/-! ### The commands -/

/-- A converter's current limit lowers its own rail's atoll one point (R403). -/
def State.converterLimit (s : State) (k : Atoll) : State :=
  let p := s.fld (F.PWR_ATL_SET_PT k)
  if !s.inService k || p == 0 || p == 15 then s else (s.lowerPt k 4).raise 0x03 0 1

/-- LIMITER_WINDOW (R403): `watts` is the mean input power of the window that ends, `vin` its mean input in mV,
`limited` the atolls whose converters met their limit in it (log 81: DESIGN CHOICE, unsafe). -/
def execLimiterWindow (watts vin : Nat) (limited : List Atoll) (s : State) : Outcome State Fault Refusal :=
  let s := if s.fld F.PWR_CAP_WATTS < watts then
      match s.highest (s.serving.map fun k => (k, (s.atl k).pwr.base, s.fld (F.PWR_ATL_SET_PT k))) with
      | some k => (s.lowerPt k 4).raise 0x03 0 1
      | none => s
    else s
  let s := if s.flag F.PWR_STAT_VIN_LOW ∧ vin < 47500 then s.each s.serving fun s k => s.lowerPt k 5 else s
  .next (s.each limited State.converterLimit)

/-- VIN_LOW (R393): the throttle begins. -/
def execVinLow (vin : Nat) (s : State) : Outcome State Fault Refusal :=
  if vin < 47500 ∧ s.flag F.PWR_STAT_VIN_LOW = false then .next ((s.setFld F.PWR_STAT_VIN_LOW 1).raise 0x03 0 2) else .next s

/-- SENSE_FAULT (R393). -/
def execSenseFault (s : State) : Outcome State Fault Refusal :=
  .next (((s.setFld F.PWR_STAT_SENSE_LOCAL 1).raise 0x03 0 3).alertCause 5)

/-- DROOP (R407): every period of the atoll's clock doubles. -/
def execDroop (k : Atoll) (s : State) : Outcome State Fault Refusal :=
  .next ((s.onPwr k fun a => { a with droop := true }).showMHz k)

/-- DROOP_RELEASE (R407). -/
def execDroopRelease (k : Atoll) (s : State) : Outcome State Fault Refusal :=
  .next ((s.onPwr k fun a => { a with droop := false }).showMHz k)

/-- THROTTLE (R408): the atoll at or above THERM_LIM.THROTTLE is lowered one point. -/
def execThrottle (k : Atoll) (temp : Int) (s : State) : Outcome State Fault Refusal :=
  if temp < 16 * (s.fld F.THERM_LIM_THROTTLE : Int) then .next s
  else
    let s := if (s.fld F.THERM_STAT_THROTTLED).testBit k then s else (s.setBit F.THERM_STAT_THROTTLED k).raise 0x04 0 0
    .next (s.lowerPt k 3)

/-- TRIP (R408): the atoll's clock is stopped. -/
def execTrip (k : Atoll) (temp : Int) (s : State) : Outcome State Fault Refusal :=
  if temp < 1840 ∨ (s.fld F.THERM_STAT_TRIPPED).testBit k then .next s
  else
    let s := ((s.setBit F.THERM_STAT_TRIPPED k).bump F.THERM_CNT_TRIP).setPt k 15 3
    .next ((s.raise 0x04 0 1).alertCause 3)

/-- STACK_HOT (R409): a stack crosses STACK_THR, or falls 3 °C below it. -/
def execStackHot (stack : Stack) (temp : Int) (s : State) : Outcome State Fault Refusal :=
  let thr : Int := s.fld F.THERM_LIM_STACK_THR
  let hot := s.pwr.hot.contains stack.val
  if !hot ∧ thr * 16 ≤ temp then .next ((s.onPower fun w => { w with hot := w.hot ++ [stack.val] }).raise 0x04 0 3)
  else if hot ∧ temp < (thr - 3) * 16 then
    .next ((s.onPower fun w => { w with hot := w.hot.filter fun x => x != stack.val }).raise 0x04 0 3)
  else .next s

/-- SETPOINT_REACHED (R397): the clock leaves the lower of the old and the new point. -/
def execSetpointReached (k : Atoll) (s : State) : Outcome State Fault Refusal :=
  .next ((s.onPwr k fun a => { a with runPt := s.fld (F.PWR_ATL_SET_PT k) }).showMHz k)

/-- PWR_HOST_BEAT (R416): a write restarts the timeout; host points come into force again. -/
def State.hostBeat (s : State) : State := s.onPower fun w => { w with beat := s.tideNo, expired := false }

/-- No beat came within the timeout (R416): the self rule applies, FELL is set. -/
def State.beatFallback (s : State) : State :=
  let t := s.fld (F.PG_HOST_TIMEOUT_TIDES (pageBase 0x03 0))
  if s.hosted 0x03 0 0 && !s.pwr.expired && t != 0 && decide (s.pwr.beat + t ≤ s.tideNo) then
    (s.onPower fun w => { w with expired := true }).fell 0x03 0 0
  else s

end Sys2Proof.Machine
end

