-- ==== Sys2Proof/Machine/Modes.lean ====
section
/-! DEFINITION. The self/host split (19_modes.md R449-R453): what the self rule does with an event that waits for the
harbour, the fallback of a timeout, and the hand-over of a function at slack. -/

namespace Sys2Proof.Machine

open Host (Outcome)

/-- The self rule of link training (R322) for lane `what`, the link (512), or a bundle, which retrains where it is
served `now`, else at the next slack. -/
def State.portSelfRule (s : State) (p : PortIx) (what : Nat) (now : Bool) : State :=
  let s := s.answered 0x30 p 0 what
  if what < 32 then s.onLane p what fun y => { y with asked := true }
  else if what = 512 then s.emit (.linkStart p)
  else
    let s := s.onBundle p (what - 1024) fun b => { b with retrain := true, asked := true }
    if now then s.retrainBundle p (what - 1024) else s

/-- The self rule of channel retraining and of map-out, HOST bits 0 and 1 of the MC page (R264, R266): a fallback at the
slack itself (`now`) opens the window or begins the migration there. -/
def State.channelRule (s : State) (k : Atoll) (b what : Nat) (now : Bool) : State :=
  let s := s.answered 0x1A k b what
  if b = 0 then
    let s := s.onChan k what fun ch => { ch with requested := true, needRaised := false }
    if now then s.openWindow k else s
  else
    let s := s.queueMapout k what
    if now && (s.atl k).mc.ebb.isNone then s.ebbSlack k else s

/-- The self rule of a Q-descriptor's scale (R174): GAIN_SELF. -/
def State.qServe (s : State) (k : Atoll) (addr : Nat) : State :=
  let s := s.qSet k addr fun w => Qd.setAwait (Qd.setGain w (Qd.gainSelf w)) false
  (s.onSeq k fun q => if q.await = some addr then { q with await := none } else q).answered 0x10 k 0 addr

/-- A held close goes on under the self rule (R370). -/
def State.stepServe (s : State) (k : Atoll) (i : Nat) : State :=
  s.onRed k i fun r =>
    { r with steps := r.steps.map fun y =>
        if !y.closed && y.held.isSome && y.closeAt.isNone then { y with closeAt := some s.tideNo } else y }

/-- Port number `i` as an index. -/
def portOf (i : Nat) : PortIx := ⟨i % 6, Nat.mod_lt _ (by decide)⟩

/-- An event of HOST bit `b` of instance `i` of class `c`, about `what`, is served under the self rule (R449); `fell`
tells a fallback, which some rules report beside FELL. -/
def State.selfRule (s : State) (c i b what : Nat) (fell : Bool) : State :=
  let k := atollOf i
  let now := fell && s.tide.phase == 0
  match c, b with
  | 0x10, _ => if fell then (s.qFallback k what).answered 0x10 i 0 what else s.qServe k what
  | 0x17, _ => s.strmSelfRule k what
  | 0x1A, 0 => s.channelRule k 0 what now
  | 0x1A, 1 => s.channelRule k 1 what now
  | 0x1A, _ =>
    let s := s.answered 0x1A i 2 what
    if (s.atl k).mc.pend.any (fun e => e.1 == what) ∧ !s.selfActs.any (fun a => a.act == .retire k what) then
      { s with selfActs := s.selfActs ++ [⟨.retire k what, none, false⟩] }
    else s
  | 0x30, _ => s.portSelfRule (portOf i) what now
  | 0x32, _ => (s.answered 0x32 i 0 what).admitFallback what
  | 0x19, _ =>
    let s := s.answered 0x19 i 0 what
    if fell then s.stepFallback k (what / 2 ^ 32) else s.stepServe k (what / 2 ^ 32)
  | 0x09, _ => s.ckptFallback b
  | 0x05, _ => (s.answered 0x05 0 0 0).queueReplan
  | _, _ => s.answered c i b what

/-- At a slack, waiting events whose HOST bit now reads 0 are served under the self rule, FELL unset (R451). -/
def State.handOver (s : State) : State :=
  s.each s.waits fun s w =>
    let (c, i) := pageOfIx w.page
    if s.hosted c i w.bit then s else s.selfRule c i w.bit w.what false

/-- Events of a page's function that have waited its timeout (R452). -/
def State.timedOut (s : State) (page bit : Nat) : List HostWait :=
  let t := s.fld (F.PG_HOST_TIMEOUT_TIDES (pageBase (pageOfIx page).1 (pageOfIx page).2))
  s.waits.filter fun w => w.page == page && w.bit == bit && t != 0 && decide (w.tide + t ≤ s.tideNo)

/-- HOST_TIMEOUT (R452): each event that has waited too long is served under the self rule, and FELL is set. Cap
allocation, which never waits, falls back by R416 (log 74: DESIGN CHOICE, unsafe). -/
def execHostTimeout (page : PageIx) (bit : Fin 4) (s : State) : Outcome State Fault Refusal :=
  let (c, i) := pageOfIx page
  if c = 0x03 then .next s.beatFallback
  else .next (s.each (s.timedOut page bit) fun s w => (s.selfRule c i bit w.what true).fell c i bit)

end Sys2Proof.Machine
end

