-- ==== Sys2Proof/Machine/Tide.lean ====
section
/-! DEFINITION. The tide (02_tide.md): marks and held quanta, the leader and the follower's offset, overruns under HOLD
and CUT, and what happens at slack in the order of R45. -/

namespace Sys2Proof.Machine

open Host (Outcome)

/-! ### Leadership (R50, R53, R54, R454) -/

/-- TIDE_STAT.LEADER. -/
def State.leader (s : State) : Nat := s.fld F.TIDE_STAT_LEADER

/-- The module leads, or runs its own tides (R51). -/
def State.leads (s : State) : Bool := !s.hasSlot || s.leader == s.slotNo

/-- What is kept of the peer in `slot`. -/
def State.peer (s : State) (slot : Nat) : PeerSt := SMap.get (fun _ => PeerSt.none) s.tide.peers slot

def State.onPeer (s : State) (slot : Nat) (f : PeerSt → PeerSt) : State :=
  s.onTide fun t => { t with peers := SMap.put (fun _ => PeerSt.none) t.peers slot (f (SMap.get (fun _ => PeerSt.none) t.peers slot)) }

/-- Slots that one module each reports of those heard in discovery (R314, R316). -/
def State.discoveredSlots (s : State) : List Nat :=
  bPorts.flatMap fun p => ((s.port p).bundles.filter fun e =>
    s.takesPart p e.1 && !((s.port p).lanesTo e.1 false).isEmpty).map fun e => e.2.slot

/-- Least of a list of slots and the module's own. -/
def State.lowest (s : State) (l : List Nat) : Nat := l.foldl min s.slotNo

/-- The leader from this slack on. -/
def State.nextLeader (s : State) : Nat :=
  let own := s.slotNo
  let cur := s.leader
  let ps := s.boardPeers
  let named := s.fld F.TIDE_LEAD_SLOT
  if !s.hasSlot then 0
  else if s.hosted 0x01 0 0 && s.flag F.TIDE_LEAD_VALID && (named == own || ps.contains named) then named
  else if ps.isEmpty then (if s.rst.marks < 8 ∧ s.tide.lost < 4 then cur else own)
  else if s.hosted 0x01 0 0 && s.flag F.TIDE_LEAD_VALID then s.lowest ps
  else if cur ≠ own ∧ (s.tide.lost = 4 ∨ (!ps.contains cur && (s.straitTo cur).isNone) = true) then
    s.lowest (ps.filter fun i => i != cur)
  else
    let back := if s.tideNo % 1024 = 0 then
        (ps.filter fun i => decide (i < cur ∧ 16 ≤ (s.peer i).aligned)) ++
        (if own < cur ∧ 16 ≤ s.tide.alignRun then [own] else [])
      else []
    match back.min? with
    | some i => i
    | none => if cur = own then s.lowest (ps.filter fun i => (s.peer i).leads) else cur

/-- The module's own part in TIDE_STAT follows its leader (R51, R53). -/
def State.showLead (s : State) : State :=
  let s := s.setFld F.TIDE_STAT_SOLO (if s.boardPeers.isEmpty then 1 else 0)
  let s := s.setFld F.TIDE_STAT_IS_LEADER (if s.leads then 1 else 0)
  if s.leads then
    let s := ((s.setFld F.TIDE_STAT_ALIGNED 1).setFld F.TIDE_STAT_IN_LINE 1).wr R.TIDE_OFFSET 0
    s.onTide fun t => { t with trim := 0, trimNext := 0, lost := 0, lead := none }
  else s

/-- The harbour's named leader, where it is not present (R54). -/
def State.namedAbsent (s : State) : Option Nat :=
  let named := s.fld F.TIDE_LEAD_SLOT
  if s.hasSlot && s.hosted 0x01 0 0 && s.flag F.TIDE_LEAD_VALID && named != s.slotNo && !s.boardPeers.contains named
  then some named else none

/-- Leadership at a slack, after its tickets; `was` is what the harbour had named in vain before them (log 86: DEDUCED,
unsafe). -/
def State.leadSlack (s : State) (was : Option Nat) : State :=
  let n := s.nextLeader
  let absent := s.namedAbsent.isSome && s.namedAbsent != was
  if n = s.leader then
    (s.onTide fun t => { t with lost := if t.lost = 4 then 0 else t.lost }).showLead.raiseIf absent 0x01 0 6
  else
    let s := (s.setFld F.TIDE_STAT_LEADER n).onTide fun t => { t with lost := 0, lead := none }
    s.showLead.raise 0x01 0 6

/-! ### Marks (R38, R49, R317, R318) -/

/-- A slice is running on atoll `k`, or its restore after a cut is (R38). -/
def State.inSlice (s : State) (k : Atoll) : Bool :=
  match (s.atl k).seq.run with
  | some .running => true
  | some (.resuming _) => true
  | _ => false

/-- An atoll of the module is running a slice. -/
def State.anySlice (s : State) : Bool := allAtolls.any s.inSlice

/-- The body of the mark sent now, with quantum index `n`; an unaligned module's carries a clear IN_LINE flag (R52). -/
def State.markBody (s : State) (n : Nat) (hold : Bool) : MarkBody :=
  let (kind, init, gen, target) := s.markDecision
  let lead := s.hasSlot && s.leads
  { slot := ⟨s.slotNo % 16, Nat.mod_lt _ (by decide)⟩, hold := hold, leader := lead
    inLine := s.flag F.TIDE_STAT_IN_LINE && !s.tide.unaligned
    noSlot := !s.hasSlot, count := BitVec.ofNat 48 s.tideNo, defer := 0
    len := BitVec.ofNat 20 (if lead then s.tideLen else 0), n := n, decision := BitVec.ofNat 8 kind
    init := BitVec.ofNat 8 init, gen := BitVec.ofNat 16 gen, target := BitVec.ofNat 48 target
    g := if lead then s.graceQuanta else 0 }

/-- Bundles that are UP, by port and peer. -/
def State.bundled (s : State) : List (PortIx × Nat) :=
  bPorts.flatMap fun p => ((s.port p).bundles.filter fun e => (s.port p).carries e.1).map fun e => (p, e.1)

/-- A candidate's marks carry a hold bit: the module's own, or one of an in-line peer's, which a module in line honours
whatever its policy (R38, R41, R44, R51). -/
def State.refused (s : State) (n : Nat) : Bool :=
  s.tide.own.getD n false || (s.flag F.TIDE_STAT_IN_LINE && s.tide.got.any fun g => g.n == n && g.hold)

/-- Phase of mark 0 and slack candidate 0 of the current tide, moved on by `n` held quanta. -/
def State.markPhase (s : State) (n : Nat) : Nat := s.markPoint + 125 * n
def State.slackPhase (s : State) (n : Nat) : Nat := s.trimmedLen + 125 * n

/-- The first mark point since tide 0 passes: the eighth makes the module present (R50). -/
def State.countMark (s : State) : State :=
  let s := { s with rst := { s.rst with marks := s.rst.marks + 1 } }
  if s.rst.marks = 8 ∧ s.hasSlot = true then s.setFld F.HOLM_BOARD_PRESENT (s.fld F.HOLM_BOARD_PRESENT ||| 2 ^ s.slotNo) else s

/-- A copy of a mark leaves on lane `l` of a bundle, ahead of every queued flit; how long it waits for the flit boundary
is a free value (R318; log 84: DEDUCED, unsafe). -/
def State.sendCopy (s : State) (b : MarkBody) (p : PortIx) (x l : Nat) : State :=
  let (i, s) := s.fresh
  (s.emit (.mark p x l ((s.port p).bundle x).ack { b with defer := Config.freeBits 16 i })).bump (F.PORT_CNT_TX p)

/-- A mark leaves on a bundle: on its two lowest-numbered active lanes at once, or on its only one (R318). -/
def State.markOut (s : State) (b : MarkBody) (p : PortIx) (x : Nat) : State :=
  let l := (List.range 32).filter ((s.port p).active x true).contains
  s.each (l.take 2) fun s l => s.sendCopy b p x l

/-- Send mark `n`. -/
def State.sendMark (s : State) (n : Nat) : State :=
  let s := s.passTo (s.markPhase n)
  let hold := !s.flag F.TIDE_POLICY_MODE && s.anySlice
  let s := if n = 0 then s.decideDue.countMark
    else
      let s := (s.setFld F.TIDE_STAT_HELD 1).bump F.TIDE_CNT_QUANTA
      (if n = 1 then s.bump F.TIDE_CNT_HELD else s).onTide fun t => { t with quantum := n }
  let s := s.raiseIf hold 0x01 0 1
  let b := s.markBody n hold
  let s := s.onTide fun t => { t with sent := n + 1, own := t.own ++ [hold] }
  s.each s.bundled fun s e => s.markOut b e.1 e.2

/-- The next mark is due: mark 0 of every tide, mark n once candidate n − 1 is refused, for n at most G. -/
def State.markDue (s : State) : Bool :=
  s.tide.running && (s.tide.sent == 0 || (s.refused (s.tide.sent - 1) && decide (s.tide.sent ≤ s.graceQuanta)))

/-- MARK (R38) (log 84: DEDUCED, unsafe). -/
def execMark (s : State) : Outcome State Fault Refusal :=
  .next (if s.markDue then s.sendMark s.tide.sent else s)

/-! ### A received mark (R49-R53, R77, R318) -/

/-- ρ and the next trim of a follower that measured offset `o` (R51); a step takes the whole offset out (R52) (log 85:
DEDUCED, unsafe). -/
def State.correct (s : State) (o : Int) : State :=
  let lim : Int := (s.tideLen + 12499) / 12500
  let clamp (x l : Int) : Int := max (-l) (min l x)
  let a : Int := o.natAbs
  let rho := if o = 0 then s.tide.rho else clamp (s.tide.rho + o.sign * max 1 (a / 8)) lim
  let trim := if 8 < a then clamp rho (2 * lim) else clamp (rho + o) (2 * lim)
  s.onTide fun t => { t with rho := rho, trimNext := trim }

/-- The offset of the leader's mark 0, `d` being its delay (R51): a mark that comes early in a tide belongs to the one
before. -/
def State.offsetOf (s : State) (d : Nat) : Int :=
  let arrived : Int := (s.tide.phase : Int) - d
  if 2 * s.tide.phase < s.trimmedLen then arrived + 125 else arrived - s.markPoint

/-- The follower measures its offset from the leader's mark 0, once a tide. LEN and G come with the leader flag alone
(R49). -/
def State.measure (s : State) (d : Nat) (b : MarkBody) : State :=
  let o := s.offsetOf d
  let told := b.leader && b.len != 0
  let m : LeadMark :=
    ⟨b.count.toNat, if told then b.len.toNat else s.tideLen, if told then b.g else s.graceQuanta, o⟩
  let s := s.onTide fun t => { t with measured := true, lead := some m }
  let s := s.setFld F.TIDE_OFFSET_OFS (unsigned 16 o)
  let s := s.setFld F.TIDE_STAT_ALIGNED (if o.natAbs ≤ 2 then 1 else 0)
  let s := s.setFld F.TIDE_STAT_IN_LINE (if o.natAbs ≤ 8 then 1 else 0)
  let s := if 8 < o.natAbs then s.onTide fun t => { t with unaligned := true } else s
  s.correct o

/-- A mark on time from the peer in `slot`, `d` cycles on its way. That of a LATE peer takes no part in the agreement (R318).
-/
def State.markOnTime (s : State) (slot d : Nat) (b : MarkBody) (late : Bool) : State :=
  let early := decide (2 * s.tide.phase < s.trimmedLen)
  let s := s.onPeer slot fun q =>
    { q with inLine := b.inLine, leads := b.leader, thisTide := q.thisTide || b.n == 0 }
  -- it counts in the hold decision of its candidate until the decision point (R318)
  let s := if b.inLine && !late && s.boardPeers.contains slot && !early &&
      decide (s.tide.phase + 10 ≤ s.slackPhase b.n) then
    s.onTide fun t => { t with got := t.got ++ [⟨slot, b.n, b.hold⟩] } else s
  let s := if late then s
    else if s.tide.running && !s.leads && slot == s.leader && b.n == 0 && !s.tide.measured then s.measure d b
    else if b.leader && b.len != 0 && !s.tide.running then s.onTide fun t => { t with lead := some ⟨b.count.toNat, b.len.toNat, b.g, 0⟩ }
    else s
  let s := if b.decision = 1 ∨ b.decision = 2 then
    s.decisionIn b.init.toNat b.gen.toNat b.target.toNat (b.decision == 1) else s
  s.heardInit slot

/-- MARK_FLIT (R49, R317, R318): the first copy of a mark acts, and tells the sender's slot. Late, it is discarded and
counted. A mark of a module without a slot, or of a slot two modules claim, takes no part (R50, R316). -/
def execMarkFlit (port : BPort) (peer : Word64) (b : MarkBody) (s : State) : Outcome State Fault Refusal :=
  let p := bport port
  let x := peer.toNat
  if !(s.port p).carries x then .next s
  else
    let s := s.bump (F.PORT_CNT_RX p)
    let key := (b.count.toNat, b.n)
    if ((s.port p).bundle x).marked = some key then .next s
    else
      let s := (s.tellSlot p x (if b.noSlot then 16 else b.slot.val)).onBundle p x fun y => { y with marked := some key }
      let y := (s.port p).bundle x
      let d := y.delay.getD 0 + b.defer.toNat
      if !s.takesPart p x then .next s
      else if 100 < d then
        .next ((s.bump (F.PORT_CNT_MARK_LATE p)).onPeer y.slot fun q => { q with lateNow := true })
      else .next (s.markOnTime y.slot d b (y.state == .late))

/-- A bundle's peer becomes LATE, or takes part again (R318, R330). -/
def State.turnLate (s : State) (p : PortIx) (x : Nat) (late : Bool) : State :=
  let slot := ((s.port p).bundle x).slot
  let s := s.onBundle p x fun b => { b with state := if late then .late else .up }
  let s := if late then s.onTide fun t => { t with got := t.got.filter fun g => g.slot != slot } else s
  s.raise 0x30 p 5

/-- PEER_LATE (R318): eight tides in a row with a late mark, or a link delay above 100, make a peer LATE; eight with every
mark on time bring it back. -/
def execPeerLate (port : BPort) (peer : Word64) (s : State) : Outcome State Fault Refusal :=
  let p := bport port
  let n := (s.port p).bundle peer.toNat
  let q := s.peer n.slot
  let far := decide (100 < n.delay.getD 0)
  if n.state = .up ∧ (8 ≤ q.lateRun ∨ far = true) then .next (s.turnLate p peer.toNat true)
  else if n.state = .late ∧ 8 ≤ q.onTimeRun ∧ far = false then .next (s.turnLate p peer.toNat false)
  else .next s

/-- MARK_LOSS (R53): two tides without the leader's mark 0. The leader changes at the slack after it. -/
def execMarkLoss (s : State) : Outcome State Fault Refusal :=
  if s.leads ∨ s.tide.lost ≠ 2 then .next s
  else .next ((s.onTide fun t => { t with lost := 3 }).raise 0x01 0 7)

/-! ### Overruns (R39, R42, R43) -/

/-- Words of a bank with their places row by row. -/
def ArrSt.bankWords (m : ArrSt) (bank : Bool) : SMap Word32 := SMap.cut m.acc (if bank then 2 ^ 20 else 0) (2 ^ 20)

/-- Bytes of a list of words, sparse. -/
def wordBytes (l : SMap Word32) : SMap Byte :=
  l.flatMap fun e => ((List.range 4).map fun i => (4 * e.1 + i, BitVec.ofNat 8 (e.2.toNat / 256 ^ i))).filter fun x => x.2 != 0

/-- Words of sparse bytes. -/
def byteWords (l : SMap Byte) : SMap Word32 :=
  l.foldl (fun m e => SMap.put (fun _ => (0 : Word32)) m (e.1 / 4)
    (SMap.get (fun _ => (0 : Word32)) m (e.1 / 4) ||| BitVec.ofNat 32 (e.2.toNat * 256 ^ (e.1 % 4)))) []

/-- The bank a CUT saves as live: the one the last operation in the array writes, else the one that is LIVE (log 83:
DEDUCED, unsafe). -/
def ArrSt.liveBank (m : ArrSt) : Bool :=
  match (m.queue.filter fun o => o.started && o.op != 6 && !m.gone o).getLast? with
  | some o => o.a.bank
  | none => m.bank1.state == .live && m.bank0.state != .live

/-- The idle bank is saved too: steps of an operation on it are still in the array, or it is RELEASED with groups not
yet read (R130). -/
def ArrSt.idleToo (m : ArrSt) : Bool :=
  let idle := !m.liveBank
  (m.queue.any fun o => o.started && o.op != 6 && !m.gone o && o.a.bank == idle) || !(m.bank idle).unread.isEmpty

/-- Save the live bank, the idle bank where it must be, and v0 to v31 in the lagoon save area (R42): the words as the cells
hold them at the halt (R130). -/
def State.saveArea (s : State) (k : Atoll) (idle : Bool) : State :=
  let s := s.onArr k ArrSt.written
  let m := (s.atl k).arr
  let s := s.onStrm k fun x =>
    let l := SMap.paste lagDefault x.lag saveBase 0x40_0000 (wordBytes (m.bankWords m.liveBank))
    let l := if idle then SMap.paste lagDefault l (saveBase + 0x40_0000) 0x40_0000 (wordBytes (m.bankWords !m.liveBank)) else l
    { x with lag := SMap.paste lagDefault l (saveBase + 0x80_0000) 0x8_0000 (wordBytes (SMap.cut (s.atl k).vec.v 0 (2 ^ 17))) }
  s

/-- Restore what the save area holds. -/
def State.loadArea (s : State) (k : Atoll) (idle : Bool) : State :=
  let m := (s.atl k).arr
  let lag := (s.atl k).strm.lag
  let key (b : Bool) : Nat := if b then 2 ^ 20 else 0
  let acc := SMap.paste (fun _ => 0) m.acc (key m.liveBank) (2 ^ 20) (byteWords (SMap.cut lag saveBase 0x40_0000))
  let acc := if idle then
    SMap.paste (fun _ => 0) acc (key !m.liveBank) (2 ^ 20) (byteWords (SMap.cut lag (saveBase + 0x40_0000) 0x40_0000)) else acc
  (s.onArr k fun m => { m with acc := acc }).onVec k fun v =>
    { v with v := SMap.paste (fun _ => 0) v.v 0 (2 ^ 17) (byteWords (SMap.cut lag (saveBase + 0x80_0000) 0x8_0000)) }

/-- A running slice is cut (R42). One whose restore has not finished is cut with what the save area already holds. -/
def State.cutSlice (s : State) (k : Atoll) : State :=
  let s := ((s.bump F.TIDE_CNT_CUT).bump (F.SEQ_CNT_CUT k)).raise 0x01 0 2
  match (s.atl k).seq.run with
  | some (.resuming idle) =>
    s.onSeq k fun q => { q with run := some (.cut idle false), slice := q.slice.map fun x => { x with cuts := x.cuts + 1 } }
  | _ =>
    let idle := (s.atl k).arr.idleToo
    let c := s.clocks k
    (s.saveArea k idle).onSeq k fun q =>
      { q with run := some (.cut idle true)
               slice := q.slice.map fun x => { x with used := x.used + (c - x.start), cuts := x.cuts + 1 } }

/-- Step 2 of R45: slices still running fault under HOLD and are cut under CUT. -/
def State.settleOverruns (s : State) : State :=
  s.each allAtolls fun s k =>
    if !s.inSlice k then s
    else if s.flag F.TIDE_POLICY_MODE then s.cutSlice k else s.tideFault k

/-- Clocks of a cut's save and restore charged to the tide in which the slice resumes (R43); the save is charged to the
first tide after the cut (log 38: DEDUCED, unsafe). -/
def cutCharge (idle fresh : Bool) : Nat := (if idle then 8192 else 4096) * (if fresh then 2 else 1)

/-- Reference cycles that `c` array clocks of atoll `k` take, rounded up. -/
def State.cyclesFor (s : State) (k : Atoll) (c : Nat) : Nat :=
  if s.halfRate k = 0 then 0 else (2 * c + s.halfRate k - 1) / s.halfRate k

/-- A cut slice comes to its fit test (R42, R43). -/
def State.resumeCut (s : State) (k : Atoll) : State :=
  match (s.atl k).seq.slice, (s.atl k).seq.run with
  | some x, some (.cut idle fresh) =>
    let charge := cutCharge idle fresh
    let go (s : State) : State :=
      let s := s.onPwr k fun p => { p with passed := p.passed ++ [(x.phase, x.budget - x.used)] }
      s.onSeq k fun q => { q with run := some (.resuming idle), hold := s.cyclesFor k charge }
    (match s.fit k (x.budget - x.used + charge) with
     | .start => go s
     | .oversize => go (s.oversize k)
     | .wait => (s.fitWait k).onSeq k fun q => { q with run := some (.cut idle false) })
  | _, _ => s

/-- CUT_RESUME (R42, R130): the restore is done, the slice goes on, and its array replays the wavefront. -/
def execCutResume (k : Atoll) (s : State) : Outcome State Fault Refusal :=
  match (s.atl k).seq.run with
  | some (.resuming idle) =>
    let s := ((s.passTo (s.atl k).seq.hold).loadArea k idle).onArr k fun m => { m with replay := m.wavefront }
    .next (s.onSeq k fun q => { q with run := some .running, slice := q.slice.map fun x => { x with start := s.clocks k, waited := false } })
  | _ => .next s

/-! ### Counters of the tide that ends (R468) -/

/-- The "last tide" registers of atoll `k` are loaded, and its counts begin anew. -/
def State.tideCounts (s : State) (k : Atoll) : State :=
  let a := s.atl k
  let m := a.arr
  let s := (s.wr (R.ARR_STARVE_LAST k) (min m.starveNow 0xFFFFFFFF)).wr (R.ARR_DRAIN_LAST k) (min m.drainNow 0xFFFFFFFF)
  let s := s.wr (R.ARR_STEPS_LAST k) (min m.stepsNow 0xFFFFFFFF)
  let s := ((s.bump (F.ARR_CNT_STARVE k) m.starveNow).bump (F.ARR_CNT_DRAIN k) m.drainNow).bump (F.ARR_CNT_STEPS k) m.stepsNow
  let past (thr n : Nat) : Bool := thr != 0 && decide (thr < n)
  let s := s.raiseIf (past (s.fld (F.ARR_STARVE_THR_CLOCKS k)) m.starveNow) 0x11 k 0
  let s := s.wr (R.FEED_QMIN_LAST k) m.qmin
  let s := (s.wr (R.VEC_MAIN_LAST k) (min a.vec.mainNow 0xFFFFFFFF)).wr (R.VEC_DRAIN_LAST k) (min a.vec.drainNow 0xFFFFFFFF)
  let s := s.wr (R.VEC_DWAIT_LAST k) (min a.vec.dwaitNow 0xFFFFFFFF)
  let s := (s.wr (R.SEQ_STALL_LAST k) (min a.seq.stallNow 0xFFFFFFFF)).wr (R.SEQ_BUNDLES_LAST k) (min a.seq.bundles 0xFFFFFFFF)
  let s := s.raiseIf (past (s.fld (F.SEQ_STALL_THR_CLOCKS k)) a.seq.stallNow) 0x15 k 2
  let s := s.wr (R.COVE_FILL_LAST k) (min m.fillNow 0xFFFFFFFF)
  let s := (s.setFld (F.MC_HOLD_MAX_LAST k) (min a.mc.holdMax 1023)).wr (R.MC_HOLD_LAST k) (min a.mc.holdNow 0xFFFFFFFF)
  let s := (s.wr (R.STRM_LEND_LAST k) (min a.strm.lendNow 0xFFFFFFFF)).wr (R.LAG_FLOWWAIT_LAST k) (min a.strm.flowNow 0xFFFFFFFF)
  s.onAtl k fun a =>
    { a with
      arr := { a.arr with starveNow := 0, drainNow := 0, stepsNow := 0, qmin := 128, fillNow := 0 }
      vec := { a.vec with mainNow := 0, drainNow := 0, dwaitNow := 0 }
      seq := { a.seq with stallNow := 0, bundles := 0, hold := 0 }
      strm := { a.strm with lendNow := 0, flowNow := 0 }
      mc := { a.mc with holdNow := 0, holdMax := (a.mc.chans.map fun c => c.2.hold.length).foldl max 0 } }

/-! ### The tide turns (R31, R50-R53) -/

/-- Peers at a slack: presence after eight mark points with a mark, kept until the bundle goes DOWN (R50, R323);
lateness, alignment (R53, R318). -/
def State.peersSlack (s : State) : State :=
  let s := s.each (s.tide.peers.map Prod.fst) fun s i => s.onPeer i fun q =>
    { q with
      heard := if q.thisTide || q.lateNow then min (q.heard + 1) 8 else 0
      leads := q.leads && q.thisTide
      aligned := if q.thisTide && q.inLine then q.aligned + 1 else 0
      lateRun := if q.lateNow then q.lateRun + 1 else 0
      onTimeRun := if q.lateNow || !q.thisTide then 0 else q.onTimeRun + 1
      thisTide := false
      lateNow := false }
  let here := (List.range 16).filter fun i =>
    i != s.slotNo && (decide (8 ≤ (s.peer i).heard) || (s.fld F.HOLM_BOARD_PRESENT).testBit i) && (s.straitTo i).isSome
  let own := s.fld F.HOLM_BOARD_PRESENT &&& 2 ^ s.slotNo
  s.setFld F.HOLM_BOARD_PRESENT ((here.map fun i => 2 ^ i).foldl (· ||| ·) own)

/-- Least percentage of `len` that gives `g` grace quanta (log 85: DEDUCED, unsafe). -/
def pctFor (len g : Nat) : Nat := ((List.range 26).find? fun p => g ≤ len * p / 100 / 125).getD 25

/-- An unaligned follower that measured its offset steps into line (R52): its phase, count, LEN and grace (log 85:
DEDUCED, unsafe). A positive offset keeps phase 0 and lengthens the tide by it (log 103: DESIGN CHOICE, unsafe). -/
def State.stepIn (s : State) (was : Nat) : State :=
  match s.tide.lead with
  | some l =>
    if !s.tide.unaligned || !s.tide.measured || (decide (l.ofs.natAbs ≤ 8) && l.count == was && l.len == s.tideLen) then s
    else
      let s := s.setFld F.TIDE_COUNT_COUNT ((l.count + 1) % 2 ^ 48)
      let s := s.setFld F.TIDE_LEN_LEN l.len
      let s := if s.graceQuanta = l.g then s else s.setFld F.TIDE_GRACE_PCT (pctFor l.len l.g)
      let s := s.onTide fun t =>
        { t with phase := (-l.ofs).toNat, stepBy := if 0 < l.ofs then l.ofs else 0 }
      (s.bump F.TIDE_CNT_STEP).raise 0x01 0 5
  | none => s

/-- Step 1 of R45: the tide count, the phase, and the board's view of it. A loss of marks that no MARK_LOSS has told is
told before the leader changes (R53). -/
def State.turnTide (s : State) : State :=
  let was := s.tideNo
  let s := s.setFld F.TIDE_COUNT_COUNT ((was + 1) % 2 ^ 48)
  let s := s.raiseIf (was + 1 == 2 ^ 48) 0x01 0 8
  let s := s.raiseIf (!s.leads && s.tide.lost == 2) 0x01 0 7
  let aligned := s.leads || (s.tide.measured && decide ((s.tide.lead.elim 0 fun l => l.ofs.natAbs) ≤ 2))
  let s := s.onTide fun t =>
    { t with
      phase := 0, slacks := t.slacks + 1, sent := 0, quantum := 0, got := [], own := [], stepBy := 0
      trim := if t.measured then t.trimNext else t.trim
      alignRun := if aligned then t.alignRun + 1 else 0
      lost := if s.leads then 0 else if 2 ≤ t.lost then 4 else if t.measured then 0 else t.lost + 1 }
  let s := s.setFld F.TIDE_STAT_HELD 0
  let s := (s.stepIn was).onTide fun t => { t with measured := false }
  let s := s.setFld F.TIDE_OFFSET_TRIM (unsigned 16 s.tide.trim)
  let s := if 3 ≤ s.tide.alignRun then s.onTide fun t => { t with unaligned := false } else s
  s.peersSlack

/-! ### Slack (R45) -/

/-- An unlock that no guarded write has used is over (R66). -/
def State.relock (s : State) : State :=
  s.each (List.range 169) fun s p =>
    let f := F.PG_LOCK_STAT_OPEN (pageBase (pageOfIx p).1 (pageOfIx p).2)
    if s.fld f = 1 then s.setFld f 0 else s

/-- Step 8 for atoll `k`: what waits at its fit test, first what was faulted, voided or cut (R37, R42, R299), and the
armed field test, if no slice runs (R124). -/
def State.fitSlack (s : State) (k : Atoll) : State :=
  let s := if (s.atl k).arr.testArm ∧ !s.inSlice k then s.testBegin k else s
  let s := match (s.atl k).seq.run with
    | some .reissue => s.reissue k
    | some (.voided _ _ _) => s.voidSlack k
    | some (.cut _ _) => s.resumeCut k
    | _ => s
  if (s.atl k).seq.run = some .fitWait then s.retest k else s

/-- Slack: everything of R45 in its order, with `m` what the sensors gave over the tide that ends (log 84: DEDUCED,
unsafe). The bit errors that lagoon words took in the tide come into them here (log 114: DESIGN CHOICE, safe). -/
def State.takeSlack (s : State) (m : TideMeasure) : State :=
  let cycles := s.tide.phase
  let s := s.each m.flips fun s e => s.lagFlip e.1 e.2.1 e.2.2
  let s := s.each s.serving State.tideCounts
  let s := s.turnTide.settleOverruns
  let s := (s.ticketsSlack.leadSlack s.namedAbsent).handOver
  let s := s.powerSlack m cycles
  let s := s.renewQuotas.soundSlack.groupsSlack
  let s := s.each allPorts State.overloadSlack
  let s := s.each s.serving fun s k => (s.openWindow k).ebbSlack k
  let s := s.each bPorts State.straitSlack
  let s := s.each [2, 3, 4, 5] State.fabricSlack
  let s := s.stopEnd.partnerSlack.snapArm
  let s := s.relock.each allAtolls fun s k =>
    if (s.fld F.HBR_ATTACH_DOWN).testBit k then s.onAtl k fun a => { a with retry := true } else s
  s.each s.serving fun s k => ((s.reduceWaiting k).fitSlack k).startStreams k

/-- SLACK (R45): the candidate of the last mark is taken, unless its marks carry a hold bit and grace is left. -/
def execSlack (m : TideMeasure) (s : State) : Outcome State Fault Refusal :=
  if !s.tide.running then .next s
  else
    let s := if s.tide.sent = 0 then s.sendMark 0 else s
    let n := s.tide.sent - 1
    if s.refused n ∧ n < s.graceQuanta then .next s else .next ((s.passTo (s.slackPhase n)).takeSlack m)

/-- Marks up to the last quantum of grace, as long as each candidate is refused (log 84: DEDUCED, unsafe). -/
def State.marksUp : Nat → State → State
  | 0, s => s
  | n + 1, s => if s.markDue then State.marksUp n (s.sendMark s.tide.sent) else s

/-- GRACE_EXPIRY (R38 step 4, R39): slack at candidate G, whose marks still carry a hold bit. -/
def execGraceExpiry (m : TideMeasure) (s : State) : Outcome State Fault Refusal :=
  let g := s.graceQuanta
  let t := s.marksUp (g + 1)
  if t.tide.running ∧ t.tide.sent = g + 1 ∧ t.refused g = true then .next ((t.passTo (t.slackPhase g)).takeSlack m)
  else .next s

end Sys2Proof.Machine
end

