-- ==== Sys2Proof/Machine/Bringup.lean ====
section
/-! DEFINITION. Reset and bring-up (18_bringup.md R421-R433, 01_module.md R24-R28): what a reset leaves, the stages, loss
of an atoll, the coolant stop and the shut-down (17_power.md R393, R408-R411). -/

namespace Sys2Proof.Machine

open Host (Outcome)

def State.onRst (s : State) (f : RstSt → RstSt) : State := { s with rst := f s.rst }

/-! ### Seven atolls (R25, R61, R308) -/

/-- LOST and IN_SERVICE as sets of atolls. -/
def State.lostAtolls (s : State) : List Nat := (List.range 8).filter fun k => (s.fld F.HOLM_ATOLLS_LOST).testBit k

/-- Neighbours of atoll `k` over the causeway in order of preference: opposite, k + 1, k − 1 (R308). -/
def causeway (lost : List Nat) (k : Nat) : List Nat :=
  [(k + 4) % 8, (k + 1) % 8, (k + 7) % 8].filter fun j => !lost.contains j

/-- Hops of the shortest path from `k` to `j` over atolls in service, at most `fuel`. -/
def hops (lost : List Nat) (j : Nat) : Nat → Nat → Option Nat
  | 0, k => if k = j then some 0 else none
  | fuel + 1, k =>
    if k = j then some 0
    else ((causeway lost k).filterMap fun n => hops lost j fuel n).min?.map (· + 1)

/-- First hop from atoll `k` to atoll `j` of a module that has lost an atoll (R308). -/
def firstHop (lost : List Nat) (k j : Nat) : Nat :=
  if k = j then k
  else
    let best := ((causeway lost k).filterMap fun n => hops lost j 3 n).min?
    ((causeway lost k).find? fun n => (hops lost j 3 n).isSome && hops lost j 3 n == best).getD k

/-- Registers that follow from the atolls lost: those of identity, of the causeway and of the ferry chain (R25, R61)
(log 90: DEDUCED, unsafe). -/
def State.showAtolls (s : State) : State :=
  let lost := s.lostAtolls
  let s := s.setFld F.HOLM_ATOLLS_IN_SERVICE (0xFF - s.fld F.HOLM_ATOLLS_LOST)
  if lost.isEmpty then s
  else
    let bit (j : Nat) : Nat := if lost.contains (j % 8) then 0 else 1
    s.each allAtolls fun s k =>
      let n := k.val
      let s := s.setFld (F.ATL_ID_IN_SERVICE n) (bit n)
      let s := s.each (List.range 6) fun s i => s.setFld (F.SHOAL_ID_IN_SERVICE (6 * n + i)) (bit n)
      let s := (s.setFld (F.CWY_STAT_PREV n) (bit (n + 7))).setFld (F.CWY_STAT_NEXT n) (bit (n + 1))
      let s := (s.setFld (F.CWY_STAT_OPP0 n) (bit (n + 4))).setFld (F.CWY_STAT_OPP1 n) (bit (n + 4))
      let s := s.wr (R.CWY_ROUTE n) ((List.range 8).foldl (fun a j => a + firstHop lost n j * 8 ^ j) 0)
      s.setFld (F.FEED_FERRY_ROLE n) (if bit n = 0 then 0 else if bit (n + 7) = 0 then 1 else if bit (n + 1) = 0 then 3 else 2)

/-- Atoll `k` goes out of service at bring-up: 1 rail short, 2 map-out limit, 3 self-test (R26-R28, R433) (log 90:
DEDUCED, unsafe). -/
def State.loseAtoll (s : State) (k cause : Nat) : State :=
  if (s.fld F.HOLM_ATOLLS_LOST).testBit k then s
  else
    let s := (s.setBit F.HOLM_ATOLLS_LOST k).setFld F.HOLM_ATOLLS_LOST_CAUSE cause
    ((s.emit (.railOff k)).showAtolls.raise 0x00 0 2).alertCause 4

/-! ### What a reset leaves (R422, R424) -/

/-- Registers the flash reloads, and the pin COOL_OK's (R391, R412, R424). -/
def flashKept : List Nat :=
  [R.HOLM_ATOLLS, R.HOLM_BOOT, R.HOLM_ID, R.COMMIT_RULE_COUNT, R.CKPT_SAFE_ID, R.FLASH_SLOT_SIZE, R.FLASH_STAT, R.AGE_STAT,
   R.AGE_HIST, R.MGMT_SERIAL, R.THERM_STAT] ++
  (List.range 8).flatMap (fun k => [R.ARR_REPAIR k, R.MC_ALLOC_TOP k, R.MC_EBB k, R.AGE_ATL k, R.AGE_DIE k]) ++
  (List.range 6).map (fun p => R.PORT_MAC p) ++ (List.range 16).map fun w => R.SEC_IDHASH w

/-- The register at window offset `a` keeps its value over a reset: the flash's, and over a module reset the RST page,
counters from power-on, sensor copies, and the state of the newest checkpoint (log 82: DEDUCED, unsafe), and the head
and tail of every completion ring (R95; log 111: DEDUCED, unsafe). -/
def keptReg (power : Bool) (a : Nat) : Bool :=
  flashKept.contains a ||
  (!power && (a / 0x100000 == 0x06 || (allAtolls.any fun k => a == R.HBR_CR_HEAD k || a == R.HBR_CR_TAIL k) || a == R.CKPT_STAT || a == R.CKPT_ID || a == R.MGMT_ADDR || a % 0x1000 == 0x20 ||
    (match regAt (a / 0x100000) (a % 0x1000) with | some d => d.keep || d.sc != 0 | none => false)))

/-- A channel after a reset: windows, holds and copies are over, it has been trained anew (R424, R433). -/
def ChSt.afterReset (c : ChSt) : ChSt :=
  { c with
    state := if c.state = .retrain then .ok else c.state
    trained := 0, urgent := false, requested := false, needRaised := false, hold := [], tracked := [], copying := [] }

/-- A memory controller after a reset: what the flash holds of its repairs stays. -/
def McSt.afterReset (m : McSt) : McSt :=
  { m with
    chans := m.chans.map fun e => (e.1, e.2.afterReset)
    window := none, scrub := [], pend := [], holdNow := 0, holdMax := 0
    waiting := (m.waiting ++ (m.chans.filter fun e => e.2.failing).map Prod.fst).eraseDups }

/-- A flash slot after a reset: one being written is invalid (R381). -/
def flashAfter (m : SMap (Bool × Bool × Bool × Nat)) : SMap (Bool × Bool × Bool × Nat) :=
  m.map fun e => (e.1, (e.2.1 && !e.2.2.1, false, false, e.2.2.2.2))

/-- Everything a reset clears is as after power-on; `power` tells a power-on reset, after which the stacks are zero. -/
def State.wiped (s : State) (power : Bool) : State :=
  { pending := s.pending
    sent := s.sent
    freshCount := s.freshCount
    now := s.now
    regs := s.regs.filter fun e => keptReg power e.1
    slowEdges := if power then 0 else s.slowEdges
    selfActs := (s.selfActs.filter fun a => a.act != .replan).map fun a => { a with since := none, bound := false }
    atolls := Vector.ofFn fun k =>
      let a := s.atolls[k]
      { mc := a.mc.afterReset, arr := { badCols := a.arr.badCols } }
    mem := if power then [] else s.mem
    poison := if power then [] else s.poison
    ckpt :=
      { flash := flashAfter s.ckpt.flash, flashMem := s.ckpt.flashMem, storeMem := s.ckpt.storeMem, partMem := s.ckpt.partMem
        partId := s.ckpt.partId, storeId := s.ckpt.storeId
        good := if power then [] else (s.serving.map Fin.val).filter fun k => s.manifestGood k }
    age := { v := s.age.v, hist := s.age.hist, dieWas := s.age.dieWas }
    rst := { images := s.rst.images, losing := s.rst.losing, brdLow := s.rst.brdLow } }

/-- A register of which a reset keeps some bits. -/
def State.keepBits (s : State) (a mask : Nat) : State :=
  s.wr a ((s.rd a &&& mask) ||| ((resetWord a).toNat &&& (0xFFFFFFFFFFFFFFFF ^^^ mask)))

/-- Registers that a reset keeps in part: BADKEY_CNT, COOL_OK, MGMT_ADDR's dynamic address, what the flash has of the
plan, and the layers of the newest checkpoint, of which one that was copying has failed (R381, R424). -/
def State.settleKept (s : State) (power : Bool) : State :=
  let s := s.each (List.range 169) fun s p => if s.rd (pageAt p + 0x20) = 0 then s else s.keepBits (pageAt p + 0x20) 0xFF00
  -- the RST page keeps its values, but no page stays bound (R75; log 106: DEDUCED, unsafe)
  let s := s.unbindPage (pageIx 0x06 0)
  let s := (s.keepBits R.THERM_STAT 0x200).keepBits R.MGMT_ADDR 0x7F80
  let s := (s.setFld F.AGE_STAT_PENDING 0).setFld F.HOLM_ATOLLS_LOST_CAUSE 0
  let s := s.each allAtolls fun s k => s.setFld (F.ARR_REPAIR_FIELD_FAIL k) 0
  if power then s
  else
    let s := (s.setFld F.CKPT_STAT_STATE 0).setFld F.CKPT_STAT_CAUSE 0
    (s.each [1, 2, 3, 4] fun s l => if s.layer l = 1 then s.setFld (layerFld l) 3 else s).safety

/-- Reset, and bring-up begins anew at stage 1 (R422, R424, R425). -/
def State.restart (s : State) (power : Bool) : State :=
  let was := s.rst.alert
  let s := ((s.wiped power).settleKept power).showAtolls
  let s := if was then s.emit (.alert false) else s
  (s.setFld F.RST_BRING_STAGE 1).setFld F.RST_BRING_FAILED 0

/-- A module reset of a cause of R422. -/
def State.moduleReset (s : State) (cause : Nat) : State :=
  let run := if cause = 3 then min 3 (s.fld F.RST_CAUSE_WDOG_RUN + 1) else 0
  let s := s.restart false
  let s := ((s.setFld F.RST_CAUSE_CAUSE cause).setFld F.RST_CAUSE_WDOG_RUN run).bump F.RST_CNT_RESET
  if cause = 3 then s.bump F.RST_CNT_WDOG else s

/-! ### The end of bring-up without READY (R28, R433, R436) -/

/-- Bring-up ends in HALTED_FAULT. -/
def State.halted (s : State) : State := (s.setFld F.RST_BRING_FAILED 1).holmState 3

/-- Bring-up stops for the image of component `c`. -/
def State.waitFirmware (s : State) (c : Nat) : State :=
  let s := (s.onRst fun r => { r with need := c }).setFld F.MGMT_REC_STAT_NEED c
  s.holmState 2

/-- The image of component `c` that the flash holds. -/
def State.image (s : State) (c : Nat) : ImageSt :=
  (SMap.find s.rst.images c).getD
    ⟨(Config.factoryVersion c).toNat, (Config.factoryKey c).val, (Config.factoryMeas c).toNat, true⟩

/-- The first of `cs` whose image does not verify, as the stage's outcome tells (R436). -/
def State.badImage (s : State) (bad : Nat) (cs : List Nat) : Option Nat := cs.find? fun c => c == bad || !(s.image c).valid

/-- The images of `cs` are loaded (R434, R437). -/
def State.loadImages (s : State) (cs : List Nat) : State :=
  s.each cs fun s c => s.onRst fun r => { r with loaded := SMap.ins r.loaded c (s.image c) }

/-! ### The stages (R433) -/

/-- Stage 1: the strap (R431). -/
def State.readStrap (s : State) (r : Nat) : State :=
  let x := 36 * r
  let s := s.setFld F.RST_STRAP_RATIO r
  let code := (x - 4096) / 8192
  let reading := if x < 4096 then 1 else if 33 * 4096 ≤ x then 2 else 0
  let s := (s.setFld F.HOLM_SLOT_READING reading).setFld F.HOLM_SLOT_SLOT (if reading = 0 then code else 0)
  s.setFld F.HOLM_SLOT_ASSIGNED 0

/-- Stage 2: the firmware starts, arms the watchdog and unwraps the identity (R426, R438). -/
def State.startHolm (s : State) (idOk : Bool) : State :=
  let s := (s.loadImages [1]).onRst fun r => { r with wdog := true, kick := s.now }
  let s := s.setFld F.HOLM_BOOT_COUNT ((s.fld F.HOLM_BOOT_COUNT + 1) % 2 ^ 32)
  let s := s.setFld F.SEC_STAT_ID_OK (if idOk then 1 else 0)
  if idOk then s else (s.raise 0x07 0 1).alertCause 6

/-- Stage 5: islet columns found failed join those the flash holds (R123, R124). -/
def State.repairColumns (s : State) (found : List (Atoll × Nat)) : State :=
  s.each allAtolls fun s k =>
    let l := ((s.atl k).arr.badCols ++ (found.filter fun e => e.1 == k).map Prod.snd).eraseDups.mergeSort
    let cols := 1024 - 32 * (l.length - 1)
    let s := (s.setFld (F.ARR_REPAIR_FAIL0 k) (l.getD 0 0x3F)).setFld (F.ARR_REPAIR_FAIL1 k) (l.getD 1 0x3F)
    let s := s.setFld (F.ARR_GEOM_COLS k) cols
    s.onArr k fun m =>
      { m with badCols := l, fails := l.take 2, bank0 := { m.bank0 with cols := cols }, bank1 := { m.bank1 with cols := cols } }

/-- Stage 5: the gauges are read and the margin plan applied (R412-R415). With no baseline this reading becomes it (log
79: DESIGN CHOICE, unsafe). -/
def State.readGauges (s : State) (drifts : List Nat) : State :=
  let s := if drifts.isEmpty then
      ((s.setFld F.AGE_STAT_BASE_FIRST 1).setFld F.AGE_STAT_WORST 1).raise 0x05 0 4
    else s
  let dies := (List.range 8).map fun d => s.fld (F.AGE_DIE_DRIFT d)
  let s := s.putDrifts (if drifts.isEmpty then List.replicate 8 0 else drifts) dies
  let (gs, _) := s.planOf
  let s := s.each s.serving fun s k => if (topOf (gs.getD k 0)).isNone then s.loseAtoll k 3 else s
  let s := if s.drifted || drifts.isEmpty then (s.onAge fun a => { a with pending := some s.planOf }).replan else s
  s.each s.serving fun s k =>
    let top := s.fld (F.AGE_ATL_TOP_PT k)
    let s := ((s.setFld (F.PWR_ATL_SET_TOP_PT k) top).setFld (F.PWR_ATL_SET_PT k) top)
    (s.onPwr k fun a => { a with runPt := top }).showMHz k

/-- Stage 7: the leader agreed (R50): a slot that leads already, else the lowest heard (log 86: DEDUCED, unsafe). -/
def State.agreeLeader (s : State) : State :=
  let leading := (s.tide.peers.filter fun e => e.2.leads).map Prod.fst
  s.setFld F.TIDE_STAT_LEADER
    (if s.hasSlot then leading.min?.getD (s.lowest s.discoveredSlots) else 0)

/-- Stage 8: tide 0 begins (R31, R52). -/
def State.beginTide (s : State) : State :=
  let s := s.onTide fun t => { t with running := true, phase := 0, unaligned := !s.leads }
  s.showLead

/-- Stage 9: READY (R433). -/
def State.becomeReady (s : State) : State :=
  let s := (s.setFld F.RST_CAUSE_WDOG_RUN 0).soundReady
  let s := if s.layer 1 = 2 ∧ !(s.serving.all fun k => s.ckpt.good.contains k.val) then (s.setFld F.CKPT_STAT_STACKS 3).safety else s
  s.holmState 1

/-- Images a stage loads (R434). -/
def stageImages (n : Nat) : List Nat := if n = 2 then [1] else if n = 3 then [2, 3] else if n = 4 then [4] else if n = 7 then [5] else []

/-- The cause with which stage `n` loses an atoll (R433). -/
def lossCause (n : Nat) : Nat := if n = 3 then 1 else 3

/-- Stage `n` is complete: its time is recorded, and the next is in progress. -/
def State.stageEnd (s : State) (n : Nat) : State :=
  let s := s.wr (R.RST_STAGE_T (n - 1)) (min s.rst.since 0xFFFFFFFF)
  s.setFld F.RST_BRING_STAGE (min 9 (n + 1))

/-- What stage `n` does (R433) (log 89: DEDUCED, unsafe). -/
def State.stageWork (s : State) (n : Nat) (o : StageOutcome) : State :=
  match n with
  | 1 => s.readStrap o.strap.toNat
  | 2 => s.startHolm o.identityOk
  | 3 =>
    let l := s.rst.losing
    (s.loadImages [2, 3]).each l fun s e => (s.onRst fun r => { r with losing := [] }).loseAtoll e.1 e.2
  | 4 => s.loadImages [4]
  | 5 => (s.repairColumns o.failedCols).readGauges o.drifts
  -- the port dies start, and their transmitters send TRAIN (R314)
  | 6 => s.each bPorts fun s p => s.sendTrain p (List.range 32)
  | 7 => ((s.loadImages [5]).setFld F.HOLM_BOARD_SIZE16 (if s.size16 then 1 else 0)).agreeLeader
  | 8 => s.beginTide
  | 9 => s.becomeReady
  | _ => s

/-- The module cannot reach READY (R28). -/
def State.beyondRepair (s : State) : Bool :=
  decide (2 ≤ s.lostAtolls.length) || allAtolls.any fun k => s.inService k && decide (2 < (s.atl k).arr.badCols.length)

/-- BRINGUP_STAGE (R433): the stage in progress ends as `o` tells (log 98: DESIGN CHOICE, safe). -/
def execBringupStage (o : StageOutcome) (s : State) : Outcome State Fault Refusal :=
  let n := max 1 (s.fld F.RST_BRING_STAGE)
  if !s.rst.power || s.rst.asserted || s.flag F.RST_BRING_FAILED || s.fld F.HOLM_STATE_STATE != 0 then .next s
  else if n = 9 ∧ s.rst.marks < 8 then .next s
  else if (n ≠ 7 ∧ o.done = false) ∨ o.fatal = true then .next s.halted
  else if n = 3 ∧ s.flag F.THERM_STAT_COOL_OK = false then .next s.halted
  else match s.badImage o.badImage (stageImages n) with
    | some c => .next (s.waitFirmware c)
    | none =>
      let s := s.stageWork n o
      let s := if 3 ≤ n ∧ n ≤ 5 then s.each o.lost fun s k => s.loseAtoll k (lossCause n) else s
      if s.beyondRepair then .next s.halted
      else
        let s := if n = 7 ∧ o.done = false then s.setFld F.RST_BRING_STAGE 8 else s.stageEnd n
        if n = 1 ∧ s.fld F.RST_CAUSE_WDOG_RUN = 3 then .next (s.waitFirmware 1) else .next s

/-! ### Reset sources (R422, R423, R426) -/

/-- POWER_ON: input good after being absent. A BRD_RESET_N held low keeps the holm in reset (R423). -/
def execPowerOn (s : State) : Outcome State Fault Refusal :=
  if s.rst.power then .next s
  else
    let low := s.rst.brdLow
    .next (((s.restart true).setFld F.RST_CAUSE_CAUSE 1).onRst fun r => { r with asserted := low })

/-- BRD_RESET_N (R423): the pin has read low for `samples` samples in a row, or it reads high again. -/
def execBrdResetN (low : Bool) (samples : Nat) (s : State) : Outcome State Fault Refusal :=
  if low then
    let s := s.onRst fun r => { r with brdLow := true }
    if s.rst.power ∧ s.rst.asserted = false ∧ 1000 ≤ samples then
      .next ((s.moduleReset 2).onRst fun r => { r with asserted := true })
    else .next s
  else
    let was := s.rst.brdLow
    let held := s.rst.asserted
    let s := s.onRst fun r => { r with brdLow := false, asserted := false, since := if r.asserted then 0 else r.since }
    if was ∧ held = false ∧ s.rst.power = true then .next ((s.bump F.RST_CNT_GLITCH).raise 0x06 0 0) else .next s

/-- Reference cycle at which the watchdog expires (R426) (log 91: DESIGN CHOICE, safe). -/
def State.wdogAt (s : State) : Nat := s.rst.kick + s.fld F.RST_WDOG_PERIOD * 65536

/-- WATCHDOG (R426): the armed watchdog expires (log 91: DESIGN CHOICE, safe). -/
def execWatchdog (s : State) : Outcome State Fault Refusal :=
  if s.rst.wdog ∧ s.rst.power = true then .next ({ s with now := max s.now s.wdogAt }.moduleReset 3) else .next s

/-- RST_WDOG_KICK (R426): of the holm firmware alone. -/
def State.wdogKick (s : State) (by' : Requester) : State :=
  if by' = .holm then s.onRst fun r => { r with kick := s.now } else s

/-- RAIL_FAULT (R26): an atoll's rail is short. Before READY it is that stage's outcome (log 90: DEDUCED, unsafe). -/
def execRailFault (k : Atoll) (s : State) : Outcome State Fault Refusal :=
  if !s.ready then .next (s.onRst fun r => { r with losing := r.losing ++ [(k.val, 1)] })
  else
    let s := (((s.emit (.railOff k)).raise 0x00 0 1).alertCause 1).onRst fun r => { r with losing := r.losing ++ [(k.val, 1)] }
    .next (s.moduleReset 5)

/-- LINK_RETRAIN (R311): a causeway module retrained; the third failure in a row after READY is LINK_DOWN and a module
reset. -/
def execLinkRetrain (k : Atoll) (link : Fin 4) (passed : Bool) (s : State) : Outcome State Fault Refusal :=
  let dst := if link = 0 then k.val + 7 else if link = 1 then k.val + 1 else k.val + 4
  if !s.inService k || !s.inService (dst % 8) then .next s
  else
    let n := if passed || !s.ready then 0 else (s.atl k).links.getD link 0 + 1
    let s := ((s.bump (F.CWY_CNT_RETRAIN k)).raise 0x1B k 0).onAtl k fun a => { a with links := a.links.set link n }
    if 3 ≤ n then .next ((s.raise 0x1B k 1).moduleReset 5) else .next s

/-- RESET_REQ from a peer (R427): its bundle goes DOWN and its lanes are discovered anew. -/
def execResetReq (port : BPort) (peer : Word64) (s : State) : Outcome State Fault Refusal :=
  let p := bport port
  let x := peer.toNat
  let far (f : Option FarEnd) : Option FarEnd := f.filter fun f => f.serial != x
  .next (((s.bump (F.PORT_CNT_RX p)).bundleDown p x).each (List.range 32) fun s l =>
    if (s.port p).lane l = LaneSt.off then s
    else s.onLane p l fun y => { y with rxFrom := far y.rxFrom, txTo := far y.txTo })

/-- PEER_DOWN (R323): the bundle has no active lane left in a direction. -/
def execPeerDown (port : BPort) (peer : Word64) (s : State) : Outcome State Fault Refusal :=
  .next (s.bundleDown (bport port) peer.toNat)

/-! ### The coolant stop and the shut-down (R393, R408-R411, R460) -/

/-- The stop of R410 begins, from another die where `other` is set (log 89: DEDUCED, unsafe). -/
def State.coolantStop (s : State) (other : Bool) : State :=
  let s := (s.setFld F.THERM_STAT_COOLANT_STOP 1).setFld F.THERM_STAT_OTHER_TRIP (if other then 1 else 0)
  let s := (s.setFld F.THERM_COOL_TIDE_TIDE s.tideNo).bump F.THERM_CNT_COOL
  let s := ((s.raise 0x04 0 2).alertCause 2).dropLayers
  let s := s.each allAtolls fun s k =>
    let s := (s.dropUnits k).onAtl k fun a => { mc := a.mc, arr := { badCols := a.arr.badCols }, pwr := a.pwr, links := a.links }
    (s.setPt k 15 (if other then 3 else 8)).emit (.railOff k)
  let s := { s with sound := {} }
  let s := s.each allPorts fun s p => ((s.onPort p fun _ => {}).setFld (F.PORT_STAT_UP p) 0).emit (.railOff (64 + p.val))
  let s := (s.setFld F.HOLM_BOARD_PRESENT 0).onTide fun t => { t with running := false, peers := [] }
  (s.holmState 3).emit (.msix 0)

/-- COOLANT (R410): COOL_OK has been deasserted for 100 cycles. Before stage 3 it is checked there (R433) (log 89:
DEDUCED, unsafe). -/
def execCoolant (s : State) : Outcome State Fault Refusal :=
  let s := s.setFld F.THERM_STAT_COOL_OK 0
  if s.flag F.THERM_STAT_COOLANT_STOP || s.fld F.RST_BRING_STAGE < 4 then .next s else .next (s.coolantStop false)

/-- COOL_RESTORED (R411): nothing restarts. -/
def execCoolRestored (s : State) : Outcome State Fault Refusal :=
  .next ((s.setFld F.THERM_STAT_COOL_OK 1).raise 0x04 0 4)

/-- OTHER_TRIP (R408, R409): the harbour, the holm, a port die or a stack is too hot: the stop, with reason THERM. -/
def execOtherTrip (d : OtherDie) (s : State) : Outcome State Fault Refusal :=
  let s := match d with | .stack _ => s | _ => s.bump F.THERM_CNT_TRIP
  if s.flag F.THERM_STAT_COOLANT_STOP then .next s else .next (s.coolantStop true)

/-- The contents of stack `st` are gone (log 87: DESIGN CHOICE, unsafe). -/
def State.clearStack (s : State) (st : Nat) : State :=
  let off (p : Nat) : Bool := decide (p / 2 ^ 28 / 768 = st / 6 ∧ p / 2 ^ 28 % 768 % 6 = st % 6)
  { s with mem := s.mem.filter (fun e => !off e.1), poison := s.poison.filter fun e => !off (e.1 * 128) }

/-- Every rail is off: only the flash keeps its contents (R393, R421) (log 87: DESIGN CHOICE, unsafe). -/
def State.powerOff (s : State) : State :=
  let s := ((s.wiped true).settleKept true).emit .railsOff
  s.onRst fun r => { r with power := false }

/-- STACK_LOST (R410): in the stop, a stack at 105 °C or the harbour at 115 °C is switched off; the holm at 115 °C takes
every rail with it. -/
def execStackLost (l : LostInStop) (s : State) : Outcome State Fault Refusal :=
  if !s.flag F.THERM_STAT_COOLANT_STOP then .next s
  else match l with
    | .stack st =>
      .next (((s.setFld F.THERM_STAT_STACK_LOST 1).emit (.railOff (16 + st.val))).clearStack st.val)
    | .harbour => .next (s.emit (.railOff 72))
    | .holm => .next s.powerOff

/-- SHUTDOWN (R393, R460): the input left 46-60 V, or a rail of the harbour, holm or port dies is short, which ALERT_N
tells while the holm's own rail survives. -/
def execShutdown (c : ShutdownCause) (s : State) : Outcome State Fault Refusal :=
  if !s.rst.power then .next s
  else .next (match c with
    | .railShort => (s.holmState 3).powerOff
    | .vinBelow46 | .vinAbove60 => s.powerOff)

end Sys2Proof.Machine
end

