-- ==== Sys2Proof/Machine/Operands.lean ====
section
/-! DEFINITION. The slots of a bundle (09_reefcode.md R215-R224) as their bits spell them: each slot's fields, the
word they make, and the decoder, which takes a word only if it is the word of its fields, so that every reserved bit is
zero; and the operand forms of the control and scalar slots. -/

namespace Sys2Proof.Machine

/-! ### Control (R218) -/

/-- An operation of the control slot. -/
inductive Ctl where
  | nop
  | jmp (tgt : BitVec 15)
  | br (tgt : BitVec 15) (p : BitVec 3) (pn : Bool)
  | jmpr (r : SReg)
  | call (tgt : BitVec 15)
  | ret
  | loop (count : CountOf 24) (fin : BitVec 15)
  | slice (phase : BitVec 12) (budget : CountOf 26)
  | publish (rec rs : Bool) (rslot : BitVec 4) (vreg treg : SReg)
  | swell (phase : BitVec 12) (n : BitVec 8) (level : BitVec 4)
  | qclose (qreg : SReg)
  | fence (mask : BitVec 4)
  deriving DecidableEq, Repr

/-- The control slot's word. -/
def Ctl.word : Ctl → Nat
  | .nop => 0
  | .jmp t => 0x01 * 2 ^ 58 + t.toNat
  | .br t p pn => 0x02 * 2 ^ 58 + p.toNat * 2 ^ 55 + bit pn * 2 ^ 54 + t.toNat
  | .jmpr r => 0x03 * 2 ^ 58 + r.toNat * 2 ^ 15
  | .call t => 0x04 * 2 ^ 58 + t.toNat
  | .ret => 0x05 * 2 ^ 58
  | .loop (.lit c) e => 0x08 * 2 ^ 58 + c.toNat * 2 ^ 29 + e.toNat
  | .loop (.reg r) e => 0x08 * 2 ^ 58 + 2 ^ 53 + r.toNat * 2 ^ 29 + e.toNat
  | .slice p (.lit b) => 0x10 * 2 ^ 58 + p.toNat * 2 ^ 41 + b.toNat * 2 ^ 15
  | .slice p (.reg r) => 0x10 * 2 ^ 58 + 2 ^ 53 + p.toNat * 2 ^ 41 + r.toNat * 2 ^ 15
  | .publish c s i v t =>
    0x11 * 2 ^ 58 + bit c * 2 ^ 53 + bit s * 2 ^ 52 + i.toNat * 2 ^ 48 + v.toNat * 2 ^ 42 + t.toNat * 2 ^ 36
  | .swell p n l => 0x12 * 2 ^ 58 + p.toNat * 2 ^ 41 + n.toNat * 2 ^ 33 + l.toNat * 2 ^ 29
  | .qclose r => 0x13 * 2 ^ 58 + r.toNat * 2 ^ 15
  | .fence m => 0x14 * 2 ^ 58 + m.toNat

/-- The operation whose fields stand in a control word, reserved bits aside. -/
def ctlFields (w : Nat) : Option Ctl :=
  let f (hi lo : Nat) {n : Nat} : BitVec n := BitVec.ofNat n (bits w hi lo)
  match bits w 63 58 with
  | 0x00 => some .nop
  | 0x01 => some (.jmp (f 14 0))
  | 0x02 => some (.br (f 14 0) (f 57 55) (w.testBit 54))
  | 0x03 => some (.jmpr (f 20 15))
  | 0x04 => some (.call (f 14 0))
  | 0x05 => some .ret
  | 0x08 => some (.loop (if w.testBit 53 then .reg (f 34 29) else .lit (f 52 29)) (f 14 0))
  | 0x10 => some (.slice (f 52 41) (if w.testBit 53 then .reg (f 20 15) else .lit (f 40 15)))
  | 0x11 => some (.publish (w.testBit 53) (w.testBit 52) (f 51 48) (f 47 42) (f 41 36))
  | 0x12 => some (.swell (f 52 41) (f 40 33) (f 32 29))
  | 0x13 => some (.qclose (f 20 15))
  | 0x14 => some (.fence (f 3 0))
  | _ => none

/-- The control slot's decoder. -/
def decodeCtl (w : Nat) : Option Ctl := (ctlFields w).filter fun c => c.word == w

/-! ### Scalar slots (R220) -/

/-- A scalar slot that is no NOP. -/
structure ScalarSlot where
  opc : BitVec 8
  rd  : SReg
  rs1 : SReg
  b   : SOperand
  deriving DecidableEq, Repr

/-! Opcodes of the scalar slot. -/
namespace Sop
abbrev add : Nat := 0x01
abbrev sub : Nat := 0x02
abbrev and : Nat := 0x03
abbrev or : Nat := 0x04
abbrev xor : Nat := 0x05
abbrev shl : Nat := 0x06
abbrev shr : Nat := 0x07
abbrev sar : Nat := 0x08
abbrev mul : Nat := 0x09
abbrev mulhu : Nat := 0x0A
abbrev min : Nat := 0x0B
abbrev max : Nat := 0x0C
abbrev minu : Nat := 0x0D
abbrev maxu : Nat := 0x0E
abbrev li : Nat := 0x10
abbrev orh : Nat := 0x11
abbrev cmp : Nat := 0x18
abbrev pget : Nat := 0x19
abbrev ldl : Nat := 0x20
abbrev stl : Nat := 0x21
abbrev rds : Nat := 0x28
/-- The listed opcodes. -/
def listed (c : Nat) : Bool :=
  (1 ≤ c && c ≤ 0x0E) || c == 0x10 || c == 0x11 || c == 0x18 || c == 0x19 || c == 0x20 || c == 0x21 || c == 0x28
end Sop

/-- The scalar slot's word. -/
def ScalarSlot.word (x : ScalarSlot) : Nat :=
  x.opc.toNat * 2 ^ 56 + x.rd.toNat * 2 ^ 50 + x.rs1.toNat * 2 ^ 44 +
    (match x.b with | .reg r => r.toNat * 2 ^ 37 | .imm v => 2 ^ 43 + v.toNat)

/-- Fields of a scalar word. -/
def scalarFields (w : Nat) : ScalarSlot :=
  { opc := BitVec.ofNat 8 (bits w 63 56), rd := BitVec.ofNat 6 (bits w 55 50), rs1 := BitVec.ofNat 6 (bits w 49 44)
    b := if w.testBit 43 then .imm (BitVec.ofNat 43 (bits w 42 0)) else .reg (BitVec.ofNat 6 (bits w 42 37)) }

/-- The slot may be issued: a listed opcode, and a listed condition of CMP. -/
def ScalarSlot.ok (x : ScalarSlot) : Bool := Sop.listed x.opc.toNat && !(x.opc == 0x18 && decide (6 ≤ x.rd.toNat / 8))

/-- A scalar slot's decoder: none where it is refused, `some none` for the slot that is all zero. -/
def decodeScalar (w : Nat) : Option (Option ScalarSlot) :=
  if w = 0 then some none
  else let x := scalarFields w; if x.word = w ∧ x.ok then some (some x) else none

/-- The second operand: a register's value, or the immediate sign-extended (R220). -/
def SeqRegs.operand (r : SeqRegs) : SOperand → Word64
  | .reg i => BitVec.ofNat 64 (r.sv i)
  | .imm v => v.signExtend 64

/-- A count given in the slot, or the register's value cut to `w` bits (R218). -/
def SeqRegs.count (r : SeqRegs) (w : Nat) {n : Nat} : CountOf n → Nat
  | .lit v => v.toNat
  | .reg i => r.sv i % 2 ^ w

/-! ### Array, feeder and cove slots (R221, R222) -/

/-- The array slot's word for operation `op` (V set). -/
def arrayWord (op : BitVec 3) (a : ArraySlot) : Nat :=
  2 ^ 127 + op.toNat * 2 ^ 124 + a.fmtRow.toNat * 2 ^ 120 + a.fmtCol.toNat * 2 ^ 116 + a.k.toNat * 2 ^ 100 +
  a.m.toNat * 2 ^ 90 + a.n.toNat * 2 ^ 80 + bit a.bank * 2 ^ 79 + bit a.cont * 2 ^ 78 + a.fin.toNat * 2 ^ 76 +
  a.ferry.toNat * 2 ^ 74 + a.tag.toNat * 2 ^ 70 + a.fnum.toNat * 2 ^ 54

def arrayFields (w : Nat) : ArraySlot :=
  let f (hi lo : Nat) {n : Nat} : BitVec n := BitVec.ofNat n (bits w hi lo)
  { fmtRow := f 123 120, fmtCol := f 119 116, k := f 115 100, m := f 99 90, n := f 89 80, bank := w.testBit 79
    cont := w.testBit 78, fin := f 77 76, ferry := f 75 74, tag := f 73 70, fnum := f 69 54 }

/-- The array slot's decoder: its operation code and fields, `some none` where it is all zero. -/
def decodeArray (w : Nat) : Option (Option (BitVec 3 × ArraySlot)) :=
  if w = 0 then some none
  else
    let op : BitVec 3 := BitVec.ofNat 3 (bits w 126 124)
    let a := arrayFields w
    if arrayWord op a = w then some (some (op, a)) else none

/-- A feeder slot's word; a slot that is not enabled is all zero. -/
def feedWord (x : FeedSlot) : Nat :=
  if !x.en then 0
  else
    2 ^ 95 + x.src.toNat * 2 ^ 93 + x.sfmt.toNat * 2 ^ 89 + x.areg.toNat * 2 ^ 83 + x.sreg.toNat * 2 ^ 77 +
    x.qreg.toNat * 2 ^ 71 + x.kstart.toNat * 2 ^ 51 + x.rbase.toNat * 2 ^ 31 + x.creg.toNat * 2 ^ 25

def feedFields (w : Nat) : FeedSlot :=
  let f (hi lo : Nat) {n : Nat} : BitVec n := BitVec.ofNat n (bits w hi lo)
  { en := w.testBit 95, src := f 94 93, sfmt := f 92 89, areg := f 88 83, sreg := f 82 77, qreg := f 76 71
    kstart := f 70 51, rbase := f 50 31, creg := f 30 25 }

def decodeFeed (w : Nat) : Option FeedSlot := (some (feedFields w)).filter fun x => feedWord x == w

/-- The cove slot's word: PARAM holds PAIR, SREG, AREG2 and SREG2 (R236). -/
def coveWord (x : CoveSlot) : Nat :=
  if !x.en then 0
  else
    2 ^ 63 + bit x.side * 2 ^ 62 + x.mode.toNat * 2 ^ 60 + x.areg.toNat * 2 ^ 54 +
    (bit x.pair * 2 ^ 31 + x.sreg.toNat * 2 ^ 25 + x.areg2.toNat * 2 ^ 19 + x.sreg2.toNat * 2 ^ 13 + x.res.toNat) * 2 ^ 22

def coveFields (w : Nat) : CoveSlot :=
  let f (hi lo : Nat) {n : Nat} : BitVec n := BitVec.ofNat n (bits w hi lo)
  { en := w.testBit 63, side := w.testBit 62, mode := f 61 60, areg := f 59 54, pair := w.testBit 53
    sreg := f 52 47, areg2 := f 46 41, sreg2 := f 40 35, res := f 34 22 }

def decodeCove (w : Nat) : Option CoveSlot := (some (coveFields w)).filter fun x => coveWord x == w

/-! ### Vector slots -/

/-- The word of a main-pipe operation. -/
def mainWord (op : BitVec 8) (o : VOp) : Nat :=
  op.toNat * 2 ^ 120 + o.sub.toNat * 2 ^ 116 + o.cnt.toNat * 2 ^ 104 + bit o.hi * 2 ^ 103 + o.fmt.toNat * 2 ^ 99 +
  o.pm.toNat * 2 ^ 95 + o.ps.toNat * 2 ^ 92 + o.pd.toNat * 2 ^ 89 + o.vd.toNat * 2 ^ 84 + o.va.toNat * 2 ^ 79 +
  o.vb.toNat * 2 ^ 74 + o.vc.toNat * 2 ^ 69 + o.sa.toNat * 2 ^ 63 + o.sb.toNat * 2 ^ 57 + o.sc.toNat * 2 ^ 51 +
  o.sd.toNat * 2 ^ 45 + o.xi.toNat * 2 ^ 41 + o.tab.toNat * 2 ^ 39 + bit o.bcast * 2 ^ 38 + bit o.acc * 2 ^ 37 +
  bit o.clr * 2 ^ 36 + bit o.incl * 2 ^ 35 + bit o.rev * 2 ^ 34 + bit o.carry * 2 ^ 33 + bit o.scale * 2 ^ 32 +
  bit o.meas * 2 ^ 31 + o.ext.toNat

def mainFields (w : Nat) : VOp :=
  let f (hi lo : Nat) {n : Nat} : BitVec n := BitVec.ofNat n (bits w hi lo)
  { sub := f 119 116, cnt := f 115 104, hi := w.testBit 103, fmt := f 102 99, pm := f 98 95, ps := f 94 92
    pd := f 91 89, vd := f 88 84, va := f 83 79, vb := f 78 74, vc := f 73 69, sa := f 68 63, sb := f 62 57
    sc := f 56 51, sd := f 50 45, xi := f 44 41, tab := f 40 39, bcast := w.testBit 38, acc := w.testBit 37
    clr := w.testBit 36, incl := w.testBit 35, rev := w.testBit 34, carry := w.testBit 33, scale := w.testBit 32
    meas := w.testBit 31, ext := f 30 0 }

/-- The main pipe's decoder: its opcode and fields, `some none` where the slot is all zero. An opcode R187 does not list
is the vector engine's to refuse; a slot without one is reserved bits (R215). -/
def decodeMain (w : Nat) : Option (Option (BitVec 8 × VOp)) :=
  if w = 0 then some none
  else
    let op : BitVec 8 := BitVec.ofNat 8 (bits w 127 120)
    if op = 0 then none else some (some (op, mainFields w))

/-- The word of a VDRAIN (V set). -/
def drainBits (d : DrainOp) : Nat :=
  2 ^ 63 + bit d.bank * 2 ^ 62 + d.cnt.toNat * 2 ^ 50 + d.sa.toNat * 2 ^ 44 + d.vd.toNat * 2 ^ 39 +
  d.interp.toNat * 2 ^ 37 + bit d.csRow * 2 ^ 36 + bit d.csCol * 2 ^ 35 + bit d.bias * 2 ^ 34 + bit d.fn * 2 ^ 33 +
  d.tab.toNat * 2 ^ 31 + bit d.outf * 2 ^ 30 + d.va.toNat * 2 ^ 25 + d.vb.toNat * 2 ^ 20 + d.vc.toNat * 2 ^ 15

def drainFields (w : Nat) : DrainOp :=
  let f (hi lo : Nat) {n : Nat} : BitVec n := BitVec.ofNat n (bits w hi lo)
  { bank := w.testBit 62, cnt := f 61 50, sa := f 49 44, vd := f 43 39, interp := f 38 37, csRow := w.testBit 36
    csCol := w.testBit 35, bias := w.testBit 34, fn := w.testBit 33, tab := f 32 31, outf := w.testBit 30
    va := f 29 25, vb := f 24 20, vc := f 19 15 }

def decodeDrain (w : Nat) : Option (Option DrainOp) :=
  if w = 0 then some none else let d := drainFields w; if drainBits d = w then some (some d) else none

/-! ### Stream, message and hint slots (R224) -/

/-- A stream slot: ISSUE or WAIT. -/
inductive StreamSlot where
  | issue (ctr : BitVec 4) (r : SReg) (detach : Bool)
  | wait (ctr : BitVec 4) (r : SReg)
  deriving DecidableEq, Repr

def StreamSlot.word : StreamSlot → Nat
  | .issue c r d => 1 * 2 ^ 124 + c.toNat * 2 ^ 120 + r.toNat * 2 ^ 114 + bit d * 2 ^ 113
  | .wait c r => 2 * 2 ^ 124 + c.toNat * 2 ^ 120 + r.toNat * 2 ^ 114

def decodeStream (w : Nat) : Option (Option StreamSlot) :=
  if w = 0 then some none
  else
    let c : BitVec 4 := BitVec.ofNat 4 (bits w 123 120)
    let r : SReg := BitVec.ofNat 6 (bits w 119 114)
    let x : StreamSlot := if bits w 127 124 = 1 then .issue c r (w.testBit 113) else .wait c r
    if x.word = w then some (some x) else none

/-- A message slot: SEND, REDUCE or WAIT. -/
inductive MsgSlot where
  | send (ctr : BitVec 4) (r : SReg) (now : Bool)
  | reduce (ctr : BitVec 4) (r : SReg) (now : Bool)
  | wait (ctr : BitVec 4) (r : SReg)
  deriving DecidableEq, Repr

def MsgSlot.word : MsgSlot → Nat
  | .send c r n => 1 * 2 ^ 60 + c.toNat * 2 ^ 56 + r.toNat * 2 ^ 50 + bit n * 2 ^ 49
  | .reduce c r n => 2 * 2 ^ 60 + c.toNat * 2 ^ 56 + r.toNat * 2 ^ 50 + bit n * 2 ^ 49
  | .wait c r => 3 * 2 ^ 60 + c.toNat * 2 ^ 56 + r.toNat * 2 ^ 50

def decodeMsg (w : Nat) : Option (Option MsgSlot) :=
  if w = 0 then some none
  else
    let c : BitVec 4 := BitVec.ofNat 4 (bits w 59 56)
    let r : SReg := BitVec.ofNat 6 (bits w 55 50)
    let x : MsgSlot :=
      if bits w 63 60 = 1 then .send c r (w.testBit 49)
      else if bits w 63 60 = 2 then .reduce c r (w.testBit 49) else .wait c r
    if x.word = w then some (some x) else none

/-- The hint slot: RAMP. -/
def hintWord (ramp : BitVec 3) : Nat := 2 ^ 31 + ramp.toNat * 2 ^ 28

def decodeHint (w : Nat) : Option (Option (BitVec 3)) :=
  if w = 0 then some none
  else let x : BitVec 3 := BitVec.ofNat 3 (bits w 30 28); if hintWord x = w then some (some x) else none

/-! ### The bundle (R215) -/

structure Bundle where
  ctl   : Ctl
  a     : Option ScalarSlot
  b     : Option ScalarSlot
  arr   : Option (BitVec 3 × ArraySlot)
  row   : FeedSlot
  col   : FeedSlot
  cove  : CoveSlot
  main  : Option (BitVec 8 × VOp)
  drain : Option DrainOp
  strm  : Option StreamSlot
  msg   : Option MsgSlot
  hint  : Option (BitVec 3)
  deriving DecidableEq, Repr

/-- Word of a slot that may be empty. -/
def optWord {α : Type} (f : α → Nat) : Option α → Nat
  | some x => f x
  | none => 0

/-- The 1,024 bits of a bundle. -/
def Bundle.word (x : Bundle) : Nat :=
  x.ctl.word + optWord ScalarSlot.word x.a * 2 ^ 64 + optWord ScalarSlot.word x.b * 2 ^ 128 +
  optWord (fun e => arrayWord e.1 e.2) x.arr * 2 ^ 192 + feedWord x.row * 2 ^ 320 + feedWord x.col * 2 ^ 416 +
  coveWord x.cove * 2 ^ 512 + optWord (fun e => mainWord e.1 e.2) x.main * 2 ^ 576 +
  optWord drainBits x.drain * 2 ^ 704 + optWord StreamSlot.word x.strm * 2 ^ 768 + optWord MsgSlot.word x.msg * 2 ^ 896 +
  optWord hintWord x.hint * 2 ^ 960

/-- The bundle in 1,024 bits; none where a reserved bit, a reserved slot or an unlisted code refuses it (R215, R230
code 1). -/
def decodeBundle (w : Nat) : Option Bundle :=
  if bits w 1023 992 ≠ 0 then none
  else
    (decodeCtl (bits w 63 0)).bind fun ctl =>
    (decodeScalar (bits w 127 64)).bind fun a =>
    (decodeScalar (bits w 191 128)).bind fun b =>
    (decodeArray (bits w 319 192)).bind fun arr =>
    (decodeFeed (bits w 415 320)).bind fun row =>
    (decodeFeed (bits w 511 416)).bind fun col =>
    (decodeCove (bits w 575 512)).bind fun cove =>
    (decodeMain (bits w 703 576)).bind fun main =>
    (decodeDrain (bits w 767 704)).bind fun drain =>
    (decodeStream (bits w 895 768)).bind fun strm =>
    (decodeMsg (bits w 959 896)).bind fun msg =>
    (decodeHint (bits w 991 960)).bind fun hint =>
    some ⟨ctl, a, b, arr, row, col, cove, main, drain, strm, msg, hint⟩

/-- The bundle has a unit slot that is no NOP (R217). -/
def Bundle.units (x : Bundle) : Bool :=
  x.arr.isSome || x.row.en || x.col.en || x.cove.en || x.main.isSome || x.drain.isSome || x.strm.isSome || x.msg.isSome

end Sys2Proof.Machine
end

