-- ==== Sys2Proof/Machine/Flags.lean ====
section
/-! DEFINITION. Results of the scalar slot (R220): arithmetic, the conditions of CMP and the predicate it writes. -/

namespace Sys2Proof.Machine

/-- The arithmetic of opcodes 0x01 to 0x11. -/
def alu (op : Nat) (a b : Word64) : Word64 :=
  match op with
  | 0x01 => a + b
  | 0x02 => a - b
  | 0x03 => a &&& b
  | 0x04 => a ||| b
  | 0x05 => a ^^^ b
  | 0x06 => a <<< (b.toNat % 64)
  | 0x07 => a >>> (b.toNat % 64)
  | 0x08 => a.sshiftRight (b.toNat % 64)
  | 0x09 => a * b
  | 0x0A => BitVec.ofNat 64 (a.toNat * b.toNat / 2 ^ 64)
  | 0x0B => if a.slt b then a else b
  | 0x0C => if a.slt b then b else a
  | 0x0D => if a.ult b then a else b
  | 0x0E => if a.ult b then b else a
  | 0x10 => b
  | _ => (a &&& BitVec.ofNat 64 (2 ^ 43 - 1)) ||| BitVec.ofNat 64 (b.toNat % 2 ^ 21 * 2 ^ 43)

/-- CMP's conditions: 0 EQ, 1 NE, 2 LT, 3 LE, 4 LTU, 5 LEU. -/
def condition (c : Nat) (a b : Word64) : Bool :=
  match c with
  | 0 => a == b
  | 1 => a != b
  | 2 => a.slt b
  | 3 => a.sle b
  | 4 => a.ult b
  | _ => a.ule b

/-- Every bit of a predicate set to `v` (R212). -/
def allBits (v : Bool) : BitVec 4096 := if v then BitVec.allOnes 4096 else 0

/-- `r` with predicate `p` written by the scalar slot. -/
def SeqRegs.putPred (r : SeqRegs) (p : Nat) (v : Bool) : SeqRegs :=
  { r with p := SMap.put (fun _ => (0 : BitVec 4096)) r.p p (allBits v) }

end Sys2Proof.Machine
end

