-- ==== Sys2Proof/Machine/Update.lean ====
section
/-! DEFINITION. The fused optimizer update (10_backward.md R244-R249): VUPD UPDATE on each element, VUPD FINISH, and
what a FINISH applies at its slice's publication. -/

namespace Sys2Proof.Machine

/-! ### The update record (R245) -/

/-- Value of an FP32 field of a record. -/
def recF (w b : Nat) : Val := fp32.val (byteFld w b 4)

/-- A signed exponent byte, taken as 0 where the format is FP32 (R245). -/
def recExp (w b fmt : Nat) : Int := if fmt = 0 then 0 else signed 8 (byteFld w b 1)

/-- A moment or update format as it is handled: an unlisted code as FP32, with BAD (R245). -/
def recFmt (c : Nat) : Nat × Bool := if c = 0 ∨ c = 2 ∨ c = 3 ∨ c = 4 then (c, false) else (0, true)

/-- Moment format, update format, BAD. -/
def recFmts (w : Nat) : Nat × Nat × Bool :=
  let (m, a) := recFmt (bits (byteFld w 36 1) 3 0)
  let (u, b) := recFmt (bits (byteFld w 36 1) 7 4)
  (m, u, a || b)

/-- The record of 128 bytes at a lagoon address. -/
def State.updRec (s : State) (k : Atoll) (a : Nat) : Nat := s.lagNum k a 128

/-- Write the record back. -/
def State.putRec (s : State) (k : Atoll) (a w : Nat) : State := s.lagWrite k a (bytesOf 128 w)

/-- Set STATUS bit `i` of the record. -/
def recMark (w i : Nat) : Nat := withBits w (8 * 108 + i) (8 * 108 + i) 1

/-! ### UPDATE (R246, R247) -/

/-- Code of a moment or update at an area's address (R245). -/
def State.momentCode (s : State) (k : Atoll) (area fmt x : Nat) : Nat :=
  let n := fmtBits fmt / 8
  s.lagNum k (area + x * n) n

/-- rne to FP32, as a value. -/
def rne32 (v : Val) : Val := fp32.val (fp32.enc v)

/-- A flag as its count. -/
def flagN (f g : CvtFlag) : Nat := if f = g then 1 else 0

/-- The value is NaN or infinite. -/
def Val.special (v : Val) : Bool := v.isNan || v.isInf

/-- rne(√x + c, fp32): exact where the root is rational, by bounds where it is not (log 30: DESIGN CHOICE, unsafe). -/
def sqrtPlus (x c : Val) : Nat :=
  match x, c with
  | .fin false m, .fin _ _ =>
    let r := sqrtQ m
    if Q.eq (Q.mul r r) m then fp32.enc ((Val.fin false r).add c)
    else fp32.encIv (Iv.add (Iv.sqrt (Iv.ofQ m)) (Iv.ofQ c.toQ))
  | _, _ => fp32.enc (x.sqrt.add c)

/-- What UPDATE computes for one element (R246): FP32 codes, stored codes, flags counted, and whether a value is NaN
or infinite (R247). -/
structure UpdElem where
  m1   : Nat
  v1   : Nat
  u    : Nat
  mq   : Nat
  vq   : Nat
  uq   : Nat
  w1   : Nat
  ovf  : Nat
  van  : Nat
  skip : Bool

/-- One element of UPDATE: `w` the record, `opt` OPT, `nc` the contributors, `mc` and `vc` the moment codes read,
`wv` and `gv` the master and the gradient. -/
def updElem (w opt nc mc vc wv gv : Nat) : UpdElem :=
  let (mf, uf, _) := recFmts w
  let one : Val := .fin false Q.one
  let b1 := recF w 4
  let b2 := recF w 8
  let mast := fp32.val wv
  let gh := rne32 ((fp32.val gv).div (.fin false ⟨nc, 1⟩))
  let m0 := (elemVal mf mc).scalb (recExp w 40 mf)
  let v0 := (elemVal mf vc).scalb (recExp w 42 mf)
  let m1 := if opt = 0 then rne32 ((b1.mul m0).add ((one.sub b1).mul gh))
    else if opt = 1 then rne32 ((b1.mul m0).add gh) else .fin false Q.zero
  let v1 := if opt = 0 then rne32 ((b2.mul v0).add (((one.sub b2).mul gh).mul gh)) else .fin false Q.zero
  let den := if opt = 0 then fp32.val (sqrtPlus (v1.mul (recF w 24)) (recF w 12)) else one
  let dir := if opt = 0 then (m1.mul (recF w 20)).div den else if opt = 1 then m1 else gh
  let u := rne32 ((recF w 0).negate.mul (dir.add ((recF w 16).mul mast)))
  let (uq, uflag) := convert uf u (recExp w 44 uf) 0x3F80
  let a := if uf = 0 then u else (elemVal uf uq).scalb (recExp w 44 uf)
  let w1 := rne32 (mast.add a)
  let (mq, mflag) := convert mf m1 (recExp w 41 mf) 0x3F80
  let (vq, vflag) := convert mf v1 (recExp w 43 mf) 0x3F80
  let fl := uflag :: (if opt ≤ 1 then [mflag] else []) ++ (if opt = 0 then [vflag] else [])
  { m1 := fp32.enc m1, v1 := fp32.enc v1, u := fp32.enc u, mq := mq, vq := vq, uq := uq, w1 := fp32.enc w1
    ovf := (fl.map fun f => flagN f .ovf).sum
    van := (fl.map fun f => flagN f .van).sum
    skip := gh.special || m1.special || v1.special || den.special || u.special || a.special || w1.special }

/-- Raise an FP32 maximum field of the record to the magnitude of `c`. -/
def maxField (w b c : Nat) : Nat :=
  if byteFld w b 4 % 2 ^ 31 < c % 2 ^ 31 then setByteFld w b 4 (c % 2 ^ 31) else w

/-- Add to a counter field of four bytes, wrapping. -/
def addField (w b n : Nat) : Nat := setByteFld w b 4 (byteFld w b 4 + n)

/-- One element of UPDATE on the state, with the record as it stands: stores, statistics and terms (R246, R247). -/
def State.updOne (k : Atoll) (o : VOp) (r : SeqRegs) (v : VecSt) (x : State × Nat) (e : Nat) : State × Nat :=
  let (s, w) := x
  let opt := bits o.ext.toNat 30 29
  let nc := r.sv o.sc % 2 ^ 32
  let (mf, uf, _) := recFmts w
  let idx := r.sv o.sb + e
  let n := fmtBits mf / 8
  let un := fmtBits uf / 8
  let wv := v.word o.va.toNat e
  let mc := if opt ≤ 1 then s.momentCode k (byteFld w 48 4) mf idx else 0
  let vc := if opt = 0 then s.momentCode k (byteFld w 56 4) mf idx else 0
  let el := updElem w opt nc mc vc wv (v.word o.vb.toNat e)
  let live := nc ≠ 0 ∧ r.live o e ∧ !el.skip
  let s := s.onVec k fun q => q.setWord o.vd.toNat e (if live then el.w1 else wv)
  let s := if opt ≤ 1 then s.lagWrite k (byteFld w 52 4 + idx * n) (bytesOf n (if live then el.mq else mc)) else s
  let s := if opt = 0 then s.lagWrite k (byteFld w 60 4 + idx * n) (bytesOf n (if live then el.vq else vc)) else s
  if live then
    let s := if uf ≠ 0 ∧ byteFld w 64 4 ≠ 0 then s.lagWrite k (byteFld w 64 4 + idx * un) (bytesOf un el.uq) else s
    let old := fp32.val wv
    let d := (fp32.val el.w1).sub old
    let s := (s.xaAdd k o.xi.toNat [d.mul d]).xaAdd k (o.xi.toNat + 1) [old.mul old]
    let w := maxField w 68 (if opt ≤ 1 then el.m1 else 0)
    let w := maxField w 72 (if opt = 0 ∧ el.v1 < 2 ^ 31 then el.v1 else 0)
    let w := maxField w 76 el.u
    (s, addField (addField (addField w 80 1) 92 el.ovf) 96 el.van)
  else (s, if nc = 0 then w else if !r.live o e then addField w 84 1 else addField w 88 1)

/-- A lagoon range an UPDATE reads holds a double-bit error. -/
def State.updErr (s : State) (k : Atoll) (r : SeqRegs) (o : VOp) : Bool :=
  let a := r.sv o.sa
  let w := s.updRec k a
  let n := fmtBits (recFmts w).1 / 8
  let opt := bits o.ext.toNat 30 29
  s.lagErr k a 128 || (opt ≤ 1 && s.lagErr k (byteFld w 48 4 + r.sv o.sb * n) (o.n * n)) ||
  (opt == 0 && s.lagErr k (byteFld w 56 4 + r.sv o.sb * n) (o.n * n))

/-- What an UPDATE reads is corrected and counted, and the words its moments cover are written anew (R281). -/
def State.updWords (s : State) (k : Atoll) (r : SeqRegs) (o : VOp) : State :=
  let a := r.sv o.sa
  let w := s.updRec k a
  let n := fmtBits (recFmts w).1 / 8
  let opt := bits o.ext.toNat 30 29
  let s := (s.lagSeen k a 128).lagCover k a 128
  let s := if opt ≤ 1 then (s.lagSeen k (byteFld w 48 4 + r.sv o.sb * n) (o.n * n)).lagCover k (byteFld w 52 4 + r.sv o.sb * n) (o.n * n) else s
  if opt = 0 then (s.lagSeen k (byteFld w 56 4 + r.sv o.sb * n) (o.n * n)).lagCover k (byteFld w 60 4 + r.sv o.sb * n) (o.n * n) else s

/-- VUPD UPDATE (R246-R248). FIRST resets the record's open statistics, NOCONTRIB with them, and both sums. -/
def State.vUpdate (s : State) (k : Atoll) (r : SeqRegs) (o : VOp)
    (v : VecSt := (s.atl k).vec) : State :=
  if s.updErr k r o then s.lagFault k
  else
    let a := r.sv o.sa
    let s := s.updWords k r o
    let first := o.ext.toNat.testBit 28
    let w := s.updRec k a
    let w := if first then withBits (setByteFld w 68 32 0) (8 * 108 + 3) (8 * 108 + 3) 0 else w
    let w := if (recFmts w).2.2 then recMark w 4 else w
    let w := if r.sv o.sc % 2 ^ 32 = 0 then recMark w 3 else w
    let s := if first then (s.setXa k o.xi.toNat XaSt.zero).setXa k (o.xi.toNat + 1) XaSt.zero else s
    let (s, w) := (List.range o.n).foldl (State.updOne k o r v) (s, w)
    s.putRec k a w

/-! ### FINISH (R248, R249) -/

/-- The ratio of two sums (R249). -/
def updRatio (sd sw : XaSt) : Nat :=
  if sd.special == .nan || sw.special == .nan then fp32.nan
  else if sd.special == .none && sd.sum.isZero then 0
  else if sw.special == .none && sw.sum.isZero then fp32.maxCode + 1
  else fp32.enc (sd.val.div sw.val).sqrt

/-- VUPD FINISH at its issue: SD receives the ratio, or NaN where the term count is not N_OPEN; its changes are held
with the slice (R248). -/
def State.vFinish (s : State) (k : Atoll) (r : SeqRegs) (o : VOp) : State :=
  let a := r.sv o.sa
  if s.lagErr k a 128 then s.lagFault k
  else
    let s := s.lagSeen k a 128
    let sd := s.xa k o.xi.toNat
    let sw := s.xa k (o.xi.toNat + 1)
    let ok := sd.count == byteFld (s.updRec k a) 80 4
    let s := s.setS k o.sd (if ok then updRatio sd sw else 0x7FC00000)
    s.onSeq k fun q => { q with slice := q.slice.map fun x =>
      { x with finishes := x.finishes ++ [⟨a, o.xi.toNat, sd, sw⟩] } }

/-- emax of step 3 of R249. -/
def finEmax (fmt : Nat) : Int := if fmt = 3 then 8 else if fmt = 4 then 15 else 127

/-- A new exponent from a maximum; it keeps its value where the maximum is 0 (R249). -/
def finExp (old : Nat) (fmt maxCode head : Nat) : Nat :=
  let m := fp32.mag (maxCode % 2 ^ 31)
  if m.isZero then old else unsigned 8 (clamp127 (m.log2 - finEmax fmt + head))

/-- The record after a FINISH: exponents moved, areas swapped, ratio, status and step count written (R249). -/
def finRec (w ratio : Nat) (low high part : Bool) : Nat :=
  let (mf, uf, _) := recFmts w
  let head := bits (byteFld w 37 1) 2 0
  let w' := w
  let w' := if mf ≠ 0 then
      setByteFld (setByteFld (setByteFld (setByteFld w' 40 1 (byteFld w 41 1)) 42 1 (byteFld w 43 1))
        41 1 (finExp (byteFld w 41 1) mf (byteFld w 68 4) head)) 43 1 (finExp (byteFld w 43 1) mf (byteFld w 72 4) head)
    else w'
  let w' := if uf ≠ 0 then setByteFld w' 44 1 (finExp (byteFld w 44 1) uf (byteFld w 76 4) head) else w'
  let w' := setByteFld (setByteFld w' 48 4 (byteFld w 52 4)) 52 4 (byteFld w 48 4)
  let w' := setByteFld (setByteFld w' 56 4 (byteFld w 60 4)) 60 4 (byteFld w 56 4)
  let st := bits (byteFld w 108 2) 4 3 * 8 + (if low then 1 else 0) + (if high then 2 else 0) + (if part then 4 else 0)
  let w' := setByteFld (setByteFld w' 100 4 (if part then 0x7FC00000 else ratio)) 108 2 st
  setByteFld w' 104 4 (byteFld w 104 4 + 1)

/-- Apply a held FINISH (R249): the record, the sums, the COVE page and its events. -/
def State.finishApply (s : State) (k : Atoll) (f : FinishHeld) : State :=
  let w := s.updRec k f.addr
  let part := f.sd.count != byteFld w 80 4
  let ratio := updRatio f.sd f.sw
  let rv := fp32.val ratio
  let low := !part && rv.ltv (recF w 28)
  let high := !part && (rv.isNan || (recF w 32).ltv rv)
  let w' := finRec w ratio low high part
  let s := s.putRec k f.addr w'
  let s := (s.setXa k f.xi XaSt.zero).setXa k (f.xi + 1) XaSt.zero
  let st := bits (byteFld w' 108 2) 4 0
  let layer := byteFld w 38 2
  let skip := byteFld w 88 4
  let s := s.setFld (F.COVE_UWR_LAST_RATIO k) (byteFld w' 100 4)
  let s := (s.setFld (F.COVE_UWR_INFO_LAYER k) layer).setFld (F.COVE_UWR_INFO_STATUS k) st
  let s := if low || high then
      ((s.setFld (F.COVE_UWR_BREACH_LAYER k) layer).setFld (F.COVE_UWR_BREACH_HIGH k) (if high then 1 else 0)).setFld
        (F.COVE_UWR_BREACH_LOW k) (if low then 1 else 0)
    else s
  let s := s.bump (F.COVE_CNT_FINISH k)
  let s := if low then (s.bump (F.COVE_CNT_LOW k)).raise 0x13 k 0 else s
  let s := if high then (s.bump (F.COVE_CNT_HIGH k)).raise 0x13 k 1 else s
  let s := if part then (s.bump (F.COVE_CNT_PARTIAL k)).raise 0x13 k 2 else s
  let s := s.bump (F.COVE_CNT_SKIP k) skip
  let s := s.raiseIf (skip != 0) 0x13 k 3
  s.raiseIf (st.testBit 3) 0x13 k 4

end Sys2Proof.Machine
end

