-- ==== Sys2Proof/Machine/VectorOps.lean ====
section
/-! DEFINITION. The vector commands (R187): one meaning per operation of the main pipe, and VDRAIN. -/

namespace Sys2Proof.Machine

open Host (Outcome)

/-- Lagoon bytes that a VLD reads, none for another operation. -/
def vldReads (r : SeqRegs) (op : Nat) (o : VOp) : List (Nat × Nat) :=
  if op = Opc.vld then [(r.sv o.sa, o.lagSize)] else []

/-- A main-pipe operation must wait: a VLD reads a pending line (R287), a conversion's descriptor waits for the
harbour (R174). -/
def State.vecStalls (s : State) (k : Atoll) (r : SeqRegs) (op : Nat) (o : VOp) : Bool :=
  if op = Opc.vld then (s.atl k).strm.pends (r.sv o.sa) o.lagSize
  else if op = Opc.vst ∧ o.converting then s.qAwaits k (r.sv o.sb)
  else if op = Opc.vlsq then s.qAwaits k (r.sv o.sb)
  else false

/-- Issue clocks of a main-pipe operation (R185, R187, R244). -/
def issueClocks (op : Nat) (o : VOp) : Nat :=
  let g32 := (o.n + 255) / 256
  let g := if o.bf then (o.n + 511) / 512 else g32
  if op = Opc.vplog ∨ op = Opc.vxfin ∨ op = Opc.vnorm ∨ op = Opc.vlsqf then 1
  else if op = Opc.vtload then 9
  else if op = Opc.vgather ∨ op = Opc.vscatter then (o.n + 127) / 128
  else if op = Opc.vsoftmax ∨ op = Opc.vlse then 3 * g
  else if op = Opc.vrand then (if o.sub.toNat = 2 then 2 * g else g)
  else if op = Opc.vcvtw then g32
  else if op = Opc.vld ∨ op = Opc.vst then (if o.sub.toNat = 1 then (o.n + 511) / 512 else g32)
  else if op = Opc.vupd then
    (if o.sub.toNat = 1 then 1 else if bits o.ext.toNat 30 29 = 0 then 2 * g32 else g32)
  else g

/-- The effect of a main-pipe operation on registers, lagoon and counters; `v` is the vector state its operands are read from
(R216). -/
def State.vecEffect (s : State) (k : Atoll) (r : SeqRegs) (op : Nat) (o : VOp) (v : VecSt := (s.atl k).vec) : State :=
  if op ≤ Opc.vscalb then s.vElem k r op o v
  else if op = Opc.vcmp then s.vCmp k r o v
  else if op = Opc.vsel then s.vSel k r o v
  else if op = Opc.vplog then s.vPlog k r o
  else if op = Opc.vcvtw then s.vCvtw k r o v
  else if op = Opc.viota then s.vIota k r o
  else if op = Opc.vld then s.vLoad k r o
  else if op = Opc.vst then (if o.converting then s.vConvert k r o v else s.vStore k r o v)
  else if op = Opc.vred then s.vRed k r o v
  else if op = Opc.vxfin then s.vXfin k o
  else if op = Opc.vnorm then s.vNorm k r o
  else if op = Opc.vscan then s.vScan k r o v
  else if op = Opc.vgather then s.vGather k r o v
  else if op = Opc.vscatter then s.vScatter k r o v
  else if op = Opc.vsoftmax then s.vSoft k r o false v
  else if op = Opc.vlse then s.vSoft k r o true v
  else if op = Opc.vtload then s.vTload k r o
  else if op = Opc.vfun then s.vTab k r o false v
  else if op = Opc.vdfun then s.vTab k r o true v
  else if op = Opc.vrand then s.vRand k r o
  else if op = Opc.vdigest then s.vDigest k r o v
  else if op = Opc.vlsq then s.vLsq k r o v
  else if op = Opc.vlsqf then s.vLsqf k r o
  else if o.sub.toNat = 0 then s.vUpdate k r o v
  else s.vFinish k r o

/-- A main-pipe operation acts; its issue clocks are counted as they pass (R185, R468). -/
def State.vecAct (s : State) (k : Atoll) (r : SeqRegs) (op : Nat) (o : VOp) (v : VecSt := (s.atl k).vec) : State :=
  (s.onVec k fun v => { v with mainOwed := v.mainOwed + issueClocks op o }).vecEffect k r op o v

/-- A main-pipe operation issued alone as the current bundle's (log 25: DESIGN CHOICE, safe). -/
def State.vecIssue (s : State) (k : Atoll) (op : Nat) (o : VOp) : State :=
  let r := (s.atl k).seq.r
  (s.flowNote k (vldReads r op o)).slotIssue k (fun s => s.vecBad k r op o) (fun s => s.vecStalls k r op o)
    (fun s => s.vecAct k r op o)

/-- VDRAIN issued alone. One that comes to a LIVE group has read the groups before it (R117). -/
def State.drainIssue (s : State) (k : Atoll) (d : DrainOp) : State :=
  let r := (s.atl k).seq.r
  let t := s.slotIssue k (fun s => s.drainBad k d) (fun s => s.drainStalls k r d) (fun s => s.drain k r d)
  if s.running k && (s.drainBad k d).isNone && s.drainStalls k r d then t.drainPart k r d else t

/-! ### The commands -/

/-- VADD: d := a + b (R187). -/
def execVadd (k : Atoll) (v : VOp) (s : State) : Outcome State Fault Refusal := .next (s.vecIssue k Opc.vadd v)
/-- VSUB: d := a − b (R187). -/
def execVsub (k : Atoll) (v : VOp) (s : State) : Outcome State Fault Refusal := .next (s.vecIssue k Opc.vsub v)
/-- VMUL: d := a × b (R187). -/
def execVmul (k : Atoll) (v : VOp) (s : State) : Outcome State Fault Refusal := .next (s.vecIssue k Opc.vmul v)
/-- VFMA: d := a × b + c, one rounding (R187). -/
def execVfma (k : Atoll) (v : VOp) (s : State) : Outcome State Fault Refusal := .next (s.vecIssue k Opc.vfma v)
/-- VDIV: a / b (R187). -/
def execVdiv (k : Atoll) (v : VOp) (s : State) : Outcome State Fault Refusal := .next (s.vecIssue k Opc.vdiv v)
/-- VSQRT: √a (R187). -/
def execVsqrt (k : Atoll) (v : VOp) (s : State) : Outcome State Fault Refusal := .next (s.vecIssue k Opc.vsqrt v)
/-- VRSQRT: 1 / √a (R187). -/
def execVrsqrt (k : Atoll) (v : VOp) (s : State) : Outcome State Fault Refusal := .next (s.vecIssue k Opc.vrsqrt v)
/-- VEXP: eᵃ (R187). -/
def execVexp (k : Atoll) (v : VOp) (s : State) : Outcome State Fault Refusal := .next (s.vecIssue k Opc.vexp v)
/-- VLOG: ln a (R187). -/
def execVlog (k : Atoll) (v : VOp) (s : State) : Outcome State Fault Refusal := .next (s.vecIssue k Opc.vlog v)
/-- VMAX: R187. -/
def execVmax (k : Atoll) (v : VOp) (s : State) : Outcome State Fault Refusal := .next (s.vecIssue k Opc.vmax v)
/-- VMIN: R187. -/
def execVmin (k : Atoll) (v : VOp) (s : State) : Outcome State Fault Refusal := .next (s.vecIssue k Opc.vmin v)
/-- VABS: R187. -/
def execVabs (k : Atoll) (v : VOp) (s : State) : Outcome State Fault Refusal := .next (s.vecIssue k Opc.vabs v)
/-- VNEG: R187. -/
def execVneg (k : Atoll) (v : VOp) (s : State) : Outcome State Fault Refusal := .next (s.vecIssue k Opc.vneg v)
/-- VSCALB: a × 2^k (R187). -/
def execVscalb (k : Atoll) (v : VOp) (s : State) : Outcome State Fault Refusal := .next (s.vecIssue k Opc.vscalb v)
/-- VCMP: R187. -/
def execVcmp (k : Atoll) (v : VOp) (s : State) : Outcome State Fault Refusal := .next (s.vecIssue k Opc.vcmp v)
/-- VSEL: R187. -/
def execVsel (k : Atoll) (v : VOp) (s : State) : Outcome State Fault Refusal := .next (s.vecIssue k Opc.vsel v)
/-- VPLOG: R187. -/
def execVplog (k : Atoll) (v : VOp) (s : State) : Outcome State Fault Refusal := .next (s.vecIssue k Opc.vplog v)
/-- VCVTW: R187. -/
def execVcvtw (k : Atoll) (v : VOp) (s : State) : Outcome State Fault Refusal := .next (s.vecIssue k Opc.vcvtw v)
/-- VIOTA: R187. -/
def execViota (k : Atoll) (v : VOp) (s : State) : Outcome State Fault Refusal := .next (s.vecIssue k Opc.viota v)
/-- VLD: R203. -/
def execVld (k : Atoll) (v : VOp) (s : State) : Outcome State Fault Refusal := .next (s.vecIssue k Opc.vld v)
/-- VST: R203. -/
def execVst (k : Atoll) (v : VOp) (s : State) : Outcome State Fault Refusal := .next (s.vecIssue k Opc.vst v)
/-- VRED: R192. -/
def execVred (k : Atoll) (v : VOp) (s : State) : Outcome State Fault Refusal := .next (s.vecIssue k Opc.vred v)
/-- VXFIN: R193. -/
def execVxfin (k : Atoll) (v : VOp) (s : State) : Outcome State Fault Refusal := .next (s.vecIssue k Opc.vxfin v)
/-- VNORM: R194. -/
def execVnorm (k : Atoll) (v : VOp) (s : State) : Outcome State Fault Refusal := .next (s.vecIssue k Opc.vnorm v)
/-- VSCAN: R195. -/
def execVscan (k : Atoll) (v : VOp) (s : State) : Outcome State Fault Refusal := .next (s.vecIssue k Opc.vscan v)
/-- VGATHER: R196. -/
def execVgather (k : Atoll) (v : VOp) (s : State) : Outcome State Fault Refusal := .next (s.vecIssue k Opc.vgather v)
/-- VSCATTER: R196. -/
def execVscatter (k : Atoll) (v : VOp) (s : State) : Outcome State Fault Refusal := .next (s.vecIssue k Opc.vscatter v)
/-- VSOFTMAX: R198. -/
def execVsoftmax (k : Atoll) (v : VOp) (s : State) : Outcome State Fault Refusal := .next (s.vecIssue k Opc.vsoftmax v)
/-- VLSE: R198. -/
def execVlse (k : Atoll) (v : VOp) (s : State) : Outcome State Fault Refusal := .next (s.vecIssue k Opc.vlse v)
/-- VTLOAD: R200. -/
def execVtload (k : Atoll) (v : VOp) (s : State) : Outcome State Fault Refusal := .next (s.vecIssue k Opc.vtload v)
/-- VFUN: R202. -/
def execVfun (k : Atoll) (v : VOp) (s : State) : Outcome State Fault Refusal := .next (s.vecIssue k Opc.vfun v)
/-- VDFUN: R202. -/
def execVdfun (k : Atoll) (v : VOp) (s : State) : Outcome State Fault Refusal := .next (s.vecIssue k Opc.vdfun v)
/-- VRAND: R205. -/
def execVrand (k : Atoll) (v : VOp) (s : State) : Outcome State Fault Refusal := .next (s.vecIssue k Opc.vrand v)
/-- VDIGEST: R207. -/
def execVdigest (k : Atoll) (v : VOp) (s : State) : Outcome State Fault Refusal := .next (s.vecIssue k Opc.vdigest v)
/-- VLSQ: R208. -/
def execVlsq (k : Atoll) (v : VOp) (s : State) : Outcome State Fault Refusal := .next (s.vecIssue k Opc.vlsq v)
/-- VLSQF: R208. -/
def execVlsqf (k : Atoll) (v : VOp) (s : State) : Outcome State Fault Refusal := .next (s.vecIssue k Opc.vlsqf v)
/-- VUPD_UPDATE: R246. -/
def execVupdUpdate (k : Atoll) (v : VOp) (s : State) : Outcome State Fault Refusal :=
  .next (s.vecIssue k Opc.vupd { v with sub := 0 })
/-- VUPD_FINISH: R249. -/
def execVupdFinish (k : Atoll) (v : VOp) (s : State) : Outcome State Fault Refusal :=
  .next (s.vecIssue k Opc.vupd { v with sub := 1 })
/-- VDRAIN: R188. -/
def execVdrain (k : Atoll) (d : DrainOp) (s : State) : Outcome State Fault Refusal := .next (s.drainIssue k d)

end Sys2Proof.Machine
end

