-- ==== Sys2Proof/Machine/Seq.lean ====
section
/-! DEFINITION. The sequencer (09_reefcode.md): control flow and loops (R218, R219), the scalar slots (R220), the message
slot, SLICE and PUBLISH (R225-R228), the issue of whole bundles with their refusals (R216, R230), and the load of the
instruction store (R231). -/

namespace Sys2Proof.Machine

open Host (Outcome)

/-! ### Scalar slots (R220) -/

/-- A special of RDS. -/
def State.special (s : State) (k : Atoll) (r : SeqRegs) (i : Nat) : Nat :=
  if i = 0 then s.tideNo
  else if i = 1 then s.tide.phase
  else if i = 2 then k.val
  else if i = 3 then (if s.hasSlot then s.fld F.HOLM_SLOT_SLOT else 2 ^ 64 - 1)
  else if 4 ≤ i ∧ i ≤ 7 then (match r.lstack[i - 4]? with | some l => l.done | none => 0)
  else if i = 8 then (if s.running k then (s.atl k).seq.slice.elim 0 SliceSt.phase else 0)
  else if i = 9 then s.clocksLeft k
  else if i = 10 then (s.atl k).seq.entry.elim 0 Prod.fst
  else 0

/-- Address of an LDL or STL. -/
def ScalarSlot.addr (x : ScalarSlot) (r : SeqRegs) : Nat := (BitVec.ofNat 64 (r.sv x.rs1) + r.operand x.b).toNat

/-- The SEQ_FAULT code of a scalar slot, 0 none: an access misaligned or outside program space. -/
def State.scalarCode (s : State) (k : Atoll) (r : SeqRegs) (x : ScalarSlot) : Nat :=
  if !x.ok then 1
  else if (x.opc = 0x20 ∨ x.opc = 0x21) ∧ (x.addr r % 8 ≠ 0 ∨ !s.inProgram k (x.addr r) 8) then 7
  else 0

/-- What the slot does, on the registers `r`. -/
def State.scalarOut (s : State) (k : Atoll) (r : SeqRegs) (x : ScalarSlot) : ScalarOut :=
  let a : Word64 := BitVec.ofNat 64 (r.sv x.rs1)
  let b := r.operand x.b
  let op := x.opc.toNat
  if op ≤ Sop.orh then .reg x.rd (alu op a b).toNat
  else if op = Sop.cmp then .pred (x.rd.toNat % 8) (condition (x.rd.toNat / 8) a b)
  else if op = Sop.pget then .reg x.rd (bit (r.pred (b.toNat % 8) (b.toNat / 8 % 4096)))
  else if op = Sop.ldl then (if s.lagErr k (x.addr r) 8 then .lagErr else .reg x.rd (s.lagNum k (x.addr r) 8))
  else if op = Sop.stl then .store (x.addr r) (r.sv x.rd)
  else .reg x.rd (s.special k r (b.toNat % 256))

/-- Write a scalar slot's result. -/
def State.scalarPut (s : State) (k : Atoll) : ScalarOut → State
  | .reg rd v => s.setS k rd v
  | .pred p v => s.onSeq k fun q => { q with r := q.r.putPred p v }
  | .store a v => s.lagWrite k a (bytesOf 8 v)
  | .lagErr => s.lagFault k

/-- A scalar slot issued alone as the current bundle's (log 25: DESIGN CHOICE, safe). -/
def State.scalarIssue (s : State) (k : Atoll) (op : Nat) (rd rs1 : SReg) (b : SOperand) : State :=
  let x : ScalarSlot := ⟨BitVec.ofNat 8 op, rd, rs1, b⟩
  let r := (s.atl k).seq.r
  if s.scalarCode k r x ≠ 0 then s.refuse k (s.scalarCode k r x)
  else if op = Sop.ldl then
    (if (s.atl k).strm.pends (x.addr r) 8 then (s.flowNote k [(x.addr r, 8)]).onSeq k fun q => { q with stalled := true }
     else ((s.lagSeen k (x.addr r) 8).onSeq k fun q => { q with stalled := false }).scalarPut k (s.scalarOut k r x))
  else s.scalarPut k (s.scalarOut k r x)

/-! ### Control flow (R218, R219) -/

/-- Levels that a taken jump to bundle `t` leaves: while `t` lies outside the innermost body, the level is popped (log
63: DEDUCED, unsafe). -/
def jumpLevels (t : Nat) : List LoopLevel → List LoopLevel
  | [] => []
  | l :: rest => if l.start < t ∧ t ≤ l.fin then l :: rest else jumpLevels t rest

/-- A taken jump. -/
def SeqRegs.jump (r : SeqRegs) (t : Nat) : SeqRegs := { r with pc := 128 * t, lstack := jumpLevels t r.lstack }

/-- The loop rule after the bundle at index `x`, from the innermost level outwards: the bundle to go to, and the levels
left (log 63: DEDUCED, unsafe). -/
def loopNext (x depth : Nat) : List LoopLevel → Nat × List LoopLevel
  | [] => (x + 1, [])
  | l :: rest =>
    if l.fin = x ∧ l.depth = depth then
      if l.done + 1 < l.count then (l.start + 1, { l with done := l.done + 1 } :: rest) else loopNext x depth rest
    else (x + 1, l :: rest)

/-- The bundle at the PC has executed without a taken jump (log 63: DEDUCED, unsafe). -/
def SeqRegs.advance (r : SeqRegs) : SeqRegs :=
  let (t, l) := loopNext (r.pc / 128) r.rstack.length r.lstack
  { r with pc := 128 * t, lstack := l }

/-- Registers after a jump of the control slot at the PC: none where nothing jumps. -/
def SeqRegs.flow (r : SeqRegs) (c : Ctl) : Option SeqRegs :=
  let x := r.pc / 128
  match c with
  | .jmp t => some (r.jump t.toNat)
  | .br t p pn => if r.pred p.toNat 0 != pn then some (r.jump t.toNat) else none
  | .jmpr i => some (r.jump (bits (r.sv i) 21 7))
  | .call t => some { r with pc := 128 * t.toNat, rstack := (x + 1) :: r.rstack }
  | .ret =>
    (match r.rstack with
     | t :: rest =>
       some { r with pc := 128 * t, rstack := rest, lstack := r.lstack.filter fun l => decide (l.depth ≤ rest.length) }
     | [] => none)
  | .loop c e => if r.count 32 c = 0 then some { r with pc := 128 * (e.toNat + 1) } else none
  | _ => none

/-- The level a LOOP at the PC pushes, if it pushes one. -/
def SeqRegs.push (r : SeqRegs) (c : Ctl) : SeqRegs :=
  match c with
  | .loop n e =>
    if r.count 32 n = 0 then r
    else { r with lstack := ⟨r.pc / 128, e.toNat, r.count 32 n, 0, r.rstack.length⟩ :: r.lstack }
  | _ => r

/-- The SEQ_FAULT code of the control slot, 0 none (R230): 3, 4, 5, 8 and 10. -/
def State.ctlCode (s : State) (k : Atoll) (r : SeqRegs) (c : Ctl) : Nat :=
  let run := s.running k
  match c with
  | .slice _ _ => if run && !(s.atl k).seq.passed then 3 else 0
  | .publish _ _ _ _ _ => if run then 0 else 3
  | .qclose q =>
    if !run then 3
    else
      let l := (s.atl k).seq.slice.elim [] SliceSt.qcloses
      if 16 ≤ l.length ∧ !l.contains (r.sv q) then 10 else 0
  | .ret => if r.rstack.isEmpty && run then 3 else 0
  | .call _ => if 32 ≤ r.rstack.length then 4 else 0
  | .loop n e =>
    if e.toNat < r.pc / 128 + 1 then 5 else if r.count 32 n ≠ 0 ∧ 4 ≤ r.lstack.length then 5 else 0
  | .swell _ n _ => if n = 0 then 8 else 0
  | _ => 0

/-- Messages of atoll `k` in flight (R218 FENCE bit 3): sends not completed, reductions whose counter is to rise. -/
def State.msgBusy (s : State) (k : Atoll) : Bool :=
  (s.sound.run.any fun e => e.2.queue.any fun m => m.counted && m.atoll == k.val) ||
  !(s.atl k).step.waiting.isEmpty || (s.atl k).step.red.any fun e => e.2.any fun r => !r.steps.isEmpty

/-- A FENCE must wait (R218); a vector operation has finished once it has issued. -/
def State.fenceStalls (s : State) (k : Atoll) (mask : BitVec 4) : Bool :=
  (mask.getLsbD 0 && (s.atl k).arr.busy) || (mask.getLsbD 2 && 0 < (s.atl k).strm.active) ||
  (mask.getLsbD 3 && s.msgBusy k)

/-- SWELL: the hint reaches the power controller (R224, R400). -/
def State.swell (s : State) (k : Atoll) (phase : BitVec 12) (n : BitVec 8) (level : BitVec 4) : State :=
  s.onPwr k fun p => { p with swells := p.swells ++ [(s.tideNo + n.toNat, phase.toNat, level.toNat)] }

/-- QCLOSE: the step close is registered for the slice's PUBLISH (R225). -/
def State.qclose (s : State) (k : Atoll) (addr : Nat) : State :=
  s.onSeq k fun q =>
    { q with slice := q.slice.map fun x => if x.qcloses.contains addr then x else { x with qcloses := x.qcloses ++ [addr] } }

/-! ### Messages (R227, R337, R360) -/

/-- A send or reduction acts: now, or deferred to the slice's PUBLISH; a SEND's descriptor is copied at issue. -/
def State.msgIssue (s : State) (k : Atoll) (reduce : Bool) (ctr addr : Nat) (now : Bool) : State :=
  let (d, s) := if reduce then (addr, s) else s.vFree k addr 32
  if now then (if reduce then s.reduceNow k ctr d else s.sendMsg k ctr d)
  else s.onSeq k fun q => { q with slice := q.slice.map fun x => { x with defers := x.defers ++ [⟨reduce, ctr, d⟩] } }

/-- A slice holds 256 deferred sends (R230 code 10). -/
def State.defersFull (s : State) (k : Atoll) (now : Bool) : Bool :=
  !now && decide (256 ≤ ((s.atl k).seq.slice.elim [] SliceSt.defers).length)

/-- A send or reduction issued alone as the current bundle's (log 25: DESIGN CHOICE, safe). -/
def State.msgAlone (s : State) (k : Atoll) (reduce : Bool) (ctr : BitVec 4) (r : SReg) (now : Bool) : State :=
  s.slotIssue k (fun s => if s.defersFull k now then some (s.refuse k 10) else none) (fun _ => false)
    fun s => s.msgIssue k reduce ctr.toNat ((s.atl k).seq.r.sv r) now

/-! ### PUBLISH (R227) -/

/-- Step 1 of R227 is over: array operations finished, attached streams complete, and room in the hold for a record. -/
def State.published (s : State) (k : Atoll) (rec' : Bool) : Bool :=
  !(s.atl k).arr.busy && !((s.atl k).strm.streams.any fun x => !x.detach && !x.done) && (!rec' || s.holdRoom k)

/-- Steps 2 to 6 of R227: deltas fold, step closes apply, stream records are written back, deferred sends leave, the
result slot and the record are written, and the slice closes. -/
def State.publishNow (s : State) (k : Atoll) (p : Publish) : State :=
  match (s.atl k).seq.slice with
  | none => s
  | some x =>
    let s := s.sample k
    let s := s.each x.deltas fun s d => s.qFold k d
    let s := s.each x.finishes fun s f => s.finishApply k f
    let s := s.each x.qcloses fun s a => s.qClose k a
    let s := s.gcgWriteBack k x.gcg
    let s := s.each x.defers fun s d => if d.reduce then s.reduceNow k d.ctr d.desc else s.sendMsg k d.ctr d.desc
    let s := if p.result then (s.setFld (F.RES_VAL k p.rslot) p.val).setFld (F.RES_TAG k p.rslot) p.tag else s
    let s := if p.record then s.record k (s.recordBytes k 0 p.val p.tag (if p.result then p.rslot else 0x8000) 0) else s
    let s := s.bump (F.SEQ_CNT_SLICES k)
    s.onSeq k fun q => { q with slice := none, run := none, faults := 0, passed := false, stalled := false }

/-- PUBLISH: closes the slice, or waits (log 64: DEDUCED, unsafe). -/
def State.publish (s : State) (k : Atoll) (p : Publish) : State :=
  if s.published k p.record then s.publishNow k p
  else s.onSeq k fun q => { q with stalled := true, slice := q.slice.map fun x => { x with publish := some p } }

/-- The PUBLISH of the control slot, its registers read from `r`. -/
def publishOf (r : SeqRegs) (rec' rs : Bool) (rslot : BitVec 4) (vreg treg : SReg) (whole : Bool) : Publish :=
  ⟨rec', rs, rslot.toNat, r.sv vreg, r.sv treg % 2 ^ 32, whole⟩

/-! ### Whole bundles (R216, R230) -/

/-- The bundle at index `x` of the store. -/
def SeqSt.bundleAt (q : SeqSt) (x : Nat) : Nat := (SMap.get (fun _ => (0 : BitVec 1024)) q.istore x).toNat

/-- The array operation of a bundle. -/
def Bundle.args (b : Bundle) (a : ArraySlot) : ArrayArgs := ⟨a, b.row, b.col, b.cove⟩

/-- The SEQ_FAULT code of a decoded bundle, 0 none, the causes taken in the order of their codes (log 62: DESIGN CHOICE,
unsafe). -/
def State.bundleCode (s : State) (k : Atoll) (r : SeqRegs) (b : Bundle) : Nat :=
  let opens := match b.ctl with | .slice _ _ => true | _ => false
  let arr := match b.arr with
    | some (op, a) => ((slotRefusal op.toNat (b.args a) r.sv).getD 0)
    | none => if b.row.en || b.col.en || b.cove.en then 6 else 0
  let main := match b.main with
    | some (op, o) => if o.ext ≠ 0 ∧ op.toNat ≠ Opc.vupd then 1 else if pairBeyond op.toNat o then 8 else 0
    | none => 0
  let msg := match b.msg with
    | some (.send _ _ n) => if s.defersFull k n then 10 else 0
    | some (.reduce _ _ n) => if s.defersFull k n then 10 else 0
    | _ => 0
  let sc (x : Option ScalarSlot) : Nat := match x with | some y => s.scalarCode k r y | none => 0
  let codes := [if b.units && !s.running k && !opens then 2 else 0, arr, main, msg, sc b.a, sc b.b, s.ctlCode k r b.ctl]
  (codes.filter fun c => c != 0).min?.getD 0

/-- The Q-descriptor for which a slot of the bundle waits under AWAIT (R174). -/
def State.bundleAwait (s : State) (k : Atoll) (r : SeqRegs) (b : Bundle) : Option Nat :=
  let l := (match b.arr with
    | some (op, a) =>
      let o := mkOp op.toNat (b.args a) r.sv
      (if s.sideAwaits k o.row (o.fmt false) then [o.row.qdesc] else []) ++
        (if s.sideAwaits k o.col (o.fmt true) then [o.col.qdesc] else [])
    | none => []) ++
    match b.main with
    | some (op, o) => if s.vecStalls k r op.toNat o && op.toNat != Opc.vld then [r.sv o.sb] else []
    | none => []
  l.head?

/-- A unit slot of the bundle cannot be accepted yet. -/
def State.unitsStall (s : State) (k : Atoll) (r : SeqRegs) (b : Bundle) : Bool :=
  (match b.arr with | some (op, a) => s.arrStalls k (mkOp op.toNat (b.args a) r.sv) | none => false) ||
  (match b.main with | some (op, o) => s.vecStalls k r op.toNat o | none => false) ||
  (match b.drain with | some d => s.drainStalls k r d | none => false) ||
  (match b.strm with | some (.issue _ _ _) => s.issueStalls k | _ => false)

/-- Lagoon ranges that the LDL slots of a bundle read. -/
def Bundle.loads (b : Bundle) (r : SeqRegs) : List (Nat × Nat) :=
  ((b.a.toList ++ b.b.toList).filter fun x => x.opc.toNat == Sop.ldl).map fun x => (x.addr r, 8)

/-- Lagoon ranges that the sequencer's reads of a bundle touch: those of its LDL slots and of a VLD (R287). -/
def Bundle.reads (b : Bundle) (r : SeqRegs) : List (Nat × Nat) :=
  b.loads r ++ match b.main with | some (op, o) => vldReads r op.toNat o | none => []

/-- A WAIT or FENCE of the bundle must wait, or an LDL a pending line (R287). -/
def State.waitsStall (s : State) (k : Atoll) (r : SeqRegs) (b : Bundle) : Bool :=
  ((b.loads r).any fun e => (s.atl k).strm.pends e.1 e.2) ||
  (match b.strm with | some (.wait c i) => !waitMet (SMap.get (fun _ => 0) r.sc c.toNat) (r.sv i) | _ => false) ||
  (match b.msg with | some (.wait c i) => !waitMet (SMap.get (fun _ => 0) r.mc c.toNat) (r.sv i) | _ => false) ||
  (match b.ctl with | .fence m => s.fenceStalls k m | _ => false)

/-- The state in which a unit refuses its operation, if one does (ARR_FAULT, VEC_FAULT). -/
def State.unitsBad (s : State) (k : Atoll) (r : SeqRegs) (b : Bundle) : Option State :=
  let a := match b.arr with | some (op, a) => s.arrBad k r op.toNat (b.args a) | none => none
  let m := match b.main with | some (op, o) => s.vecBad k r op.toNat o | none => none
  let d := match b.drain with | some d => s.drainBad k d | none => none
  a.orElse fun _ => m.orElse fun _ => d

/-- The unit slots act, every operand read as it stood before the bundle (R216); where the drain and the main pipe write
one element, the main pipe's stands (R185) (log 64: DEDUCED, unsafe). -/
def State.unitsAct (s : State) (k : Atoll) (r : SeqRegs) (b : Bundle) : State :=
  let v := (s.atl k).vec
  let s := match b.arr with | some (op, a) => s.arrEnter k (mkOp op.toNat (b.args a) r.sv) | none => s
  let s := match b.drain with | some d => s.drain k r d v | none => s
  let s := match b.main with | some (op, o) => s.vecAct k r op.toNat o v | none => s
  let s := match b.strm with | some (.issue c i d) => s.issueStream k c.toNat (r.sv i) d | _ => s
  match b.msg with
  | some (.send c i n) => s.msgIssue k false c.toNat (r.sv i) n
  | some (.reduce c i n) => s.msgIssue k true c.toNat (r.sv i) n
  | _ => s

/-- The bundle has issued: scalar results stand, the control slot acts, the PC moves on. -/
def State.bundleEnd (s : State) (k : Atoll) (r : SeqRegs) (c : Ctl) (out : List ScalarOut) : State :=
  let s := s.each out fun s o => s.scalarPut k o
  let s := match c with
    | .swell p n l => s.swell k p n l
    | .qclose q => s.qclose k (r.sv q)
    | _ => s
  let s := s.onSeq k fun q => { q with stalled := false, passed := false, acted := none, await := none, bundles := q.bundles + 1 }
  if c = .ret ∧ r.rstack.isEmpty then s.onSeq k SeqSt.idle
  else
    s.onSeq k fun q =>
      let next := match r.flow c with
        | some t => t
        | none => (r.push c).advance
      { q with r := { q.r with pc := next.pc, rstack := next.rstack, lstack := next.lstack } }

/-- A bundle that cannot be accepted stalls, and no slot acts (R216); its clocks count against the descriptor or the
pending lines it waits for (R174, R287). A VDRAIN for which alone it stalls has come to a group that may not be read: it
has read the groups before that one, one a clock (R117, R189; log 113: DEDUCED, unsafe). -/
def State.bundleStall (s : State) (k : Atoll) (r : SeqRegs) (b : Bundle) : State :=
  let s := (s.flowNote k (b.reads r)).onSeq k fun q => { q with stalled := true, await := s.bundleAwait k r b }
  match b.drain with
  | some d => if s.waitsStall k r b || s.unitsStall k r { b with drain := none } then s else s.drainPart k r d
  | none => s

/-- The slots of a bundle that is not refused: they stall, or the units act and then, PUBLISH's wait apart, the
bundle ends. A PUBLISH that waits keeps what its bundle's scalar slots and its own registers read (R216). -/
def State.bundleAct (s : State) (k : Atoll) (r : SeqRegs) (b : Bundle) : State :=
  let out := (b.a.toList ++ b.b.toList).map fun x => s.scalarOut k r x
  if s.waitsStall k r b then s.bundleStall k r b
  else match s.unitsBad k r b with
  | some t => t
  | none =>
    if s.unitsStall k r b then s.bundleStall k r b
    else if out.contains .lagErr then s.lagFault k
    else
      let s := (s.each (b.loads r) fun s e => s.lagSeen k e.1 e.2).unitsAct k r b
      match b.ctl with
      | .publish rec' rs i v t =>
        let p := publishOf r rec' rs i v t true
        if s.published k rec' then (s.publishNow k p).bundleEnd k r b.ctl out
        else
          s.onSeq k fun q =>
            { q with stalled := true, acted := some out, slice := q.slice.map fun x => { x with publish := some p } }
      | c => s.bundleEnd k r c out

/-- A PUBLISH whose bundle has acted goes on once its waits are over, with what the bundle read (R216, R227). -/
def State.bundleLate (s : State) (k : Atoll) (out : List ScalarOut) : State :=
  match (s.atl k).seq.slice.bind SliceSt.publish with
  | some p => if s.published k p.record then (s.publishNow k p).bundleEnd k (s.atl k).seq.r .nop out else s
  | none => s

/-- The slice at its fit test has failed it: it is tested again at slack (R33). -/
def SeqSt.tested (q : SeqSt) : Bool := q.run == some .fitWait && q.slice.any SliceSt.waited

/-- BUNDLE (R216): the sequencer issues the bundle at the PC whole, stalls it, or refuses it. Nothing happens while no
entry runs or its slice is halted. -/
def State.bundle (s : State) (k : Atoll) : State :=
  let q := (s.atl k).seq
  let r := q.r
  let x := r.pc / 128
  let held : Bool := match q.run with | some .running => false | some .fitWait => false | none => false | _ => true
  if q.entry.isNone || held then s
  else match q.acted with
  | some out => s.bundleLate k out
  | none =>
  if 32768 ≤ x then s.refuse k 9
  else match decodeBundle (q.bundleAt x) with
  | none => s.refuse k 1
  | some b =>
    let c := s.bundleCode k r b
    if c ≠ 0 then s.refuse k c
    else match b.ctl with
    | .slice p n =>
      if q.passed then s.bundleAct k r b
      else if q.tested then s
      else
        let s := if q.run = some .fitWait then s else s.enterSlice k p.toNat (r.count 64 n)
        let (s, ok) := s.tryOpen k
        if ok then (s.onSeq k fun q => { q with passed := true }).bundleAct k r b else s
    | _ => if q.run = some .fitWait then s else s.bundleAct k r b

/-! ### Loading the instruction store (R231) -/

/-- GO of ATL_ILOAD: arm a load, or ignore it. -/
def State.iloadArm (s : State) (k : Atoll) : State :=
  let first := s.fld (F.ATL_ILOAD_FIRST k)
  let n := s.fld (F.ATL_ILOAD_COUNT k) + 1
  if s.flag (F.ATL_ILOAD_STAT_BUSY k) ∨ 32768 < first + n then
    (s.setFld (F.ATL_ILOAD_STAT_ERR k) 1).raise 0x10 k 2
  else
    let s := (s.setFld (F.ATL_ILOAD_STAT_BUSY k) 1).setFld (F.ATL_ILOAD_STAT_DONE k) 0
    s.onSeq k fun q => { q with iload := some (s.fld (F.ATL_ILOAD_SRC_ADDR k) / 128 * 128, first, n) }

/-- Bundles loaded one after another from `src` on; the truth value tells whether all were. -/
def State.iloadRun (s : State) (k : Atoll) (src first : Nat) : Nat → State × Bool
  | 0 => (s, true)
  | n + 1 =>
    match s.vRead k src 128 with
    | (.error _, s) => (s, false)
    | (.ok bs, s) =>
      let s := s.onSeq k fun q =>
        { q with istore := SMap.put (fun _ => (0 : BitVec 1024)) q.istore first (BitVec.ofNat 1024 (ofBytes bs)) }
      s.iloadRun k (src + 128) (first + 1) n

/-- The load runs, while no plan entry runs on the atoll. -/
def State.iloadEnd (s : State) (k : Atoll) : State :=
  match (s.atl k).seq.iload with
  | none => s
  | some (src, first, n) =>
    if (s.atl k).seq.entry.isSome then s
    else
      let (s, ok) := s.iloadRun k src first n
      let s := (s.onSeq k fun q => { q with iload := none }).setFld (F.ATL_ILOAD_STAT_BUSY k) 0
      if ok then (s.setFld (F.ATL_ILOAD_STAT_DONE k) 1).raise 0x10 k 1
      else (s.setFld (F.ATL_ILOAD_STAT_ERR k) 1).raise 0x10 k 2

/-! ### The commands -/

/-- SLICE alone (R225): the snapshot, the fit test, and the opening. -/
def State.sliceAlone (s : State) (k : Atoll) (phase : BitVec 12) (budget : CountOf 26) : State :=
  let q := (s.atl k).seq
  let c := s.ctlCode k q.r (.slice phase budget)
  if c ≠ 0 ∨ q.passed then (if q.passed then s.refuse k 3 else s.refuse k c)
  else if (q.run = some .fitWait ∧ q.tested = false) ∨ q.run = none then
    let s := if q.run = some .fitWait then s else s.enterSlice k phase.toNat (q.r.count 64 budget)
    let (s, ok) := s.tryOpen k
    if ok then s.onSeq k fun q => { q with passed := true } else s
  else s

/-- A control operation issued alone as the current bundle's (log 25: DESIGN CHOICE, safe): a jump moves the PC, nothing
else does. -/
def State.ctlAlone (s : State) (k : Atoll) (c : Ctl) : State :=
  let r := (s.atl k).seq.r
  let e := s.ctlCode k r c
  if e ≠ 0 then s.refuse k e
  else match r.flow c with
  | some t => s.onSeq k fun q => { q with r := t }
  | none => s.onSeq k fun q => { q with r := r.push c }

/-- SLICE (R225). -/
def execSlice (k : Atoll) (phase : BitVec 12) (budget : CountOf 26) (s : State) : Outcome State Fault Refusal :=
  .next (s.sliceAlone k phase budget)

/-- PUBLISH (R227). -/
def execPublish (k : Atoll) (rec' rs : Bool) (rslot : BitVec 4) (vreg treg : SReg) (s : State) :
    Outcome State Fault Refusal :=
  if s.running k then .next (s.publish k (publishOf (s.atl k).seq.r rec' rs rslot vreg treg false))
  else .next (s.refuse k 3)

/-- SLICE_CLOSE (R227): a PUBLISH that waited goes on once its waits are over. -/
def execSliceClose (k : Atoll) (s : State) : Outcome State Fault Refusal :=
  match (s.atl k).seq.slice.bind SliceSt.publish with
  | none => .next s
  | some p =>
    if s.running k && s.published k p.record then .next (if p.whole then s.bundle k else s.publishNow k p) else .next s

/-- BUNDLE (R216). -/
def execBundle (k : Atoll) (s : State) : Outcome State Fault Refusal := .next (s.bundle k)

/-- NOP (R218): nothing. -/
def execNop (k : Atoll) (s : State) : Outcome State Fault Refusal := .next (s.ctlAlone k .nop)

/-- JMP (R218). -/
def execJmp (k : Atoll) (tgt : BitVec 15) (s : State) : Outcome State Fault Refusal := .next (s.ctlAlone k (.jmp tgt))

/-- BR (R218). -/
def execBr (k : Atoll) (tgt : BitVec 15) (p : BitVec 3) (pn : Bool) (s : State) : Outcome State Fault Refusal :=
  .next (s.ctlAlone k (.br tgt p pn))

/-- JMPR (R218). -/
def execJmpr (k : Atoll) (r : SReg) (s : State) : Outcome State Fault Refusal := .next (s.ctlAlone k (.jmpr r))

/-- CALL (R218). -/
def execCall (k : Atoll) (tgt : BitVec 15) (s : State) : Outcome State Fault Refusal := .next (s.ctlAlone k (.call tgt))

/-- RET (R214, R218): at an empty stack the plan entry ends. -/
def execRet (k : Atoll) (s : State) : Outcome State Fault Refusal :=
  if (s.atl k).seq.r.rstack.isEmpty && !s.running k then .next (s.onSeq k SeqSt.idle) else .next (s.ctlAlone k .ret)

/-- LOOP (R219). -/
def execLoop (k : Atoll) (count : CountOf 24) (fin : BitVec 15) (s : State) : Outcome State Fault Refusal :=
  .next (s.ctlAlone k (.loop count fin))

/-- SWELL (R224). -/
def execSwell (k : Atoll) (phase : BitVec 12) (n : BitVec 8) (level : BitVec 4) (s : State) :
    Outcome State Fault Refusal :=
  if n = 0 then .next (s.refuse k 8) else .next (s.swell k phase n level)

/-- QCLOSE (R225). -/
def execQclose (k : Atoll) (qreg : SReg) (s : State) : Outcome State Fault Refusal :=
  let r := (s.atl k).seq.r
  let e := s.ctlCode k r (.qclose qreg)
  if e ≠ 0 then .next (s.refuse k e) else .next (s.qclose k (r.sv qreg))

/-- FENCE (R218). -/
def execFence (k : Atoll) (mask : BitVec 4) (s : State) : Outcome State Fault Refusal :=
  .next (s.onSeq k fun q => { q with stalled := s.fenceStalls k mask })

/-- ADD: s[RD] := s[RS1] + b (R220). -/
def execAdd (k : Atoll) (rd rs1 : SReg) (b : SOperand) (s : State) : Outcome State Fault Refusal :=
  .next (s.scalarIssue k Sop.add rd rs1 b)
/-- SUB: s[RD] := s[RS1] − b (R220). -/
def execSub (k : Atoll) (rd rs1 : SReg) (b : SOperand) (s : State) : Outcome State Fault Refusal :=
  .next (s.scalarIssue k Sop.sub rd rs1 b)
/-- AND (R220). -/
def execAnd (k : Atoll) (rd rs1 : SReg) (b : SOperand) (s : State) : Outcome State Fault Refusal :=
  .next (s.scalarIssue k Sop.and rd rs1 b)
/-- OR (R220). -/
def execOr (k : Atoll) (rd rs1 : SReg) (b : SOperand) (s : State) : Outcome State Fault Refusal :=
  .next (s.scalarIssue k Sop.or rd rs1 b)
/-- XOR (R220). -/
def execXor (k : Atoll) (rd rs1 : SReg) (b : SOperand) (s : State) : Outcome State Fault Refusal :=
  .next (s.scalarIssue k Sop.xor rd rs1 b)
/-- SHL: by b mod 64 (R220). -/
def execShl (k : Atoll) (rd rs1 : SReg) (b : SOperand) (s : State) : Outcome State Fault Refusal :=
  .next (s.scalarIssue k Sop.shl rd rs1 b)
/-- SHR: by b mod 64 (R220). -/
def execShr (k : Atoll) (rd rs1 : SReg) (b : SOperand) (s : State) : Outcome State Fault Refusal :=
  .next (s.scalarIssue k Sop.shr rd rs1 b)
/-- SAR: by b mod 64, the sign kept (R220). -/
def execSar (k : Atoll) (rd rs1 : SReg) (b : SOperand) (s : State) : Outcome State Fault Refusal :=
  .next (s.scalarIssue k Sop.sar rd rs1 b)
/-- MUL: the low 64 bits of the product (R220). -/
def execMul (k : Atoll) (rd rs1 : SReg) (b : SOperand) (s : State) : Outcome State Fault Refusal :=
  .next (s.scalarIssue k Sop.mul rd rs1 b)
/-- MULHU: the high 64 bits of the unsigned product (R220). -/
def execMulhu (k : Atoll) (rd rs1 : SReg) (b : SOperand) (s : State) : Outcome State Fault Refusal :=
  .next (s.scalarIssue k Sop.mulhu rd rs1 b)
/-- MIN, signed (R220). -/
def execMin (k : Atoll) (rd rs1 : SReg) (b : SOperand) (s : State) : Outcome State Fault Refusal :=
  .next (s.scalarIssue k Sop.min rd rs1 b)
/-- MAX, signed (R220). -/
def execMax (k : Atoll) (rd rs1 : SReg) (b : SOperand) (s : State) : Outcome State Fault Refusal :=
  .next (s.scalarIssue k Sop.max rd rs1 b)
/-- MINU (R220). -/
def execMinu (k : Atoll) (rd rs1 : SReg) (b : SOperand) (s : State) : Outcome State Fault Refusal :=
  .next (s.scalarIssue k Sop.minu rd rs1 b)
/-- MAXU (R220). -/
def execMaxu (k : Atoll) (rd rs1 : SReg) (b : SOperand) (s : State) : Outcome State Fault Refusal :=
  .next (s.scalarIssue k Sop.maxu rd rs1 b)
/-- LI: s[RD] := b (R220). -/
def execLi (k : Atoll) (rd : SReg) (b : SOperand) (s : State) : Outcome State Fault Refusal :=
  .next (s.scalarIssue k Sop.li rd 0 b)
/-- ORH: b[20:0] over the low 43 bits (R220). -/
def execOrh (k : Atoll) (rd rs1 : SReg) (b : SOperand) (s : State) : Outcome State Fault Refusal :=
  .next (s.scalarIssue k Sop.orh rd rs1 b)
/-- CMP: a predicate, every bit (R220). -/
def execCmp (k : Atoll) (pred : BitVec 3) (cond : BitVec 3) (rs1 : SReg) (b : SOperand) (s : State) :
    Outcome State Fault Refusal := .next (s.scalarIssue k Sop.cmp (cond ++ pred) rs1 b)
/-- PGET: one bit of a predicate (R220). -/
def execPget (k : Atoll) (rd : SReg) (b : SOperand) (s : State) : Outcome State Fault Refusal :=
  .next (s.scalarIssue k Sop.pget rd 0 b)
/-- LDL: a 64-bit lagoon load (R220). -/
def execLdl (k : Atoll) (rd rs1 : SReg) (b : SOperand) (s : State) : Outcome State Fault Refusal :=
  .next (s.scalarIssue k Sop.ldl rd rs1 b)
/-- STL: a 64-bit lagoon store (R220). -/
def execStl (k : Atoll) (rd rs1 : SReg) (b : SOperand) (s : State) : Outcome State Fault Refusal :=
  .next (s.scalarIssue k Sop.stl rd rs1 b)
/-- RDS: a special value (R220). -/
def execRds (k : Atoll) (rd : SReg) (b : SOperand) (s : State) : Outcome State Fault Refusal :=
  .next (s.scalarIssue k Sop.rds rd 0 b)

/-- HINT (R224, R407): a forecast for the power stage, which never changes a result. -/
def execHint (_k : Atoll) (_ramp : BitVec 3) (s : State) : Outcome State Fault Refusal := .next s

/-- SEND (R337): at issue with NOW, else at the slice's PUBLISH. -/
def execSend (k : Atoll) (ctr : BitVec 4) (r : SReg) (now : Bool) (s : State) : Outcome State Fault Refusal :=
  .next (s.msgAlone k false ctr r now)

/-- REDUCE (R360). -/
def execReduce (k : Atoll) (ctr : BitVec 4) (r : SReg) (now : Bool) (s : State) : Outcome State Fault Refusal :=
  .next (s.msgAlone k true ctr r now)

/-- MSG_WAIT (R224). -/
def execMsgWait (k : Atoll) (ctr : BitVec 4) (r : SReg) (s : State) : Outcome State Fault Refusal :=
  let q := (s.atl k).seq.r
  .next (s.slotIssue k (fun _ => none) (fun _ => !waitMet (SMap.get (fun _ => 0) q.mc ctr.toNat) (q.sv r)) id)

/-- ILOAD_DONE (R231). -/
def execIloadDone (k : Atoll) (s : State) : Outcome State Fault Refusal := .next (s.iloadEnd k)

/-- DESCRIPTOR_REREAD (R174). -/
def execDescriptorReread (k : Atoll) (desc : Word64) (s : State) : Outcome State Fault Refusal :=
  .next (s.qReread k desc.toNat)

/-- CR_RECORD_WRITE (R96, R97): the oldest record of the hold is written once the ring has room, or dropped and counted
where the ring has been disabled since. -/
def execCrRecordWrite (k : Atoll) (s : State) : Outcome State Fault Refusal :=
  match (s.atl k).hold with
  | [] => .next s
  | r :: rest =>
    let t := s.onAtl k fun a => { a with hold := rest }
    if s.fld (F.HBR_CR_SIZE_EN k) = 0 then .next (t.bump (F.HBR_CR_DROP_DROP k))
    else if s.ringRoom k then .next (t.putRecord k r) else .next s

end Sys2Proof.Machine
end

