-- ==== Sys2Proof/Machine/Trust.lean ====
section
/-! DEFINITION. Firmware images, recovery, identity and quotes (18_bringup.md R434-R441), and the sensor copies a slow-clock
edge refreshes (R68). -/

namespace Sys2Proof.Machine

open Host (Outcome)

/-! ### SHA-512 -/

/-- Round constants of SHA-512. -/
def shaK : List (BitVec 64) :=
  [0x428A2F98D728AE22, 0x7137449123EF65CD, 0xB5C0FBCFEC4D3B2F, 0xE9B5DBA58189DBBC,
   0x3956C25BF348B538, 0x59F111F1B605D019, 0x923F82A4AF194F9B, 0xAB1C5ED5DA6D8118,
   0xD807AA98A3030242, 0x12835B0145706FBE, 0x243185BE4EE4B28C, 0x550C7DC3D5FFB4E2,
   0x72BE5D74F27B896F, 0x80DEB1FE3B1696B1, 0x9BDC06A725C71235, 0xC19BF174CF692694] ++
  [0xE49B69C19EF14AD2, 0xEFBE4786384F25E3, 0x0FC19DC68B8CD5B5, 0x240CA1CC77AC9C65,
   0x2DE92C6F592B0275, 0x4A7484AA6EA6E483, 0x5CB0A9DCBD41FBD4, 0x76F988DA831153B5,
   0x983E5152EE66DFAB, 0xA831C66D2DB43210, 0xB00327C898FB213F, 0xBF597FC7BEEF0EE4,
   0xC6E00BF33DA88FC2, 0xD5A79147930AA725, 0x06CA6351E003826F, 0x142929670A0E6E70] ++
  [0x27B70A8546D22FFC, 0x2E1B21385C26C926, 0x4D2C6DFC5AC42AED, 0x53380D139D95B3DF,
   0x650A73548BAF63DE, 0x766A0ABB3C77B2A8, 0x81C2C92E47EDAEE6, 0x92722C851482353B,
   0xA2BFE8A14CF10364, 0xA81A664BBC423001, 0xC24B8B70D0F89791, 0xC76C51A30654BE30,
   0xD192E819D6EF5218, 0xD69906245565A910, 0xF40E35855771202A, 0x106AA07032BBD1B8] ++
  [0x19A4C116B8D2D0C8, 0x1E376C085141AB53, 0x2748774CDF8EEB99, 0x34B0BCB5E19B48A8,
   0x391C0CB3C5C95A63, 0x4ED8AA4AE3418ACB, 0x5B9CCA4F7763E373, 0x682E6FF3D6B2B8A3,
   0x748F82EE5DEFB2FC, 0x78A5636F43172F60, 0x84C87814A1F0AB72, 0x8CC702081A6439EC,
   0x90BEFFFA23631E28, 0xA4506CEBDE82BDE9, 0xBEF9A3F7B2C67915, 0xC67178F2E372532B] ++
  [0xCA273ECEEA26619C, 0xD186B8C721C0C207, 0xEADA7DD6CDE0EB1E, 0xF57D4F7FEE6ED178,
   0x06F067AA72176FBA, 0x0A637DC5A2C898A6, 0x113F9804BEF90DAE, 0x1B710B35131C471B,
   0x28DB77F523047D84, 0x32CAAB7B40C72493, 0x3C9EBE0A15C9BEBC, 0x431D67C49C100D4C,
   0x4CC5D4BECB3E42B6, 0x597F299CFC657E2A, 0x5FCB6FAB3AD6FAEC, 0x6C44198C4A475817]

/-- Initial state of SHA-512. -/
def shaInit : List (BitVec 64) :=
  [0x6A09E667F3BCC908, 0xBB67AE8584CAA73B, 0x3C6EF372FE94F82B, 0xA54FF53A5F1D36F1,
   0x510E527FADE682D1, 0x9B05688C2B3E6C1F, 0x1F83D9ABFB41BD6B, 0x5BE0CD19137E2179]

/-- The 64-bit words of a block, most significant byte first. -/
def shaWords : List Byte → List (BitVec 64)
  | a :: b :: c :: d :: e :: f :: g :: h :: rest => (a ++ b ++ c ++ d ++ e ++ f ++ g ++ h) :: shaWords rest
  | _ => []

/-- The message schedule grown by `n` words; the window of the last 16 words is newest first. -/
def shaGrow : Nat → List (BitVec 64) → List (BitVec 64)
  | 0, w => w.reverse
  | n + 1, w =>
    let at' (i : Nat) : BitVec 64 := w.getD i 0
    let s1 := (at' 1).rotateRight 19 ^^^ (at' 1).rotateRight 61 ^^^ ((at' 1) >>> 6)
    let s0 := (at' 14).rotateRight 1 ^^^ (at' 14).rotateRight 8 ^^^ ((at' 14) >>> 7)
    shaGrow n ((at' 15 + s0 + at' 6 + s1) :: w)

/-- One round. -/
def shaRound (h : List (BitVec 64)) (kw : BitVec 64 × BitVec 64) : List (BitVec 64) :=
  match h with
  | [a, b, c, d, e, f, g, x] =>
    let s1 := e.rotateRight 14 ^^^ e.rotateRight 18 ^^^ e.rotateRight 41
    let ch := (e &&& f) ^^^ (~~~e &&& g)
    let t1 := x + s1 + ch + kw.1 + kw.2
    let s0 := a.rotateRight 28 ^^^ a.rotateRight 34 ^^^ a.rotateRight 39
    let maj := (a &&& b) ^^^ (a &&& c) ^^^ (b &&& c)
    [t1 + (s0 + maj), a, b, c, d + t1, e, f, g]
  | _ => h

/-- One 128-byte block. -/
def shaBlock (h : List (BitVec 64)) (bs : List Byte) : List (BitVec 64) :=
  let w := shaGrow 64 (shaWords bs).reverse
  List.zipWith (· + ·) h ((shaK.zip w).foldl shaRound h)

/-- Blocks of 128 bytes in turn. -/
def shaBlocks : Nat → List (BitVec 64) → List Byte → List (BitVec 64)
  | 0, h, _ => h
  | n + 1, h, bs => shaBlocks n (shaBlock h (bs.take 128)) (bs.drop 128)

/-- The `n` bytes of a number, most significant first. -/
def bigBytes (n v : Nat) : List Byte := (bytesOf n v).reverse

/-- The number whose bytes, most significant first, are `bs`. -/
def ofBig (bs : List Byte) : Nat := ofBytes bs.reverse

/-- SHA-512 of a message, as its 64 bytes. -/
def sha512 (bs : List Byte) : List Byte :=
  let n := bs.length
  let m := bs ++ [0x80] ++ List.replicate ((239 - n % 128) % 128) 0 ++ bigBytes 16 (8 * n)
  (shaBlocks (m.length / 128) shaInit m).flatMap fun w => bigBytes 8 w.toNat

/-! ### RSA signatures (RFC 8017) -/

/-- `b` to the power of the low `n` bits of `e`, modulo `m`. -/
def powMod (m b : Nat) : Nat → Nat → Nat
  | 0, _ => 1 % m
  | n + 1, e =>
    let h := powMod m (b * b % m) n (e / 2)
    if e % 2 = 1 then h * b % m else h

/-- The encoded message of RSASSA-PKCS1-v1_5 with SHA-512 in 512 bytes: its DigestInfo and the digest. -/
def pkcs1 (digest : List Byte) : List Byte :=
  [0, 1] ++ List.replicate 426 0xFF ++ [0] ++
  [0x30, 0x51, 0x30, 0x0D, 0x06, 0x09, 0x60, 0x86, 0x48, 0x01, 0x65, 0x03, 0x04, 0x02, 0x03, 0x05, 0x00, 0x04, 0x40] ++ digest

/-- The signature verifies. -/
def rsaVerify (modulus exp : Nat) (sig msg : List Byte) : Bool :=
  let x := ofBig sig
  modulus != 0 && decide (x < modulus) && powMod modulus x 32 exp == ofBig (pkcs1 (sha512 msg))

/-! ### Images (R435-R437) -/

/-- Bytes `[o, o + n)` of an image. -/
def imgBytes (b : Image) (o n : Nat) : List Byte := (b.drop o).take n

/-- A header field, little-endian (R6; log 88: DESIGN CHOICE, unsafe). -/
def imgFld (b : Image) (o n : Nat) : Nat := ofBytes (imgBytes b o n)

/-- What verification of an image says: a result code of R436, where `want` is the component asked for, 0 any. The first
that fails in the order of the recovery results is reported (log 88: DESIGN CHOICE, unsafe). -/
def verifyImage (b : Image) (want : Nat) : Nat :=
  let c := imgFld b 4 2
  let key := imgFld b 6 1
  let n := imgFld b 12 8
  if b.length < 1536 || imgFld b 0 4 != 0x47544657 || c == 0 || decide (5 < c) || (want != 0 && c != want) then 5
  else if (Config.areaSize c).toNat < 1536 + n then 6
  else if 2 < key ∨ ofBig (sha512 (imgBytes b 128 516)) ≠ (Config.romKey key).toNat then 2
  else if !rsaVerify (imgFld b 128 512) (imgFld b 640 4) (imgBytes b 1024 512) (imgBytes b 0 1024) then 3
  else if b.length < 1536 + n ∨ sha512 (imgBytes b 1536 n) ≠ imgBytes b 20 64 then 4
  else 1

/-- Version, key and measurement of an image. -/
def imageOf (b : Image) : ImageSt := ⟨imgFld b 8 4, imgFld b 6 1, ofBig (sha512 (imgBytes b 0 1024)), true⟩

/-- A delivered image is verified and stored, or discarded (R436, R437): a recovery in WAIT_FIRMWARE, else a field update. -/
def State.deliverImage (s : State) (b : Image) : State :=
  let s := s.onRst fun r => { r with recv := none }
  let recovery := decide (s.fld F.HOLM_STATE_STATE = 2)
  let res := verifyImage b (if recovery then s.rst.need else 0)
  let s := s.setFld F.MGMT_REC_STAT_RESULT res
  if res = 1 then
    let c := imgFld b 4 2
    let s := s.onRst fun r => { r with images := SMap.ins r.images c (imageOf b) }
    let s := (s.setFld F.MGMT_REC_STAT_STATE 4).raise 0x0A 0 0
    if recovery then s.moduleReset 6
    else ((s.setFld F.SEC_STAT_PEND 1).onRst fun r => { r with pending := (r.pending ++ [c]).eraseDups }).raise 0x07 0 2
  else
    let s := (s.setFld F.MGMT_REC_STAT_STATE 5).raise 0x0A 0 1
    if recovery then s else s.raise 0x07 0 3

/-- BEGIN of a delivery over I3C. -/
def State.recBegin (s : State) : State :=
  ((s.onRst fun r => { r with recv := some [] }).setFld F.MGMT_REC_STAT_STATE 1).setFld F.MGMT_REC_STAT_RESULT 0

/-- END: what was received is the image. -/
def State.recEnd (s : State) : State := match s.rst.recv with | some b => s.deliverImage b | none => s

/-- ABORT of a delivery. -/
def State.recStop (s : State) : State :=
  match s.rst.recv with
  | some _ => (s.onRst fun r => { r with recv := none }).setFld F.MGMT_REC_STAT_STATE 0
  | none => s

/-- MGMT_REC_CTL (R436). -/
def State.recCtl (s : State) (cmd : Nat) : State :=
  if cmd = 1 then s.recBegin else if cmd = 2 then s.recEnd else if cmd = 3 then s.recStop else s

/-- MGMT_REC_DATA: the next four bytes of the image. -/
def State.recData (s : State) (v : Nat) : State :=
  s.onRst fun r => { r with recv := r.recv.map fun b => b ++ bytesOf 4 v }

/-- REC_LOAD: LOAD of the BAR0 mailbox, with what REC_SRC and REC_LEN hold (R436): the endpoint reads the image there; `image`
is what the server's memory holds from REC_SRC on. With the link down the mailbox is not reached (R457). -/
def execRecLoad (src : Word64) (len : Word32) (image : Image) (s : State) : Outcome State Fault Refusal :=
  if s.rst.power ∧ s.flag F.HBR_PCIE_UP then
    let s := s.onRst fun r => { r with recSrc := src, recLen := len }
    .next ((s.emit (.outbound false src.toNat len.toNat)).deliverImage (image.take len.toNat))
  else .next s

/-- REC_ABORT: ABORT of the BAR0 mailbox. -/
def execRecAbort (s : State) : Outcome State Fault Refusal := .next (if s.flag F.HBR_PCIE_UP then s.recStop else s)

/-! ### Quotes (R438, R439) -/

/-- The loaded image of component `c`. -/
def State.loadedImage (s : State) (c : Nat) : ImageSt := (SMap.find s.rst.loaded c).getD ⟨0, 0, 0, false⟩

/-- SEC_CMD: 1 QUOTE, ignored while one is made or where the identity failed; 2 CERT (R438, R439). -/
def State.secCmd (s : State) (cmd : Nat) : State :=
  if cmd = 1 then
    if s.flag F.SEC_STAT_QUOTE_BUSY || !s.flag F.SEC_STAT_ID_OK then s
    else
      let nonce := (List.range 8).flatMap fun w => bytesOf 4 (s.rd (R.SEC_NONCE w))
      (s.setFld F.SEC_STAT_QUOTE_BUSY 1).onRst fun r => { r with nonce := nonce }
  else if cmd = 2 then
    let n := Config.certLength.toNat
    let s := s.onRst fun r => { r with window := (List.range n).map Config.certByte }
    (s.setFld F.SEC_STAT_QUOTE_VALID 0).wr R.SEC_WIN_LEN n
  else s

/-- Bytes 0-463 of a quote. -/
def State.quoteBody (s : State) : List Byte :=
  bytesOf 4 1 ++ bytesOf 2 0x0864 ++ bytesOf 2 5 ++ s.rst.nonce ++ bytesOf 4 (s.fld F.HOLM_BOOT_COUNT) ++
  bytesOf 6 (if s.tide.running then s.tideNo else 0) ++
  bytesOf 1 (s.slotNo + 16 * s.fld F.HOLM_SLOT_READING) ++ bytesOf 1 (s.fld F.HOLM_ATOLLS_IN_SERVICE) ++ bytesOf 12 0 ++
  [1, 2, 3, 4, 5].flatMap fun c =>
    let i := s.loadedImage c
    bytesOf 2 c ++ bytesOf 1 i.key ++ bytesOf 1 0 ++ bytesOf 4 i.version ++ bytesOf 8 0 ++ bigBytes 64 i.meas

/-- QUOTE_DONE (R439): the quote and its signature are in the window. -/
def execQuoteDone (s : State) : Outcome State Fault Refusal :=
  if !s.flag F.SEC_STAT_QUOTE_BUSY then .next s
  else
    let b := s.quoteBody
    let sig := bigBytes 512 (Config.identitySign (BitVec.ofNat 512 (ofBig (sha512 b)))).toNat
    let s := (s.setFld F.SEC_STAT_QUOTE_BUSY 0).setFld F.SEC_STAT_QUOTE_VALID 1
    .next (((s.onRst fun r => { r with window := b ++ sig }).wr R.SEC_WIN_LEN 976).raise 0x07 0 0)

/-- SEC_WIN_DATA: the word at SEC_WIN_IDX. -/
def State.winWord (s : State) : Nat := ofBytes ((s.rst.window.drop (4 * s.fld F.SEC_WIN_IDX_WORD)).take 4)

/-- A read of SEC_WIN_DATA advances the index. -/
def State.winRead (s : State) : State := s.setFld F.SEC_WIN_IDX_WORD (s.fld F.SEC_WIN_IDX_WORD + 1)

/-- SEC_COMP and SEC_MEAS of the component SEC_COMP_IDX names, and SEC_KEYS. -/
def State.compView (s : State) : Nat := (s.loadedImage (s.fld F.SEC_COMP_IDX_COMP)).version
def State.measView (s : State) (w : Nat) : Nat :=
  ofBytes (((bigBytes 64 (s.loadedImage (s.fld F.SEC_COMP_IDX_COMP)).meas).drop (4 * w)).take 4)
def State.keysView (s : State) : Nat :=
  (s.rst.loaded.map fun e => 2 ^ e.2.key).foldl (· ||| ·) 0

/-! ### The I3C target's address (R441) -/

/-- The dynamic address is `a`. -/
def State.dynAddr (s : State) (a : Nat) : State := (s.setFld F.MGMT_ADDR_DYN a).setFld F.MGMT_ADDR_DYN_VALID 1

/-- ENTDAA (R441). -/
def execEntdaa (addr : BitVec 7) (s : State) : Outcome State Fault Refusal := .next (s.dynAddr addr.toNat)

/-- SETDASA (R441), from MGMT_ADDR.STATIC. -/
def execSetdasa (static addr : BitVec 7) (s : State) : Outcome State Fault Refusal :=
  .next (if static.toNat = s.fld F.MGMT_ADDR_STATIC then s.dynAddr addr.toNat else s)

/-! ### The slow clock (R68, R69) -/

/-- A temperature copy: edge count, highest since power-on, now. -/
def State.tempCopy (s : State) (a edge : Nat) (t : BitVec 16) : State :=
  let was := s.rd a
  let top : Int := if bits was 63 48 = 0 ∧ bits was 47 32 = 0 then t.toInt else max (signed 16 (bits was 47 32)) t.toInt
  s.wr a (edge * 2 ^ 48 + unsigned 16 top * 2 ^ 32 + t.toNat)

/-- SLOW_CLOCK_EDGE (R68): every sensor copy is refreshed. -/
def execSlowClockEdge (x : SlowSensors) (s : State) : Outcome State Fault Refusal :=
  let e := (s.slowEdges + 1) % 65536
  let s := { s with slowEdges := e }
  let s := s.wr R.PWR_INPUT (e * 2 ^ 48 + x.vin.toNat * 2 ^ 32 + x.iin.toNat * 2 ^ 16 + x.pin.toNat)
  let s := s.each x.atollTemp.zipIdx fun s t => if t.2 < 8 then s.tempCopy (R.THERM_ATL t.2) e t.1 else s
  let s := (s.tempCopy R.THERM_HBR e x.harbour).tempCopy R.THERM_HOLM e x.holm
  let s := s.each x.portTemp.zipIdx fun s t => if t.2 < 6 then s.tempCopy (R.THERM_PORT t.2) e t.1 else s
  let s := s.each x.stackTemp.zipIdx fun s t =>
    if t.2 < 48 then s.wr (R.SHOAL_TEMP t.2) (e * 2 ^ 48 + t.1.toNat) else s
  .next (s.each x.light.zipIdx fun s t =>
    if t.2 < 2 then s.wr (R.PORT_LIGHT (4 + t.2)) (e * 2 ^ 48 + t.1.1.toNat * 2 ^ 32 + t.1.2.1.toNat * 2 ^ 16 + t.1.2.2.toNat) else s)

end Sys2Proof.Machine
end

