-- ==== Sys2Proof/Machine/Views.lean ====
section
/-! DEFINITION. What a read of the register window returns: the stored registers, and those that show the state of an
engine, read as that state (the field maps of spec/). -/

namespace Sys2Proof.Machine

/-- SEQ_STAT.STATE (09_reefcode.md): 0 IDLE, 1 RUN, 2 FITWAIT, 3 STALL, 4 NOSTART, 5 AWAIT, 6 ILOAD. A slice that is
halted or held counts as waiting for slack (log 93: DESIGN CHOICE, unsafe). -/
def State.seqState (s : State) (k : Atoll) : Nat :=
  let q := (s.atl k).seq
  if q.entry.isNone then (if q.iload.isSome then 6 else 0)
  else match q.run with
    | some .running => if q.await.isSome then 5 else if q.stalled then 3 else 1
    | none => if q.stalled then 3 else 1
    | some _ => if s.noStart k then 4 else 2

/-- SEQ_STAT. -/
def State.seqStat (s : State) (k : Atoll) : Nat :=
  let q := (s.atl k).seq
  min 4 q.r.lstack.length * 2 ^ 19 + min 32 q.r.rstack.length * 2 ^ 13 + q.entry.elim 0 Prod.fst % 16 * 2 ^ 9 +
  bit (s.running k) * 2 ^ 8 + s.seqState k

/-- A bank's state as ARR_STAT shows it. -/
def BankState.code : BankState → Nat
  | .free => 0 | .live => 1 | .released => 2

/-- A bank's state as cell (0, 0) has it: that of the last operation whose step 0 has reached it, LIVE until its last
step (R111, R114; which cell ARR_STAT shows is log 112: DESIGN CHOICE, unsafe). -/
def ArrSt.stateOf (m : ArrSt) (bank : Bool) : BankState :=
  match (m.queue.filter fun o => o.op != 6 && o.a.bank == bank && o.clk != 0 && !o.filed).getLast? with
  | some o => if o.clk < o.total then .live else endState o.a.fin.toNat
  | none => (m.bank bank).state

/-- ARR_STAT (05_array.md). -/
def State.arrStat (s : State) (k : Atoll) : Nat :=
  let m := (s.atl k).arr
  (m.stateOf true).code * 2 ^ 5 + (m.stateOf false).code * 2 ^ 3 + bit m.heldBy.2 * 4 + bit m.heldBy.1 * 2 +
  bit (m.queue.any fun o => o.started && !m.gone o)

/-- VEC_STAT (08_vector.md); an operation issues at once, so neither pipe is seen busy (log 23: DESIGN CHOICE, safe). -/
def State.vecStat (s : State) (k : Atoll) : Nat :=
  (List.range 4).foldl (fun a i => if (SMap.get (fun _ => none) (s.atl k).vec.tab i).isSome then a + 2 ^ i else a) 0

/-- The cove half of a side serves an operation, and the slabs it holds: windows of 128 fetched steps that have not
entered the array whole, at most two (R235; log 93: DESIGN CHOICE, unsafe). -/
def State.coveHalf (s : State) (k : Atoll) (col : Bool) : Bool × Nat :=
  match (s.atl k).arr.queue.find? fun o => (o.side col).cove with
  | none => (false, 0)
  | some o =>
    let fed := (o.feeders.filter fun f => decide (1024 ≤ f) == col).foldl (fun a f => max a (SMap.get (fun _ => 0) o.fed f)) 0
    (true, min 2 ((fed + 127) / 128 - o.clk / 128))

/-- COVE_STAT (10_backward.md). -/
def State.coveStat (s : State) (k : Atoll) : Nat :=
  let r := s.coveHalf k false
  let c := s.coveHalf k true
  c.2 * 16 + r.2 * 4 + bit c.1 * 2 + bit r.1

/-! ### Memory controllers and stacks (11_shoal_memory.md) -/

def ChState.code : ChState → Nat
  | .ok => 0 | .retrain => 1 | .ebb => 2 | .mapped => 3

/-- MC_STAT. -/
def State.mcStat (s : State) (k : Atoll) : Nat :=
  let m := (s.atl k).mc
  m.maps.length % 16 * 2 ^ 28 + bit m.ebb.isSome * 2 ^ 27 + bit m.window.isSome * 2 ^ 26 +
  (768 - m.maps.length) % 1024 * 2 ^ 16 + m.retired.length % 2048

/-- MC_MAP `n`, and MC_RUN of run `i` of map-out `n`. -/
def State.mapView (s : State) (k : Atoll) (n : Nat) : Nat :=
  match (s.atl k).mc.maps[n]? with
  | some x => 2 ^ 31 + bit x.lost * 2 ^ 30 + x.chan
  | none => 0
def State.runView (s : State) (k : Atoll) : Nat :=
  let i := s.fld (F.MC_RUN_IDX_INDEX k)
  match ((s.atl k).mc.maps[i / 64]?).bind fun x => x.hosts[i % 64]? with
  | some h => 2 ^ 31 + h
  | none => 0

/-- MC_HOLD: OCC is the fullest hold now. -/
def State.holdView (s : State) (k : Atoll) : Nat :=
  withBits (s.rd (R.MC_HOLD k)) 9 0 ((s.atl k).mc.chans.foldl (fun a e => max a e.2.hold.length) 0)

/-- MC_RETIRE_PEND. -/
def State.pendView (s : State) (k : Atoll) : Nat :=
  let l := (s.atl k).mc.pend
  l.length % 2 ^ 16 * 2 ^ 48 + (l.head?.elim 0 fun e => e.1 / 4096) % 2 ^ 26 * 2 ^ 12

/-- The channel SHOAL_CH_IDX names on stack `st`, of its atoll's 768. -/
def State.shownChan (s : State) (st : Nat) : ChSt := s.chan (atollOf (st / 6)) (6 * s.fld (F.SHOAL_CH_IDX_CHANNEL st) + st % 6)

/-- SHOAL_CH_STAT. -/
def State.chanView (s : State) (st : Nat) : Nat :=
  let c := s.shownChan st
  let full := (List.range 32).filter fun b => decide (8 ≤ SMap.get (fun _ => 0) c.spares b)
  c.state.code * 2 ^ 30 + bit c.half * 2 ^ 29 + bit c.spare.isSome * 2 ^ 28 + c.spare.getD 0x1F % 32 * 2 ^ 23 +
  min 255 c.rows * 2 ^ 8 + full.length

/-- SHOAL_CH_AGE. -/
def State.chanAge (s : State) (st : Nat) : Nat := min (2 ^ 24 - 1) (s.tide.slacks - (s.shownChan st).trained)

/-! ### Streams (12_streams.md) -/

def FltState.code : FltState → Nat
  | .free => 0 | .waitSelf => 1 | .waitHost => 2 | .resumed => 3 | .aborted => 4 | .cancelled => 5

/-- The fault record STRM_FLT_IDX names. -/
def State.shownFault (s : State) (k : Atoll) : FltRec := (s.atl k).strm.fltAt (s.fld (F.STRM_FLT_IDX_RECORD k))

/-- STRM_FLT_INFO. -/
def FltRec.info (r : FltRec) : Nat :=
  r.state.code * 2 ^ 28 + r.kind % 16 * 2 ^ 24 + bit r.write * 2 ^ 23 + bit r.detach * 2 ^ 22 + r.ctr % 16 * 2 ^ 18 +
  r.stream % 64

/-- STRM_STAT. -/
def State.strmStat (s : State) (k : Atoll) : Nat :=
  let m := (s.atl k).strm
  (m.streams.filter fun x => x.waits && !x.done).length % 128 * 2 ^ 8 + m.active % 128

/-- LAG_PEND: lines pending (R287). -/
def State.lagPend (s : State) (k : Atoll) : Nat := ((s.atl k).strm.streams.flatMap StreamSt.lines).eraseDups.length

/-! ### Ports (13_ports.md) -/

def LaneState.code : LaneState → Nat
  | .off => 0 | .active => 1 | .standby => 2 | .excluded => 3
def BundleState.code : BundleState → Nat
  | .none => 0 | .up => 1 | .late => 2 | .down => 3

/-- PORT_STAT: on a B port the lanes a received direction of which is active, else the eight lanes of a link that is up
(log 93: DESIGN CHOICE, unsafe). -/
def State.portStat (s : State) (p : PortIx) : Nat :=
  let m := s.port p
  let v := s.rd (R.PORT_STAT p) / 2 ^ 29 % 8 * 2 ^ 29
  if p.val < 2 then
    v + min 31 (m.bundles.filter fun e => m.carries e.1).length * 2 ^ 16 +
      ((List.range 32).filter fun l => (m.lane l).rx == .active).length
  else v + (if s.flag (F.PORT_STAT_UP p) then 8 else 0)

/-- PORT_LANE of the lane PORT_LANE_IDX names: its far end is its receiver's (log 93: DESIGN CHOICE, unsafe). -/
def State.laneView (s : State) (p : PortIx) : Nat :=
  let m := s.port p
  let y := m.lane (s.fld (F.PORT_LANE_IDX_LANE p))
  y.rx.code * 2 ^ 30 + y.tx.code * 2 ^ 28 + y.cause % 8 * 2 ^ 25 + bit y.pol * 2 ^ 24 +
  y.rxFrom.elim 0 (fun f => (m.bundle f.serial).slot % 16 * 2 ^ 16 + f.port % 2 * 2 ^ 15 + f.lane % 32 * 2 ^ 10) +
  min 1023 y.crcLast

/-- PORT_PEER of the slot PORT_PEER_IDX names: of two modules that claim it, one whose bundle carries traffic goes first
(log 93: DESIGN CHOICE, unsafe). -/
def State.peerView (s : State) (p : PortIx) : Nat :=
  let i := s.fld (F.PORT_PEER_IDX_SLOT p)
  let m := s.port p
  let x := m.named i
  let b := x.elim BundleSt.none m.bundle
  let standby := (x.elim [] fun x => m.lanesTo x false).filter fun l => (m.lane l).rx == .standby
  b.state.code * 2 ^ 30 + min 63 b.txw * 2 ^ 24 + min 63 b.rxw * 2 ^ 18 + min 15 standby.length * 2 ^ 14 +
  bit (s.conflicted i) * 2 ^ 13 + min 255 (b.delay.getD 0)

/-! ### Sound, reductions, flash -/

/-- SND_STAT: contexts of the port with packets waiting. -/
def State.sndStat (s : State) (p : PortIx) : Nat :=
  withBits (s.rd (R.SND_STAT p)) 15 0 (min 0xFFFF (s.waitingTx p).length)

/-- SNDCTX_ADMIT_HEAD: the oldest waiting CONNECT (R351). -/
def State.admitHead (s : State) : Nat :=
  match s.sound.admissions with
  | [] => 0
  | a :: _ =>
    a.port.val * 2 ^ 60 + a.hdr.slot.val * 2 ^ 56 + bit a.offboard * 2 ^ 55 + a.hdr.src.toNat * 2 ^ 20 + a.hdr.dst.toNat

/-- Closes held for the harbour: cache slot, tide they wait since (R370). -/
def State.heldCloses (s : State) (k : Atoll) : List (Nat × Nat) :=
  (s.atl k).step.red.flatMap fun e => match e.2 with
    | some r => r.steps.filterMap fun x => if x.closed || x.closeAt.isSome then none else x.held.map fun t => (e.1, t)
    | none => []

/-- STEP_STAT. -/
def State.stepStat (s : State) (k : Atoll) : Nat :=
  let m := (s.atl k).step
  let cached := m.red.filterMap Prod.snd
  min 255 (s.heldCloses k).length * 2 ^ 16 +
  min 255 (cached.map fun r => (r.steps.filter fun x => !x.closed).length).sum * 2 ^ 8 + min 255 cached.length

/-- STEP_WAIT_HEAD. -/
def State.stepHead (s : State) (k : Atoll) : Nat :=
  let l := s.heldCloses k
  match (l.map Prod.snd).min?.bind fun t => l.find? fun e => e.2 == t with
  | none => 0
  | some (i, _) => i % 64 * 2 ^ 52 + (((s.atl k).step.at i).elim 0 fun r => r.addr) % 2 ^ 52

/-- FLASH_SLOT of the slot FLASH_SLOT_IDX names (R391). -/
def State.slotView (s : State) : Nat :=
  let x := s.flashSlot (s.fld F.FLASH_SLOT_IDX_SLOT)
  bit x.1 * 2 ^ 63 + bit x.2.1 * 2 ^ 62 + bit x.2.2.1 * 2 ^ 61 + x.2.2.2 % 2 ^ 48

/-! ### Blocks that are idle (R429) -/

/-- Sequencer idle and no instruction load armed. -/
def State.seqIdle (s : State) (k : Atoll) : Bool := (s.atl k).seq.entry.isNone && (s.atl k).seq.iload.isNone

/-- PG_SRST.IDLE by the table of R429, a soft reset that runs apart. -/
def State.blockIdle (s : State) (c i : Nat) : Bool :=
  let k := atollOf i
  let m := (s.atl k).strm
  let p : PortIx := portOf i
  match c with
  | 0x10 | 0x11 | 0x12 | 0x13 | 0x14 | 0x15 => s.seqIdle k
  | 0x16 => s.seqIdle k && m.active == 0
  | 0x17 | 0x18 => m.active == 0 && (List.range 16).all (fun r => (m.fltAt r).state == .free) && !s.flag (F.XLAT_STAT_EDITING i)
  | 0x19 => (s.atl k).step.red.all fun e => e.2.all fun r => r.steps.all fun x => x.closed
  | 0x30 | 0x31 => if i < 2 then (s.port p).bundles.all fun e => !(s.port p).carries e.1 else !s.flag (F.PORT_STAT_UP i)
  | 0x32 => s.fld F.SNDCTX_STAT_OPEN == 0 && s.fld F.SNDCTX_TRK_USED_USED == 0 && s.sound.admissions.isEmpty
  | 0x08 | 0x09 => s.fld F.CKPT_STAT_STATE == 0 && s.ckpt.flash.all fun e => !e.2.2.1 && !e.2.2.2.1
  | _ => false

/-- PG_SRST. -/
def State.srstView (s : State) (c i : Nat) : Nat :=
  withBits (s.rd (R.PG_SRST (pageBase c i))) 1 1 (bit (s.blockIdle c i && !s.rst.srst.contains (pageIx c i)))

/-! ### Reads -/

/-- The live register at page offset `off` of instance `i` of class `c`. -/
def State.view (s : State) (c i off : Nat) : Nat :=
  let k := atollOf i
  let p := portOf i
  let stored := s.rd (pageBase c i + off)
  if off = 0x18 then s.srstView c i
  else if off < 0x80 then stored
  else match c, off with
  | 0x01, 0x98 => s.tide.quantum % 2048 * 2 ^ 21 + s.tide.phase % 2 ^ 21
  | 0x02, _ => if 0x208 ≤ off ∧ off < 0x228 then s.ruleData ((off - 0x208) / 4) else stored
  | 0x03, 0xAC => s.phaseView.1
  | 0x03, 0xB0 => s.phaseView.2
  | 0x03, _ =>
    if 0x10C ≤ off ∧ off < 0x18C ∧ off % 16 = 0xC then s.swellView (atollOf ((off - 0x10C) / 16)) else stored
  | 0x05, 0x184 => s.planView
  | 0x07, 0x84 => s.keysView
  | 0x07, 0x8C => s.compView
  | 0x07, 0xFC => s.winWord
  | 0x07, _ => if 0x90 ≤ off ∧ off < 0xD0 then s.measView ((off - 0x90) / 4) else stored
  | 0x08, 0x90 => s.slotView
  | 0x11, 0x88 => s.arrStat k
  | 0x11, 0xA8 => satAdd 64 stored (s.atl k).arr.starveNow
  | 0x11, 0xB0 => satAdd 64 stored (s.atl k).arr.drainNow
  | 0x11, 0xB8 => satAdd 64 stored (s.atl k).arr.stepsNow
  | 0x13, 0x80 => s.coveStat k
  | 0x14, 0x80 => s.vecStat k
  | 0x15, 0x80 => s.seqStat k
  | 0x15, 0x84 => (s.atl k).seq.r.pc % 2 ^ 22
  | 0x16, 0x84 => s.lagPend k
  | 0x17, 0x84 => s.strmStat k
  | 0x17, 0x90 => (s.shownFault k).info
  | 0x17, 0x98 => (s.shownFault k).va % 2 ^ 52
  | 0x17, 0xA0 => (s.shownFault k).i0 % 2 ^ 32
  | 0x17, 0xA8 =>
    let r := s.shownFault k
    r.i4 % 2 ^ 16 * 2 ^ 48 + r.i3 % 2 ^ 16 * 2 ^ 32 + r.i2 % 2 ^ 16 * 2 ^ 16 + r.i1 % 2 ^ 16
  | 0x19, 0x88 => s.stepStat k
  | 0x19, 0x90 => s.stepHead k
  | 0x1A, 0x80 => s.mcStat k
  | 0x1A, 0xA8 => withBits stored 19 0 ((s.atl k).mc.ebb.elim 0 EbbSt.cursor)
  | 0x1A, 0xB0 => s.holdView k
  | 0x1A, 0xB8 => s.pendView k
  | 0x1A, 0x104 => s.runView k
  | 0x1A, _ => if 0xC0 ≤ off ∧ off < 0xF0 then s.mapView k ((off - 0xC0) / 4) else stored
  | 0x20, 0x88 => s.chanView i
  | 0x20, 0x8C => s.chanAge i
  | 0x30, 0x84 => s.portStat p
  | 0x30, 0x8C => s.laneView p
  | 0x30, 0x94 => s.peerView p
  | 0x31, 0x80 => s.sndStat p
  | 0x32, 0xB0 => s.admitHead
  | 0x32, 0xC4 => s.sound.admissions.length % 512
  | _, _ => stored

/-- The 32 bits at window offset `a`, with the register they belong to: WO fields read zero but PG_EVT_ACK, which returns
the last value accepted (R10); the staged copies lie at offset + 0x800, of the ST bits alone; what is not assigned reads
zero (R9), and so does all but the header of a lost atoll's pages (R61). -/
def State.readWord (s : State) (a : Nat) : Nat :=
  let c := a / 0x100000
  let i := a % 0x100000 / 0x1000
  let off := a % 0x1000
  let live := off % 0x800
  if s.pageLost c i && decide (0x80 ≤ live) then 0
  else match regHit (a - off + live) with
    | none => 0
    | some (d, b) =>
      let sh := (a - off + live - b) * 8
      let v :=
        if 0x800 ≤ off then s.stagedRd b &&& d.st
        else s.view c i (b % 0x1000) &&& d.all &&& (if live = 0x2C then 0xFFFFFFFF else 0xFFFFFFFFFFFFFFFF ^^^ d.wo)
      bits v (sh + 31) sh

/-- What reading the 32 bits at `a` does beside: the windows of the catalogue and of SEC advance (R80, R439). -/
def State.readEffect (s : State) (a : Nat) : State :=
  if a = 0x200224 then s.ruleRead 7 else if a = 0x7000FC then s.winRead else s

/-- The access is aligned, of 4 or 8 bytes, and to a listed page (R59). -/
def accessOk (a len : Nat) : Bool := (len == 4 || len == 8) && a % len == 0
def pageListed (a : Nat) : Bool := decide (a % 0x100000 / 0x1000 < classCount (a / 0x100000))

/-- An access that R59 handles: recorded and raised, with no other effect. SIZE tells one of a wrong size or alignment,
also where its page is unlisted too (log 117: DESIGN CHOICE, unsafe). -/
def State.accessErr (s : State) (a : Nat) (size write : Bool) : State :=
  (s.wr R.HOLM_ACCESS_ERR (bit write * 2 ^ 31 + bit size * 2 ^ 30 + a % 2 ^ 26)).raise 0x00 0 3

/-- A read of `len` bytes at window offset `a`: what it returns, and the state after it (R8, R59). The two words of a
64-bit register are those of one instant. -/
def State.regRead (s : State) (a len : Nat) : Nat × State :=
  if !accessOk a len then (0, s.accessErr a true false)
  else if !pageListed a then (0, s.accessErr a false false)
  else if len = 4 then (s.readWord a, s.readEffect a)
  else
    let lo := s.readWord a
    let s := s.readEffect a
    (lo + s.readWord (a + 4) * 2 ^ 32, s.readEffect (a + 4))

end Sys2Proof.Machine
end

