-- ==== Sys2Proof/Machine/Window.lean ====
section
/-! DEFINITION. Writes to the register window (03_control_pages.md R58-R71): the guard, staged writes, the page header,
soft resets (18_bringup.md R429, R430), and every command a register write gives an engine. -/

namespace Sys2Proof.Machine

open Host (Outcome)

/-! ### The header (R63-R67) -/

/-- Base of the page of window offset `a`. -/
def pageOf (a : Nat) : Nat := a / 0x1000 * 0x1000

/-- Class and instance of window offset `a`. -/
def classOf (a : Nat) : Nat := a / 0x100000
def instOf (a : Nat) : Nat := a % 0x100000 / 0x1000

/-- A wrong key: OPEN clears, BADKEY is set, an event is raised; counted where `n` is 1 (R67). -/
def State.badKey (s : State) (a n : Nat) : State :=
  let p := pageOf a
  let s := (s.setFld (F.PG_LOCK_STAT_OPEN p) 0).bump (F.PG_LOCK_STAT_BADKEY_CNT p) n
  s.raiseHdr (classOf a) (instOf a) (F.PG_LOCK_STAT_BADKEY p)

/-- PG_UNLOCK (R66, R67). -/
def State.unlock (s : State) (a key : Nat) : State :=
  if key = 0x7D1E then s.setFld (F.PG_LOCK_STAT_OPEN (pageOf a)) 1 else s.badKey a 1

/-- Sticky bits of a page that PG_EVT_ACK clears beside those of its header: HBR_QSTAT.REJ, ATL_ILOAD_STAT.ERR. -/
def State.clearSticky (s : State) (c i : Nat) : State :=
  if c = 0x0B then s.each (List.range 128) fun s n => if s.fld (F.HBR_QSTAT_REJ n) = 1 then s.setFld (F.HBR_QSTAT_REJ n) 0 else s
  else if c = 0x10 then s.setFld (F.ATL_ILOAD_STAT_ERR i) 0
  else s

/-- PG_EVT_ACK (R64): the sticky bits clear, and the pending interrupt is withdrawn, if `v` is the sequence. -/
def State.evtAck (s : State) (a v : Nat) : State :=
  let p := pageOf a
  let c := classOf a
  let i := instOf a
  if v ≠ s.fld (F.PG_EVT_SEQ_SEQ p) then s
  else
    let s := (s.setFld (F.PG_EVT_CAUSE_CAUSE p) 0).setFld (F.PG_STAGE_STAT_REFUSED p) 0
    let s := (s.setFld (F.PG_LOCK_STAT_BADKEY p) 0).setFld (F.PG_SRST_REFUSED p) 0
    let s := ((s.setFld (F.PG_MODE_SPLIT_FELL p) 0).setFld (F.PG_EVT_ACK_SEQ p) v).clearSticky c i
    { s with irqPend := s.irqPend.filter fun x => x != pageIx c i }

/-- PG_EVT_MASK (R65): unmasking a bit that is set delivers it at once. -/
def State.evtMask (s : State) (a v : Nat) : State :=
  let p := pageOf a
  let freed := s.fld (F.PG_EVT_MASK_MASK p) &&& (0xFFFFFFFF ^^^ v) &&& s.fld (F.PG_EVT_CAUSE_CAUSE p)
  let s := s.setFld (F.PG_EVT_MASK_MASK p) v
  if freed = 0 then s else s.deliver (classOf a) (instOf a)

/-! ### Soft reset of one block (R429, R430) -/

/-- PG_SRST.SRST = 1 past the guard: the soft reset starts, or is refused. -/
def State.srstStart (s : State) (c i : Nat) : State :=
  if s.blockIdle c i && (s.boundTo (pageIx c i)).isNone then s.onRst fun r => { r with srst := r.srst ++ [pageIx c i] }
  else s.raiseHdr c i (F.PG_SRST_REFUSED (pageBase c i))

/-- Live registers of a page at their reset values: counters, what the flash holds and sensor copies stay. -/
def State.resetLive (s : State) (c i : Nat) : State :=
  { s with regs := s.regs.filter fun e =>
      decide (pageOf e.1 ≠ pageBase c i) || decide (e.1 % 0x1000 < 0x80) || flashKept.contains e.1 ||
      (match regAt c (e.1 % 0x1000) with | some d => d.keep || d.sc != 0 | none => false) }

/-- Unit state a soft reset clears, by page. -/
def State.resetUnit (s : State) (c i : Nat) : State :=
  let k := atollOf i
  let p := portOf i
  match c with
  | 0x11 => s.onArr k ArrSt.void
  | 0x12 => s.onArr k fun m => { m with queue := m.queue.map fun o => { o with fed := [] }, ferryOut := [] }
  | 0x14 => s.onVec k fun v => { v with tab := [], xa := [] }
  | 0x15 => s.onSeq k fun q => { q with r := { q.r with rstack := [], lstack := [], sc := [], mc := [] } }
  | 0x16 => s.onStrm k fun m => { m with streams := m.streams.map fun x => { x with lines := [] } }
  | 0x17 | 0x18 => s.onStrm k fun m => { m with tlb := [], flt := [] }
  | 0x19 => s.onStep k fun _ => {}
  | 0x30 | 0x31 =>
    let s := s.onPort p fun m => { m with lanes := [], bundles := [], usedRed := 0 }
    let s := s.setFld (F.SND_POOL_FREE p) (poolSize p)
    if i < 2 then s.sendTrain p (List.range 32) else s.emit (.linkStart p)
  | 0x32 => { s with sound := { s.sound with cache := [] } }
  | 0x08 | 0x09 => s.each [1, 2, 3, 4] fun s l => s.setFld (layerFld l) 0
  | _ => s

/-- The soft reset of a page completes. -/
def State.srstEnd (s : State) (c i : Nat) : State :=
  let s := s.onRst fun r => { r with srst := r.srst.filter fun x => x != pageIx c i }
  let s := ((s.resetLive c i).unstage c i).resetUnit c i
  (s.bump F.RST_CNT_SRST).raise 0x06 0 1

/-! ### Commands given by a register write -/

/-- Whether a ticket takes COMMIT_OPT and COMMIT_TIDE: in OPEN alone. -/
def State.optOpen (s : State) (t : Nat) : Bool := s.tk (ticketOf t) == tkOpen

/-- HBR_CR_HEAD (R96): a head that would pass TAIL or move backwards is ignored. -/
def State.crHead (s : State) (k v : Nat) : State :=
  let h := s.fld (F.HBR_CR_HEAD_HEAD k)
  let t := s.fld (F.HBR_CR_TAIL_TAIL k)
  if (t + 2 ^ 32 - h) % 2 ^ 32 < (v + 2 ^ 32 - h) % 2 ^ 32 then s.raise 0x0B 0 3 else s.setFld (F.HBR_CR_HEAD_HEAD k) v

/-- HBR_QCMD (R94): 1 RESUME, 2 FLUSH a halted queue, 3 HALT. -/
def State.queueCmd (s : State) (n cmd : Nat) : State :=
  let halted := s.flag (F.HBR_QSTAT_HALTED n)
  if cmd = 1 then s.setFld (F.HBR_QSTAT_HALTED n) 0
  else if cmd = 2 then if halted then s.setFld (F.HBR_QSTAT_HEAD n) (s.fld (F.HBR_QSTAT_TAIL n)) else s
  else if cmd = 3 then if halted then s else s.haltQueue n
  else s

/-- RST_CMD (R422): MODULE resets the module. -/
def State.rstCmd (s : State) (cmd : Nat) : State := if cmd = 1 then s.moduleReset 4 else s

/-- A write of `v`, the bits of `m`, to the WO fields and registers with an effect of their own, of the live register at
offset `off` of instance `i` of class `c`; `s` has its RW fields written. -/
def State.command (s : State) (by' : Requester) (c i off m v : Nat) : State :=
  let k := atollOf i
  let a := pageBase c i + off
  match off with
  | 0x08 => s.stageCtl (pageIx c i) (v.testBit 4) (v.testBit 8) (v % 4)
  | 0x18 => if v.testBit 0 then s.srstStart c i else s
  | 0x1C => s.unlock a v
  | 0x2C => s.evtAck a v
  | _ =>
  match c, off with
  | 0x02, _ => if 0x100 ≤ off ∧ off % 64 = 0 ∧ off < 0x200 then s.commitCmd by' (ticketOf (off / 64 - 4)) (v % 8) else s
  | 0x0B, 0x88 => s.queueCmd (bits v 14 8) (v % 4)
  | 0x10, 0x90 => if v.testBit 31 then s.iloadArm k else s
  | 0x11, 0x90 => if v.testBit 0 then s.testArm k else s
  | 0x17, 0xB0 => s.fltCmd k (bits v 11 8) (bits v 3 0)
  | 0x18, 0xA8 => s.xlatCmd k v
  | 0x19, 0x8C => s.stepCmd k (bits v 5 0) (bits v 31 28)
  | 0x1A, 0xA4 => s.mcCmd k v
  | 0x30, 0xA0 => s.portCmd (portOf i) v
  | 0x32, 0xB8 => s.admitCmd (bits v 31 28)
  | 0x32, 0xBC => s.ctxCmd (bits v 19 0) (bits v 31 28)
  | 0x03, 0x98 => s.hostBeat
  | 0x05, 0x98 => s.ageCmd (v % 16)
  | 0x06, 0xB0 => s.rstCmd (v % 16)
  | 0x06, 0xB8 => s.wdogKick by'
  | 0x07, 0xF0 => s.secCmd (v % 16)
  | 0x09, 0x108 => s.ckptCmd (bits v 31 28) (bits v 27 24) (bits v 15 0)
  | 0x0A, 0x88 => if m = 0 then s else s.alertPin
  | 0x0A, 0x8C => s.alertAck v
  | 0x0A, 0x98 => s.recCtl (bits v 31 28)
  | 0x0A, 0x9C => s.recData v
  | _, _ => s

/-- The bits of `m` of an RW field, written at once. -/
def State.putBits (s : State) (a m v : Nat) : State :=
  s.wr a ((s.rd a &&& (0xFFFFFFFFFFFFFFFF ^^^ m)) ||| (v &&& m))

/-- RW fields of the register at `a` take `v` in the bits of `m`, under what their chapters add. -/
def State.writeRw (s : State) (c off a m v : Nat) : State :=
  if m = 0 then s
  else if off = 0x30 then s.evtMask a v
  else if c = 0x02 ∧ 0x100 ≤ off ∧ off < 0x200 ∧ !s.optOpen ((off - 0x100) / 64) then s
  else if c = 0x0B ∧ 0x10C ≤ off ∧ off < 0x20C then s.crHead ((off - 0x10C) / 32) (v % 2 ^ 32)
  else s.putBits a m v

/-! ### The guard (R66, R67) -/

/-- Bits of the GU fields whose writes at the live offset are guarded by value (WO) or always (RW), and those that this
write reaches. -/
def guarded (d : RegDesc) (m v : Nat) : Bool :=
  (d.gu &&& d.wo &&& m &&& v) != 0 || (d.gu &&& d.rw &&& m) != 0

/-- Pass or fail the guard of a guarded write to the page of `a`: the bits of GU fields that act, and the state after. -/
def State.guard (s : State) (a gu : Nat) : Nat × State :=
  if s.flag (F.PG_LOCK_STAT_OPEN (pageOf a)) then (0xFFFFFFFFFFFFFFFF, s.setFld (F.PG_LOCK_STAT_OPEN (pageOf a)) 0)
  else (0xFFFFFFFFFFFFFFFF ^^^ gu, s.badKey a 0)

/-- A write of `v`, in the bits of `m`, to the live register `d` at window offset `b`. -/
def State.writeLive (s : State) (by' : Requester) (d : RegDesc) (b m v : Nat) : State :=
  let c := classOf b
  let off := b % 0x1000
  let (ok, s) := if guarded d m v then s.guard b d.gu else (0xFFFFFFFFFFFFFFFF, s)
  let m := m &&& ok
  let s := s.writeRw c off b (m &&& d.rw) v
  s.command by' c (instOf b) off (m &&& d.rw) (v &&& m &&& d.wo)

/-! ### Staged writes (R71) -/

/-- Stage `v` in the bits of `m` of the register `d` at live offset `b`; what it writes to reserved bits stays for rule
0xFF01. -/
def State.stageBits (s : State) (d : RegDesc) (b m v : Nat) : State :=
  let keep := d.st ||| reservedMask b
  let w := ((s.stagedRd b &&& (0xFFFFFFFFFFFFFFFF ^^^ m)) ||| (v &&& m)) &&& keep
  let p := pageOf b
  let s := { s with staged := SMap.ins s.staged b (BitVec.ofNat 64 w) }
  (s.setFld (F.PG_STAGE_STAT_DIRTY p) 1).bump (F.PG_STAGE_STAT_WRITES p)

/-- A write to the staged copy of the register at live offset `b`: past the guard, accepted while its page is bound to a
ticket in OPEN, PASSED or FAILED, which returns to OPEN; refused otherwise. -/
def State.writeStaged (s : State) (d : RegDesc) (b m v : Nat) : State :=
  if d.st = 0 then s
  else
    let (ok, s) := if (d.gu &&& d.st &&& m) != 0 then s.guard b d.gu else (0xFFFFFFFFFFFFFFFF, s)
    if ok &&& d.st = 0 then s
    else
      let p := pageIx (classOf b) (instOf b)
      match s.boundTo p with
      | some t => if s.takes t then (s.stageBits d b (m &&& ok) v).reopen t else s.stageRefused p
      | none => s.stageRefused p

/-! ### Writes -/

/-- A soft reset of the page of `a` runs: writes to it are ignored (R429). -/
def State.resetting (s : State) (a : Nat) : Bool := s.rst.srst.contains (pageIx (classOf a) (instOf a))

/-- A write of the bits `m` of `v` to the 32 or 64 bits of the register at window offset `a`, live or staged. -/
def State.writeUnit (s : State) (by' : Requester) (a n v : Nat) : State :=
  let off := a % 0x1000
  let live := a - off + off % 0x800
  if s.resetting a || (s.pageLost (classOf a) (instOf a) && decide (0x80 ≤ off) && decide (off < 0x800)) then s
  else match regHit live with
    | none => s
    | some (d, b) =>
      let sh := (live - b) * 8
      let m := (2 ^ n - 1) * 2 ^ sh
      let v := v % 2 ^ n * 2 ^ sh
      if 0x800 ≤ off then s.writeStaged d b m v else s.writeLive by' d b m v

/-- The register at live offset `a` is 64 bits wide and begins there (R8). -/
def wideAt (a : Nat) : Bool :=
  match regHit (a - a % 0x1000 + a % 0x800) with
  | some (d, b) => d.wide && b % 0x800 == a % 0x800
  | none => false

/-- A write of `len` bytes at window offset `a` (R8, R59): to a 64-bit register at once, else word by word, the lower
first. -/
def State.regWrite (s : State) (by' : Requester) (a len v : Nat) : State :=
  if !accessOk a len then s.accessErr a true true
  else if !pageListed a then s.accessErr a false true
  else if len = 4 then s.writeUnit by' a 32 v
  else if wideAt a then s.writeUnit by' a 64 v
  else (s.writeUnit by' a 32 v).writeUnit by' (a + 4) 32 (v / 2 ^ 32)

/-- Registers the management target writes: the MGMT page, and PG_UNLOCK, SEC_NONCE, SEC_CMD and SEC_WIN_IDX of the SEC
page (R441). -/
def i3cWrites (a : Nat) : Bool :=
  classOf a == 0x0A || a == R.PG_UNLOCK (pageBase 0x07 0) || (List.range 8).any (fun w => a == R.SEC_NONCE w) ||
  a == R.SEC_CMD || a == R.SEC_WIN_IDX

/-- A register write of a requester: none while the module has no power or is held in reset; the server's only through
an open BAR2 (R99); the management target's only where R441 allows it (log 91: DESIGN CHOICE, safe). -/
def State.request (s : State) (by' : Requester) (a len v : Nat) : State :=
  if !s.rst.power || s.rst.asserted then s
  else if by' = .server ∧ !s.flag F.HBR_PCIE_WINDOW then s
  else if by' = .i3c ∧ !i3cWrites a then s.bump F.MGMT_CNT_DENIED
  else s.regWrite by' a len v

/-- A register read of a requester. -/
def State.requestRead (s : State) (by' : Requester) (a len : Nat) : Nat × State :=
  if !s.rst.power || s.rst.asserted || (by' == .server && !s.flag F.HBR_PCIE_WINDOW) then (0, s) else s.regRead a len

/-- A 32-bit write by the harbour of `v` to the register at `a`. -/
def State.harbourWrites (s : State) (a v : Nat) : Outcome State Fault Refusal := .next (s.request .harbour a 4 v)

/-! ### The commands: accesses -/

/-- ACCESS_ERR (R59): a wrong-size access, or an access to an unlisted page. -/
def execAccessErr (off : BitVec 26) (wrongSize write : Bool) (s : State) : Outcome State Fault Refusal :=
  .next (s.accessErr off.toNat wrongSize write)

/-- REGISTER_WRITE (R8, R10). -/
def execRegisterWrite (by' : Requester) (off : BitVec 26) (wide : Bool) (value : Word64) (s : State) :
    Outcome State Fault Refusal :=
  .next (s.request by' off.toNat (if wide then 8 else 4) value.toNat)

/-- STAGED_WRITE (R71): a write to the staged copy of the register at page offset `off`. -/
def execStagedWrite (by' : Requester) (page : PageIx) (off : BitVec 11) (wide : Bool) (value : Word64) (s : State) :
    Outcome State Fault Refusal :=
  .next (s.request by' (pageAt page + off.toNat + 0x800) (if wide then 8 else 4) value.toNat)

/-- UNLOCK (R66, R67). -/
def execUnlock (page : PageIx) (key : Word32) (s : State) : Outcome State Fault Refusal :=
  s.harbourWrites (R.PG_UNLOCK (pageAt page)) key.toNat

/-- EVT_ACK (R64). -/
def execEvtAck (page : PageIx) (seq : Word32) (s : State) : Outcome State Fault Refusal :=
  s.harbourWrites (R.PG_EVT_ACK (pageAt page)) seq.toNat

/-- EVT_MASK_WRITE (R65). -/
def execEvtMaskWrite (page : PageIx) (mask : Word32) (s : State) : Outcome State Fault Refusal :=
  s.harbourWrites (R.PG_EVT_MASK (pageAt page)) mask.toNat

/-- SRST (R429, R430). -/
def execSrst (page : PageIx) (s : State) : Outcome State Fault Refusal := s.harbourWrites (R.PG_SRST (pageAt page)) 1

/-- SRST_DONE (R429): a soft reset that runs completes. -/
def execSrstDone (page : PageIx) (s : State) : Outcome State Fault Refusal :=
  if s.rst.srst.contains page.val then .next (s.srstEnd (pageOfIx page).1 (pageOfIx page).2) else .next s

/-! ### The commands: harbour, atolls -/

/-- QUEUE_RESUME (R94). -/
def execQueueResume (n : QueueIx) (s : State) : Outcome State Fault Refusal := s.harbourWrites R.HBR_QCMD (n.val * 2 ^ 8 + 1)

/-- QUEUE_FLUSH (R94). -/
def execQueueFlush (n : QueueIx) (s : State) : Outcome State Fault Refusal := s.harbourWrites R.HBR_QCMD (n.val * 2 ^ 8 + 2)

/-- QUEUE_HALT (R94). -/
def execQueueHalt (n : QueueIx) (s : State) : Outcome State Fault Refusal := s.harbourWrites R.HBR_QCMD (n.val * 2 ^ 8 + 3)

/-- CR_HEAD_WRITE (R96). -/
def execCrHeadWrite (k : Atoll) (head : Word32) (s : State) : Outcome State Fault Refusal :=
  s.harbourWrites (R.HBR_CR_HEAD k) head.toNat

/-- FIELD_TEST (R124): ARR_TEST.START. -/
def execFieldTest (k : Atoll) (s : State) : Outcome State Fault Refusal := s.harbourWrites (R.ARR_TEST k) 1

/-- ILOAD (R231): GO of ATL_ILOAD, with the count and first index it holds (log 98: DESIGN CHOICE, safe). -/
def execIload (k : Atoll) (s : State) : Outcome State Fault Refusal :=
  s.harbourWrites (R.ATL_ILOAD k) (2 ^ 31 + s.rd (R.ATL_ILOAD k) % 2 ^ 31)

/-- FLT_RESUME (R297). -/
def execFltResume (k : Atoll) (r : FaultIx) (s : State) : Outcome State Fault Refusal :=
  s.harbourWrites (R.STRM_FLT_CMD k) (r.val * 2 ^ 8 + 1)

/-- FLT_ABORT (R299). -/
def execFltAbort (k : Atoll) (r : FaultIx) (s : State) : Outcome State Fault Refusal :=
  s.harbourWrites (R.STRM_FLT_CMD k) (r.val * 2 ^ 8 + 2)

/-- FLT_REISSUE (R299). -/
def execFltReissue (k : Atoll) (r : FaultIx) (s : State) : Outcome State Fault Refusal :=
  s.harbourWrites (R.STRM_FLT_CMD k) (r.val * 2 ^ 8 + 3)

/-- FLT_ABANDON (R299). -/
def execFltAbandon (k : Atoll) (r : FaultIx) (s : State) : Outcome State Fault Refusal :=
  s.harbourWrites (R.STRM_FLT_CMD k) (r.val * 2 ^ 8 + 4)

/-- INV_VA (R294): XLAT_CMD is 64 bits wide. -/
def execInvVa (k : Atoll) (va : BitVec 52) (s : State) : Outcome State Fault Refusal :=
  .next (s.request .harbour (R.XLAT_CMD k) 8 (va.toNat / 2 ^ 16 * 2 ^ 16 + 1))

/-- INV_ALL (R294). -/
def execInvAll (k : Atoll) (s : State) : Outcome State Fault Refusal := .next (s.request .harbour (R.XLAT_CMD k) 8 2)

/-- RETRAIN (R264). -/
def execRetrain (k : Atoll) (c : BitVec 10) (s : State) : Outcome State Fault Refusal :=
  s.harbourWrites (R.MC_CMD k) (1 * 2 ^ 28 + c.toNat)

/-- MAPOUT (R269). -/
def execMapout (k : Atoll) (c : BitVec 10) (s : State) : Outcome State Fault Refusal :=
  s.harbourWrites (R.MC_CMD k) (2 * 2 ^ 28 + c.toNat)

/-- RETIRE (R271). -/
def execRetire (k : Atoll) (s : State) : Outcome State Fault Refusal := s.harbourWrites (R.MC_CMD k) (3 * 2 ^ 28)

/-- MIGRATED (R271). -/
def execMigrated (k : Atoll) (s : State) : Outcome State Fault Refusal := s.harbourWrites (R.MC_CMD k) (4 * 2 ^ 28)

/-! ### The commands: ports, contexts, reductions -/

/-- RETRAIN_LANE (R322). -/
def execRetrainLane (port : PortIx) (lane : LaneIx) (s : State) : Outcome State Fault Refusal :=
  s.harbourWrites (R.PORT_CMD port) (1 * 2 ^ 28 + lane.val * 2 ^ 8)

/-- EXCLUDE_LANE (R321). -/
def execExcludeLane (port : PortIx) (lane : LaneIx) (s : State) : Outcome State Fault Refusal :=
  s.harbourWrites (R.PORT_CMD port) (2 * 2 ^ 28 + lane.val * 2 ^ 8)

/-- RESTORE_LANE (R321). -/
def execRestoreLane (port : PortIx) (lane : LaneIx) (s : State) : Outcome State Fault Refusal :=
  s.harbourWrites (R.PORT_CMD port) (3 * 2 ^ 28 + lane.val * 2 ^ 8)

/-- LINK_RESTART (R322, R427). -/
def execLinkRestart (port : PortIx) (peer : Slot) (s : State) : Outcome State Fault Refusal :=
  s.harbourWrites (R.PORT_CMD port) (4 * 2 ^ 28 + peer.val)

/-- CTX_CONNECT (R335, R350). -/
def execCtxConnect (c : CtxNo) (s : State) : Outcome State Fault Refusal := s.harbourWrites R.SNDCTX_CMD (1 * 2 ^ 28 + c.toNat)

/-- CTX_LISTEN (R335). -/
def execCtxListen (c : CtxNo) (s : State) : Outcome State Fault Refusal := s.harbourWrites R.SNDCTX_CMD (2 * 2 ^ 28 + c.toNat)

/-- CTX_CLOSE (R335). -/
def execCtxClose (c : CtxNo) (s : State) : Outcome State Fault Refusal := s.harbourWrites R.SNDCTX_CMD (3 * 2 ^ 28 + c.toNat)

/-- ADMIT_ACCEPT (R351). -/
def execAdmitAccept (s : State) : Outcome State Fault Refusal := s.harbourWrites R.SNDCTX_ADMIT_CMD (1 * 2 ^ 28)

/-- ADMIT_REFUSE (R351). -/
def execAdmitRefuse (s : State) : Outcome State Fault Refusal := s.harbourWrites R.SNDCTX_ADMIT_CMD (2 * 2 ^ 28)

/-- ADMIT_DEFER (R351). -/
def execAdmitDefer (s : State) : Outcome State Fault Refusal := s.harbourWrites R.SNDCTX_ADMIT_CMD (3 * 2 ^ 28)

/-- STEP_CMD_CLOSE (R370). -/
def execStepCmdClose (k : Atoll) (slot : Fin 64) (s : State) : Outcome State Fault Refusal :=
  s.harbourWrites (R.STEP_CMD k) (1 * 2 ^ 28 + slot.val)

/-- STEP_CMD_EXTEND (R370). -/
def execStepCmdExtend (k : Atoll) (slot : Fin 64) (s : State) : Outcome State Fault Refusal :=
  s.harbourWrites (R.STEP_CMD k) (2 * 2 ^ 28 + slot.val)

/-! ### The commands: checkpoints (R379-R387) -/

/-- LAYER_PARTNER. -/
def execLayerPartner (s : State) : Outcome State Fault Refusal := s.harbourWrites R.CKPT_CMD (1 * 2 ^ 28)

/-- LAYER_FLASH. -/
def execLayerFlash (s : State) : Outcome State Fault Refusal := s.harbourWrites R.CKPT_CMD (2 * 2 ^ 28)

/-- LAYER_STORE. -/
def execLayerStore (s : State) : Outcome State Fault Refusal := s.harbourWrites R.CKPT_CMD (3 * 2 ^ 28)

/-- STORE_DURABLE. -/
def execStoreDurable (s : State) : Outcome State Fault Refusal := s.harbourWrites R.CKPT_CMD (4 * 2 ^ 28)

/-- RESTORE. -/
def execRestore (src : BitVec 4) (slot : BitVec 16) (s : State) : Outcome State Fault Refusal :=
  s.harbourWrites R.CKPT_CMD (5 * 2 ^ 28 + src.toNat * 2 ^ 24 + slot.toNat)

/-- REALIGN. -/
def execRealign (s : State) : Outcome State Fault Refusal := s.harbourWrites R.CKPT_CMD (6 * 2 ^ 28)

/-- KEEP. -/
def execKeep (s : State) : Outcome State Fault Refusal := s.harbourWrites R.CKPT_CMD (7 * 2 ^ 28)

/-- CKPT_ABORT. -/
def execCkptAbort (s : State) : Outcome State Fault Refusal := s.harbourWrites R.CKPT_CMD (8 * 2 ^ 28)

/-- FETCH. -/
def execFetch (s : State) : Outcome State Fault Refusal := s.harbourWrites R.CKPT_CMD (9 * 2 ^ 28)

/-- NEXT. -/
def execNext (s : State) : Outcome State Fault Refusal := s.harbourWrites R.CKPT_CMD (10 * 2 ^ 28)

/-- CKPT_ACCEPT. -/
def execCkptAccept (s : State) : Outcome State Fault Refusal := s.harbourWrites R.CKPT_CMD (11 * 2 ^ 28)

/-! ### The commands: power, ageing, reset, trust -/

/-- AGE_READ (R412). -/
def execAgeRead (s : State) : Outcome State Fault Refusal := s.harbourWrites R.AGE_CMD 1

/-- AGE_APPLY (R413). -/
def execAgeApply (s : State) : Outcome State Fault Refusal := s.harbourWrites R.AGE_CMD 2

/-- AGE_DEFER (R413). -/
def execAgeDefer (s : State) : Outcome State Fault Refusal := s.harbourWrites R.AGE_CMD 3

/-- PWR_HOST_BEAT (R416). -/
def execPwrHostBeat (s : State) : Outcome State Fault Refusal := s.harbourWrites R.PWR_HOST_BEAT 1

/-- MODULE_RESET (R422). -/
def execModuleReset (s : State) : Outcome State Fault Refusal := s.harbourWrites R.RST_CMD 1

/-- RST_WDOG_KICK (R426). -/
def execRstWdogKick (by' : Requester) (s : State) : Outcome State Fault Refusal := .next (s.request by' R.RST_WDOG_KICK 4 1)

/-- REC_BEGIN (R436), over I3C. -/
def execRecBegin (s : State) : Outcome State Fault Refusal := .next (s.request .i3c R.MGMT_REC_CTL 4 (1 * 2 ^ 28))

/-- MGMT_REC_DATA (R436). -/
def execMgmtRecData (word : Word32) (s : State) : Outcome State Fault Refusal :=
  .next (s.request .i3c R.MGMT_REC_DATA 4 word.toNat)

/-- REC_END (R436). -/
def execRecEnd (s : State) : Outcome State Fault Refusal := .next (s.request .i3c R.MGMT_REC_CTL 4 (2 * 2 ^ 28))

/-- REC_CTL_ABORT (R436). -/
def execRecCtlAbort (s : State) : Outcome State Fault Refusal := .next (s.request .i3c R.MGMT_REC_CTL 4 (3 * 2 ^ 28))

/-- QUOTE (R439). -/
def execQuote (s : State) : Outcome State Fault Refusal := s.harbourWrites R.SEC_CMD 1

/-- CERT (R438). -/
def execCert (s : State) : Outcome State Fault Refusal := s.harbourWrites R.SEC_CMD 2

/-- SEC_WIN_DATA_READ (R439). -/
def execSecWinDataRead (s : State) : Outcome State Fault Refusal :=
  let (v, s) := s.requestRead .harbour R.SEC_WIN_DATA 4
  .next (s.emit (.regRead R.SEC_WIN_DATA v))

/-! ### The commands: the management target (R441, R442) -/

/-- I3C_PRIVATE_WRITE: 4 bytes set the offset, 8 write the second four at it; a write of another length is none the
manual gives and does nothing (log 94: DESIGN CHOICE, unsafe). -/
def execI3cPrivateWrite (bytes : List Byte) (s : State) : Outcome State Fault Refusal :=
  let off := ofBytes (bytes.take 4)
  if bytes.length = 4 then .next (s.onRst fun r => { r with i3cOff := off })
  else if bytes.length = 8 then
    .next ((s.onRst fun r => { r with i3cOff := off }).request .i3c off 4 (ofBytes (bytes.drop 4)))
  else .next s

/-- I3C_PRIVATE_READ: four bytes at the offset, which advances by 4. -/
def execI3cPrivateRead (s : State) : Outcome State Fault Refusal :=
  let (v, s) := s.requestRead .i3c s.rst.i3cOff 4
  .next ((s.emit (.i3c (bytesOf 4 v))).onRst fun r => { r with i3cOff := (r.i3cOff + 4) % 2 ^ 32 })

/-- MGMT_ALERT_ACK (R442). -/
def execMgmtAlertAck (ack : Word32) (s : State) : Outcome State Fault Refusal :=
  .next (s.request .i3c R.MGMT_ALERT_ACK 4 ack.toNat)

end Sys2Proof.Machine
end

