-- ==== Sys2Proof/Machine/Harbour.lean ====
section
/-! DEFINITION. The harbour's side (04_harbour.md): register and memory messages (R83-R88), the attachment links (R89), the
plan queues and their doorbells (R90-R94), and the PCIe link (R99). -/

namespace Sys2Proof.Machine

open Host (Outcome)

/-! ### Messages (R86, R87) -/

/-- A register access of `len` bytes at window offset `a` of requester `by'`, and its completion with `tag`, which is normal
whatever the access (R59, R87). -/
def State.regAccess (s : State) (by' : Requester) (tag : Nat) (write : Bool) (a len value : Nat) : State :=
  if write then (s.request by' a len value).complete 1 tag a false []
  else let (v, s) := s.requestRead by' a len; s.complete 1 tag a false (bytesOf len v)

/-- REGISTER_REQUEST: one register message, of the harbour or, through BAR2, of the server (R87, R99). -/
def execRegisterRequest (server : Bool) (tag : BitVec 12) (write : Bool) (len : Nat) (addr value : Word64) (s : State) :
    Outcome State Fault Refusal :=
  if !s.rst.power || s.rst.asserted then .next s
  else .next (s.regAccess (if server then .server else .harbour) tag.toNat write addr.toNat len value.toNat)

/-! ### Doorbells (R88, R91, R92) -/

/-- An access of `len` bytes to byte `a` of the doorbell aperture by core `core`; the tail is the low 13 bits written. Any
but an aligned 32-bit write to one of the first 128 words rings nothing. -/
def State.bellAccess (s : State) (core a len : Nat) (write : Bool) (tail : Nat) : State :=
  if !write then s
  else if a < 512 ∧ a % 4 = 0 ∧ len = 4 then s.memRequest ⟨core, 0, false, 0, 0, [], some (a / 4, tail % 8192)⟩
  else s.raise 0x0B 0 6

/-- DOORBELL: an access to word `word` of the doorbell aperture; `aligned` tells an aligned one of 32 bits. A read
completes with four zero bytes, as a doorbell message of tag 0 (log 107: DESIGN CHOICE, unsafe). -/
def execDoorbell (core : BitVec 5) (word : Fin 1024) (write aligned : Bool) (tail : Word32) (s : State) :
    Outcome State Fault Refusal :=
  if !s.rst.power || s.rst.asserted then .next s
  else if !write then .next (s.complete 3 0 word.val false (bytesOf 4 0))
  else .next (s.bellAccess core.toNat (4 * word.val) (if aligned then 4 else 1) true tail.toNat)

/-! ### Memory messages (R83, R87) -/

/-- Bases of the register window and of the doorbell aperture in the harbour's map (R83). -/
abbrev windowBase : Nat := 0xF000_0000
abbrev bellBase : Nat := 0xF400_0000

/-- MEMORY_REQUEST: `addr` is an address of the harbour's map (R83; log 95: DEDUCED, unsafe); the bytes to write are the
first `len` of `data`, zeros behind them. One to the register window or to the doorbell aperture is an access there. A
request of a length no LENGTH spells is an error completion, as is one towards a server whose link is down; what the
server answers is its own: free values. -/
def execMemoryRequest (core : BitVec 5) (tag : BitVec 12) (write : Bool) (addr : Word64) (len : Nat) (data : List Byte)
    (s : State) : Outcome State Fault Refusal :=
  let a := addr.toNat
  let refuse := s.emit (.completion 0x23 tag.toNat false a [])
  if !s.rst.power || s.rst.asserted then .next s
  else if len = 0 ∨ 4096 < len then .next refuse
  else if windowBase ≤ a ∧ a + len ≤ bellBase then
    .next (s.regAccess .harbour tag.toNat write (a - windowBase) len (ofBytes (data.take len)))
  else if bellBase ≤ a ∧ a + len ≤ bellBase + 4096 then
    .next ((s.bellAccess core.toNat (a - bellBase) len write (ofBytes (data.take len))).complete 3 tag.toNat a false
      (if write then [] else List.replicate len 0))
  else if outboundBase ≤ a ∧ a + len ≤ outboundBase + 2 ^ 40 then
    if !s.flag F.HBR_PCIE_UP then .next refuse
    else
      let (i, s) := (s.emit (.outbound write a len)).fresh
      .next (s.complete 2 tag.toNat a false (if write then [] else bytesOf len (Config.freeBits (8 * len) i).toNat))
  else .next (s.memRequest
    { core := core.toNat, tag := tag.toNat, write := write, addr := a, len := len
      data := data.take len ++ List.replicate (len - data.length) 0 })

/-! ### Links (R89, R99) -/

/-- ATTACH_ERR: a retraining of the link to atoll `k` fails, or succeeds; the third failure in a row takes the link down. A
link that is down is retrained once at each slack, and success restores it (R89). -/
def execAttachErr (k : Atoll) (retrained : Bool) (s : State) : Outcome State Fault Refusal :=
  let down := s.fld F.HBR_ATTACH_DOWN
  if down.testBit k ∧ (s.atl k).retry = false then .next s
  else if retrained then
    let s := s.onAtl k fun a => { a with attach := 0, retry := false }
    .next (if down.testBit k then (s.setFld F.HBR_ATTACH_DOWN (down - 2 ^ k.val)).raise 0x0B 0 4 else s)
  else
    let s := s.onAtl k fun a => { a with attach := a.attach + 1, retry := false }
    .next (if 3 ≤ (s.atl k).attach ∧ !down.testBit k then (s.setBit F.HBR_ATTACH_DOWN k).raise 0x0B 0 4 else s)

/-- PCIE_LINK: the link goes up at a width of 1, 2, 4, 8 or 16 lanes, or down (R99); a STORE layer that is copying fails
with it (R457). -/
def execPcieLink (up : Bool) (width : BitVec 5) (s : State) : Outcome State Fault Refusal :=
  let w := if up then width.toNat else 0
  if up ∧ !([1, 2, 4, 8, 16].contains w) then .next s
  else
    let t := (s.setFld F.HBR_PCIE_UP (bit up)).setFld F.HBR_PCIE_WIDTH w
    let t := t.raiseIf (t.rd R.HBR_PCIE != s.rd R.HBR_PCIE) 0x0B 0 5
    .next (if !up ∧ t.layer 4 = 1 then t.layerEnd 4 false else t)

/-! ### Plan entries (R93, R213) -/

/-- An entry may start on atoll `k`: the module is READY, the sequencer idle with no load armed, no restore under way, no
soft reset of its compute pages running (R231, R385, R430, R433). -/
def State.entryMay (s : State) (k : Atoll) : Bool :=
  s.ready && s.inService k && s.seqIdle k && s.ckpt.restore.isNone &&
  !([0x10, 0x11, 0x12, 0x13, 0x14, 0x15].any fun c => s.rst.srst.contains (pageIx c k))

/-- The lowest queue of atoll `k` whose head entry may start. -/
def State.dueQueue (s : State) (k : Atoll) : Option Nat := (List.range 16).find? fun q => s.queueDue (16 * k + q)

/-- The 64 bytes of the plan entry at device-physical address `a`; free where they are poisoned (log 33: DESIGN CHOICE,
safe). -/
def State.entryWord (s : State) (a : Nat) : Nat × State :=
  match s.devRead a 64 with
  | some bs => (ofBytes bs, s)
  | none => ((Config.freeBits 512 s.fresh.1).toNat, s.fresh.2)

/-- Queue `q`'s head entry starts on atoll `k`. An entry that reads poisoned gives free values (log 33: DESIGN CHOICE,
safe). -/
def State.entryStart (s : State) (k : Atoll) (q : Nat) : State :=
  let n := 16 * k.val + q
  let h := s.fld (F.HBR_QSTAT_HEAD n)
  let e := s.entryWord (s.entryAddr n h)
  let w := e.1
  let s := e.2.setFld (F.HBR_QSTAT_HEAD n) ((h + 1) % 8192)
  let user := bits w 63 32
  s.onSeq k fun x => { x with entry := some (q, user), faults := 0, r := x.r.entry (bits w 31 0) (bits w 127 64) user q }

/-- PLAN_ENTRY_START (R93). -/
def execPlanEntryStart (k : Atoll) (s : State) : Outcome State Fault Refusal :=
  if !s.entryMay k then .next s
  else match s.dueQueue k with
    | some q => .next (s.entryStart k q)
    | none => .next s

end Sys2Proof.Machine
end

