-- ==== Sys2Proof/Machine/Dispatch.lean ====
section
/-! DEFINITION. What each command does: one arm per constructor of `Instr`, one direct call of its meaning. -/

namespace Sys2Proof.Machine

def exec (i : Instr) (s : State) : Host.Outcome State Fault Refusal :=
  match i with
  | .slack m => Sys2Proof.Machine.execSlack m s
  | .mark => Sys2Proof.Machine.execMark s
  | .markFlit port peer b => Sys2Proof.Machine.execMarkFlit port peer b s
  | .peerLate port peer => Sys2Proof.Machine.execPeerLate port peer s
  | .graceExpiry m => Sys2Proof.Machine.execGraceExpiry m s
  | .cutResume k => Sys2Proof.Machine.execCutResume k s
  | .markLoss => Sys2Proof.Machine.execMarkLoss s
  | .slice k phase budget => Sys2Proof.Machine.execSlice k phase budget s
  | .publish k rec rs rslot vreg treg => Sys2Proof.Machine.execPublish k rec rs rslot vreg treg s
  | .sliceClose k => Sys2Proof.Machine.execSliceClose k s
  | .crRecordWrite k => Sys2Proof.Machine.execCrRecordWrite k s
  | .divergedTimeout => Sys2Proof.Machine.execDivergedTimeout s
  | .windowDone k o => Sys2Proof.Machine.execWindowDone k o s
  | .accessErr off wrongSize write => Sys2Proof.Machine.execAccessErr off wrongSize write s
  | .registerWrite by' off wide value => Sys2Proof.Machine.execRegisterWrite by' off wide value s
  | .stagedWrite by' page off wide value => Sys2Proof.Machine.execStagedWrite by' page off wide value s
  | .bind page t => Sys2Proof.Machine.execBind page t s
  | .release page => Sys2Proof.Machine.execRelease page s
  | .unlock page key => Sys2Proof.Machine.execUnlock page key s
  | .evtAck page seq => Sys2Proof.Machine.execEvtAck page seq s
  | .evtMaskWrite page mask => Sys2Proof.Machine.execEvtMaskWrite page mask s
  | .srst page => Sys2Proof.Machine.execSrst page s
  | .srstDone page => Sys2Proof.Machine.execSrstDone page s
  | .openTicket by' t => Sys2Proof.Machine.execOpenTicket by' t s
  | .check t => Sys2Proof.Machine.execCheck t s
  | .checkDone t => Sys2Proof.Machine.execCheckDone t s
  | .arm t => Sys2Proof.Machine.execArm t s
  | .abort t => Sys2Proof.Machine.execAbort t s
  | .resolve t => Sys2Proof.Machine.execResolve t s
  | .commitRuleDataRead word => Sys2Proof.Machine.execCommitRuleDataRead word s
  | .prepare via tag total first records => Sys2Proof.Machine.execPrepare via tag total first records s
  | .vote via tag voter pass rule cls inst off => Sys2Proof.Machine.execVote via tag voter pass rule cls inst off s
  | .decision via tag go => Sys2Proof.Machine.execDecision via tag go s
  | .selfWaitAbort => Sys2Proof.Machine.execSelfWaitAbort s
  | .hostTimeout page bit => Sys2Proof.Machine.execHostTimeout page bit s
  | .registerRequest server tag write len addr value => Sys2Proof.Machine.execRegisterRequest server tag write len addr value s
  | .memoryRequest core tag write addr len data => Sys2Proof.Machine.execMemoryRequest core tag write addr len data s
  | .doorbell core word write aligned tail => Sys2Proof.Machine.execDoorbell core word write aligned tail s
  | .attachErr k retrained => Sys2Proof.Machine.execAttachErr k retrained s
  | .pcieLink up width => Sys2Proof.Machine.execPcieLink up width s
  | .planEntryStart k => Sys2Proof.Machine.execPlanEntryStart k s
  | .queueResume n => Sys2Proof.Machine.execQueueResume n s
  | .queueFlush n => Sys2Proof.Machine.execQueueFlush n s
  | .queueHalt n => Sys2Proof.Machine.execQueueHalt n s
  | .crHeadWrite k head => Sys2Proof.Machine.execCrHeadWrite k head s
  | .bundle k => Sys2Proof.Machine.execBundle k s
  | .nop k => Sys2Proof.Machine.execNop k s
  | .jmp k tgt => Sys2Proof.Machine.execJmp k tgt s
  | .br k tgt p pn => Sys2Proof.Machine.execBr k tgt p pn s
  | .jmpr k r => Sys2Proof.Machine.execJmpr k r s
  | .call k tgt => Sys2Proof.Machine.execCall k tgt s
  | .ret k => Sys2Proof.Machine.execRet k s
  | .loop k count fin => Sys2Proof.Machine.execLoop k count fin s
  | .swell k phase n level => Sys2Proof.Machine.execSwell k phase n level s
  | .qclose k qreg => Sys2Proof.Machine.execQclose k qreg s
  | .fence k mask => Sys2Proof.Machine.execFence k mask s
  | .add k rd rs1 b => Sys2Proof.Machine.execAdd k rd rs1 b s
  | .sub k rd rs1 b => Sys2Proof.Machine.execSub k rd rs1 b s
  | .and k rd rs1 b => Sys2Proof.Machine.execAnd k rd rs1 b s
  | .or k rd rs1 b => Sys2Proof.Machine.execOr k rd rs1 b s
  | .xor k rd rs1 b => Sys2Proof.Machine.execXor k rd rs1 b s
  | .shl k rd rs1 b => Sys2Proof.Machine.execShl k rd rs1 b s
  | .shr k rd rs1 b => Sys2Proof.Machine.execShr k rd rs1 b s
  | .sar k rd rs1 b => Sys2Proof.Machine.execSar k rd rs1 b s
  | .mul k rd rs1 b => Sys2Proof.Machine.execMul k rd rs1 b s
  | .mulhu k rd rs1 b => Sys2Proof.Machine.execMulhu k rd rs1 b s
  | .min k rd rs1 b => Sys2Proof.Machine.execMin k rd rs1 b s
  | .max k rd rs1 b => Sys2Proof.Machine.execMax k rd rs1 b s
  | .minu k rd rs1 b => Sys2Proof.Machine.execMinu k rd rs1 b s
  | .maxu k rd rs1 b => Sys2Proof.Machine.execMaxu k rd rs1 b s
  | .li k rd b => Sys2Proof.Machine.execLi k rd b s
  | .orh k rd rs1 b => Sys2Proof.Machine.execOrh k rd rs1 b s
  | .cmp k pred cond rs1 b => Sys2Proof.Machine.execCmp k pred cond rs1 b s
  | .pget k rd b => Sys2Proof.Machine.execPget k rd b s
  | .ldl k rd rs1 b => Sys2Proof.Machine.execLdl k rd rs1 b s
  | .stl k rd rs1 b => Sys2Proof.Machine.execStl k rd rs1 b s
  | .rds k rd b => Sys2Proof.Machine.execRds k rd b s
  | .hint k ramp => Sys2Proof.Machine.execHint k ramp s
  | .mac k x => Sys2Proof.Machine.execMac k x s
  | .l1 k x => Sys2Proof.Machine.execL1 k x s
  | .l2sq k x => Sys2Proof.Machine.execL2sq k x s
  | .maxplus k x => Sys2Proof.Machine.execMaxplus k x s
  | .minplus k x => Sys2Proof.Machine.execMinplus k x s
  | .cmpcount k x => Sys2Proof.Machine.execCmpcount k x s
  | .scout k x => Sys2Proof.Machine.execScout k x s
  | .feederRefill k col feeder delayed => Sys2Proof.Machine.execFeederRefill k col feeder delayed s
  | .arrayOpEnd k => Sys2Proof.Machine.execArrayOpEnd k s
  | .ferryPiece k src off tag fnum last data => Sys2Proof.Machine.execFerryPiece k src off tag fnum last data s
  | .fieldTest k => Sys2Proof.Machine.execFieldTest k s
  | .testDone k failCol => Sys2Proof.Machine.execTestDone k failCol s
  | .iload k => Sys2Proof.Machine.execIload k s
  | .iloadDone k => Sys2Proof.Machine.execIloadDone k s
  | .descriptorReread k desc => Sys2Proof.Machine.execDescriptorReread k desc s
  | .vadd k v => Sys2Proof.Machine.execVadd k v s
  | .vsub k v => Sys2Proof.Machine.execVsub k v s
  | .vmul k v => Sys2Proof.Machine.execVmul k v s
  | .vfma k v => Sys2Proof.Machine.execVfma k v s
  | .vdiv k v => Sys2Proof.Machine.execVdiv k v s
  | .vsqrt k v => Sys2Proof.Machine.execVsqrt k v s
  | .vrsqrt k v => Sys2Proof.Machine.execVrsqrt k v s
  | .vexp k v => Sys2Proof.Machine.execVexp k v s
  | .vlog k v => Sys2Proof.Machine.execVlog k v s
  | .vmax k v => Sys2Proof.Machine.execVmax k v s
  | .vmin k v => Sys2Proof.Machine.execVmin k v s
  | .vabs k v => Sys2Proof.Machine.execVabs k v s
  | .vneg k v => Sys2Proof.Machine.execVneg k v s
  | .vscalb k v => Sys2Proof.Machine.execVscalb k v s
  | .vcmp k v => Sys2Proof.Machine.execVcmp k v s
  | .vsel k v => Sys2Proof.Machine.execVsel k v s
  | .vplog k v => Sys2Proof.Machine.execVplog k v s
  | .vcvtw k v => Sys2Proof.Machine.execVcvtw k v s
  | .viota k v => Sys2Proof.Machine.execViota k v s
  | .vld k v => Sys2Proof.Machine.execVld k v s
  | .vst k v => Sys2Proof.Machine.execVst k v s
  | .vred k v => Sys2Proof.Machine.execVred k v s
  | .vxfin k v => Sys2Proof.Machine.execVxfin k v s
  | .vnorm k v => Sys2Proof.Machine.execVnorm k v s
  | .vscan k v => Sys2Proof.Machine.execVscan k v s
  | .vgather k v => Sys2Proof.Machine.execVgather k v s
  | .vscatter k v => Sys2Proof.Machine.execVscatter k v s
  | .vsoftmax k v => Sys2Proof.Machine.execVsoftmax k v s
  | .vlse k v => Sys2Proof.Machine.execVlse k v s
  | .vtload k v => Sys2Proof.Machine.execVtload k v s
  | .vfun k v => Sys2Proof.Machine.execVfun k v s
  | .vdfun k v => Sys2Proof.Machine.execVdfun k v s
  | .vrand k v => Sys2Proof.Machine.execVrand k v s
  | .vdigest k v => Sys2Proof.Machine.execVdigest k v s
  | .vlsq k v => Sys2Proof.Machine.execVlsq k v s
  | .vlsqf k v => Sys2Proof.Machine.execVlsqf k v s
  | .vupdUpdate k v => Sys2Proof.Machine.execVupdUpdate k v s
  | .vupdFinish k v => Sys2Proof.Machine.execVupdFinish k v s
  | .vdrain k d => Sys2Proof.Machine.execVdrain k d s
  | .streamIssue k ctr r detach => Sys2Proof.Machine.execStreamIssue k ctr r detach s
  | .streamWait k ctr r => Sys2Proof.Machine.execStreamWait k ctr r s
  | .send k ctr r now => Sys2Proof.Machine.execSend k ctr r now s
  | .reduce k ctr r now => Sys2Proof.Machine.execReduce k ctr r now s
  | .msgWait k ctr r => Sys2Proof.Machine.execMsgWait k ctr r s
  | .streamComplete k x => Sys2Proof.Machine.execStreamComplete k x s
  | .streamFault k x => Sys2Proof.Machine.execStreamFault k x s
  | .faultServed k r => Sys2Proof.Machine.execFaultServed k r s
  | .fltResume k r => Sys2Proof.Machine.execFltResume k r s
  | .fltAbort k r => Sys2Proof.Machine.execFltAbort k r s
  | .fltReissue k r => Sys2Proof.Machine.execFltReissue k r s
  | .fltAbandon k r => Sys2Proof.Machine.execFltAbandon k r s
  | .voidwaitExpiry k => Sys2Proof.Machine.execVoidwaitExpiry k s
  | .skiffFlush k => Sys2Proof.Machine.execSkiffFlush k s
  | .invVa k va => Sys2Proof.Machine.execInvVa k va s
  | .invAll k => Sys2Proof.Machine.execInvAll k s
  | .invDone k => Sys2Proof.Machine.execInvDone k s
  | .editsDone k => Sys2Proof.Machine.execEditsDone k s
  | .atomRead addr cls noise => Sys2Proof.Machine.execAtomRead addr cls noise s
  | .atomWrite addr cls noise data => Sys2Proof.Machine.execAtomWrite addr cls noise data s
  | .scrubRead k c noise => Sys2Proof.Machine.execScrubRead k c noise s
  | .ebbCopy k noise => Sys2Proof.Machine.execEbbCopy k noise s
  | .retrain k c => Sys2Proof.Machine.execRetrain k c s
  | .mapout k c => Sys2Proof.Machine.execMapout k c s
  | .retire k => Sys2Proof.Machine.execRetire k s
  | .migrated k => Sys2Proof.Machine.execMigrated k s
  | .linkRetrain k link passed => Sys2Proof.Machine.execLinkRetrain k link passed s
  | .dataFlit port peer t body => Sys2Proof.Machine.execDataFlit port peer t body s
  | .idleFlit port peer t => Sys2Proof.Machine.execIdleFlit port peer t s
  | .flitNak port peer ack => Sys2Proof.Machine.execFlitNak port peer ack s
  | .replayTimeout port peer => Sys2Proof.Machine.execReplayTimeout port peer s
  | .laneDrop port lane => Sys2Proof.Machine.execLaneDrop port lane s
  | .echo port peer data => Sys2Proof.Machine.execEcho port peer data s
  | .echoReply port peer roundTrip turnaround => Sys2Proof.Machine.execEchoReply port peer roundTrip turnaround s
  | .resetReq port peer => Sys2Proof.Machine.execResetReq port peer s
  | .train port lane x => Sys2Proof.Machine.execTrain port lane x s
  | .peerUp port peer => Sys2Proof.Machine.execPeerUp port peer s
  | .peerDown port peer => Sys2Proof.Machine.execPeerDown port peer s
  | .laneExcluded port lane c => Sys2Proof.Machine.execLaneExcluded port lane c s
  | .laneRetrain port lane passed => Sys2Proof.Machine.execLaneRetrain port lane passed s
  | .retrainLane port lane => Sys2Proof.Machine.execRetrainLane port lane s
  | .excludeLane port lane => Sys2Proof.Machine.execExcludeLane port lane s
  | .restoreLane port lane => Sys2Proof.Machine.execRestoreLane port lane s
  | .linkRestart port peer => Sys2Proof.Machine.execLinkRestart port peer s
  | .frame port f => Sys2Proof.Machine.execFrame port f s
  | .lldp port chassis portId => Sys2Proof.Machine.execLldp port chassis portId s
  | .lldpSend port => Sys2Proof.Machine.execLldpSend port s
  | .los port lane => Sys2Proof.Machine.execLos port lane s
  | .link port up => Sys2Proof.Machine.execLink port up s
  | .soundData port h payload user => Sys2Proof.Machine.execSoundData port h payload user s
  | .ack port h => Sys2Proof.Machine.execAck port h s
  | .soundNak port h => Sys2Proof.Machine.execSoundNak port h s
  | .connect port h offboard ip => Sys2Proof.Machine.execConnect port h offboard ip s
  | .accept port h => Sys2Proof.Machine.execAccept port h s
  | .refuse port h => Sys2Proof.Machine.execRefuse port h s
  | .notReady port h => Sys2Proof.Machine.execNotReady port h s
  | .close port h => Sys2Proof.Machine.execClose port h s
  | .reset port h => Sys2Proof.Machine.execReset port h s
  | .lagged port h => Sys2Proof.Machine.execLagged port h s
  | .serve port h member => Sys2Proof.Machine.execServe port h member s
  | .packetDepart c => Sys2Proof.Machine.execPacketDepart c s
  | .stagingDrain port c => Sys2Proof.Machine.execStagingDrain port c s
  | .retransmitTimeout c => Sys2Proof.Machine.execRetransmitTimeout c s
  | .grantReturn c => Sys2Proof.Machine.execGrantReturn c s
  | .rampDone => Sys2Proof.Machine.execRampDone s
  | .ctxConnect c => Sys2Proof.Machine.execCtxConnect c s
  | .ctxListen c => Sys2Proof.Machine.execCtxListen c s
  | .ctxClose c => Sys2Proof.Machine.execCtxClose c s
  | .admitAccept => Sys2Proof.Machine.execAdmitAccept s
  | .admitRefuse => Sys2Proof.Machine.execAdmitRefuse s
  | .admitDefer => Sys2Proof.Machine.execAdmitDefer s
  | .reductionClose k slot => Sys2Proof.Machine.execReductionClose k slot s
  | .stepCmdClose k slot => Sys2Proof.Machine.execStepCmdClose k slot s
  | .stepCmdExtend k slot => Sys2Proof.Machine.execStepCmdExtend k slot s
  | .layerDone l ok => Sys2Proof.Machine.execLayerDone l ok s
  | .layerPartner => Sys2Proof.Machine.execLayerPartner s
  | .layerFlash => Sys2Proof.Machine.execLayerFlash s
  | .layerStore => Sys2Proof.Machine.execLayerStore s
  | .storeDurable => Sys2Proof.Machine.execStoreDurable s
  | .restore src slot => Sys2Proof.Machine.execRestore src slot s
  | .replicaAnswer r => Sys2Proof.Machine.execReplicaAnswer r s
  | .restoreDone => Sys2Proof.Machine.execRestoreDone s
  | .realign => Sys2Proof.Machine.execRealign s
  | .keep => Sys2Proof.Machine.execKeep s
  | .ckptAbort => Sys2Proof.Machine.execCkptAbort s
  | .fetch => Sys2Proof.Machine.execFetch s
  | .next => Sys2Proof.Machine.execNext s
  | .ckptAccept => Sys2Proof.Machine.execCkptAccept s
  | .limiterWindow watts vin limited => Sys2Proof.Machine.execLimiterWindow watts vin limited s
  | .vinLow vin => Sys2Proof.Machine.execVinLow vin s
  | .shutdown c => Sys2Proof.Machine.execShutdown c s
  | .senseFault => Sys2Proof.Machine.execSenseFault s
  | .railFault k => Sys2Proof.Machine.execRailFault k s
  | .droop k => Sys2Proof.Machine.execDroop k s
  | .droopRelease k => Sys2Proof.Machine.execDroopRelease k s
  | .throttle k temp => Sys2Proof.Machine.execThrottle k temp s
  | .trip k temp => Sys2Proof.Machine.execTrip k temp s
  | .stackHot x temp => Sys2Proof.Machine.execStackHot x temp s
  | .coolant => Sys2Proof.Machine.execCoolant s
  | .coolRestored => Sys2Proof.Machine.execCoolRestored s
  | .reading drifts dieDrifts => Sys2Proof.Machine.execReading drifts dieDrifts s
  | .ageRead => Sys2Proof.Machine.execAgeRead s
  | .ageApply => Sys2Proof.Machine.execAgeApply s
  | .ageDefer => Sys2Proof.Machine.execAgeDefer s
  | .pwrHostBeat => Sys2Proof.Machine.execPwrHostBeat s
  | .powerOn => Sys2Proof.Machine.execPowerOn s
  | .brdResetN low samples => Sys2Proof.Machine.execBrdResetN low samples s
  | .watchdog => Sys2Proof.Machine.execWatchdog s
  | .moduleReset => Sys2Proof.Machine.execModuleReset s
  | .rstWdogKick by' => Sys2Proof.Machine.execRstWdogKick by' s
  | .bringupStage o => Sys2Proof.Machine.execBringupStage o s
  | .recLoad src len image => Sys2Proof.Machine.execRecLoad src len image s
  | .recAbort => Sys2Proof.Machine.execRecAbort s
  | .recBegin => Sys2Proof.Machine.execRecBegin s
  | .mgmtRecData word => Sys2Proof.Machine.execMgmtRecData word s
  | .recEnd => Sys2Proof.Machine.execRecEnd s
  | .recCtlAbort => Sys2Proof.Machine.execRecCtlAbort s
  | .quote => Sys2Proof.Machine.execQuote s
  | .cert => Sys2Proof.Machine.execCert s
  | .quoteDone => Sys2Proof.Machine.execQuoteDone s
  | .secWinDataRead => Sys2Proof.Machine.execSecWinDataRead s
  | .entdaa addr => Sys2Proof.Machine.execEntdaa addr s
  | .setdasa static addr => Sys2Proof.Machine.execSetdasa static addr s
  | .i3cPrivateWrite bytes => Sys2Proof.Machine.execI3cPrivateWrite bytes s
  | .i3cPrivateRead => Sys2Proof.Machine.execI3cPrivateRead s
  | .mgmtAlertAck bits => Sys2Proof.Machine.execMgmtAlertAck bits s
  | .slowClockEdge x => Sys2Proof.Machine.execSlowClockEdge x s
  | .ferrySend k => Sys2Proof.Machine.execFerrySend k s
  | .flitDiscard port peer lane raw => Sys2Proof.Machine.execFlitDiscard port peer lane raw s
  | .otherTrip d => Sys2Proof.Machine.execOtherTrip d s
  | .stackLost l => Sys2Proof.Machine.execStackLost l s
  | .setpointReached k => Sys2Proof.Machine.execSetpointReached k s
  | .rowCopyDone k c bank => Sys2Proof.Machine.execRowCopyDone k c bank s

end Sys2Proof.Machine
end

