-- ==== Sys2Proof/Machine/Step.lean ====
section
/-! DEFINITION. One step of the module: the command at the front of the queue, or, where none waits, one reference cycle
of the module's own clock. -/

namespace Sys2Proof.Machine

/-- Take the command at the front of the queue and run it with the rest waiting; with none waiting, one reference cycle
passes (log 26: DESIGN CHOICE, safe). -/
def step (s : State) : Host.Outcome State Fault Refusal :=
  match s.pending with
  | c :: rest => exec c { s with pending := rest }
  | [] => .next (s.pass 1)

/-- `s` with the command a word spells put at the front of its queue; no word spells one (log 97: DESIGN CHOICE, safe).
-/
def State.withFetchWord (s : State) (nbits w : Nat) : State :=
  match decodeTableWord nbits w with
  | some c => { s with pending := c :: s.pending }
  | none => s

end Sys2Proof.Machine
end

