-- ==== Sys2Proof/Safety.lean ====
section
/-! DEFINITION. What the statements are stated in terms of: the parts of the state a command can change, and the
invariant that every step keeps. -/

namespace Sys2Proof.Machine

/-- The parts of the state beside the queue of waiting commands. `mem` is the stacks' bytes and their poison. -/
inductive Part where
  | sent | fresh | now | regs | staged | edges | irq | memWait | waits | selfActs | tickets | tide | atolls | ports
  | sound | mem | ckpt | pwr | age | rst
  deriving DecidableEq, Repr

/-- `t` holds in part `p` what `s` holds there. -/
def Part.same (p : Part) (s t : State) : Prop :=
  match p with
  | .sent => t.sent = s.sent
  | .fresh => t.freshCount = s.freshCount
  | .now => t.now = s.now
  | .regs => t.regs = s.regs
  | .staged => t.staged = s.staged
  | .edges => t.slowEdges = s.slowEdges
  | .irq => t.irqPend = s.irqPend
  | .memWait => t.memWait = s.memWait
  | .waits => t.waits = s.waits
  | .selfActs => t.selfActs = s.selfActs
  | .tickets => t.tickets = s.tickets
  | .tide => t.tide = s.tide
  | .atolls => t.atolls = s.atolls
  | .ports => t.ports = s.ports
  | .sound => t.sound = s.sound
  | .mem => t.mem = s.mem ∧ t.poison = s.poison
  | .ckpt => t.ckpt = s.ckpt
  | .pwr => t.pwr = s.pwr
  | .age => t.age = s.age
  | .rst => t.rst = s.rst

/-- The canonical form of everything the module keeps by address: registers, staged values, stack bytes, poison,
lagoons. -/
def State.Inv (s : State) : Prop :=
  SMap.wf resetWord s.regs = true ∧ SMap.rising 0 s.staged = true ∧ Memory.wf s.mem = true ∧
  SMap.wf (fun _ => false) s.poison = true ∧ ∀ k : Atoll, SMap.wf lagDefault (s.atl k).strm.lag = true

/-- From `s` to `t` nothing changes outside the parts `ps`, the queue of waiting commands least of all, and the
canonical form is kept. -/
def Only (ps : List Part) (s t : State) : Prop :=
  t.pending = s.pending ∧ (s.Inv → t.Inv) ∧ ∀ p : Part, p ∉ ps → p.same s t

/-- The outcome is a next state reached within `Only`. -/
def OnlyNext (ps : List Part) (s : State) : Host.Outcome State Fault Refusal → Prop
  | .next t => Only ps s t
  | _ => False

/-- Registers outside the list read the same. -/
def SameRegs (l : List Nat) (s t : State) : Prop := ∀ a : Nat, a ∉ l → t.rd a = s.rd a

/-- What an event on instance `i` of class `c` writes: its sequence number, its tide and its cause (R63). -/
def eventRegs (c i : Nat) : List Nat :=
  [R.PG_EVT_SEQ (pageBase c i), R.PG_EVT_TIDE_LO (pageBase c i), R.PG_EVT_TIDE_HI (pageBase c i),
   R.PG_EVT_CAUSE (pageBase c i)]

/-- The window takes writes to instance `i` of class `c`: the module has power and is out of reset, no soft reset of the
page runs, and its atoll is in service (R61, R429). -/
def State.takesWrites (s : State) (c i : Nat) : Prop :=
  s.rst.power = true ∧ s.rst.asserted = false ∧ pageIx c i ∉ s.rst.srst ∧ s.pageLost c i = false

/-- The page is unlocked for one guarded write (R66). -/
def State.unlocked (s : State) (c i : Nat) : Prop := s.flag (F.PG_LOCK_STAT_OPEN (pageBase c i)) = true

/-- `s` with the page's lock used up by a guarded write (R66). -/
def State.relocked (s : State) (c i : Nat) : State := s.setFld (F.PG_LOCK_STAT_OPEN (pageBase c i)) 0

/-- A unit slot of atoll `k` issued alone is accepted: a slice runs, the unit refuses nothing and makes nothing wait. -/
def State.accepts (s : State) (k : Atoll) (bad : Option State) (stalls : Bool) : Prop :=
  s.running k = true ∧ bad = none ∧ stalls = false

/-- `s` once a main-pipe operation has issued on atoll `k`: the bundle no longer stalls, and its issue clocks count. -/
def State.issued (s : State) (k : Atoll) (op : Nat) (o : VOp) : State :=
  (s.onSeq k fun q => { q with stalled := false }).onVec k fun v => { v with mainOwed := v.mainOwed + issueClocks op o }

end Sys2Proof.Machine
end

