-- ==== Sys2Proof/Certificates/Slice0/Obligations.lean ====
section
/-! DEFINITION. The statements for the provers. `Only ps s t` says that from `s` to `t` nothing outside the parts `ps`
changed, the queue of waiting commands least of all, and that the canonical form was kept. -/

open Sys2Proof Sys2Proof.Machine

/-- A step takes the command at the front of the queue and runs it with the rest waiting; what a block of commands does
in place of fetching and decoding. -/
def Obligations.FrontCommandRuns : Prop :=
  ∀ (s : State) (c : Instr) (l : List Instr), step { s with pending := c :: l } = exec c { s with pending := l }

/-- On an empty queue the module's own clock runs one reference cycle on (log 26, DESIGN CHOICE). -/
def Obligations.IdleCycleRuns : Prop :=
  ∀ s : State, s.pending = [] →
    ∃ t, step s = .next t ∧ t.now = s.now + 1 ∧ Only [.now, .regs, .tide, .atolls, .ports, .pwr, .rst] s t

/-- R14's machine is deterministic and never undefined: every command has a next state, and leaves the queue of the
commands behind it alone. -/
def Obligations.EveryCommandAnswersNext : Prop :=
  ∀ (c : Instr) (s : State), ∃ t, exec c s = .next t ∧ t.pending = s.pending

/-- The canonical form of everything kept by address is an invariant of the machine, whatever command is run. -/
def Obligations.StepKeepsForm : Prop :=
  ∀ s t : State, s.Inv → step s = .next t → t.Inv

/-- The invariant holds after reset. -/
def Obligations.ResetForm : Prop := State.reset.Inv ∧ State.reset.pending = []

/-- R220: results of the arithmetic opcodes. x is s[RS1], y the second operand: a register, or the immediate
sign-extended. -/
def Obligations.ScalarArithmetic : Prop :=
  ∀ (s : State) (k : Atoll) (rd rs1 : SReg) (b : SOperand),
    let r := (s.atl k).seq.r
    let x : Word64 := BitVec.ofNat 64 (r.sv rs1)
    let y : Word64 := r.operand b
    let writes (i : Instr) (v : Word64) : Prop := exec i s = .next (s.setS k rd v.toNat)
    writes (.add k rd rs1 b) (x + y) ∧ writes (.sub k rd rs1 b) (x - y) ∧ writes (.and k rd rs1 b) (x &&& y) ∧
    writes (.or k rd rs1 b) (x ||| y) ∧ writes (.xor k rd rs1 b) (x ^^^ y) ∧
    writes (.shl k rd rs1 b) (x <<< (y.toNat % 64)) ∧ writes (.shr k rd rs1 b) (x >>> (y.toNat % 64)) ∧
    writes (.sar k rd rs1 b) (x.sshiftRight (y.toNat % 64)) ∧ writes (.mul k rd rs1 b) (x * y) ∧
    writes (.mulhu k rd rs1 b) (BitVec.ofNat 64 (x.toNat * y.toNat / 2 ^ 64)) ∧
    writes (.min k rd rs1 b) (if x.slt y then x else y) ∧ writes (.max k rd rs1 b) (if x.slt y then y else x) ∧
    writes (.minu k rd rs1 b) (if x.ult y then x else y) ∧ writes (.maxu k rd rs1 b) (if x.ult y then y else x) ∧
    writes (.li k rd b) y ∧ writes (.orh k rd rs1 b) ((x &&& 0x7FFFFFFFFFF) ||| (y <<< 43))

/-- R212: sixty-four registers of 64 bits, s0 reads zero and ignores writes. -/
def Obligations.ScalarRegisterWrite : Prop :=
  ∀ (s : State) (k : Atoll) (rd : SReg) (v : Nat),
    let t := s.setS k rd v
    (∀ i : SReg, (t.atl k).seq.r.sv i = if i = rd ∧ i ≠ 0 then v % 2 ^ 64 else (s.atl k).seq.r.sv i) ∧
    t.atl k = { s.atl k with seq := { (s.atl k).seq with r := { (s.atl k).seq.r with s := (t.atl k).seq.r.s } } } ∧
    (∀ j : Atoll, j ≠ k → t.atl j = s.atl j) ∧ Only [.atolls] s t

/-- R220, with R281's errors and R287's pending lines for CMP, PGET, LDL, STL and RDS. -/
def Obligations.ScalarOthers : Prop :=
  ∀ (s : State) (k : Atoll) (rd rs1 : SReg) (pred cond : BitVec 3) (b : SOperand),
    let q := (s.atl k).seq
    let r := q.r
    let x : Word64 := BitVec.ofNat 64 (r.sv rs1)
    let y : Word64 := r.operand b
    let a := (x + y).toNat
    let holds : Bool := match cond.toNat with
      | 0 => x == y | 1 => x != y | 2 => x.slt y | 3 => x.sle y | 4 => x.ult y | _ => x.ule y
    let reads (n : Nat) (v : Nat) : Prop := y.toNat % 256 = n → exec (.rds k rd b) s = .next (s.setS k rd v)
    let seen : State := (s.lagSeen k a 8).onSeq k fun q => { q with stalled := false }
    (cond.toNat ≤ 5 → exec (.cmp k pred cond rs1 b) s = .next (s.onSeq k fun q => { q with r := { q.r with
      p := SMap.put (fun _ => (0 : BitVec 4096)) q.r.p pred.toNat (if holds then BitVec.allOnes 4096 else 0) } })) ∧
    (6 ≤ cond.toNat → exec (.cmp k pred cond rs1 b) s = .next (s.refuse k 1)) ∧
    exec (.pget k rd b) s = .next (s.setS k rd (if r.pred (y.toNat % 8) (y.toNat / 8 % 4096) then 1 else 0)) ∧
    (a % 8 = 0 → s.inProgram k a 8 = true →
      ((s.atl k).strm.pends a 8 = true → exec (.ldl k rd rs1 b) s =
        .next ((s.flowNote k [(a, 8)]).onSeq k fun q => { q with stalled := true })) ∧
      ((s.atl k).strm.pends a 8 = false →
        (s.lagErr k a 8 = false → exec (.ldl k rd rs1 b) s = .next (seen.setS k rd (s.lagNum k a 8))) ∧
        (s.lagErr k a 8 = true → exec (.ldl k rd rs1 b) s = .next (seen.lagFault k))) ∧
      exec (.stl k rd rs1 b) s = .next (s.lagWrite k a (bytesOf 8 (r.sv rd)))) ∧
    (a % 8 ≠ 0 ∨ s.inProgram k a 8 = false →
      exec (.ldl k rd rs1 b) s = .next (s.refuse k 7) ∧ exec (.stl k rd rs1 b) s = .next (s.refuse k 7)) ∧
    reads 0 s.tideNo ∧ reads 1 s.tide.phase ∧ reads 2 k.val ∧
    reads 3 (if s.hasSlot then s.fld F.HOLM_SLOT_SLOT else 2 ^ 64 - 1) ∧
    (∀ i : Nat, i < 4 → reads (4 + i) (match r.lstack[i]? with | some l => l.done | none => 0)) ∧
    reads 8 (if s.running k then q.slice.elim 0 SliceSt.phase else 0) ∧ reads 9 (s.clocksLeft k) ∧
    reads 10 (q.entry.elim 0 Prod.fst) ∧
    (11 ≤ y.toNat % 256 → exec (.rds k rd b) s = .next (s.setS k rd 0))

/-- R218 and R219, with the refusals of R230. R214. -/
def Obligations.ControlFlow : Prop :=
  (∀ (s : State) (k : Atoll),
    let r := (s.atl k).seq.r
    let sets (i : Instr) (r' : SeqRegs) : Prop := exec i s = .next (s.onSeq k fun q => { q with r := r' })
    let jump (t : Nat) : SeqRegs := { r with
      pc := 128 * t, lstack := r.lstack.dropWhile fun l => !decide (l.start < t ∧ t ≤ l.fin) }
    exec (.nop k) s = .next s ∧
    (∀ t : BitVec 15, sets (.jmp k t) (jump t.toNat)) ∧
    (∀ (t : BitVec 15) (p : BitVec 3) (pn : Bool), r.pred p.toNat 0 ≠ pn → sets (.br k t p pn) (jump t.toNat)) ∧
    (∀ (t : BitVec 15) (p : BitVec 3) (pn : Bool), r.pred p.toNat 0 = pn → exec (.br k t p pn) s = .next s) ∧
    (∀ i : SReg, sets (.jmpr k i) (jump (r.sv i / 128 % 32768))) ∧
    (∀ t : BitVec 15, r.rstack.length < 32 →
      sets (.call k t) { r with pc := 128 * t.toNat, rstack := (r.pc / 128 + 1) :: r.rstack }) ∧
    (∀ t : BitVec 15, 32 ≤ r.rstack.length → exec (.call k t) s = .next (s.refuse k 4)) ∧
    (r.rstack = [] → s.running k = true → exec (.ret k) s = .next (s.refuse k 3)) ∧
    (∀ (c : CountOf 24) (e : BitVec 15), e.toNat ≤ r.pc / 128 ∨ (0 < r.count 32 c ∧ 4 ≤ r.lstack.length) →
      exec (.loop k c e) s = .next (s.refuse k 5)) ∧
    (∀ (x : Nat) (l : List Nat), r.rstack = x :: l →
      sets (.ret k) { r with pc := 128 * x, rstack := l, lstack := r.lstack.filter fun v => v.depth ≤ l.length }) ∧
    (∀ (c : CountOf 24) (e : BitVec 15), r.pc / 128 < e.toNat → 0 < r.count 32 c → r.lstack.length < 4 →
      sets (.loop k c e) { r with lstack := ⟨r.pc / 128, e.toNat, r.count 32 c, 0, r.rstack.length⟩ :: r.lstack }) ∧
    (∀ (c : CountOf 24) (e : BitVec 15), r.pc / 128 < e.toNat → r.count 32 c = 0 →
      sets (.loop k c e) { r with pc := 128 * (e.toNat + 1) })) ∧
  (∀ (s : State) (k : Atoll), (s.atl k).seq.r.rstack = [] → s.running k = false →
    ∃ t, exec (.ret k) s = .next t ∧ (t.atl k).seq.entry = none ∧ (t.atl k).seq.slice = none ∧
      (∀ j : Atoll, j ≠ k → t.atl j = s.atl j) ∧ Only [.atolls] s t)

/-- R218, R224, R225 and the refusals of R230: the control slots that act on the slice and on the power controller.
R227: after step 6 the slice is closed; until step 1 is over PUBLISH waits. -/
def Obligations.SliceSlots : Prop :=
  (∀ (s : State) (k : Atoll),
    let q := (s.atl k).seq
    (∀ (p : BitVec 12) (n : BitVec 8) (l : BitVec 4), n ≠ 0 → exec (.swell k p n l) s = .next (s.onAtl k fun a =>
      { a with pwr := { a.pwr with swells := a.pwr.swells ++ [(s.tideNo + n.toNat, p.toNat, l.toNat)] } })) ∧
    (∀ (p : BitVec 12) (l : BitVec 4), exec (.swell k p 0 l) s = .next (s.refuse k 8)) ∧
    (∀ (r : SReg) (x : SliceSt), s.running k = true → q.slice = some x →
      (q.r.sv r ∈ x.qcloses → exec (.qclose k r) s = .next s) ∧
      (q.r.sv r ∉ x.qcloses → x.qcloses.length < 16 → exec (.qclose k r) s = .next (s.onSeq k fun q =>
        { q with slice := some { x with qcloses := x.qcloses ++ [(s.atl k).seq.r.sv r] } })) ∧
      (q.r.sv r ∉ x.qcloses → 16 ≤ x.qcloses.length → exec (.qclose k r) s = .next (s.refuse k 10))) ∧
    (∀ r : SReg, s.running k = false → exec (.qclose k r) s = .next (s.refuse k 3)) ∧
    (∀ m : BitVec 4, exec (.fence k m) s = .next (s.onSeq k fun q => { q with
      stalled := (m.getLsbD 0 && (s.atl k).arr.busy) || (m.getLsbD 2 && decide (0 < (s.atl k).strm.active)) ||
        (m.getLsbD 3 && s.msgBusy k) })) ∧
    (∀ ramp : BitVec 3, exec (.hint k ramp) s = .next s)) ∧
  (∀ (s : State) (k : Atoll),
    (∀ x : SliceSt, s.running k = true → (s.atl k).seq.slice = some x → (s.atl k).arr.busy = false →
      (∀ y ∈ (s.atl k).strm.streams, y.detach = true ∨ y.done = true) →
      (∀ (c v : Bool) (i : BitVec 4) (a b : SReg), c = false ∨ (s.atl k).hold.length < 16 →
        ∃ t, exec (.publish k c v i a b) s = .next t ∧ (t.atl k).seq.slice = none ∧ t.running k = false ∧
          Only [.sent, .fresh, .regs, .irq, .waits, .atolls, .sound, .mem] s t) ∧
      (∀ p : Publish, x.publish = some p → p.whole = false → p.record = false ∨ (s.atl k).hold.length < 16 →
        ∃ t, exec (.sliceClose k) s = .next t ∧ (t.atl k).seq.slice = none ∧ t.running k = false ∧
          Only [.sent, .fresh, .regs, .irq, .waits, .atolls, .sound, .mem] s t)) ∧
    (∀ (x : SliceSt) (c v : Bool) (i : BitVec 4) (a b : SReg), s.running k = true → (s.atl k).seq.slice = some x →
      (s.atl k).arr.busy = true → exec (.publish k c v i a b) s = .next (s.onSeq k fun q => { q with
        stalled := true
        slice := some { x with publish := some (publishOf q.r c v i a b false) } })) ∧
    (∀ (c v : Bool) (i : BitVec 4) (a b : SReg), s.running k = false →
      exec (.publish k c v i a b) s = .next (s.refuse k 3)) ∧
    ((∀ x, (s.atl k).seq.slice = some x → x.publish = none) → exec (.sliceClose k) s = .next s))

/-- R33, R35, R225: the fit test passed, and failed; R230's code 3. -/
def Obligations.SliceOpens : Prop :=
  ∀ (s : State) (k : Atoll) (p : BitVec 12) (n : CountOf 26),
    let q := (s.atl k).seq
    let need := q.r.count 64 n
    (q.run = none → q.passed = false →
      (s.noStart k = false → s.tide.phase < s.markPoint → need ≤ s.clocksLeft k →
        ∃ t x, exec (.slice k p n) s = .next t ∧ (t.atl k).seq.run = some .running ∧ (t.atl k).seq.slice = some x ∧
          x.phase = p.toNat ∧ x.budget = need ∧ x.snap = q.r ∧ t.running k = true ∧
          t.fld (F.SEQ_BUDGET_BUDGET k) = need % 2 ^ 26 ∧ t.fld (F.SEQ_SLICE_PHASE k) = p.toNat ∧
          SameRegs [R.SEQ_SLICE k, R.SEQ_BUDGET k] s t ∧
          (∀ j : Atoll, j ≠ k → t.atl j = s.atl j) ∧ Only [.regs, .atolls] s t) ∧
      (s.startHeld k = false → s.markPoint ≤ s.tide.phase ∨ (s.clocksLeft k < need ∧ s.tide.phase ≠ 0) →
        ∃ t x, exec (.slice k p n) s = .next t ∧ (t.atl k).seq.run = some .fitWait ∧ (t.atl k).seq.slice = some x ∧
          x.phase = p.toNat ∧ x.budget = need ∧ x.snap = q.r ∧ x.waited = true ∧ t.running k = false ∧
          t.fld F.TIDE_CNT_FITWAIT = min (s.fld F.TIDE_CNT_FITWAIT + 1) 0xFFFFFFFF ∧
          SameRegs [R.TIDE_CNT_FITWAIT, R.SEQ_CNT_FITWAIT k] s t ∧
          (∀ j : Atoll, j ≠ k → t.atl j = s.atl j) ∧ Only [.regs, .atolls] s t)) ∧
    (s.running k = true → q.passed = false → exec (.slice k p n) s = .next (s.refuse k 3))

/-- R64. The sticky bits of R63 are the cause bits, REFUSED of PG_STAGE_STAT and of PG_SRST, BADKEY and FELL; on the page
of the harbour the 128 REJ bits, on an ATL page ERR of ATL_ILOAD_STAT. -/
def Obligations.EventAcknowledged : Prop :=
  ∀ (s : State) (p : PageIx) (v : Word32),
    let c := (pageOfIx p).1
    let i := (pageOfIx p).2
    let b := pageAt p
    s.rst.power = true → s.rst.asserted = false → p.val ∉ s.rst.srst →
    (v.toNat ≠ s.fld (F.PG_EVT_SEQ_SEQ b) → exec (.evtAck p v) s = .next s) ∧
    (v.toNat = s.fld (F.PG_EVT_SEQ_SEQ b) → ∃ t, exec (.evtAck p v) s = .next t ∧
      t.fld (F.PG_EVT_CAUSE_CAUSE b) = 0 ∧ t.fld (F.PG_STAGE_STAT_REFUSED b) = 0 ∧ t.fld (F.PG_LOCK_STAT_BADKEY b) = 0 ∧
      t.fld (F.PG_SRST_REFUSED b) = 0 ∧ t.fld (F.PG_MODE_SPLIT_FELL b) = 0 ∧
      (c = 0x0B → ∀ n : Nat, n < 128 → t.fld (F.HBR_QSTAT_REJ n) = 0) ∧ (c = 0x10 → t.fld (F.ATL_ILOAD_STAT_ERR i) = 0) ∧
      p.val ∉ t.irqPend ∧ (∀ q : Nat, q ≠ p.val → (q ∈ t.irqPend ↔ q ∈ s.irqPend)) ∧
      (∀ a : Nat, a / 0x1000 * 0x1000 ≠ b → t.rd a = s.rd a) ∧ Only [.regs, .irq] s t) ∧
    (∀ (c' i' bit : Nat), pageBase c' i' = b → ∀ t, t = s.raise c' i' bit →
      t.fld (F.PG_EVT_SEQ_SEQ b) ≠ s.fld (F.PG_EVT_SEQ_SEQ b))

/-- R63, R65, R98. -/
def Obligations.EventRaised : Prop :=
  ∀ (s : State) (c i b : Nat), b < 32 →
    let p := pageBase c i
    let t := s.raise c i b
    let q := s.fld (F.PG_EVT_SEQ_SEQ p)
    t.fld (F.PG_EVT_SEQ_SEQ p) = (if q = 0xFFFFFFFF then 1 else q + 1) ∧
    t.fld (F.PG_EVT_TIDE_LO_TIDE_LO p) = s.tideNo % 2 ^ 32 ∧ t.fld (F.PG_EVT_TIDE_HI_TIDE_HI p) = s.tideNo / 2 ^ 32 ∧
    (∀ n : Nat, n < 32 → (t.fld (F.PG_EVT_CAUSE_CAUSE p)).testBit n =
      ((s.fld (F.PG_EVT_CAUSE_CAUSE p)).testBit n || n == b)) ∧
    SameRegs (eventRegs c i) s t ∧
    (let quiet := (s.fld (F.PG_EVT_MASK_MASK p)).testBit b = true ∨ pageIx c i ∈ s.irqPend
     (quiet → t.sent = s.sent ∧ t.irqPend = s.irqPend) ∧
     (¬ quiet → t.irqPend = pageIx c i :: s.irqPend ∧ t.sent = s.sent ++
       [.irq (pageIx c i) (s.fld F.HBR_IRQ_ROUTE_HART) (s.fld F.HBR_IRQ_ROUTE_BASE + pageIx c i)
         (if q = 0xFFFFFFFF then 1 else q + 1)])) ∧
    Only [.sent, .regs, .irq] s t

/-- R65-R67, R429, R430: UNLOCK, EVT_MASK_WRITE and SRST. R429: SRST_DONE. -/
def Obligations.HeaderWrites : Prop :=
  (∀ (s : State) (p : PageIx),
    let c := (pageOfIx p).1
    let i := (pageOfIx p).2
    let b := pageAt p
    s.rst.power = true → s.rst.asserted = false → p.val ∉ s.rst.srst →
    exec (.unlock p 0x7D1E) s = .next (s.setFld (F.PG_LOCK_STAT_OPEN b) 1) ∧
    (∀ key : Word32, key ≠ 0x7D1E → ∃ t, exec (.unlock p key) s = .next t ∧ t.fld (F.PG_LOCK_STAT_OPEN b) = 0 ∧
      t.fld (F.PG_LOCK_STAT_BADKEY b) = 1 ∧
      t.fld (F.PG_LOCK_STAT_BADKEY_CNT b) = min (s.fld (F.PG_LOCK_STAT_BADKEY_CNT b) + 1) 0xFF ∧
      SameRegs (R.PG_LOCK_STAT b :: eventRegs c i) s t ∧ Only [.sent, .regs, .irq] s t) ∧
    (∀ m : Word32, ∃ t, exec (.evtMaskWrite p m) s = .next t ∧ t.fld (F.PG_EVT_MASK_MASK b) = m.toNat ∧
      SameRegs [R.PG_EVT_MASK b] s t ∧ Only [.sent, .regs, .irq] s t ∧
      (let quiet := s.fld (F.PG_EVT_MASK_MASK b) &&& (0xFFFFFFFF ^^^ m.toNat) &&& s.fld (F.PG_EVT_CAUSE_CAUSE b) = 0 ∨
         p.val ∈ s.irqPend
       (quiet → t.sent = s.sent ∧ t.irqPend = s.irqPend) ∧
       (¬ quiet → t.irqPend = p.val :: s.irqPend ∧ t.sent = s.sent ++ [.irq p.val (s.fld F.HBR_IRQ_ROUTE_HART)
         (s.fld F.HBR_IRQ_ROUTE_BASE + p.val) (s.fld (F.PG_EVT_SEQ_SEQ b))]))) ∧
    (s.unlocked c i →
      (s.blockIdle c i = true → s.boundTo p = none →
        exec (.srst p) s = .next { s.relocked c i with rst := { s.rst with srst := s.rst.srst ++ [p.val] } }) ∧
      (s.blockIdle c i = false ∨ s.boundTo p ≠ none → ∃ t, exec (.srst p) s = .next t ∧
        t.fld (F.PG_SRST_REFUSED b) = 1 ∧ t.flag (F.PG_LOCK_STAT_OPEN b) = false ∧ t.rst = s.rst ∧
        t.fld (F.PG_EVT_SEQ_SEQ b) ≠ s.fld (F.PG_EVT_SEQ_SEQ b) ∧
        SameRegs (R.PG_LOCK_STAT b :: R.PG_SRST b :: eventRegs c i) s t ∧ Only [.sent, .regs, .irq] s t))) ∧
  (∀ (s : State) (p : PageIx),
    (p.val ∈ s.rst.srst → ∃ t, exec (.srstDone p) s = .next t ∧ p.val ∉ t.rst.srst ∧
      (∀ q : Nat, q ≠ p.val → (q ∈ t.rst.srst ↔ q ∈ s.rst.srst)) ∧
      t.fld F.RST_CNT_SRST = min (s.fld F.RST_CNT_SRST + 1) 0xFFFFFFFF ∧
      (t.fld (F.PG_EVT_CAUSE_CAUSE (pageBase 0x06 0))).testBit 1 = true ∧
      (∀ e, e ∈ t.staged ↔ e ∈ s.staged ∧ e.1 / 0x1000 * 0x1000 ≠ pageAt p) ∧
      Only [.sent, .regs, .staged, .irq, .atolls, .ports, .sound, .rst] s t) ∧
    (p.val ∉ s.rst.srst → exec (.srstDone p) s = .next s))

/-- R67: a guarded write while OPEN is clear has its GU fields ignored. -/
def Obligations.GuardedWrites : Prop :=
  ∀ (s : State) (k : Atoll) (x : BitVec 10) (r : FaultIx) (va : BitVec 52) (q : PortIx) (l : LaneIx) (o : Slot) (g : CtxNo)
    (m : Fin 64) (src : BitVec 4) (n : BitVec 16) (p : PageIx),
    let shut (c n : Nat) (l : List Instr) : Prop :=
      s.takesWrites c n → ¬ s.unlocked c n → ∀ i ∈ l, ∃ t, exec i s = .next t ∧
        t.fld (F.PG_LOCK_STAT_BADKEY (pageBase c n)) = 1 ∧
        t.fld (F.PG_LOCK_STAT_BADKEY_CNT (pageBase c n)) = s.fld (F.PG_LOCK_STAT_BADKEY_CNT (pageBase c n)) ∧
        SameRegs (R.PG_LOCK_STAT (pageBase c n) :: eventRegs c n) s t ∧ Only [.sent, .regs, .irq] s t
    shut (pageOfIx p).1 (pageOfIx p).2 [.srst p] ∧ shut 0x10 k [.iload k] ∧ shut 0x11 k [.fieldTest k] ∧
    shut 0x17 k [.fltResume k r, .fltAbort k r, .fltReissue k r, .fltAbandon k r] ∧
    shut 0x18 k [.invVa k va, .invAll k] ∧ shut 0x1A k [.retrain k x, .mapout k x, .retire k, .migrated k] ∧
    shut 0x30 q [.retrainLane q l, .excludeLane q l, .restoreLane q l, .linkRestart q o] ∧
    shut 0x32 0 [.ctxConnect g, .ctxListen g, .ctxClose g, .admitAccept, .admitRefuse, .admitDefer] ∧
    shut 0x19 k [.stepCmdClose k m, .stepCmdExtend k m] ∧
    shut 0x09 0 [.layerPartner, .layerFlash, .layerStore, .storeDurable, .restore src n, .realign, .keep, .ckptAbort, .fetch,
      .next, .ckptAccept] ∧
    shut 0x05 0 [.ageRead, .ageApply, .ageDefer] ∧ shut 0x06 0 [.moduleReset] ∧ shut 0x07 0 [.quote, .cert] ∧
    shut 0x0A 0 [.recBegin, .recEnd, .recCtlAbort]

/-- R94, R96. -/
def Obligations.QueueCommands : Prop :=
  ∀ (s : State) (n : QueueIx) (k : Atoll) (v : Word32), s.takesWrites 0x0B 0 →
    exec (.queueResume n) s = .next (s.setFld (F.HBR_QSTAT_HALTED n) 0) ∧
    (s.flag (F.HBR_QSTAT_HALTED n) = true →
      exec (.queueFlush n) s = .next (s.setFld (F.HBR_QSTAT_HEAD n) (s.fld (F.HBR_QSTAT_TAIL n))) ∧
      exec (.queueHalt n) s = .next s) ∧
    (s.flag (F.HBR_QSTAT_HALTED n) = false →
      exec (.queueFlush n) s = .next s ∧
      exec (.queueHalt n) s = .next ((s.setFld (F.HBR_QSTAT_HALTED n) 1).raise 0x0B 0 1)) ∧
    (let used (x : Nat) : Nat := (x + 2 ^ 32 - s.fld (F.HBR_CR_HEAD_HEAD k)) % 2 ^ 32
     (used v.toNat ≤ used (s.fld (F.HBR_CR_TAIL_TAIL k)) →
       exec (.crHeadWrite k v) s = .next (s.setFld (F.HBR_CR_HEAD_HEAD k) v.toNat)) ∧
     (used (s.fld (F.HBR_CR_TAIL_TAIL k)) < used v.toNat → exec (.crHeadWrite k v) s = .next (s.raise 0x0B 0 3)))

/-- R124, R231, R294, R262, R264, R266, R267, R271. R297-R299. -/
def Obligations.AtollWindowCommands : Prop :=
  (∀ (s : State) (k : Atoll) (c : BitVec 10) (va : BitVec 52),
    let opened (n : Nat) : Prop := s.takesWrites n k ∧ s.unlocked n k
    let u (n : Nat) : State := s.relocked n k
    let fits := s.flag (F.ATL_ILOAD_STAT_BUSY k) = false ∧
      s.fld (F.ATL_ILOAD_FIRST k) + (s.fld (F.ATL_ILOAD_COUNT k) + 1) ≤ 32768
    let open' := c.toNat < 768 ∧ (s.chan k c.toNat).state ≠ .ebb ∧ (s.chan k c.toNat).state ≠ .mapped
    (opened 0x11 → exec (.fieldTest k) s = .next ((u 0x11).onArr k fun m => { m with testArm := true })) ∧
    (opened 0x10 → fits →
      ∃ t, exec (.iload k) s = .next t ∧ (t.atl k).seq.iload = some (s.fld (F.ATL_ILOAD_SRC_ADDR k) / 128 * 128,
        s.fld (F.ATL_ILOAD_FIRST k), s.fld (F.ATL_ILOAD_COUNT k) + 1) ∧ t.fld (F.ATL_ILOAD_STAT_BUSY k) = 1 ∧
        t.fld (F.ATL_ILOAD_STAT_DONE k) = 0 ∧ (∀ j : Atoll, j ≠ k → t.atl j = s.atl j) ∧ Only [.regs, .atolls] s t) ∧
    (opened 0x10 → ¬ fits → ∃ t, exec (.iload k) s = .next t ∧ t.fld (F.ATL_ILOAD_STAT_ERR k) = 1 ∧
      (t.fld (F.PG_EVT_CAUSE_CAUSE (pageBase 0x10 k))).testBit 2 = true ∧ Only [.sent, .regs, .irq] s t) ∧
    (opened 0x18 → exec (.invVa k va) s = .next (((u 0x18).onStrm k fun m =>
      { m with tlb := m.tlb.filter fun x => x.2.1 != vaTag x.1 (va.toNat / 65536 * 65536) }).setFld
        (F.XLAT_STAT_INV_DONE k) 0)) ∧
    (opened 0x18 → exec (.invAll k) s = .next (((u 0x18).onStrm k fun m => { m with tlb := [] }).setFld
      (F.XLAT_STAT_INV_DONE k) 0)) ∧
    (opened 0x1A → open' →
      (∃ t, exec (.retrain k c) s = .next t ∧ (t.chan k c.toNat).requested = true ∧
        t.awaits 0x1A k 0 c.toNat = false ∧ Only [.regs, .waits, .atolls] s t) ∧
      (∀ h, s.hostsFor k c.toNat = some h → ∃ t, exec (.mapout k c) s = .next t ∧ c.toNat ∈ (t.atl k).mc.waiting ∧
        t.awaits 0x1A k 1 c.toNat = false ∧ Only [.regs, .waits, .atolls] s t) ∧
      (s.hostsFor k c.toNat = none → exec (.mapout k c) s = .next ((u 0x1A).mapoutLimit k))) ∧
    (opened 0x1A → ¬ open' → exec (.retrain k c) s = .next (u 0x1A) ∧ exec (.mapout k c) s = .next (u 0x1A)) ∧
    (opened 0x1A → ∀ x l, (s.atl k).mc.pend = x :: l →
      ∃ t, exec (.retire k) s = .next t ∧ exec (.migrated k) s = .next t ∧
        (∀ a ∈ t.selfActs, a.act ≠ .retire k x.1) ∧ t = { (u 0x1A).retirePage k x.1 with selfActs := t.selfActs }) ∧
    (opened 0x1A → (s.atl k).mc.pend = [] → exec (.retire k) s = .next (u 0x1A) ∧ exec (.migrated k) s = .next (u 0x1A))) ∧
  (∀ (s : State) (k : Atoll) (r : FaultIx), s.takesWrites 0x17 k → s.unlocked 0x17 k →
    let u := s.relocked 0x17 k
    (∀ x, ((s.atl k).strm.fltAt r).state = .waitHost → s.fltStream k r = some x →
      exec (.fltResume k r) s = .next (u.resumeStream k r x) ∧ exec (.fltAbort k r) s = .next (u.abortRec k r x)) ∧
    (((s.atl k).strm.fltAt r).state ≠ .waitHost →
      exec (.fltResume k r) s = .next u ∧ exec (.fltAbort k r) s = .next u) ∧
    (∀ va w, s.heldFor k r = some (va, w) →
      exec (.fltAbandon k r) s = .next (u.abandonHeld k) ∧
      ((u.rewalk k va w).1 = true → exec (.fltReissue k r) s = .next (((u.rewalk k va w).2.reissue k).retest k)) ∧
      ((u.rewalk k va w).1 = false → exec (.fltReissue k r) s = .next ((u.rewalk k va w).2.abandonHeld k))) ∧
    (s.heldFor k r = none → exec (.fltReissue k r) s = .next u ∧ exec (.fltAbandon k r) s = .next u))

/-- R381, R384-R388. -/
def Obligations.CheckpointCommands : Prop :=
  ∀ s : State, s.takesWrites 0x09 0 → s.unlocked 0x09 0 →
    let u := s.relocked 0x09 0
    (s.hosted 0x09 0 0 = true → s.layer 1 = 2 → s.fld F.CKPT_STAT_STATE ≤ 2 →
      (s.layer 2 = 0 → exec .layerPartner s = .next ((u.answered 0x09 0 0 0).startLayer 2)) ∧
      (s.layer 3 = 0 → exec .layerFlash s = .next ((u.answered 0x09 0 0 0).startLayer 3)) ∧
      (s.layer 4 = 0 → exec .layerStore s = .next ((u.answered 0x09 0 0 0).startLayer 4))) ∧
    (s.hosted 0x09 0 0 = false →
      exec .layerPartner s = .next u ∧ exec .layerFlash s = .next u ∧ exec .layerStore s = .next u) ∧
    (s.layer 4 = 1 → s.ckpt.stored = true → exec .storeDurable s = .next (u.layerEnd 4 true)) ∧
    (s.layer 4 ≠ 1 ∨ s.ckpt.stored = false → exec .storeDurable s = .next u) ∧
    (s.ckpt.restore.isSome = true → exec .ckptAbort s = .next u.restoreEnd) ∧
    (∀ r, s.ckpt.restore = some r → r.realign = true →
      let v := (u.answered 0x09 0 3 0).onRestore fun r => { r with realign := false }
      exec .keep s = .next (v.setFld F.CKPT_STAT_STATE 5) ∧
      exec .realign s = .next ((v.realignAll (v.misaligned r.streams)).setFld F.CKPT_STAT_STATE 5)) ∧
    (∀ r p x l, s.ckpt.restore = some r → r.held = (p, x) :: l →
      let v := (u.answered 0x09 0 2 (p.share * 2 ^ 64 + p.off)).onRestore fun r => { r with held := l }
      exec .fetch s = .next ((v.mendFetch p x).getD v).checkNext ∧ exec .next s = .next (v.mendNext r p).checkNext ∧
      exec .ckptAccept s = .next v.checkNext) ∧
    (s.ckpt.restore = none → exec .ckptAbort s = .next u ∧ exec .realign s = .next u ∧ exec .keep s = .next u ∧
      exec .fetch s = .next u ∧ exec .next s = .next u ∧ exec .ckptAccept s = .next u)

/-- R385: RESTORE. R380, R381, R385-R387. -/
def Obligations.RestoreBegins : Prop :=
  (∀ (s : State) (src : BitVec 4) (slot : BitVec 16), s.takesWrites 0x09 0 → s.unlocked 0x09 0 → s.ckpt.restore = none →
    let busy := s.ready = false ∨ s.ckpt.stop ≠ none ∨ ∃ k : Atoll, (s.atl k).seq.entry ≠ none
    let held := (s.relocked 0x09 0).sourceId src.toNat slot.toNat
    (∀ id, ¬ busy → held = some id → ∃ t r, exec (.restore src slot) s = .next t ∧
      t.ckpt.restore = some r ∧ r.src = src.toNat ∧ r.slot = slot.toNat ∧ r.id = id ∧
      Only [.sent, .fresh, .regs, .irq, .atolls, .sound, .mem, .ckpt] s t) ∧
    (busy ∨ held = none → ∃ t, exec (.restore src slot) s = .next t ∧
      t.ckpt.restore = none ∧ t.fld F.CKPT_STAT_CAUSE = 1 ∧
      (t.fld (F.PG_EVT_CAUSE_CAUSE (pageBase 0x09 0))).testBit 1 = true ∧ Only [.sent, .regs, .irq] s t)) ∧
  (∀ (s : State) (l : Layer) (ok : Bool) (x : ReplicaInfo),
  let n := layerCode l
  let id := s.fld F.CKPT_ID_ID
  let event (t : State) (b : Nat) : Prop := (t.fld (F.PG_EVT_CAUSE_CAUSE (pageBase 0x09 0))).testBit b = true
  (s.layer n ≠ 1 → exec (.layerDone l ok) s = .next s) ∧
  (s.layer n = 1 → ∃ t, exec (.layerDone l false) s = .next t ∧ t.layer n = 3 ∧ event t 3 ∧
    Only [.sent, .regs, .irq, .ckpt] s t) ∧
  (s.layer 2 = 1 → ∃ t, exec (.layerDone .partner true) s = .next t ∧ t.layer 2 = 2 ∧ event t 2 ∧
    t.ckpt.partId = some id ∧ t.ckpt.partMem = s.shareImage ∧ Only [.sent, .regs, .irq, .ckpt] s t) ∧
  (∀ i, s.layer 3 = 1 → s.ckpt.fslot = some i → ∃ t, exec (.layerDone .flash true) s = .next t ∧ t.layer 3 = 2 ∧
    event t 2 ∧ t.ckpt.fslot = none ∧ t.flashSlot i = (true, false, false, id) ∧
    SMap.find t.ckpt.flashMem i = some s.shareImage ∧ Only [.sent, .regs, .irq, .ckpt] s t) ∧
  (s.layer 3 = 1 → s.ckpt.fslot = none → exec (.layerDone .flash true) s = .next s) ∧
  (s.layer 4 = 1 → ∃ t, exec (.layerDone .store true) s = .next t ∧ t.ckpt.stored = true ∧ t.ckpt.storeId = some id ∧
    t.ckpt.storeMem = s.shareImage ∧
    Only [.ckpt] s t) ∧
  (s.ckpt.restore = none → exec (.replicaAnswer x) s = .next s ∧ exec .restoreDone s = .next s) ∧
  (∀ r, s.ckpt.restore = some r →
    let p := r.waiting.find? fun p => p.tensor == x.tensor.toNat && p.len == x.len
    (p = none → exec (.replicaAnswer x) s = .next s) ∧
    (∀ q, p = some q →
      let u := s.onRestore fun r => { r with waiting := r.waiting.erase q }
      let v := (u.bump F.CKPT_CNT_MISMATCH).raise 0x09 0 8
      (q.digest = x.digest.toNat → exec (.replicaAnswer x) s = .next u.checkNext) ∧
      (q.digest ≠ x.digest.toNat → s.hosted 0x09 0 2 = false →
        exec (.replicaAnswer x) s = .next (v.mendSelf r q x).checkNext) ∧
      (q.digest ≠ x.digest.toNat → s.hosted 0x09 0 2 = true → ∃ t, exec (.replicaAnswer x) s = .next t ∧
        t.ckpt.restore = some { r with waiting := r.waiting.erase q, held := r.held ++ [(q, x)] } ∧ event t 9 ∧
        t.awaits 0x09 0 2 (q.share * 2 ^ 64 + q.off) = true ∧ t.fld F.CKPT_STAT_STATE = 6 ∧
        t.fld F.CKPT_CNT_MISMATCH = min (s.fld F.CKPT_CNT_MISMATCH + 1) 0xFFFFFFFF ∧
        Only [.sent, .regs, .irq, .waits, .ckpt] s t)) ∧
    (r.held ≠ [] ∨ r.realign = true → exec .restoreDone s = .next s) ∧
    (r.held = [] → r.realign = false →
      let u := (s.bump F.CKPT_CNT_UNCHECKED r.waiting.length).onRestore fun r => { r with waiting := [] }
      let stays := s.fld F.CKPT_STAT_STATE ≠ 5 ∧ u.misaligned r.streams ≠ [] ∧ s.hosted 0x09 0 3 = true
      (¬ stays → ∃ t, exec .restoreDone s = .next t ∧ t.ckpt.restore = none ∧ event t 10) ∧
      (stays → ∃ t, exec .restoreDone s = .next t ∧ t.ckpt.restore = some { r with waiting := [], realign := true } ∧
        t.fld F.CKPT_STAT_STATE = 6 ∧ t.awaits 0x09 0 3 0 = true ∧ event t 9 ∧
        t.fld F.CKPT_CNT_UNCHECKED = min (s.fld F.CKPT_CNT_UNCHECKED + r.waiting.length) 0xFFFFFFFF ∧
        Only [.sent, .regs, .irq, .waits, .ckpt] s t))))

/-- R412, R413, R416, R417. R412, R413, R417. -/
def Obligations.PowerWindowCommands : Prop :=
  (∀ s : State,
    (s.takesWrites 0x05 0 → s.unlocked 0x05 0 →
      let u := s.relocked 0x05 0
      exec .ageRead s = .next { u with age := { s.age with asked := true } } ∧
      (s.awaits 0x05 0 0 0 = true →
        (∃ t, exec .ageApply s = .next t ∧ t.awaits 0x05 0 0 0 = false ∧ (∃ a ∈ t.selfActs, a.act = .replan) ∧
          Only [.regs, .waits, .selfActs] s t) ∧
        (∃ t, exec .ageDefer s = .next t ∧ t.awaits 0x05 0 0 0 = false ∧ t.age.pending = none ∧
          Only [.regs, .waits, .age] s t)) ∧
      (s.awaits 0x05 0 0 0 = false → exec .ageApply s = .next u ∧ exec .ageDefer s = .next u)) ∧
    (s.takesWrites 0x03 0 → exec .pwrHostBeat s = .next { s with pwr := { s.pwr with beat := s.tideNo, expired := false } })) ∧
  (∀ (s : State) (a d : List Nat),
  (s.age.reading = false → exec (.reading a d) s = .next s) ∧
  (s.age.reading = true →
    let u := s.putDrifts a d
    ∃ t, exec (.reading a d) s = .next t ∧ t.age.reading = false ∧ t.fld F.AGE_LAST_TIDE = s.tideNo ∧
      (∀ k : Atoll, s.inService k = true → t.fld (F.AGE_ATL_DRIFT k) = min (a.getD k 0) 255) ∧
      (t.fld (F.PG_EVT_CAUSE_CAUSE (pageBase 0x05 0))).testBit 0 = true ∧
      (u.drifted = false → t.age.pending = s.age.pending ∧ t.selfActs = s.selfActs ∧ t.waits = s.waits) ∧
      (u.drifted = true → t.age.pending.isSome = true ∧
        (s.hosted 0x05 0 0 = false → (∃ x ∈ t.selfActs, x.act = .replan) ∧ t.waits = s.waits) ∧
        (s.hosted 0x05 0 0 = true → t.fld F.AGE_STAT_PENDING = 1 ∧ t.awaits 0x05 0 0 0 = true ∧ t.selfActs = s.selfActs)) ∧
      Only [.sent, .regs, .irq, .waits, .selfActs, .age] s t))

/-- R422, R426: MODULE_RESET, RST_WDOG_KICK. R26, R393, R421-R426. -/
def Obligations.ResetWindowCommands : Prop :=
  (∀ s : State, s.takesWrites 0x06 0 →
    (s.unlocked 0x06 0 → ∃ t, exec .moduleReset s = .next t ∧ t.fld F.RST_CAUSE_CAUSE = 4 ∧
      (∀ k : Atoll, (t.atl k).seq.entry = none ∧ (t.atl k).seq.slice = none) ∧ t.ready = false ∧
      t.fld F.RST_BRING_STAGE = 1 ∧ t.pending = s.pending) ∧
    exec (.rstWdogKick .holm) s = .next { s with rst := { s.rst with kick := s.now } } ∧
    exec (.rstWdogKick .harbour) s = .next s ∧ exec (.rstWdogKick .server) s = .next s ∧
    (∀ k : Atoll, exec (.rstWdogKick (.core k)) s = .next s)) ∧
  (∀ (s : State) (k : Atoll) (c : ShutdownCause) (n : Nat),
  let fresh (t : State) (cause : Nat) : Prop := t.fld F.RST_CAUSE_CAUSE = cause ∧ t.fld F.RST_BRING_STAGE = 1 ∧
    t.fld F.RST_BRING_FAILED = 0 ∧ t.fld F.HOLM_STATE_STATE = 0 ∧ t.rst.power = true ∧ t.pending = s.pending
  let kept (t : State) (cause : Nat) : Prop := fresh t cause ∧ t.mem = s.mem ∧ t.poison = s.poison ∧
    t.ckpt.flashMem = s.ckpt.flashMem ∧ t.fld F.RST_CNT_RESET = min (s.fld F.RST_CNT_RESET + 1) 0xFFFFFFFF
  (s.rst.power = false →
    exec (.shutdown c) s = .next s ∧ exec .watchdog s = .next s ∧
    exec (.brdResetN true n) s = .next { s with rst := { s.rst with brdLow := true } } ∧
    exec (.brdResetN false n) s = .next (s.onRst fun r =>
      { r with brdLow := false, asserted := false, since := if r.asserted then 0 else r.since }) ∧
    (∃ t, exec .powerOn s = .next t ∧ fresh t 1 ∧ t.rst.asserted = s.rst.brdLow ∧ t.mem = [] ∧
      t.ckpt.flashMem = s.ckpt.flashMem)) ∧
  (s.rst.power = true →
    exec .powerOn s = .next s ∧
    (∃ t, exec (.shutdown c) s = .next t ∧ t.rst.power = false ∧ t.mem = [] ∧ t.poison = [] ∧
      t.ckpt.flashMem = s.ckpt.flashMem ∧ t.sent.getLast? = some .railsOff ∧ t.pending = s.pending) ∧
    (s.rst.wdog = false → exec .watchdog s = .next s) ∧
    (s.rst.wdog = true → ∃ t, exec .watchdog s = .next t ∧ kept t 3 ∧
      t.fld F.RST_CAUSE_WDOG_RUN = min 3 (s.fld F.RST_CAUSE_WDOG_RUN + 1) ∧
      t.fld F.RST_CNT_WDOG = min (s.fld F.RST_CNT_WDOG + 1) 0xFFFFFFFF) ∧
    (s.rst.asserted = false → 1000 ≤ n → ∃ t, exec (.brdResetN true n) s = .next t ∧ kept t 2 ∧ t.rst.asserted = true) ∧
    (s.rst.asserted = true ∨ n < 1000 →
      exec (.brdResetN true n) s = .next { s with rst := { s.rst with brdLow := true } }) ∧
    (s.rst.asserted = true → exec (.brdResetN false n) s =
      .next { s with rst := { s.rst with brdLow := false, asserted := false, since := 0 } }) ∧
    (s.rst.asserted = false → s.rst.brdLow = false → exec (.brdResetN false n) s = .next s) ∧
    (s.rst.asserted = false → s.rst.brdLow = true → ∃ t, exec (.brdResetN false n) s = .next t ∧ t.rst.brdLow = false ∧
      t.fld F.RST_CNT_GLITCH = min (s.fld F.RST_CNT_GLITCH + 1) 0xFFFFFFFF ∧
      (t.fld (F.PG_EVT_CAUSE_CAUSE (pageBase 0x06 0))).testBit 0 = true ∧ Only [.sent, .regs, .irq, .rst] s t)) ∧
  (s.ready = false → exec (.railFault k) s =
    .next { s with rst := { s.rst with losing := s.rst.losing ++ [(k.val, 1)] } }) ∧
  (s.ready = true → ∃ t, exec (.railFault k) s = .next t ∧ kept t 5 ∧ .railOff k.val ∈ t.sent ∧
    t.rst.losing = s.rst.losing ++ [(k.val, 1)]))

/-- R436, R438, R439, R442. R436, R437, R439. -/
def Obligations.TrustWindowCommands : Prop :=
  (∀ s : State,
    (s.takesWrites 0x0A 0 →
      (s.unlocked 0x0A 0 →
        (∃ t, exec .recBegin s = .next t ∧ t.rst.recv = some [] ∧ t.fld F.MGMT_REC_STAT_STATE = 1 ∧
          t.fld F.MGMT_REC_STAT_RESULT = 0 ∧ Only [.regs, .rst] s t) ∧
        (∀ b, s.rst.recv = some b →
          exec .recEnd s = .next ((s.relocked 0x0A 0).deliverImage b) ∧
          (∃ t, exec .recCtlAbort s = .next t ∧ t.rst.recv = none ∧ t.fld F.MGMT_REC_STAT_STATE = 0 ∧
            Only [.regs, .rst] s t)) ∧
        (s.rst.recv = none → exec .recEnd s = .next (s.relocked 0x0A 0) ∧
          exec .recCtlAbort s = .next (s.relocked 0x0A 0))) ∧
      (∀ (b : List Byte) (w : Word32), s.rst.recv = some b →
        exec (.mgmtRecData w) s = .next { s with rst := { s.rst with recv := some (b ++ bytesOf 4 w.toNat) } }) ∧
      (∀ w : Word32, s.rst.recv = none → exec (.mgmtRecData w) s = .next s) ∧
      (∀ v : Word32, ∃ t, exec (.mgmtAlertAck v) s = .next t ∧
        (∀ n : Nat, n < 32 → v.getLsbD n = true → n ∉ s.alertHeld → (t.rd R.MGMT_ALERT_CAUSE).testBit n = false) ∧
        Only [.sent, .regs, .irq, .rst] s t)) ∧
    (∀ b, s.rst.recv = some b → s.flag F.HBR_PCIE_UP = true → exec .recAbort s =
      .next (({ s with rst := { s.rst with recv := none } }).setFld F.MGMT_REC_STAT_STATE 0)) ∧
    (s.rst.recv = none ∨ s.flag F.HBR_PCIE_UP = false → exec .recAbort s = .next s) ∧
    (s.takesWrites 0x07 0 → s.unlocked 0x07 0 →
      (s.flag F.SEC_STAT_QUOTE_BUSY = false → s.flag F.SEC_STAT_ID_OK = true → ∃ t, exec .quote s = .next t ∧
        t.fld F.SEC_STAT_QUOTE_BUSY = 1 ∧ t.rst.nonce = ((List.range 8).flatMap fun w => bytesOf 4 (s.rd (R.SEC_NONCE w))) ∧
        Only [.regs, .rst] s t) ∧
      (s.flag F.SEC_STAT_QUOTE_BUSY = true ∨ s.flag F.SEC_STAT_ID_OK = false →
        exec .quote s = .next (s.relocked 0x07 0)) ∧
      (∃ t, exec .cert s = .next t ∧ t.rst.window = ((List.range Config.certLength.toNat).map Config.certByte) ∧
        t.rd R.SEC_WIN_LEN = Config.certLength.toNat ∧ t.fld F.SEC_STAT_QUOTE_VALID = 0 ∧ Only [.regs, .rst] s t))) ∧
  (∀ (s : State) (src : Word64) (len : Word32) (image : Image),
  let e : Instr := .recLoad src len image
  let b := image.take len.toNat
  let recovery := s.fld F.HOLM_STATE_STATE = 2
  let res := verifyImage b (if recovery then s.rst.need else 0)
  let held (t : State) : Prop := SMap.find t.rst.images (imgFld b 4 2) = some (imageOf b)
  let reads (t : State) : Prop := .outbound false src.toNat len.toNat ∈ t.sent
  (s.rst.power = false ∨ s.flag F.HBR_PCIE_UP = false → exec e s = .next s) ∧
  (s.rst.power = true → s.flag F.HBR_PCIE_UP = true →
    (res ≠ 1 → ∃ t, exec e s = .next t ∧ reads t ∧ t.fld F.MGMT_REC_STAT_RESULT = res ∧ t.fld F.MGMT_REC_STAT_STATE = 5 ∧
      t.rst.images = s.rst.images ∧ t.rst.recv = none ∧ t.rst.recSrc = src ∧ t.rst.recLen = len ∧
      (t.fld (F.PG_EVT_CAUSE_CAUSE (pageBase 0x0A 0))).testBit 1 = true ∧ Only [.sent, .regs, .irq, .rst] s t) ∧
    (res = 1 → ¬ recovery → ∃ t, exec e s = .next t ∧ reads t ∧ t.fld F.MGMT_REC_STAT_RESULT = 1 ∧
      t.fld F.MGMT_REC_STAT_STATE = 4 ∧ held t ∧ t.rst.loaded = s.rst.loaded ∧ t.fld F.SEC_STAT_PEND = 1 ∧
      (t.fld (F.PG_EVT_CAUSE_CAUSE (pageBase 0x07 0))).testBit 2 = true ∧ Only [.sent, .regs, .irq, .rst] s t) ∧
    (res = 1 → recovery → ∃ t, exec e s = .next t ∧ reads t ∧ held t ∧ t.fld F.RST_CAUSE_CAUSE = 6 ∧
      t.fld F.RST_BRING_STAGE = 1 ∧ t.fld F.HOLM_STATE_STATE = 0 ∧ t.mem = s.mem ∧ t.poison = s.poison)) ∧
  (s.flag F.SEC_STAT_QUOTE_BUSY = false → exec .quoteDone s = .next s) ∧
  (s.flag F.SEC_STAT_QUOTE_BUSY = true → ∃ t, exec .quoteDone s = .next t ∧ t.fld F.SEC_STAT_QUOTE_BUSY = 0 ∧
    t.fld F.SEC_STAT_QUOTE_VALID = 1 ∧ t.rd R.SEC_WIN_LEN = 976 ∧
    t.rst.window = s.quoteBody ++
      bigBytes 512 (Config.identitySign (BitVec.ofNat 512 (ofBig (sha512 s.quoteBody)))).toNat ∧
    (t.fld (F.PG_EVT_CAUSE_CAUSE (pageBase 0x07 0))).testBit 0 = true ∧ Only [.sent, .regs, .irq, .rst] s t) ∧
  (s.rst.power = false ∨ s.rst.asserted = true →
    exec .secWinDataRead s = .next (s.emit (.regRead R.SEC_WIN_DATA 0))) ∧
  (s.rst.power = true → s.rst.asserted = false → ∃ t, exec .secWinDataRead s = .next t ∧
    t.sent = s.sent ++ [.regRead R.SEC_WIN_DATA s.winWord] ∧ SameRegs [R.SEC_WIN_IDX] s t ∧
    t.fld F.SEC_WIN_IDX_WORD = (s.fld F.SEC_WIN_IDX_WORD + 1) % 2 ^ (F.SEC_WIN_IDX_WORD.hi + 1 - F.SEC_WIN_IDX_WORD.lo) ∧
    Only [.sent, .regs] s t))

/-- R38, R49, R50, R53, R316, R318: MARK, MARK_FLIT, PEER_LATE, MARK_LOSS. -/
def Obligations.TideMarks : Prop :=
  ∀ s : State,
    (s.markDue = true → ∃ t h, exec .mark s = .next t ∧ t.tide.sent = s.tide.sent + 1 ∧ t.tide.own.getLast? = some h ∧
      (∀ e ∈ t.bundled, ∀ l ∈ ((List.range 32).filter ((t.port e.1).active e.2 true).contains).take 2,
        ∃ (a : Nat) (b : MarkBody), .mark e.1 e.2 l a b ∈ t.sent ∧ b.n = s.tide.sent ∧ b.hold = h) ∧
      Only [.sent, .fresh, .now, .regs, .irq, .waits, .tickets, .tide, .atolls, .ports, .sound, .mem, .pwr, .rst] s t) ∧
    (s.markDue = false → exec .mark s = .next s) ∧
    (∀ (p : BPort) (g : Word64) (b : MarkBody),
      let x := bport p
      let n := (s.port x).bundle g.toNat
      let key := (b.count.toNat, b.n)
      let u := s.bump (F.PORT_CNT_RX x)
      let v := (u.tellSlot x g.toNat (if b.noSlot then 16 else b.slot.val)).onBundle x g.toNat fun y =>
        { y with marked := some key }
      let y := (v.port x).bundle g.toNat
      let d := y.delay.getD 0 + b.defer.toNat
      ((s.port x).carries g.toNat = false → exec (.markFlit p g b) s = .next s) ∧
      ((s.port x).carries g.toNat = true → (n.marked = some key → exec (.markFlit p g b) s = .next u) ∧
        (n.marked ≠ some key →
          (v.takesPart x g.toNat = false → exec (.markFlit p g b) s = .next v) ∧
          (v.takesPart x g.toNat = true → 100 < d → exec (.markFlit p g b) s =
            .next ((v.bump (F.PORT_CNT_MARK_LATE x)).onPeer y.slot fun q => { q with lateNow := true })) ∧
          (v.takesPart x g.toNat = true → d ≤ 100 → ∃ t, exec (.markFlit p g b) s = .next t ∧
            (t.peer y.slot).inLine = b.inLine ∧ (t.peer y.slot).leads = b.leader ∧
            Only [.sent, .regs, .staged, .irq, .selfActs, .tickets, .tide, .ports] s t))) ∧
      (let q := s.peer n.slot
       let far := 100 < n.delay.getD 0
       let turns := n.state = .up ∧ (8 ≤ q.lateRun ∨ far)
       let back := n.state = .late ∧ 8 ≤ q.onTimeRun ∧ ¬ far
       (turns → ∃ t, exec (.peerLate p g) s = .next t ∧ ((t.port x).bundle g.toNat).state = .late ∧
         (∀ h ∈ t.tide.got, h.slot ≠ n.slot) ∧ (t.fld (F.PG_EVT_CAUSE_CAUSE (pageBase 0x30 x))).testBit 5 = true ∧
         SameRegs (eventRegs 0x30 x) s t ∧ Only [.sent, .regs, .irq, .tide, .ports] s t) ∧
       (back → ∃ t, exec (.peerLate p g) s = .next t ∧ ((t.port x).bundle g.toNat).state = .up ∧
         (t.fld (F.PG_EVT_CAUSE_CAUSE (pageBase 0x30 x))).testBit 5 = true ∧
         SameRegs (eventRegs 0x30 x) s t ∧ Only [.sent, .regs, .irq, .ports] s t) ∧
       (¬ turns → ¬ back → exec (.peerLate p g) s = .next s))) ∧
    (s.leads = false → s.tide.lost = 2 →
      exec .markLoss s = .next ((s.onTide fun t => { t with lost := 3 }).raise 0x01 0 7)) ∧
    (s.leads = true ∨ s.tide.lost ≠ 2 → exec .markLoss s = .next s)

/-- R38, R39, R45: SLACK, GRACE_EXPIRY. R31, R45. -/
def Obligations.SlackComes : Prop :=
  (∀ (s : State) (m : TideMeasure),
    let n := s.tide.sent - 1
    let turned (t : State) : Prop := t.tide.slacks = s.tide.slacks + 1 ∧ t.tide.sent = 0 ∧ t.tide.quantum = 0 ∧
      t.tide.got = [] ∧ t.tide.own = [] ∧ t.pending = s.pending
    (s.tide.running = false → exec (.slack m) s = .next s ∧ exec (.graceExpiry m) s = .next s) ∧
    (s.tide.running = true → s.tide.sent = 0 → ∃ u, exec .mark s = .next u ∧ exec (.slack m) s = exec (.slack m) u) ∧
    (s.tide.running = true → 0 < s.tide.sent →
      (s.refused n = true → n < s.graceQuanta → exec (.slack m) s = .next s) ∧
      (s.refused n = false ∨ s.graceQuanta ≤ n → ∃ t, exec (.slack m) s = .next t ∧ turned t)) ∧
    (s.tide.running = true → s.tide.sent = s.graceQuanta + 1 → s.refused s.graceQuanta = true →
      ∃ t, exec (.graceExpiry m) s = .next t ∧ turned t)) ∧
  (∀ s : State, s.tide.unaligned = false →
    let t := s.turnTide
    t.tideNo = (s.tideNo + 1) % 2 ^ 48 ∧ t.tide.phase = 0 ∧ t.tide.slacks = s.tide.slacks + 1 ∧
    (s.tideNo + 1 = 2 ^ 48 → (t.fld (F.PG_EVT_CAUSE_CAUSE (pageBase 0x01 0))).testBit 8 = true) ∧
    t.fld F.TIDE_STAT_HELD = 0 ∧ Only [.sent, .regs, .irq, .tide] s t)

/-- R8, R10, R59, R71. -/
def Obligations.WindowAccesses : Prop :=
  ∀ (s : State) (off : BitVec 26) (v : Word64),
    let a := off.toNat
    (∀ z w : Bool, exec (.accessErr off z w) s =
      .next ((s.wr R.HOLM_ACCESS_ERR ((if w then 2 ^ 31 else 0) + (if z then 2 ^ 30 else 0) + a)).raise 0x00 0 3)) ∧
    (∀ (r : Requester) (w : Bool), s.rst.power = false ∨ s.rst.asserted = true →
      exec (.registerWrite r off w v) s = .next s) ∧
    (∀ w : Bool, s.rst.power = true → s.rst.asserted = false → i3cWrites a = false →
      exec (.registerWrite .i3c off w v) s = .next (s.bump F.MGMT_CNT_DENIED)) ∧
    (∀ d : RegDesc, a % 4 = 0 → pageListed a = true → a % 0x1000 < 0x800 → regHit a = some (d, a) →
      s.takesWrites (classOf a) (instOf a) → d.wide = false → d.wo = 0 → d.gu = 0 → a % 0x1000 ≠ 0x30 →
      classOf a ≠ 0x02 → classOf a ≠ 0x0A → classOf a ≠ 0x0B →
      ∃ t, exec (.registerWrite .harbour off false v) s = .next t ∧
        (∀ n : Nat, n < 32 → (t.rd a).testBit n = if d.rw.testBit n then v.getLsbD n else (s.rd a).testBit n) ∧
        SameRegs [a] s t ∧ Only [.regs] s t) ∧
    (∀ (p : PageIx) (o : BitVec 11) (d : RegDesc) (r : Requester),
      let b := pageAt p + o.toNat
      r = .harbour ∨ r = .holm → o.toNat % 4 = 0 → pageListed (b + 0x800) = true → regHit b = some (d, b) → d.wide = false →
      d.st ≠ 0 → d.gu &&& d.st = 0 → s.takesWrites (pageOfIx p).1 (pageOfIx p).2 →
      (∀ t, s.boundTo p = some t → s.takes t = true → ∃ u, exec (.stagedWrite r p o false v) s = .next u ∧
        (∀ n : Nat, n < 32 → d.st.testBit n = true → (u.stagedRd b).testBit n = v.getLsbD n) ∧
        (∀ e : Nat, e ≠ b → SMap.find u.staged e = SMap.find s.staged e) ∧
        u.tk (ticketOf t) = tkOpen ∧ u.fld (F.PG_STAGE_STAT_DIRTY (pageAt p)) = 1 ∧ Only [.regs, .staged] s u) ∧
      (s.boundTo p = none → exec (.stagedWrite r p o false v) s = .next (s.stageRefused p)))

/-- R71. -/
def Obligations.TicketPages : Prop :=
  ∀ (s : State) (p : PageIx) (t : Ticket),
    let own (a : Nat) : Prop := a / 0x1000 * 0x1000 = pageAt p
    (s.boundTo p = none → s.tk t = tkOpen → ∃ u, exec (.bind p t) s = .next u ∧ u.boundTo p = some t.val ∧
      (∀ a, own a → u.stagedRd a = u.rd a &&& stMask a) ∧ (∀ a, ¬ own a → SMap.find u.staged a = SMap.find s.staged a) ∧
      u.tk t = tkOpen ∧ SameRegs [R.PG_STAGE_STAT (pageAt p), R.COMMIT_STAT t] s u ∧ Only [.regs, .staged] s u) ∧
    (s.boundTo p ≠ none ∨ s.tk t ≠ tkOpen → exec (.bind p t) s = .next (s.stageRefused p)) ∧
    (∀ b, s.boundTo p = some b →
      (s.takes b = true → ∃ u, exec (.release p) s = .next u ∧ u.boundTo p = none ∧
        (∀ a, own a → SMap.find u.staged a = none) ∧ (∀ a, ¬ own a → SMap.find u.staged a = SMap.find s.staged a) ∧
        u.tk (ticketOf b) = tkOpen ∧ SameRegs [R.PG_STAGE_STAT (pageAt p), R.COMMIT_STAT b] s u ∧
        Only [.regs, .staged] s u) ∧
      (s.takes b = false → exec (.release p) s = .next (s.stageRefused p))) ∧
    (s.boundTo p = none → exec (.release p) s = .next s)

/-- R70, R72, R77. -/
def Obligations.TicketOpensAndChecks : Prop :=
  ∀ (s : State) (t : Ticket),
    let bad (c : Instr) : Prop := exec c s = .next (s.setFld (F.COMMIT_STAT_RESULT t) 7)
    (∀ r : Requester,
      (t ≠ 2 → (t = 3 → r = .holm) → s.tk t = tkIdle → ∃ u, exec (.openTicket r t) s = .next u ∧ u.tk t = tkOpen ∧
        u.fld (F.COMMIT_GEN_GEN t) = (s.fld (F.COMMIT_GEN_GEN t) + 1) % 2 ^ 16 ∧
        u.tickets[t] = { TicketSt.none with again := s.tickets[t].again } ∧
        SameRegs [R.COMMIT_STAT t, R.COMMIT_GEN t] s u ∧ Only [.regs, .tickets] s u) ∧
      (t = 2 ∨ (t = 3 ∧ r ≠ .holm) ∨ s.tk t ≠ tkIdle → bad (.openTicket r t))) ∧
    (s.tk t = tkOpen ∨ s.tk t = tkFailed → ∃ u, exec (.check t) s = .next u ∧ u.tk t = tkChecking ∧
      SameRegs [R.COMMIT_STAT t] s u ∧ Only [.regs] s u) ∧
    (s.tk t ≠ tkOpen → s.tk t ≠ tkFailed → bad (.check t)) ∧
    (s.tk t = tkChecking →
      (s.firstFailure t = none → ∃ u, exec (.checkDone t) s = .next u ∧ u.tk t = tkPassed ∧
        u.fld (F.COMMIT_STAT_RESULT t) = 1 ∧ u.fld (F.COMMIT_FAIL_RULE t) = 0 ∧
        (t = 2 → s.tickets[t].board = true → .vote s.tickets[t].init s.tickets[t].gen s.tickets[t].target
          (s.fld F.HOLM_SLOT_SLOT) true 0 0 0 0 ∈ u.sent)) ∧
      (∀ r h, s.firstFailure t = some (r, h) → ∃ u, exec (.checkDone t) s = .next u ∧ u.tk t = tkFailed ∧
        u.fld (F.COMMIT_STAT_RESULT t) = 2 ∧ u.fld (F.COMMIT_FAIL_RULE t) = r % 2 ^ 16 ∧
        (t = 2 → s.tickets[t].board = true → .vote s.tickets[t].init s.tickets[t].gen s.tickets[t].target
          (s.fld F.HOLM_SLOT_SLOT) false r h.1 h.2.1 h.2.2 ∈ u.sent)) ∧
      ∃ u, exec (.checkDone t) s = .next u ∧ (u.fld (F.PG_EVT_CAUSE_CAUSE (pageBase 0x02 0))).testBit 0 = true ∧
        Only [.sent, .fresh, .regs, .irq, .waits, .tickets, .atolls, .ports, .sound, .mem] s u) ∧
    (s.tk t ≠ tkChecking → exec (.checkDone t) s = .next s)

/-- R73, R75, R77, R78. -/
def Obligations.TicketArmsAndEnds : Prop :=
  ∀ (s : State) (t : Ticket),
    let bad (c : Instr) : Prop := exec c s = .next (s.setFld (F.COMMIT_STAT_RESULT t) 7)
    let board := s.flag (F.COMMIT_OPT_SCOPE t) && !s.boardPeers.isEmpty
    let first := s.tideNo + if board then 4 else 1
    let aim := if s.flag (F.COMMIT_OPT_AT_TIDE t) then s.fld (F.COMMIT_TIDE_TIDE t) else first
    (s.tk t ≠ tkPassed → bad (.arm t)) ∧
    (s.tk t = tkPassed → aim < first →
      exec (.arm t) s = .next ((s.setFld (F.COMMIT_STAT_RESULT t) 6).raise 0x02 0 5)) ∧
    (s.tk t = tkPassed → first ≤ aim → board = false → ∃ u, exec (.arm t) s = .next u ∧ u.tk t = tkArmed ∧
      u.tickets[t].target = aim ∧ u.tickets[t].board = false ∧ SameRegs [R.COMMIT_STAT t] s u ∧ Only [.regs, .tickets] s u) ∧
    (s.tk t = tkPassed → first ≤ aim → board = true → ∃ u, exec (.arm t) s = .next u ∧ u.tk t = tkVoting ∧
      u.tickets[t].target = aim ∧ u.tickets[t].board = true ∧ u.tickets[t].votes = [] ∧
      .prepare (s.fld F.HOLM_SLOT_SLOT) (s.fld (F.COMMIT_GEN_GEN t)) aim (s.ticketRecords t) ∈ u.sent) ∧
    (s.tk t = tkOpen ∨ s.tk t = tkPassed ∨ s.tk t = tkFailed ∨ (s.tk t = tkArmed ∧ s.tickets[t].board = false) →
      ∃ u, exec (.abort t) s = .next u ∧ u.tk t = tkIdle ∧ u.fld (F.COMMIT_STAT_RESULT t) = 5 ∧ u.pagesOf t = [] ∧
        u.stagedOf t = [] ∧ Only [.sent, .regs, .staged, .irq, .selfActs, .tickets] s u) ∧
    (s.tk t = tkVoting → s.tickets[t].decided = none → ∃ u, exec (.abort t) s = .next u ∧ u.tk t = tkIdle ∧
      u.fld (F.COMMIT_STAT_RESULT t) = 5 ∧ u.tickets[t].again = some (s.tickets[t].gen, s.tickets[t].target) ∧
      .decision s.tickets[t].init s.tickets[t].gen s.tickets[t].target false ∈ u.sent) ∧
    (s.tk t = tkIdle ∨ s.tk t = tkChecking ∨ s.tk t = tkDiverged ∨ (s.tk t = tkArmed ∧ s.tickets[t].board = true) ∨
      (s.tk t = tkVoting ∧ s.tickets[t].decided ≠ none) → bad (.abort t)) ∧
    (t = 2 → s.tk t = tkDiverged → ∃ u, exec (.resolve t) s = .next u ∧ u.tk t = tkIdle ∧ u.pagesOf t = [] ∧
      (∀ k : Atoll, (u.atl k).seq.hold = 2 ^ 32) ∧ Only [.regs, .staged, .tickets, .atolls] s u) ∧
    (t ≠ 2 ∨ s.tk t ≠ tkDiverged → bad (.resolve t))

/-- R77-R79, R313, R316: PREPARE, VOTE, DECISION, DIVERGED_TIMEOUT. -/
def Obligations.BoardProtocol : Prop :=
  ∀ s : State,
    (∀ (v : StraitIn) (g : BoardTag),
      let comes (n : Nat) (ok : Bool) (u : State) : Prop := s.seqIn (bport v.port) v.peer.toNat v.t n = (ok, u)
      let acts (n : Nat) (u : State) : Prop := comes n true u ∧ u.takesPart (bport v.port) v.peer.toNat = true
      let drops (n : Nat) (c : Instr) : Prop := ∀ u, comes n false u ∨
        (comes n true u ∧ u.takesPart (bport v.port) v.peer.toNat = false) → exec c s = .next u
      (∀ (n : Nat) (l : List CommitRecord),
        let m := max 1 ((l.length + 29) / 30)
        let c : Instr := .prepare v g n 0 l
        drops m c ∧
        (∀ u, acts m u → (u.hasSlot = false → exec c s = .next u) ∧
          (u.hasSlot = true → (u.tk 2 ≠ tkIdle → exec c s = .next (u.sendVote g.init g.gen.toNat g.target.toNat
              (some (0xFF05, (0, 0, 0))))) ∧
            (u.tk 2 = tkIdle → l.length < n → ∃ w, exec c s = .next w ∧ w.tk 2 = tkOpen ∧
              w.tickets[(2 : Ticket)].gather = l ∧ w.onBoard g.init g.gen.toNat g.target.toNat = true ∧
              Only [.regs, .tickets] u w) ∧
            (u.tk 2 = tkIdle → n ≤ l.length → (∀ r ∈ l, ∃ p, recordPage r = some p ∧ u.boundTo p = none) →
              ∃ w, exec c s = .next w ∧ w.tk 2 = tkChecking ∧ w.onBoard g.init g.gen.toNat g.target.toNat = true ∧
              (∀ r ∈ l, ∀ p, recordPage r = some p → w.boundTo p = some 2) ∧ Only [.regs, .staged, .tickets] u w) ∧
            (u.tk 2 = tkIdle → n ≤ l.length → (∃ r ∈ l, ∀ p, recordPage r = some p → u.boundTo p ≠ none) →
              ∃ (w : State) (r : Nat) (h : Hit), exec c s = .next w ∧ w.tk 2 = tkIdle ∧
              .vote g.init g.gen.toNat g.target.toNat (u.fld F.HOLM_SLOT_SLOT) false r h.1 h.2.1 h.2.2 ∈ w.sent)))) ∧
      (∀ (i : Slot) (ok : Bool) (r : BitVec 16) (c j : BitVec 8) (o : BitVec 11),
        drops 1 (.vote v g i ok r c j o) ∧
        (∀ (u : State) (t : Ticket), acts 1 u → t.val < 2 → u.tk t = tkVoting → u.tickets[t].decided = none →
          u.tickets[t].init = g.init.val → u.tickets[t].gen = g.gen.toNat → u.tickets[t].target = g.target.toNat →
          ∃ w, exec (.vote v g i ok r c j o) s = .next w ∧ Only [.tickets] u w ∧
            ((∀ x ∈ u.tickets[t].votes, x.slot ≠ i.val) →
              w.tickets[t].votes = u.tickets[t].votes ++ [⟨i, ok, r.toNat, c.toNat, j.toNat, o.toNat⟩]) ∧
            ((∃ x ∈ u.tickets[t].votes, x.slot = i.val) → w.tickets[t].votes = u.tickets[t].votes))) ∧
      (∀ go : Bool, drops 1 (.decision v g go) ∧
        (∀ u, acts 1 u → u.onBoard g.init g.gen.toNat g.target.toNat = true →
          u.tickets[(2 : Ticket)].discarded = false → u.tickets[(2 : Ticket)].decided = none →
          (u.tk 2 = tkPassed → go = true → ∃ w, exec (.decision v g go) s = .next w ∧ w.tk 2 = tkArmed ∧
            w.tickets[(2 : Ticket)].decided = some true ∧ Only [.regs, .tickets] u w) ∧
          (u.tk 2 = tkDiverged → go = false → ∃ w, exec (.decision v g go) s = .next w ∧ w.tk 2 = tkIdle ∧
            w.fld (F.COMMIT_STAT_RESULT 2) = 5 ∧ w.pagesOf 2 = []) ∧
          (¬ (u.tk 2 = tkPassed ∧ go = true) → ¬ (u.tk 2 = tkDiverged ∧ go = false) → ∃ w,
            exec (.decision v g go) s = .next w ∧ w.tk 2 = u.tk 2 ∧ w.tickets[(2 : Ticket)].decided = some go ∧
            Only [.tickets] u w)))) ∧
    (let due := s.tk 2 = tkDiverged ∧ s.tickets[(2 : Ticket)].discarded = false ∧ 16 ≤ s.tickets[(2 : Ticket)].silent
     (due → ∃ u, exec .divergedTimeout s = .next u ∧ u.tickets[(2 : Ticket)].discarded = true ∧ u.pagesOf 2 = [] ∧
        Only [.regs, .staged, .tickets] s u) ∧
     (¬ due → exec .divergedTimeout s = .next s))

/-- R80, R416, R452, R455: COMMIT_RULE_DATA_READ, SELF_WAIT_ABORT, HOST_TIMEOUT. -/
def Obligations.WaitsEnd : Prop :=
  ∀ s : State,
    (∀ w : Fin 8, ∃ u, exec (.commitRuleDataRead w) s = .next u ∧
      u.sent = s.sent ++ [.regRead (R.COMMIT_RULE_DATA w) (s.ruleData w)] ∧
      u.fld F.COMMIT_RULE_IDX_RECORD = (s.fld F.COMMIT_RULE_IDX_RECORD + if w = 7 then 1 else 0) % 4096 ∧
      SameRegs [R.COMMIT_RULE_IDX] s u ∧ Only [.sent, .regs] s u) ∧
    (∀ a l t0 b, s.selfActs = a :: l → a.since = some t0 → s.boundTo a.act.page = some b → t0 + 64 ≤ s.tideNo → b < 2 →
      s.tk (ticketOf b) = tkOpen ∨ s.tk (ticketOf b) = tkChecking ∨ s.tk (ticketOf b) = tkPassed ∨
        s.tk (ticketOf b) = tkFailed →
      ∃ u, exec .selfWaitAbort s = .next u ∧ u.tk (ticketOf b) = tkIdle ∧
        u.fld (F.COMMIT_STAT_RESULT (ticketOf b)) = 5 ∧ Only [.sent, .regs, .staged, .irq, .selfActs, .tickets] s u) ∧
    ((∀ a ∈ s.selfActs, a.since = none) → exec .selfWaitAbort s = .next s) ∧
    (∀ (p : PageIx) (b : Fin 4), (pageOfIx p).1 ≠ 0x03 →
      (s.timedOut p b = [] → exec (.hostTimeout p b) s = .next s) ∧
      (s.timedOut p b ≠ [] → ∃ u, exec (.hostTimeout p b) s = .next u ∧
        (u.fld (F.PG_MODE_SPLIT_FELL (pageAt p))).testBit b = true ∧
        Only [.sent, .fresh, .regs, .irq, .memWait, .waits, .selfActs, .atolls, .ports, .sound, .mem, .ckpt, .pwr, .rst] s u)) ∧
    (∀ (p : PageIx) (b : Fin 4), (pageOfIx p).1 = 0x03 →
      let n := s.fld (F.PG_HOST_TIMEOUT_TIDES (pageBase 0x03 0))
      (s.hosted 0x03 0 0 = true → s.pwr.expired = false → n ≠ 0 → s.pwr.beat + n ≤ s.tideNo →
        ∃ u, exec (.hostTimeout p b) s = .next u ∧ u.pwr.expired = true ∧
        (u.fld (F.PG_MODE_SPLIT_FELL (pageBase 0x03 0))).testBit 0 = true ∧ Only [.sent, .regs, .irq, .pwr] s u) ∧
      (s.hosted 0x03 0 0 = false ∨ s.pwr.expired = true ∨ n = 0 ∨ s.tideNo < s.pwr.beat + n →
        exec (.hostTimeout p b) s = .next s))

/-- R59, R83, R86-R88, R91, R92, R99, R263, R377: REGISTER_REQUEST, MEMORY_REQUEST, DOORBELL. R89, R99, R457:
ATTACH_ERR, PCIE_LINK. -/
def Obligations.HarbourRequests : Prop :=
  (∀ (s : State) (core : BitVec 5) (tag : BitVec 12) (a v : Word64) (n : Nat) (w z : Bool) (l : List Byte),
    (s.rst.power = false ∨ s.rst.asserted = true → exec (.registerRequest z tag w n a v) s = .next s ∧
      exec (.memoryRequest core tag w a n l) s = .next s ∧ ∀ d o x, exec (.doorbell core d w o x) s = .next s) ∧
    (s.rst.power = true → s.rst.asserted = false →
      (∃ t, exec (.registerRequest z tag true n a v) s = .next t ∧
        t.sent.getLast? = some (.completion 0x12 tag.toNat false a.toNat [])) ∧
      (∃ t, exec (.registerRequest false tag false n a v) s = .next t ∧ Only [.sent, .regs, .irq] s t ∧
        t.sent.getLast? = some (.completion 0x12 tag.toNat false a.toNat
          (bytesOf n (s.requestRead .harbour a.toNat n).1)) ∧
        (accessOk a.toNat n = false ∨ pageListed a.toNat = false → (s.requestRead .harbour a.toNat n).1 = 0 ∧
          (t.rd R.HOLM_ACCESS_ERR) % 2 ^ 26 = a.toNat % 2 ^ 26)) ∧
      (s.flag F.HBR_PCIE_WINDOW = false → exec (.registerRequest true tag w n a v) s =
        .next (s.emit (.completion 0x12 tag.toNat false a.toNat (if w then [] else bytesOf n 0)))) ∧
      (let refuses : Prop :=
         exec (.memoryRequest core tag w a n l) s = .next (s.emit (.completion 0x23 tag.toNat false a.toNat []))
       let win := windowBase ≤ a.toNat ∧ a.toNat + n ≤ bellBase
       let bell := bellBase ≤ a.toNat ∧ a.toNat + n ≤ bellBase + 4096
       let out := outboundBase ≤ a.toNat ∧ a.toNat + n ≤ outboundBase + 2 ^ 40
       (n = 0 ∨ 4096 < n → refuses) ∧
       (0 < n → n ≤ 4096 →
         (win → exec (.memoryRequest core tag w a n l) s =
           .next (s.regAccess .harbour tag.toNat w (a.toNat - windowBase) n (ofBytes (l.take n)))) ∧
         (bell → exec (.memoryRequest core tag w a n l) s =
           .next ((s.bellAccess core.toNat (a.toNat - bellBase) n w (ofBytes (l.take n))).emit
             (.completion 0x32 tag.toNat false a.toNat (if w then [] else List.replicate n 0)))) ∧
         (out →
           (s.flag F.HBR_PCIE_UP = false → refuses) ∧
           (s.flag F.HBR_PCIE_UP = true → ∃ t d, exec (.memoryRequest core tag w a n l) s = .next t ∧
             t.sent = s.sent ++ [.outbound w a.toNat n, .completion 0x22 tag.toNat false a.toNat d] ∧ (w = true → d = []) ∧
             (w = false → d.length = n) ∧ Only [.sent, .fresh] s t)) ∧
         (¬ win → ¬ bell → ¬ out →
           (s.memPlaces a.toNat n = none → refuses) ∧
           (∀ q, l.length = n → s.memPlaces a.toNat n = some q → s.waitingMem = [] →
             let r : MemReq := { core := core.toNat, tag := tag.toNat, write := w, addr := a.toNat, len := n, data := l }
             let stopped := s.ckpt.stop ≠ none ∧ apertureBase ≤ a.toNat
             (stopped → exec (.memoryRequest core tag w a n l) s = .next { s with memWait := [r] }) ∧
             (¬ stopped → ∀ p, s.heldPlace r q = some p → exec (.memoryRequest core tag w a n l) s =
               .next (s.holdReq (atollOf (p / chanSpan / 768)) (p / chanSpan % 768)
                 ⟨w, a.toNat, [], ⟨[], []⟩, .harbour r⟩)) ∧
             (¬ stopped → s.heldPlace r q = none → ∃ t p d, exec (.memoryRequest core tag w a n l) s = .next t ∧
               t.sent.getLast? = some (.completion (if p then 0x23 else 0x22) tag.toNat p a.toNat d) ∧
               t.memWait = [] ∧ Only [.sent, .fresh, .regs, .atolls, .mem, .ckpt] s t ∧
               (w = true → d = [] ∧ ∃ u : State, u.mem = s.mem ∧ u.poison = s.poison ∧ (∀ x, u.place x = s.place x) ∧
                 t.mem = (u.memWrite q l).1.mem) ∧
               (w = false → t.mem = s.mem ∧ p = (q.any fun e => s.devPoison e.1 e.2) ∧
                 d = if p then [] else q.flatMap fun e => s.devBytes e.1 e.2)))))) ∧
      (∀ (d : Fin 1024) (o : Bool) (x : Word32),
        let tail := x.toNat % 8192
        let ok := s.inService (d.val / 16) = true ∧ (tail + 8192 - s.fld (F.HBR_QSTAT_HEAD d)) % 8192 ≤ 4096
        let late := s.waitingMem.any fun q => q.core == core.toNat && q.write && q.bell.isNone
        exec (.doorbell core d false o x) s = .next (s.emit (.completion 0x32 0 false d.val (bytesOf 4 0))) ∧
        (d.val < 128 → o = true → late = true → exec (.doorbell core d true o x) s =
          .next { s with memWait := s.memWait ++ [⟨core.toNat, 0, false, 0, 0, [], some (d.val, tail)⟩] }) ∧
        (d.val < 128 → o = true → late = false → ok → ∃ t, exec (.doorbell core d true o x) s = .next t ∧
          t.fld (F.HBR_QSTAT_TAIL d) = tail ∧ SameRegs [R.HBR_QSTAT d] s t ∧ Only [.regs] s t) ∧
        (d.val < 128 → o = true → late = false → ¬ ok →
          exec (.doorbell core d true o x) s = .next ((s.setFld (F.HBR_QSTAT_REJ d) 1).raise 0x0B 0 0)) ∧
        (128 ≤ d.val ∨ o = false → exec (.doorbell core d true o x) s = .next (s.raise 0x0B 0 6))))) ∧
  (∀ (s : State) (k : Atoll),
    let down := (s.fld F.HBR_ATTACH_DOWN).testBit k
    let others (t : State) : Prop := (∀ j : Atoll, j ≠ k → t.atl j = s.atl j ∧
      (t.fld F.HBR_ATTACH_DOWN).testBit j = (s.fld F.HBR_ATTACH_DOWN).testBit j) ∧ Only [.sent, .regs, .irq, .atolls] s t
    let told (t : State) : Prop := (t.fld (F.PG_EVT_CAUSE_CAUSE (pageBase 0x0B 0))).testBit 4 = true
    (down = true → (s.atl k).retry = false → ∀ ok, exec (.attachErr k ok) s = .next s) ∧
    (down = false ∨ (s.atl k).retry = true →
      (∃ t, exec (.attachErr k false) s = .next t ∧ (t.atl k).attach = (s.atl k).attach + 1 ∧
        (t.fld F.HBR_ATTACH_DOWN).testBit k = (down || decide (2 ≤ (s.atl k).attach)) ∧
        (down = false → 2 ≤ (s.atl k).attach → told t) ∧ others t) ∧
      (∃ t, exec (.attachErr k true) s = .next t ∧ (t.atl k).attach = 0 ∧ (t.fld F.HBR_ATTACH_DOWN).testBit k = false ∧
        (down = true → told t) ∧ others t)) ∧
    (∀ (up : Bool) (w : BitVec 5), up = false ∨ w.toNat ∈ [1, 2, 4, 8, 16] → ∃ t, exec (.pcieLink up w) s = .next t ∧
      t.flag F.HBR_PCIE_UP = up ∧ t.fld F.HBR_PCIE_WIDTH = (if up then w.toNat else 0) ∧
      (t.rd R.HBR_PCIE ≠ s.rd R.HBR_PCIE → (t.fld (F.PG_EVT_CAUSE_CAUSE (pageBase 0x0B 0))).testBit 5 = true) ∧
      (up = true ∨ s.layer 4 ≠ 1 → SameRegs (R.HBR_PCIE :: eventRegs 0x0B 0) s t) ∧
      (up = false → s.layer 4 = 1 → t.layer 4 = 3) ∧ Only [.sent, .regs, .irq] s t) ∧
    (∀ w : BitVec 5, w.toNat ∉ [1, 2, 4, 8, 16] → exec (.pcieLink true w) s = .next s))

/-- R253, R258, R259, R263: ATOM_WRITE, ATOM_READ. -/
def Obligations.AtomReadsBack : Prop :=
  ∀ (s : State) (a : BitVec 41) (c : MemClass) (l : List Byte),
    let p := s.place a.toNat
    let calm : BurstNoise := ⟨[], []⟩
    (∀ n : BurstNoise, s.stacked a.toNat = false →
      exec (.atomWrite a c n l) s = .next s ∧ exec (.atomRead a c n) s = .next s) ∧
    (∀ n : BurstNoise, s.stacked a.toNat = true → a.toNat % 128 = 0 →
      (s.holds p true = true → c ≠ .skiff → exec (.atomWrite a c n l) s =
        .next ((s.classed a.toNat l.length true c).holdReq (atollOf (p / chanSpan / 768)) (p / chanSpan % 768)
          ⟨true, a.toNat, l, n, .atom⟩)) ∧
      (s.holds p false = true → exec (.atomRead a c n) s =
        .next ((s.classed a.toNat 128 false c).holdReq (atollOf (p / chanSpan / 768)) (p / chanSpan % 768)
          ⟨false, a.toNat, [], n, .atom⟩))) ∧
    (s.stacked a.toNat = true → a.toNat % 128 = 0 → l.length = 128 → c ≠ .skiff → s.ckpt.stop = none →
      (s.atl (atollOf (a.toNat / atollSpan))).mc.ebb = none → s.holds p true = false →
      ∃ t, exec (.atomWrite a c calm l) s = .next t ∧ t.sent = s.sent ++ [.atom a.toNat true false []] ∧
        (∀ i : Nat, i < 128 → t.byteAt (p + i) = l.getD i 0) ∧
        (∀ q : Nat, q < p ∨ p + 128 ≤ q → t.byteAt q = s.byteAt q) ∧
        (∀ q : Nat, SMap.get (fun _ => false) t.poison q = if q = p / 128 then false else SMap.get (fun _ => false) s.poison q) ∧
        Only [.sent, .regs, .atolls, .mem] s t ∧
        (s.lostPlace p = false → ∃ u, exec (.atomRead a c calm) t = .next u ∧
          u.sent = t.sent ++ [.atom a.toNat false false l] ∧ u.mem = t.mem ∧ u.poison = t.poison))

/-- R263, R292: ATOM_WRITE of the skiff class, SKIFF_FLUSH. -/
def Obligations.SkiffHolds : Prop :=
  ∀ s : State,
    (∀ (a : BitVec 41) (n : BurstNoise) (l : List Byte), s.stacked a.toNat = true → a.toNat % 128 + l.length ≤ 128 →
      l ≠ [] → (∀ e ∈ (s.atl (atollOf (a.toNat / atollSpan))).strm.merge, e.2 ≠ []) →
      ∃ t, exec (.atomWrite a .skiff n l) s = .next t ∧ (∀ i : Nat, i < l.length → t.devByte (a.toNat + i) = l.getD i 0) ∧
        Only [.regs, .atolls] s t) ∧
    (∀ k : Atoll, (∀ e ∈ (s.atl k).strm.merge, s.holds (s.place (e.1 * 128)) true = true) →
      exec (.skiffFlush k) s = .next s) ∧
    (∀ (k : Atoll) (x : Nat) (h : List (Nat × Byte)) (l : List (Nat × List (Nat × Byte))),
      (s.atl k).strm.merge = (x, h) :: l → h ≠ [] → atollOf (x * 128 / atollSpan) = k →
      s.holds (s.place (x * 128)) true = false →
      ∃ t, exec (.skiffFlush k) s = .next t ∧ (∀ e ∈ (t.atl k).strm.merge, e.1 ≠ x) ∧ Only [.atolls, .mem] s t ∧
        ((s.atl k).mc.ebb = none → 128 ≤ h.length ∨ s.poisoned (s.place (x * 128)) = false →
          ∀ i : Nat, i < 128 → t.devByte (x * 128 + i) = s.devByte (x * 128 + i)))

/-- R260, R261, R268-R270: SCRUB_READ, EBB_COPY, ROW_COPY_DONE. R42, R130, R263: CUT_RESUME, WINDOW_DONE. -/
def Obligations.StackUpkeep : Prop :=
  (∀ (s : State) (k : Atoll) (c : Chan) (n : BurstNoise),
    let ch := s.chan k c.val
    let i := SMap.get (fun _ => 0) (s.atl k).mc.scrub c.val
    let p := placeOf k c.val (128 * i)
    let due := (SMap.find (s.atl k).mc.scrubAt c.val).elim s.now fun t => t + s.fld (F.MC_SCRUB_PERIOD k)
    let on := s.fld (F.MC_SCRUB_PERIOD k) ≠ 0 ∧ s.inService k = true ∧ ch.state ≠ .mapped ∧ s.holds p false = false
    (¬ on ∨ s.runTo due = none → exec (.scrubRead k c n) s = .next s) ∧
    (∀ u, on → s.runTo due = some u → u.holds p false = false →
      (crcFails n (u.codewordAt p) < 4 → ∃ t, exec (.scrubRead k c n) s = .next t ∧
        SMap.get (fun _ => 0) (t.atl k).mc.scrub c.val = (i + 1) % 2097152 ∧ t.now = u.now ∧
        Only [.sent, .now, .regs, .irq, .waits, .selfActs, .tide, .atolls, .ports, .mem, .pwr, .rst] s t) ∧
      (4 ≤ crcFails n (u.codewordAt p) → (u.chan k c.val).state = .ok → ∃ t, exec (.scrubRead k c n) s = .next t ∧
        SMap.get (fun _ => 0) (t.atl k).mc.scrub c.val = SMap.get (fun _ => 0) (u.atl k).mc.scrub c.val ∧
        (t.chan k c.val).urgent = true ∧ Only [.sent, .now, .regs, .irq, .waits, .tide, .atolls, .ports, .pwr, .rst] s t)) ∧
    (∀ (e : EbbSt) (z : List BurstNoise), (s.atl k).mc.ebb = some e →
      (e.left ≠ 0 → s.ckpt.stop = none → ∃ t f, exec (.ebbCopy k z) s = .next t ∧
        (t.atl k).mc.ebb = some f ∧ f.chan = e.chan ∧ f.hosts = e.hosts ∧ e.cursor ≤ f.cursor ∧
        (f.left = 0 ∨ f.done = true ∨ (t.chan k e.chan).copying ≠ []) ∧
        Only [.sent, .regs, .irq, .waits, .selfActs, .atolls, .mem] s t) ∧
      (e.left = 0 ∨ s.ckpt.stop ≠ none → exec (.ebbCopy k z) s = .next s)) ∧
    (∀ z : List BurstNoise, (s.atl k).mc.ebb = none → exec (.ebbCopy k z) s = .next s) ∧
    (∀ (b : Fin 32) (r : Nat),
      let used := SMap.get (fun _ => 0) ch.spares b.val
      (ch.copying.find? fun x => x / 4096 == b.val) = some r → ∃ u, exec (.rowCopyDone k c b) s =
        .next (u.drainHold k c.val) ∧ SMap.find (u.chan k c.val).remap r = some used ∧
        SMap.get (fun _ => 0) (u.chan k c.val).spares b.val = used + 1 ∧ (u.chan k c.val).copying = ch.copying.erase r ∧
        Only [.sent, .regs, .irq, .atolls] s u) ∧
    (∀ b : Fin 32, (ch.copying.find? fun x => x / 4096 == b.val) = none → exec (.rowCopyDone k c b) s = .next s)) ∧
  (∀ (s : State) (k : Atoll) (o : TrainOutcome),
    (∀ idle, (s.atl k).seq.run = some (.resuming idle) → ∃ t, exec (.cutResume k) s = .next t ∧
      (t.atl k).seq.run = some .running ∧ (t.atl k).arr.replay = (t.atl k).arr.wavefront ∧
      Only [.now, .regs, .tide, .atolls, .ports, .pwr, .rst] s t) ∧
    ((∀ idle, (s.atl k).seq.run ≠ some (.resuming idle)) → exec (.cutResume k) s = .next s) ∧
    (∀ c, (s.atl k).mc.window = some c → ∃ u, exec (.windowDone k o) s = .next (u.drainHold k c) ∧
      (u.atl k).mc.window = none ∧ u.fld (F.MC_WINDOW_OPEN k) = 0 ∧ (u.chan k c).state = .ok ∧
      (u.chan k c).urgent = false ∧ (u.chan k c).trained = s.tide.slacks ∧
      Only [.sent, .regs, .irq, .waits, .atolls] s u) ∧
    ((s.atl k).mc.window = none → exec (.windowDone k o) s = .next s))

/-- R263, R284, R294-R299: STREAM_COMPLETE, STREAM_FAULT, FAULT_SERVED, VOIDWAIT_EXPIRY, INV_DONE, EDITS_DONE. -/
def Obligations.StreamsMove : Prop :=
  ∀ (s : State) (k : Atoll),
    (∀ (i : StreamIx) x e t y, s.runStream k i = some (x, e, none, t) → Sd.kind x.desc true ≠ 3 →
      ((t.atl k).strm.streams.filter fun z => z.ctr == x.ctr) = [y] → y.slot = x.slot → y.done = false →
      ((t.atl k).strm.inSlot x.slot).bind StreamSt.delta = none → ∃ u, exec (.streamComplete k i) s = .next u ∧
        SMap.get (fun _ => 0) (u.atl k).seq.r.sc x.ctr = SMap.get (fun _ => 0) (t.atl k).seq.r.sc x.ctr + 1 ∧
        (∀ z ∈ (u.atl k).strm.streams, z.ctr ≠ x.ctr) ∧ Only [.atolls] t u ∧
        Only [.sent, .fresh, .regs, .irq, .atolls, .mem] s t) ∧
    (∀ (i : StreamIx), s.runStream k i = none → exec (.streamComplete k i) s = .next s ∧
      exec (.streamFault k i) s = .next s) ∧
    (∀ (i : StreamIx) x e st t, s.runStream k i = some (x, e, some st, t) →
      (st.1 = 0 → exec (.streamFault k i) s = .next s ∧ exec (.streamComplete k i) s =
        .next (t.onStream k x.slot fun x => { x with cursor := e, lines := pendingLines x.desc e })) ∧
      (st.1 ≠ 0 → ∃ u, exec (.streamFault k i) s = .next u ∧ exec (.streamComplete k i) s = .next u ∧
        u = t.stopStream k x e st ∧ Only [.sent, .regs, .irq, .waits, .atolls] t u)) ∧
    (∀ (i : StreamIx) x e t, s.runStream k i = some (x, e, none, t) → exec (.streamFault k i) s = .next s) ∧
    (∀ (r : FaultIx) x, s.fltStream k r = some x → ((s.atl k).strm.fltAt r).state = .waitSelf →
      ((s.atl k).strm.fltAt r).kind = fkDemand →
      (∀ f t, s.poolFrame k = (some f, t) → exec (.faultServed k r) s =
        .next (((t.supply k ((s.atl k).strm.fltAt r).va f).raise 0x17 k 1).resumeStream k r x)) ∧
      (∀ t, s.poolFrame k = (none, t) → exec (.faultServed k r) s = .next ((t.raise 0x18 k 0).abortRec k r x))) ∧
    (∀ r : FaultIx, s.fltStream k r = none ∨ ((s.atl k).strm.fltAt r).state ≠ .waitSelf ∨
      ((s.atl k).strm.fltAt r).kind ≠ fkDemand → exec (.faultServed k r) s = .next s) ∧
    (∀ va w n q, (s.atl k).seq.run = some (.voided va w n) → (s.atl k).seq.entry = some q →
      (s.fld (F.STRM_VOIDWAIT_TIDES k) ≤ n → ∃ t, exec (.voidwaitExpiry k) s = .next t ∧ (t.atl k).seq.entry = none ∧
        (t.atl k).seq.slice = none ∧ (t.atl k).seq.run = none ∧ Only [.sent, .regs, .irq, .waits, .atolls] s t) ∧
      (n < s.fld (F.STRM_VOIDWAIT_TIDES k) → exec (.voidwaitExpiry k) s = .next s)) ∧
    ((∀ va w n, (s.atl k).seq.run ≠ some (.voided va w n)) → exec (.voidwaitExpiry k) s = .next s) ∧
    (s.flag (F.XLAT_STAT_INV_DONE k) = true → exec (.invDone k) s = .next s) ∧
    (s.flag (F.XLAT_STAT_INV_DONE k) = false → ∃ t, exec (.invDone k) s = .next t ∧
      t.flag (F.XLAT_STAT_INV_DONE k) = true ∧ (t.fld (F.PG_EVT_CAUSE_CAUSE (pageBase 0x18 k))).testBit 2 = true ∧
      SameRegs (R.XLAT_STAT k :: eventRegs 0x18 k) s t ∧ Only [.sent, .regs, .irq] s t) ∧
    (s.flag (F.XLAT_STAT_EDITING k) = true → ∃ t, exec (.editsDone k) s = .next t ∧
      t.flag (F.XLAT_STAT_EDITING k) = false ∧ (t.fld (F.PG_EVT_CAUSE_CAUSE (pageBase 0x18 k))).testBit 1 = true ∧
      SameRegs (R.XLAT_STAT k :: eventRegs 0x18 k) s t ∧ Only [.sent, .regs, .irq] s t) ∧
    (s.flag (F.XLAT_STAT_EDITING k) = false → exec (.editsDone k) s = .next s)

/-- R312, R313: IDLE_FLIT, DATA_FLIT, FLIT_NAK, REPLAY_TIMEOUT, FLIT_DISCARD. -/
def Obligations.FlitReplay : Prop :=
  ∀ (s : State) (p : BPort) (i : Word64),
    let x := bport p
    let n := i.toNat
    let b := (s.port x).bundle n
    let kept (ack : BitVec 12) : List (Nat × Flit) := b.unacked.filter fun e => !seqLe e.1 ack.toNat
    let freed (ack : BitVec 12) : List Flit := b.queue.take (256 - (kept ack).length)
    let acked (ack : BitVec 12) (u : State) : Prop := ((u.port x).bundle n).queue = b.queue.drop (freed ack).length ∧
      ((u.port x).bundle n).unacked = kept ack ++ (freed ack).zipIdx.map fun e => ((b.seqTx + e.2) % 4096, e.1)
    let resent (v u : State) (l : List (Nat × Flit)) : Prop := ∃ lane : Nat → Nat,
      (∀ j : Nat, (v.port x).active n true ≠ [] → lane j ∈ (v.port x).active n true) ∧ u.sent = v.sent ++ l.zipIdx.map
        fun e => .flit x.val n (lane e.2) e.1.1 ((v.port x).bundle n).ack false e.1.2
    ((s.port x).carries n = false → ∀ (t : Trailer) (a : BitVec 12) (l : List Byte),
      exec (.idleFlit p i t) s = .next s ∧ exec (.flitNak p i a) s = .next s ∧ exec (.replayTimeout p i) s = .next s ∧
      exec (.dataFlit p i t l) s = .next s) ∧
    ((s.port x).carries n = true →
      (∀ t : Trailer, ∃ u, exec (.idleFlit p i t) s = .next u ∧ acked t.ack u ∧
        ((u.port x).bundle n).seqRx = b.seqRx ∧ Only [.sent, .regs, .irq, .waits, .ports] s u) ∧
      (∀ (t : Trailer) (l : List Byte),
        let asm := (if t.start then [] else b.asm) ++ l.take (if t.fin then t.info.toNat % 512 + 1 else 256)
        let took (u : State) (lane : Nat) : Prop := ((u.port x).bundle n).seqRx = (b.seqRx + 1) % 4096 ∧ acked t.ack u ∧
          u.sent.getLast? = some (.flit x.val n lane 0 ((u.port x).bundle n).ack false idleFlit) ∧
          Only [.sent, .regs, .irq, .waits, .ports] s u
        (t.seq.toNat ≠ b.seqRx → ∃ u lane, exec (.dataFlit p i t l) s = .next u ∧ ((u.port x).bundle n).seqRx = b.seqRx ∧
          ((u.port x).bundle n).asm = b.asm ∧ acked t.ack u ∧ u.sent.getLast? =
            some (.flit x.val n lane 0 ((u.port x).bundle n).ack (seqLe (b.seqRx + 1) t.seq.toNat) idleFlit) ∧
          Only [.sent, .regs, .irq, .waits, .ports] s u) ∧
        (t.seq.toNat = b.seqRx → t.fin = false → ∃ u lane, exec (.dataFlit p i t l) s = .next u ∧ took u lane ∧
          ((u.port x).bundle n).asm = asm) ∧
        (t.seq.toNat = b.seqRx → t.fin = true → ∃ u lane, exec (.dataFlit p i t l) s =
          .next (u.packetBytes x asm false 0 none) ∧ took u lane ∧ ((u.port x).bundle n).asm = [])) ∧
      (b.unacked = [] → exec (.replayTimeout p i) s = .next s) ∧
      (b.unacked ≠ [] → s.runTo (b.ackAt + 200) = none → exec (.replayTimeout p i) s = .next s) ∧
      (∀ v, b.unacked ≠ [] → s.runTo (b.ackAt + 200) = some v →
        let c := (v.port x).bundle n
        (c.unacked = [] ∨ c.retrain = true → exec (.replayTimeout p i) s = .next v) ∧
        (c.unacked ≠ [] → c.retrain = false → ∃ u, exec (.replayTimeout p i) s = .next u ∧
          ((u.port x).bundle n).unacked = c.unacked ∧ ((u.port x).bundle n).resends = min 8 (c.resends + 1) ∧
          ((u.port x).bundle n).retrain = decide (8 ≤ c.resends + 1) ∧ (u.port x).carries n = (v.port x).carries n ∧
          (c.resends + 1 < 8 → resent v u c.unacked) ∧ Only [.sent, .regs, .irq, .waits, .ports] v u)) ∧
      (∀ a : BitVec 12, b.queue = [] → ∃ u, exec (.flitNak p i a) s = .next u ∧ ((u.port x).bundle n).unacked = kept a ∧
        (b.retrain = true ∨ kept a = [] → u.sent = s.sent) ∧
        (b.retrain = false → (kept a).length < b.unacked.length ∨ b.resends + 1 < 8 → resent s u (kept a)) ∧
        Only [.sent, .regs, .irq, .waits, .ports] s u)) ∧
    (∀ (l : LaneIx) (raw : List Byte),
      (flitDiscarded raw = false → exec (.flitDiscard p i l raw) s = .next s) ∧
      (flitDiscarded raw = true → ∃ u, exec (.flitDiscard p i l raw) s = .next u ∧
        ((u.port x).lane l).crc = ((s.port x).lane l).crc + 1 ∧
        ((s.port x).carries n = false → u.sent = s.sent) ∧
        ((s.port x).carries n = true → ∃ lane, u.sent = s.sent ++ [.flit x.val n lane 0 b.ack true idleFlit]) ∧
        SameRegs [R.PORT_CNT_CRC x, R.PORT_CNT_TX x] s u ∧ Only [.sent, .regs, .ports] s u))

/-- R311, R313-R316, R318, R323, R427: TRAIN, ECHO, ECHO_REPLY, PEER_UP, PEER_DOWN, RESET_REQ, LINK_RETRAIN. -/
def Obligations.StraitDiscovery : Prop :=
  ∀ (s : State) (p : BPort) (i : Word64),
    let x := bport p
    let n := i.toNat
    let b := (s.port x).bundle n
    (∀ (l : LaneIx) (h : TrainInfo), ∃ u, exec (.train p l h) s = .next u ∧
      ((u.port x).lane l).rxFrom = some ⟨h.serial.toNat, h.port.val, h.lane.val⟩ ∧ ((u.port x).lane l).pol = h.inverted ∧
      ((u.port x).bundle h.serial.toNat).slot = h.slot.elim 16 Fin.val ∧
      (∀ e ∈ h.hears, e.serial.toNat = s.serial → (∀ g ∈ h.hears, g.atPort = e.atPort → g.atLane = e.atLane → g = e) →
        ((u.port (bport e.atPort)).lane e.atLane).txTo = some ⟨h.serial.toNat, e.port.val, e.lane.val⟩) ∧
      (s.conflicted (h.slot.elim 16 Fin.val) = false → u.conflicted (h.slot.elim 16 Fin.val) = true →
        (u.fld (F.PG_EVT_CAUSE_CAUSE (pageBase 0x30 x))).testBit 6 = true) ∧
      Only [.sent, .regs, .irq, .tide, .ports] s u) ∧
    (∀ d : BitVec 32, ∃ u, exec (.echo p i d) s = .next u ∧ u.sent = s.sent ++ [.ctrl x.val n 3 0 d.toNat] ∧
      SameRegs [R.PORT_CNT_RX x, R.PORT_CNT_TX x] s u ∧ Only [.sent, .regs] s u) ∧
    (∀ r t : Nat, ∃ u, exec (.echoReply p i r t) s = .next u ∧
      (u.port x).bundle n = { b with delay := some (min ((r - t + 1) / 2) 255) } ∧
      SameRegs [R.PORT_CNT_RX x] s u ∧ Only [.regs, .ports] s u) ∧
    (b.delay = none → exec (.peerUp p i) s = .next s) ∧
    (∀ d, b.delay = some d →
      let mine := ((s.port x).lanesTo n false).length
      let other := ((s.port (if x = 0 then 1 else 0)).lanesTo n false).length
      let here : Prop := 0 < mine ∧ (s.port x).lanesTo n true ≠ [] ∧ (other < mine ∨ (x = 0 ∧ other = mine))
      ((s.port x).carries n = false → here → ∃ u, exec (.peerUp p i) s = .next u ∧
        ((u.port x).bundle n).state = (if 100 < d then .late else .up) ∧ ((u.port x).bundle n).delay = some d ∧
        ((u.port x).bundle n).seqRx = 0 ∧ ((u.port x).bundle n).slot = b.slot ∧
        (u.fld (F.PG_EVT_CAUSE_CAUSE (pageBase 0x30 x))).testBit 3 = true ∧
        Only [.sent, .regs, .irq, .waits, .ports] s u) ∧
      ((s.port x).carries n = false → ¬ here → exec (.peerUp p i) s = .next s) ∧
      ((s.port x).carries n = true → b.retrain = false → exec (.peerUp p i) s = .next s) ∧
      ((s.port x).carries n = true → b.retrain = true → ∃ u, exec (.peerUp p i) s = .next u ∧
        ((u.port x).bundle n).retrain = false ∧ ((u.port x).bundle n).resends = 0 ∧
        ((u.port x).bundle n).unacked = b.unacked ∧ Only [.sent, .regs, .waits, .ports] s u)) ∧
    ((s.port x).carries n = false → exec (.peerDown p i) s = .next s) ∧
    ((s.port x).carries n = true → ∃ u, exec (.peerDown p i) s = .next u ∧ (u.port x).carries n = false ∧
      ((u.port x).bundle n).state = .down ∧ (u.peer b.slot) = PeerSt.none ∧
      (u.fld F.HOLM_BOARD_PRESENT).testBit b.slot = false ∧
      (u.fld (F.PG_EVT_CAUSE_CAUSE (pageBase 0x30 x))).testBit 4 = true ∧
      Only [.sent, .regs, .irq, .waits, .tide, .ports] s u) ∧
    (∃ u, exec (.resetReq p i) s = .next u ∧ (u.port x).carries n = false ∧ (∀ tx, (u.port x).lanesTo n tx = []) ∧
      Only [.sent, .regs, .irq, .waits, .tide, .ports] s u) ∧
    (∀ (k : Atoll) (m : Fin 4) (ok : Bool),
      let far := (if m = 0 then k.val + 7 else if m = 1 then k.val + 1 else k.val + 4) % 8
      let run := if ok || !s.ready then 0 else (s.atl k).links.getD m 0 + 1
      (s.inService k = false ∨ s.inService far = false → exec (.linkRetrain k m ok) s = .next s) ∧
      (s.inService k = true → s.inService far = true → ∃ u, (u.atl k).links = (s.atl k).links.set m run ∧
        (u.fld (F.PG_EVT_CAUSE_CAUSE (pageBase 0x1B k))).testBit 0 = true ∧
        SameRegs (R.CWY_CNT_RETRAIN k :: eventRegs 0x1B k) s u ∧ Only [.sent, .regs, .irq, .atolls] s u ∧
        (run < 3 → exec (.linkRetrain k m ok) s = .next u) ∧
        (3 ≤ run → exec (.linkRetrain k m ok) s = .next ((u.raise 0x1B k 1).moduleReset 5))))

/-- R314, R315, R321, R322: LANE_DROP, LANE_EXCLUDED, LANE_RETRAIN. R321-R323, R427: RETRAIN_LANE, EXCLUDE_LANE,
RESTORE_LANE, LINK_RESTART. -/
def Obligations.LanesFail : Prop :=
  (∀ (s : State) (p : BPort) (l : LaneIx),
    let x := bport p
    let y := (s.port x).lane l
    let code (c : LaneCause) : Nat := match c with | .openLane => 1 | .short => 2 | .crc => 3 | .margin => 4
    let reached : Prop := s.fld (F.PORT_LANE_THR_ERRS x) < y.crc ∧ s.fld (F.PORT_LANE_THR_TIDES x) ≤ y.bad + 1
    let told (u : State) : Prop := (u.fld (F.PG_EVT_CAUSE_CAUSE (pageBase 0x30 x))).testBit 0 = true ∧
      Only [.sent, .regs, .irq, .waits, .tide, .ports] s u
    (y.tx = .excluded ∨ y.tx = .off → exec (.laneDrop p l) s = .next (s.bump (F.PORT_CNT_RX x))) ∧
    (y.tx ≠ .excluded → y.tx ≠ .off → ∃ u, exec (.laneDrop p l) s = .next u ∧ ((u.port x).lane l).tx = .excluded ∧
      ((u.port x).lane l).rx = y.rx ∧ told u) ∧
    (¬ reached → exec (.laneExcluded p l .crc) s = .next s) ∧
    (∀ c : LaneCause, y.rx = .excluded → exec (.laneExcluded p l c) s = .next s) ∧
    (y.rx ≠ .excluded → y.rxFrom = none →
      exec (.laneExcluded p l .openLane) s = .next (s.onLane x l fun y => { y with cause := 1 })) ∧
    (∀ c : LaneCause, c ≠ .crc ∨ reached → y.rx ≠ .excluded → y.rxFrom ≠ none ∨ c ≠ .openLane →
      ∃ u, exec (.laneExcluded p l c) s = .next u ∧ ((u.port x).lane l).rx = .excluded ∧
      ((u.port x).lane l).cause = code c ∧ ((u.port x).lane l).tx = y.tx ∧
      (∀ f, y.rxFrom = some f → (s.port x).carries f.serial = true → .ctrl x.val f.serial 1 f.lane 0 ∈ u.sent) ∧ told u) ∧
    (let due : Prop := s.hosted 0x30 x 0 = false ∧ s.fld (F.PORT_RETRAIN_PERIOD x) ≠ 0 ∧
       y.since + s.fld (F.PORT_RETRAIN_PERIOD x) ≤ s.tideNo
     let runs : Prop := (y.rx = .excluded ∨ y.tx = .excluded) ∧ (y.asked = true ∨ due)
     (¬ runs → ∀ ok, exec (.laneRetrain p l ok) s = .next s) ∧
     (runs → exec (.laneRetrain p l false) s = .next (s.onLane x l fun y => { y with asked := false, since := s.tideNo })) ∧
     (runs → ∃ u, exec (.laneRetrain p l true) s = .next u ∧
       (let z := (u.port x).lane l
        (y.rx ≠ .excluded → z.rx = y.rx ∧ z.rxBack = false) ∧ (y.tx ≠ .excluded → z.tx = y.tx ∧ z.txBack = false) ∧
        (y.rx = .excluded → s.atWidth x y false = true → z.rx = .standby ∧ z.cause = 0 ∧ z.rxBack = false) ∧
        (y.rx = .excluded → s.atWidth x y false = false → z.rx = .excluded ∧ z.rxBack = true) ∧
        (y.tx = .excluded → s.atWidth x y true = true → z.tx = .standby ∧ z.txBack = false) ∧
        (y.tx = .excluded → s.atWidth x y true = false → z.tx = .excluded ∧ z.txBack = true) ∧
        z.asked = false ∧ z.since = s.tideNo) ∧ Only [.sent, .regs, .irq, .waits, .ports] s u))) ∧
  (∀ (s : State) (p : PortIx) (l : LaneIx) (n : Slot), s.takesWrites 0x30 p → s.unlocked 0x30 p →
    let u := s.relocked 0x30 p
    let y := (s.port p).lane l
    (p.val < 2 →
      (y.rx = .excluded ∨ y.tx = .excluded → exec (.retrainLane p l) s =
        .next ((u.onLane p l fun y => { y with asked := true }).answered 0x30 p 0 l)) ∧
      (y.rx ≠ .excluded → y.tx ≠ .excluded → exec (.retrainLane p l) s = .next u) ∧
      (y.rx ≠ .excluded → ∃ t, exec (.excludeLane p l) s = .next t ∧ t = u.excludeRx p l 0 ∧
        ((t.port p).lane l).rx = .excluded) ∧
      (y.rx = .excluded → exec (.excludeLane p l) s = .next u) ∧
      exec (.restoreLane p l) s = .next (u.laneBack p l) ∧
      (∀ x, (s.port p).named n = some x → exec (.linkRestart p n) s = .next
        (((((u.sendCtrl p x 4 0 0).bundleDown p x).onBundle p x fun b => { b with retrain := true }).retrainBundle p
          x).answered 0x30 p 0 (bundleAsk x))) ∧
      ((s.port p).named n = none → exec (.linkRestart p n) s = .next u)) ∧
    (2 ≤ p.val → exec (.linkRestart p n) s = .next ((u.emit (.linkStart p)).answered 0x30 p 0 512) ∧
      exec (.retrainLane p l) s = .next u ∧ exec (.excludeLane p l) s = .next u ∧ exec (.restoreLane p l) s = .next u))

/-- R325-R327, R333: FRAME, LLDP, LLDP_SEND, LOS, LINK. LOS at once in PORT_LIGHT is log 115, the LLDP frame log 116. -/
def Obligations.FabricPorts : Prop :=
  ∀ (s : State) (p : PortIx) (f : Frame) (c q : List Byte) (l : Fin 8) (up : Bool),
    (p.val < 2 → exec (.frame p f) s = .next s ∧ exec (.lldp p c q) s = .next s ∧ exec (.lldpSend p) s = .next s ∧
      exec (.los p l) s = .next s ∧ exec (.link p up) s = .next s) ∧
    (2 ≤ p.val →
      (s.flag (F.PORT_STAT_UP p) = false → exec (.frame p f) s = .next s ∧ exec (.lldp p c q) s = .next s ∧
        exec (.lldpSend p) s = .next s) ∧
      (s.flag (F.PORT_STAT_UP p) = true →
        let u := s.bump (F.PORT_CNT_RX p)
        let drops : Prop := exec (.frame p f) s = .next (u.bump (F.PORT_CNT_DROP p))
        let partner (c q : List Byte) (t : State) : Prop := t.fld (F.PORT_PARTNER_ID p) = crc32 (c ++ q) % 2 ^ 32 ∧
          t.fld (F.PORT_PARTNER_SEEN p) = 1 ∧ (s.fld (F.PORT_EXPECT_VALID p) ≠ 0 →
            t.flag (F.PORT_STAT_SWAPPED p) = decide (crc32 (c ++ q) ≠ s.fld (F.PORT_EXPECT_ID p))) ∧
          Only [.sent, .regs, .irq] s t
        (f.fcsOk = false → exec (.frame p f) s = .next (u.bump (F.PORT_CNT_CRC p))) ∧
        (f.fcsOk = true → s.fld (F.PORT_MTU_BYTES p) < f.bytes → drops) ∧
        (f.fcsOk = true → f.bytes ≤ s.fld (F.PORT_MTU_BYTES p) →
          (f.kind = .pause → exec (.frame p f) s = .next u) ∧
          (f.kind = .other → drops) ∧
          (∀ a, f.kind = .neighborSolicitation a → (a.toNat ≠ s.portIp p → drops) ∧ (a.toNat = s.portIp p →
            exec (.frame p f) s = .next ((u.emit (.neighborAdvert p a.toNat)).bump (F.PORT_CNT_TX p)))) ∧
          (∀ d e, f.kind = .lldp d e → (f.dstMac.toNat ≠ 0x0180C200000E → drops) ∧
            (f.dstMac.toNat = 0x0180C200000E → ∃ t, exec (.frame p f) s = .next t ∧ partner d e t)) ∧
          (∀ bs, f.kind = .sound bs →
            let own : Prop := f.dstMac.toNat = s.fld (F.PORT_MAC_MAC p) ∧ f.dstIp.toNat = s.portIp p
            let group : Prop := f.dstIp.toNat ≠ 0 ∧
              ∃ g, 0 < g ∧ g < s.fld F.SNDCTX_GRP_COUNT_COUNT ∧ u.groupIp g = f.dstIp.toNat
            let good : Prop := f.checksumOk = true ∧ f.udpPort.toNat = s.fld (F.SND_UDP_PORT p)
            (¬ own → ¬ group → drops) ∧
            (own ∨ group → ¬ good → exec (.frame p f) s = .next (u.bump (F.SND_CNT_BAD p))) ∧
            (own ∨ group → good → exec (.frame p f) s = .next (u.packetBytes p bs true f.srcIp.toNat
              (if f.dstIp.toNat = s.portIp p then none else some (u.homed p f.dstIp.toNat)))))) ∧
        (∃ t, exec (.lldp p c q) s = .next t ∧ partner c q t) ∧
        (s.tideNo < (s.port p).lldpAt → exec (.lldpSend p) s = .next s) ∧
        ((s.port p).lldpAt ≤ s.tideNo → ∃ t, exec (.lldpSend p) s = .next t ∧
          t.sent = s.sent ++ [.frame p (lldpFrame p (s.fld (F.PORT_MAC_MAC p)))] ∧
          (t.port p).lldpAt = s.tideNo + 8192 ∧ SameRegs [R.PORT_CNT_TX p] s t ∧ Only [.sent, .regs, .ports] s t)) ∧
      (s.flag (F.PORT_STAT_UP p) = up → exec (.link p up) s = .next s) ∧
      (s.flag (F.PORT_STAT_UP p) ≠ up → ∃ t, exec (.link p up) s = .next t ∧ t.flag (F.PORT_STAT_UP p) = up ∧
        (t.fld (F.PG_EVT_CAUSE_CAUSE (pageBase 0x30 p))).testBit 8 = true ∧ Only [.sent, .regs, .irq, .waits] s t) ∧
      (∃ t, exec (.los p l) s = .next t ∧ t.flag (F.PORT_STAT_UP p) = false ∧
        (4 ≤ p.val → (t.fld (F.PORT_LIGHT_LOS p)).testBit l = true ∧ t.fld (F.PORT_STAT_LOS p) = 1 ∧
          (t.fld (F.PG_EVT_CAUSE_CAUSE (pageBase 0x30 p))).testBit 10 = true) ∧
        Only [.sent, .regs, .irq, .waits] s t))

/-- R331, R339, R340, R346, R347, R349: SOUND_DATA. ROFF 1 of a NAK that tells of BOUNDS is log 49. -/
def Obligations.SoundDataArrives : Prop :=
  ∀ (s : State) (p : PortIx) (h : SoundHdr) (l : List Byte) (v : Word32),
    let c := h.dst.toNat
    let w := s.ctxPeek c
    let comes := s.hears p h = true ∧ h.ver = 1 ∧ h.len.toNat ≤ l.length ∧ s.ctxExists c = true
    let only (t : State) : Prop := Only [.sent, .fresh, .regs, .irq, .waits, .atolls, .ports, .sound, .mem, .ckpt] s t
    (s.hears p h = false → exec (.soundData p h l v) s = .next s) ∧
    (s.hears p h = true → h.ver ≠ 1 ∨ l.length < h.len.toNat ∨ s.ctxExists c = false →
      exec (.soundData p h l v) s = .next (s.bump (F.SND_CNT_BAD p))) ∧
    (comes → Cx.isOpen w = false → ∃ t, exec (.soundData p h l v) s = .next t ∧
      t.sent.getLast? = some (.sound p.val 9 c h.src.toNat 0 0 0 0 0 0 []) ∧ only t) ∧
    (comes → Cx.state w = Cx.opened → h.flags.getLsbD 3 = false →
      (h.psn.toNat ≠ Cx.rxPsn w → ∃ t, exec (.soundData p h l v) s = .next t ∧
        (s.ctxLink w = true → ∃ q g, t.sent.getLast? = some (.sound q
          (if psnLe h.psn.toNat (Cx.rxPsn w) then 2 else 3) c (Cx.peerCtx w) 0 0 0 ((Cx.rxPsn w + 2 ^ 32 - 1) % 2 ^ 32) g 0 [])) ∧
        Cx.rxPsn (t.ctxPeek c) = Cx.rxPsn w ∧ (t.sound.of c).staged = (s.sound.of c).staged ∧ only t) ∧
      (h.psn.toNat = Cx.rxPsn w → s.isPartner c = false → h.roff.toNat + h.len.toNat ≤ Cx.rxLen w →
        h.flags.getLsbD 1 = false ∨ (s.isRed c w = false ∧ s.isReplica c = false ∧ s.ckpt.stop = none) →
        ∃ t, exec (.soundData p h l v) s = .next t ∧
        (s.ctxLink w = true → ∃ q g, t.sent.getLast? = some (.sound q 2 c (Cx.peerCtx w) 0 0 0 h.psn.toNat g 0 [])) ∧
        Cx.rxPsn (t.ctxPeek c) = (Cx.rxPsn w + 1) % 2 ^ 32 ∧
        (h.flags.getLsbD 1 = true → Cx.rxSeq (t.ctxPeek c) = (Cx.rxSeq w + 1) % 2 ^ 32 ∧
          Cx.rxMsg (t.ctxPeek c) = (h.msg.toNat + 1) % 2 ^ 32) ∧
        (t.sound.of c).staged = (s.sound.of c).staged ++ [units h.len.toNat] ∧ only t) ∧
      (h.psn.toNat = Cx.rxPsn w → s.isPartner c = false → Cx.rxLen w < h.roff.toNat + h.len.toNat →
        ∃ t, exec (.soundData p h l v) s = .next t ∧ (t.sound.of c).unacked = [] ∧ (t.sound.of c).staged = [] ∧
        (∀ e ∈ t.sound.cache, e.1 ≠ c) ∧ (s.ctxLink w = true → ∃ q a g, .sound q 3 c (Cx.peerCtx w) 0 0 1 a g 0 [] ∈ t.sent) ∧
        only t)) ∧
    (comes → Cx.isOpen w = true → h.flags.getLsbD 3 = true → Cx.state w ≠ Cx.catchup ∨ h.msg.toNat ≠ Cx.rxMsg w →
      exec (.soundData p h l v) s = .next (s.ctxGet c).2) ∧
    (comes → Cx.state w = Cx.catchup → h.flags.getLsbD 3 = false →
      h.flags.getLsbD 0 = false ∨ h.msg.toNat ≠ Cx.rxMsg w → exec (.soundData p h l v) s = .next (s.carriedIn c h))

/-- R331, R335, R346, R347, R349: ACK, NAK, CLOSE, RESET, LAGGED, SERVE. -/
def Obligations.SoundControlArrives : Prop :=
  ∀ (s : State) (p : PortIx) (h : SoundHdr) (m : CtxNo),
    let c := h.dst.toNat
    let w := s.ctxPeek c
    let key := memberKey h.src.toNat (fromSlot h)
    let only (t : State) : Prop := Only [.sent, .fresh, .regs, .irq, .waits, .atolls, .ports, .sound, .mem, .ckpt] s t
    let none' (e : Instr) : Prop := ∃ t, exec e s = .next t ∧ (t.sound.of c).unacked = [] ∧ (t.sound.of c).staged = [] ∧
      (∀ x ∈ t.sound.cache, x.1 ≠ c) ∧ only t
    let short (e : Instr) : Prop := e = .ack p h ∨ e = .soundNak p h ∨ e = .close p h ∨ e = .reset p h ∨ e = .lagged p h
    (s.hears p h = false → ∀ e : Instr, short e ∨ e = .serve p h m → exec e s = .next s) ∧
    (s.hears p h = true → ∀ e : Instr, (short e ∧ (h.ver ≠ 1 ∨ 0 < h.len.toNat ∨ s.ctxExists c = false)) ∨
      (e = .serve p h m ∧ (h.ver ≠ 1 ∨ 4 < h.len.toNat ∨ s.ctxExists c = false)) →
      exec e s = .next (s.bump (F.SND_CNT_BAD p))) ∧
    (s.hears p h = true → h.ver = 1 → h.len = 0 → s.ctxExists c = true →
      (Cx.isOpen w = false → ∀ e : Instr, e = .ack p h ∨ e = .soundNak p h ∨ e = .close p h ∨ e = .lagged p h →
        ∃ t, exec e s = .next t ∧ t.sent.getLast? = some (.sound p.val 9 c h.src.toNat 0 0 0 0 0 0 []) ∧ only t) ∧
      (Cx.isOpen w = true →
        (Cx.kind w ≠ 1 → (∀ e ∈ (s.sound.of c).catchup, e.key ≠ key) → ∀ e : Instr,
          e = .ack p h ∨ (e = .soundNak p h ∧ h.roff ≠ 1) → ∃ t, exec e s = .next t ∧ only t ∧
          (t.sound.of c).unacked = (s.sound.of c).unacked.filter fun x => !psnLe x.psn h.ackPsn.toNat) ∧
        none' (.close p h) ∧ (h.roff = 1 → none' (.soundNak p h))) ∧
      (Cx.state w = Cx.opened → ∃ t, exec (.lagged p h) s = .next t ∧ Cx.state (t.ctxPeek c) = Cx.catchup ∧ only t) ∧
      (Cx.state w = Cx.catchup → Cx.rxMsg w < h.roff.toNat → ∃ t, exec (.lagged p h) s = .next t ∧
        Cx.rxMsg (t.ctxPeek c) = h.roff.toNat ∧ Cx.state (t.ctxPeek c) = Cx.catchup ∧ only t) ∧
      (Cx.state w = Cx.catchup → h.roff.toNat ≤ Cx.rxMsg w →
        exec (.lagged p h) s = .next ((s.ctxGet c).2.ctxGet c).2) ∧
      (2 ≤ Cx.state w → Cx.state w ≤ 4 → none' (.reset p h)) ∧
      (Cx.state w < 2 ∨ 4 < Cx.state w → exec (.reset p h) s = .next (s.ctxGet c).2)) ∧
    (s.hears p h = true → h.ver = 1 → h.len.toNat ≤ 4 → s.ctxExists c = true →
      let u := (s.ctxGet c).2
      let n := h.msg.toNat - h.roff.toNat
      let has : Prop := ∀ i : Nat, i < n → (u.ringEntry c w (h.roff.toNat + i)).isSome = true
      let member := (u.members w).find? fun z => z.1 == m.toNat
      (Cx.state w ≠ Cx.opened ∨ ¬ has ∨ member = none → ∃ t, exec (.serve p h m) s = .next t ∧
        t.sent.getLast? = some (.sound p.val 6 c h.src.toNat 0 0 1 0 0 0 []) ∧ only t) ∧
      (∀ b x y, Cx.state w = Cx.opened → has → member = some (b, x, y) → ∃ t q, exec (.serve p h m) s = .next t ∧
        (t.sound.of c).queue = (s.sound.of c).queue ++ q ∧ q.length = n ∧
        (∀ z ∈ q, z.dst = some (memberKey b x) ∧ z.ended = none ∧ z.sent = 0) ∧ only t))

/-- R350, R351: CONNECT, ACCEPT, REFUSE, NOT_READY, RAMP_DONE. R335, R351: CTX_CONNECT, CTX_LISTEN, CTX_CLOSE,
ADMIT_ACCEPT, ADMIT_REFUSE, ADMIT_DEFER. -/
def Obligations.SoundAdmission : Prop :=
  (∀ (s : State) (p : PortIx) (h : SoundHdr) (off : Bool) (ip : BitVec 128),
    let c := h.dst.toNat
    let w := s.ctxPeek c
    let only (t : State) : Prop := Only [.sent, .fresh, .regs, .irq, .waits, .atolls, .ports, .sound, .mem, .ckpt] s t
    let refused (t : State) (cause : Nat) : Prop :=
      t.sent.getLast? = some (.sound p.val 6 c h.src.toNat 0 0 cause 0 0 0 []) ∧ only t
    let later (t : State) : Prop :=
      t.sent.getLast? = some (.sound p.val 7 c h.src.toNat 0 0 0 0 (s.fld F.SNDCTX_ADMIT_HINT) 0 []) ∧ only t
    (s.hears p h = true → h.ver = 1 → h.len = 0 →
      (s.fld F.SNDCTX_STAT_PHASE = 0 → ∃ t, exec (.connect p h off ip) s = .next t ∧ later t) ∧
      (s.fld F.SNDCTX_STAT_PHASE ≠ 0 → s.ctxExists c = false → ∃ t, exec (.connect p h off ip) s = .next t ∧
        .sound p.val 6 c h.src.toNat 0 0 2 0 0 0 [] ∈ t.sent ∧ only t ∧
        (t.fld (F.PG_EVT_CAUSE_CAUSE (pageBase 0x32 0))).testBit 2 = true) ∧
      (s.fld F.SNDCTX_STAT_PHASE ≠ 0 → s.ctxExists c = true →
        let takes : Prop := Cx.state w = Cx.listen ∧ peerMatches w h off ip.toNat = true
        (¬ takes → ∃ t, exec (.connect p h off ip) s = .next t ∧ refused t 1) ∧
        (takes → s.rampFull = true → ∃ t, exec (.connect p h off ip) s = .next t ∧ later t) ∧
        (takes → s.rampFull = false → s.hosted 0x32 0 0 = false → ∃ t, exec (.connect p h off ip) s = .next t ∧
          Cx.state (t.ctxPeek c) = Cx.opened ∧ Cx.peerCtx (t.ctxPeek c) = h.src.toNat ∧
          Cx.txGrant (t.ctxPeek c) = h.grant.toNat ∧ t.sound.admitted = s.sound.admitted + 1 ∧ only t ∧
          (t.ctxLink (t.ctxPeek c) = true → ∃ q a g, t.sent.getLast? = some (.sound q 5 c h.src.toNat 0 0 0 a g 0 []))) ∧
        (takes → s.rampFull = false → s.hosted 0x32 0 0 = true → 256 ≤ s.sound.admissions.length →
          ∃ t, exec (.connect p h off ip) s = .next t ∧ later t) ∧
        (takes → s.rampFull = false → s.hosted 0x32 0 0 = true → s.sound.admissions.length < 256 →
          ∃ t, exec (.connect p h off ip) s = .next t ∧
          t.sound.admissions = s.sound.admissions ++ [⟨p, { h with ip := ip }, off, ip.toNat, s.tideNo⟩] ∧
          t.awaits 0x32 0 0 c = true ∧ only t)) ∧
      (s.ctxExists c = true → Cx.state w = Cx.connecting →
        (∃ t, exec (.accept p h) s = .next t ∧ Cx.state (t.ctxPeek c) = Cx.opened ∧
          Cx.txGrant (t.ctxPeek c) = h.grant.toNat ∧ (t.sound.of c).retryAt = none ∧ only t ∧
          (t.ctxLink (t.ctxPeek c) = true → ∃ q a g, t.sent.getLast? = some (.sound q 2 c h.src.toNat 0 0 0 a g 0 []))) ∧
        (∃ t, exec (.refuse p h) s = .next t ∧ (t.sound.of c).unacked = [] ∧ (t.sound.of c).staged = [] ∧
          (∀ e ∈ t.sound.cache, e.1 ≠ c) ∧ only t) ∧
        (∃ t, exec (.notReady p h) s = .next t ∧
          (t.sound.of c).retryAt = some (s.tideNo + max 1 h.grant.toNat) ∧ only t)) ∧
      (s.ctxExists c = true → Cx.state w ≠ Cx.connecting → Cx.isOpen w = false → ∀ e : Instr,
        e = .accept p h ∨ e = .refuse p h ∨ e = .notReady p h → ∃ t, exec e s = .next t ∧
        t.sent.getLast? = some (.sound p.val 9 c h.src.toNat 0 0 0 0 0 0 []) ∧ only t)) ∧
    (s.fld F.SNDCTX_STAT_PHASE = 1 → s.fld F.SNDCTX_RAMP_LEFT = 0 → ∃ t, exec .rampDone s = .next t ∧
      t.fld F.SNDCTX_STAT_PHASE = 2 ∧ (t.fld (F.PG_EVT_CAUSE_CAUSE (pageBase 0x32 0))).testBit 1 = true ∧
      SameRegs (R.SNDCTX_STAT :: eventRegs 0x32 0) s t ∧ Only [.sent, .regs, .irq] s t) ∧
    (s.fld F.SNDCTX_STAT_PHASE ≠ 1 ∨ s.fld F.SNDCTX_RAMP_LEFT ≠ 0 → exec .rampDone s = .next s)) ∧
  (∀ (s : State) (c : CtxNo), s.takesWrites 0x32 0 → s.unlocked 0x32 0 →
    let u := s.relocked 0x32 0
    let anew := (u.ungrant c.toNat (s.sound.of c.toNat).held).onCtx c.toNat fun r => { CtxRun.none with queue := r.queue }
    (s.ctxExists c.toNat = true →
      exec (.ctxConnect c) s = .next ((anew.ctxSet c.toNat fun w => Cx.setState w Cx.connecting).sendConnect c.toNat) ∧
      exec (.ctxListen c) s = .next (anew.ctxSet c.toNat fun w => Cx.setState w Cx.listen) ∧
      exec (.ctxClose c) s = .next ((u.sendPkt c.toNat 8 0 0 0 0 []).ctxFall c.toNat Cx.closed none)) ∧
    (s.ctxExists c.toNat = false →
      exec (.ctxConnect c) s = .next u ∧ exec (.ctxListen c) s = .next u ∧ exec (.ctxClose c) s = .next u) ∧
    (∀ a l, s.sound.admissions = a :: l →
      let v := ({ u with sound := { u.sound with admissions := l } }).answered 0x32 0 0 a.hdr.dst.toNat
      exec .admitAccept s = .next (v.admitNow a) ∧ exec .admitRefuse s = .next (v.refuseTo a.port a.hdr 1) ∧
      exec .admitDefer s = .next (v.notReadyTo a.port a.hdr)) ∧
    (s.sound.admissions = [] →
      exec .admitAccept s = .next u ∧ exec .admitRefuse s = .next u ∧ exec .admitDefer s = .next u))

/-- R336, R340, R342, R346: PACKET_DEPART, STAGING_DRAIN, RETRANSMIT_TIMEOUT, GRANT_RETURN. Time that runs on is log 110. -/
def Obligations.SoundMoves : Prop :=
  ∀ (s : State) (x : CtxNo),
    let c := x.toNat
    let w := s.ctxPeek c
    let u := (s.ctxGet c).2
    let q := s.ctxPort w
    (s.ctxExists c = false → ∀ e : Instr, e = .packetDepart x ∨ e = .retransmitTimeout x ∨ e = .grantReturn x →
      exec e s = .next s) ∧
    (s.ctxExists c = true →
      (s.nextPacket c w = none → exec (.packetDepart x) s = .next s) ∧
      (∀ m n d b, (s.mayDepart c).isSome = true → s.nextPacket c w = some (m, n) → m.dst = none → m.body = some b →
        drrTurn (u.waitingTx (u.ctxPort w)) (u.port (u.ctxPort w)).drr (u.port (u.ctxPort w)).shareTx
          (u.fld (F.SND_RESV_SHARE (u.ctxPort w))) c = some d →
        ∃ t, exec (.packetDepart x) s = .next t ∧
          (t.sound.of c).unacked = (s.sound.of c).unacked ++ [⟨Cx.txPsn w, m.msg, m.sent, n, s.tideNo⟩] ∧
          Cx.txPsn (t.ctxPeek c) = (Cx.txPsn w + 1) % 2 ^ 32 ∧
          Cx.txUsed (t.ctxPeek c) = (Cx.txUsed w + units n) % 2 ^ 32 ∧
          (Cx.kind w ≠ 1 → ∃ o a g f, .sound o 1 c (Cx.peerCtx w) (Cx.txPsn w) (m.msg % 2 ^ 32)
            ((m.roff + m.sent) % 2 ^ 32) a g f ((b.drop m.sent).take n) ∈ t.sent) ∧
          Only [.sent, .fresh, .regs, .irq, .waits, .atolls, .ports, .sound, .mem] s t) ∧
      (∀ p : PortIx,
        let turn := drrTurn (s.waitingRx p) (s.port p).drrIn (s.port p).shareRx (s.fld (F.SND_RESV_SHARE p)) c
        (s.ckpt.stop ≠ none ∨ turn = none → exec (.stagingDrain p x) s = .next s) ∧
        (∀ d n l, s.ckpt.stop = none → (s.sound.of c).staged = n :: l → turn = some d → Cx.live w = true →
          ∃ t, exec (.stagingDrain p x) s = .next t ∧ (t.sound.of c).staged = l ∧
            (s.ctxLink w = true → ∃ o a g, t.sent.getLast? = some (.sound o 2 c (Cx.peerCtx w) 0 0 0 a g 0 [])) ∧
            Only [.sent, .fresh, .regs, .irq, .waits, .atolls, .ports, .sound, .mem] s t)) ∧
      (let due := u.runTo ((s.sound.of c).ackAt + s.fld (F.SND_RTO_CYCLES q))
       (Cx.isOpen w = false ∨ (s.sound.of c).unacked = [] ∨ due = none → exec (.retransmitTimeout x) s = .next u) ∧
       (∀ v, Cx.isOpen w = true → (s.sound.of c).unacked ≠ [] → due = some v →
        (Cx.retries w + 1 < v.fld (F.SND_RETRY_MAX q) → ∃ t, exec (.retransmitTimeout x) s = .next t ∧
          (t.sound.of c).unacked = (v.sound.of c).unacked ∧ Cx.retries (t.ctxPeek c) = (Cx.retries w + 1) % 2 ^ 16) ∧
        (v.fld (F.SND_RETRY_MAX q) ≤ Cx.retries w + 1 → ∃ t, exec (.retransmitTimeout x) s = .next t ∧
          (t.sound.of c).unacked = [] ∧ (t.sound.of c).staged = [] ∧
          (t.fld (F.PG_EVT_CAUSE_CAUSE (pageBase 0x31 q))).testBit 1 = true))) ∧
      (let idle : Prop := s.fld (F.SND_GRANT_IDLE_TIDES q) ≤ (s.sound.of c).idle
       (Cx.isOpen w = false ∨ Cx.credit w = 0 ∨ ¬ idle → exec (.grantReturn x) s = .next u) ∧
       (Cx.isOpen w = true → Cx.credit w ≠ 0 → idle → ∃ t, exec (.grantReturn x) s = .next t ∧
        Cx.txUsed (t.ctxPeek c) = (Cx.txUsed w + Cx.credit w) % 2 ^ 32 ∧ (t.sound.of c).idle = 0 ∧
        (s.ctxLink w = true → ∃ o a,
          t.sent.getLast? = some (.sound o 2 c (Cx.peerCtx w) 0 0 0 a (Cx.credit w) 32 [])) ∧
        Only [.sent, .fresh, .regs, .irq, .waits, .atolls, .ports, .sound, .mem] s t)))

/-- R217, R224, R227, R230, R285, R295, R337, R360: SEND, REDUCE, STREAM_ISSUE, MSG_WAIT, STREAM_WAIT. -/
def Obligations.MessageSlots : Prop :=
  ∀ (s : State) (k : Atoll) (c : BitVec 4) (r : SReg) (b : Bool),
    let v := (s.atl k).seq.r.sv r
    let goes := s.onSeq k fun q => { q with stalled := false }
    let waits := s.onSeq k fun q => { q with stalled := true }
    (s.running k = false → ∀ e : Instr,
      e = .send k c r b ∨ e = .reduce k c r b ∨ e = .streamIssue k c r b ∨ e = .msgWait k c r ∨ e = .streamWait k c r →
      exec e s = .next (s.refuse k 2)) ∧
    (s.running k = true →
      (∀ x, (s.atl k).seq.slice = some x →
        (256 ≤ x.defers.length → exec (.reduce k c r false) s = .next (s.refuse k 10) ∧
          exec (.send k c r false) s = .next (s.refuse k 10)) ∧
        (x.defers.length < 256 →
          exec (.reduce k c r false) s = .next (goes.onSeq k fun q =>
            { q with slice := some { x with defers := x.defers ++ [⟨true, c.toNat, v⟩] } }) ∧
          (∃ t, exec (.send k c r false) s = .next t ∧ (t.atl k).seq.slice =
              some { x with defers := x.defers ++ [⟨false, c.toNat, (goes.vFree k v 32).1⟩] } ∧
            (t.atl k).seq.stalled = false ∧ Only [.fresh, .regs, .atolls] s t))) ∧
      exec (.reduce k c r true) s = .next (goes.reduceNow k c.toNat v) ∧
      (let d := (goes.vFree k v 32).1
       let u := (goes.vFree k v 32).2
       let x := bits d 19 0
       let w := u.ctxPeek x
       bits d 31 20 = 0 → byteFld d 24 8 = 0 → 0 < byteFld d 4 4 → byteFld d 4 4 ≤ 2 ^ 31 → u.ctxExists x = true →
       Cx.state w = Cx.opened → Cx.via w ≠ 1 → Cx.via w ≤ 5 → (∀ m ∈ (s.sound.of x).queue, m.ended = none) →
       ∃ t m, exec (.send k c r true) s = .next t ∧ (t.sound.of x).queue = (s.sound.of x).queue ++ [m] ∧
         m.msg = Cx.txMsg w ∧ m.len = byteFld d 4 4 ∧ m.src = byteFld d 8 8 ∧ m.roff = byteFld d 16 4 ∧
         m.user = byteFld d 20 4 ∧ m.ctr = c.toNat ∧ m.atoll = k.val ∧ m.counted = true ∧ m.sent = 0 ∧ m.ended = none ∧
         Only [.sent, .fresh, .regs, .irq, .atolls, .sound, .mem] s t) ∧
      (s.issueStalls k = true → exec (.streamIssue k c r b) s = .next waits) ∧
      (s.issueStalls k = false → ∃ t x, exec (.streamIssue k c r b) s = .next t ∧
        (t.atl k).strm.streams = (s.atl k).strm.streams ++ [x] ∧ x.ctr = c.toNat ∧ x.detach = b ∧ x.addr = v ∧
        x.cursor = 0 ∧ x.done = false ∧ x.slot < 64 ∧ (t.atl k).seq.stalled = false ∧
        Only [.fresh, .regs, .atolls, .mem] s t) ∧
      exec (.msgWait k c r) s =
        .next (if waitMet (SMap.get (fun _ => 0) (s.atl k).seq.r.mc c.toNat) v then goes else waits) ∧
      exec (.streamWait k c r) s =
        .next (if waitMet (SMap.get (fun _ => 0) (s.atl k).seq.r.sc c.toNat) v then goes else waits))

/-- R362, R364, R370, R377: REDUCTION_CLOSE. R370. -/
def Obligations.ReductionCloses : Prop :=
  (∀ (s : State) (k : Atoll) (i : Fin 64),
    let stays : Prop := exec (.reductionClose k i) s = .next s
    ((s.atl k).step.at i = none ∨ s.ckpt.stop ≠ none → stays) ∧
    (∀ r : RedSt, (s.atl k).step.at i = some r →
      ((r.steps.find? fun x => !x.closed) = none → stays) ∧
      (∀ x : RedStep, (r.steps.find? fun x => !x.closed) = some x → s.ckpt.stop = none →
        let closes (held : Bool) : Prop := ∃ t, exec (.reductionClose k i) s = .next t ∧ t = s.closeStep k i false held false ∧
          ((s.atl k).step.waiting = [] → ∃ q, (t.atl k).step.at i = some q ∧ Rd.closed q.word = x.step % 2 ^ 32) ∧
          Only [.sent, .fresh, .regs, .irq, .waits, .atolls, .sound, .mem] s t
        let due : Prop := x.anchor + x.deadline ≤ s.tideNo
        let own : Prop := s.hosted 0x19 k 0 = false
        (∀ n, x.closeAt = some n → (n ≤ s.tideNo → closes false) ∧ (s.tideNo < n → stays)) ∧
        (x.closeAt = none → ¬ due → stays) ∧
        (x.closeAt = none → due → x.held ≠ none → (own ∨ r.complete x.landed = true → closes true) ∧
          (¬ own → r.complete x.landed = false → stays)) ∧
        (x.closeAt = none → due → x.held = none → own ∨ r.complete (x.onTime false false) = true → closes false) ∧
        (x.closeAt = none → due → x.held = none → ¬ own → r.complete (x.onTime false false) = false →
          ∃ t q, exec (.reductionClose k i) s = .next t ∧ (t.atl k).step.at i = some q ∧
          (∀ y ∈ q.steps, y.step = x.step → y.held = some s.tideNo) ∧
          t.awaits 0x19 k 0 (i.val * 2 ^ 32 + x.step) = true ∧
          (t.fld (F.PG_EVT_CAUSE_CAUSE (pageBase 0x19 k))).testBit 0 = true ∧ Only [.sent, .regs, .irq, .waits, .atolls] s t)))) ∧
  (∀ (s : State) (k : Atoll) (i : Fin 64), s.takesWrites 0x19 k → s.unlocked 0x19 k →
    (∀ (r : RedSt) (x : RedStep), (s.atl k).step.at i = some r →
      (r.steps.find? fun x => !x.closed && x.held.isSome && x.closeAt.isNone) = some x →
      (∃ t q, exec (.stepCmdClose k i) s = .next t ∧ (t.atl k).step.at i = some q ∧
        (∀ y ∈ q.steps, y.step = x.step → y.closeAt = some (s.tideNo + 1)) ∧
        t.awaits 0x19 k 0 (i.val * 2 ^ 32 + x.step) = false ∧ (∀ j : Atoll, j ≠ k → t.atl j = s.atl j) ∧
        Only [.regs, .waits, .atolls] s t) ∧
      (∃ t q, exec (.stepCmdExtend k i) s = .next t ∧ (t.atl k).step.at i = some q ∧
        (∀ y ∈ q.steps, y.step = x.step → y.held = none ∧ y.deadline = s.tideNo + 1 - y.anchor) ∧
        t.awaits 0x19 k 0 (i.val * 2 ^ 32 + x.step) = false ∧ (∀ j : Atoll, j ≠ k → t.atl j = s.atl j) ∧
        Only [.regs, .waits, .atolls] s t)) ∧
    ((s.atl k).step.at i = none → exec (.stepCmdClose k i) s = .next (s.relocked 0x19 k) ∧
      exec (.stepCmdExtend k i) s = .next (s.relocked 0x19 k)) ∧
    (∀ r, (s.atl k).step.at i = some r → (r.steps.find? fun x => !x.closed && x.held.isSome && x.closeAt.isNone) = none →
      exec (.stepCmdClose k i) s = .next (s.relocked 0x19 k) ∧ exec (.stepCmdExtend k i) s = .next (s.relocked 0x19 k)))

/-- R215-R224. -/
def Obligations.BundleCoding : Prop :=
  (∀ (w : Nat) (b : Bundle), w < 2 ^ 1024 → decodeBundle w = some b → b.word = w) ∧
  (∀ b : Bundle, (∀ x, b.a = some x ∨ b.b = some x → x.ok = true) → (∀ op o, b.main = some (op, o) → op ≠ 0) →
    (∀ x, b.row = x ∨ b.col = x → x.en = false → x = feedFields 0) → (b.cove.en = false → b.cove = coveFields 0) →
    b.word < 2 ^ 1024 ∧ decodeBundle b.word = some b)

/-- R93, R95-R97, R213, R216, R230, R231: PLAN_ENTRY_START, BUNDLE, CR_RECORD_WRITE, ILOAD_DONE. -/
def Obligations.PlanEntries : Prop :=
  ∀ (s : State) (k : Atoll),
    let q := (s.atl k).seq
    let x := q.r.pc / 128
    (∀ n, s.entryMay k = true → s.dueQueue k = some n → ∃ t w, exec (.planEntryStart k) s = .next t ∧
      (∀ l, s.devRead (s.entryAddr (16 * k.val + n) (s.fld (F.HBR_QSTAT_HEAD (16 * k.val + n)))) 64 = some l → w = ofBytes l) ∧
      (t.atl k).seq.entry = some (n, bits w 63 32) ∧ (t.atl k).seq.r.pc = bits w 31 0 / 128 * 128 ∧
      (∀ i : SReg, (t.atl k).seq.r.sv i = if i = 1 then bits w 127 64 else if i = 2 then bits w 63 32
        else if i = 3 then n else 0) ∧
      (∀ p e, (t.atl k).seq.r.pred p e = false) ∧ (t.atl k).seq.r.rstack = [] ∧ (t.atl k).seq.r.lstack = [] ∧
      t.fld (F.HBR_QSTAT_HEAD (16 * k.val + n)) = (s.fld (F.HBR_QSTAT_HEAD (16 * k.val + n)) + 1) % 8192 ∧
      (∀ j : Atoll, j ≠ k → t.atl j = s.atl j) ∧ Only [.fresh, .regs, .atolls] s t) ∧
    (s.entryMay k = false ∨ s.dueQueue k = none → exec (.planEntryStart k) s = .next s) ∧
    (q.entry = none → exec (.bundle k) s = .next s) ∧
    (q.entry ≠ none → q.run = none ∨ q.run = some .running → q.acted = none →
      (32768 ≤ x → exec (.bundle k) s = .next (s.refuse k 9)) ∧
      (x < 32768 → decodeBundle (q.bundleAt x) = none → exec (.bundle k) s = .next (s.refuse k 1)) ∧
      (∀ b, x < 32768 → decodeBundle (q.bundleAt x) = some b → s.bundleCode k q.r b ≠ 0 →
        exec (.bundle k) s = .next (s.refuse k (s.bundleCode k q.r b))) ∧
      (∀ b, x < 32768 → decodeBundle (q.bundleAt x) = some b → s.bundleCode k q.r b = 0 → b.ctl = .nop → b.a = none →
        b.b = none → b.units = false → q.r.lstack = [] → ∃ t, exec (.bundle k) s = .next t ∧
        (t.atl k).seq.r = { q.r with pc := 128 * (x + 1) } ∧ (t.atl k).seq.bundles = q.bundles + 1 ∧
        (t.atl k).seq.stalled = false ∧ (∀ j : Atoll, j ≠ k → t.atl j = s.atl j) ∧ Only [.atolls] s t)) ∧
    ((s.atl k).hold = [] → exec (.crRecordWrite k) s = .next s) ∧
    (∀ r l, (s.atl k).hold = r :: l →
      let off : Prop := s.fld (F.HBR_CR_SIZE_EN k) = 0
      (off → ∃ t, exec (.crRecordWrite k) s = .next t ∧ (t.atl k).hold = l ∧
        SameRegs [R.HBR_CR_DROP k] s t ∧ Only [.regs, .atolls] s t) ∧
      (¬ off → s.ringRoom k = true → ∃ t, exec (.crRecordWrite k) s = .next t ∧
        (t.atl k).hold = l ∧ t.fld (F.HBR_CR_TAIL_TAIL k) = (s.fld (F.HBR_CR_TAIL_TAIL k) + 1) % 2 ^ 32 ∧
        Only [.regs, .atolls] s t) ∧
      (¬ off → s.ringRoom k = false → exec (.crRecordWrite k) s = .next s)) ∧
    (q.iload = none ∨ q.entry ≠ none → exec (.iloadDone k) s = .next s) ∧
    (∀ a, q.iload = some a → q.entry = none → ∃ t, exec (.iloadDone k) s = .next t ∧ (t.atl k).seq.iload = none ∧
      t.flag (F.ATL_ILOAD_STAT_BUSY k) = false ∧
      ((t.flag (F.ATL_ILOAD_STAT_DONE k) = true ∧ (t.fld (F.PG_EVT_CAUSE_CAUSE (pageBase 0x10 k))).testBit 1 = true) ∨
        (t.flag (F.ATL_ILOAD_STAT_ERR k) = true ∧ (t.fld (F.PG_EVT_CAUSE_CAUSE (pageBase 0x10 k))).testBit 2 = true)) ∧
      Only [.sent, .regs, .irq, .atolls] s t)

/-- R105, R108, R217, R221. -/
def Obligations.ArrayOperations : Prop :=
  ∀ (s : State) (k : Atoll) (x : ArrayArgs),
    let r := (s.atl k).seq.r
    let enters (c : Instr) (op : Nat) : Prop :=
      (s.running k = false → exec c s = .next (s.refuse k 2)) ∧
      (∀ t, s.running k = true → s.arrBad k r op x = some t → exec c s = .next t) ∧
      (s.running k = true → s.arrBad k r op x = none →
        (s.arrStalls k (mkOp op x r.sv) = true →
          exec c s = .next (s.onSeq k fun q => { q with stalled := true })) ∧
        (s.arrStalls k (mkOp op x r.sv) = false → ∃ t o, exec c s = .next t ∧
          (t.atl k).arr.queue = (s.atl k).arr.queue ++ [o] ∧ o.op = op ∧ o.a = x.a ∧ o.started = false ∧ o.clk = 0 ∧
          o.fed = [] ∧ (t.atl k).arr.acc = (s.atl k).arr.acc ∧ (t.atl k).vec.v = (s.atl k).vec.v ∧
          (t.atl k).seq.stalled = false ∧ Only [.fresh, .regs, .atolls, .mem] s t))
    enters (.mac k x) 0 ∧ enters (.l1 k x) 1 ∧ enters (.l2sq k x) 2 ∧ enters (.maxplus k x) 3 ∧ enters (.minplus k x) 4 ∧
    enters (.cmpcount k x) 5 ∧ enters (.scout k x) 6

/-- R109-R116, R124-R129, R174, R281, R287: FEEDER_REFILL, ARRAY_OP_END, FERRY_PIECE, FERRY_SEND, TEST_DONE,
DESCRIPTOR_REREAD. -/
def Obligations.ArrayRuns : Prop :=
  ∀ (s : State) (k : Atoll),
    let m := (s.atl k).arr
    (∀ (c : Bool) (f : Fin 1024) (late : Bool),
      let key := feederKey c f
      let first := m.queue.zipIdx.find? fun z => z.1.feeders.contains key &&
        decide (SMap.get (fun _ => 0) z.1.fed key < z.1.total)
      (first = none ∨ 64 < m.occupancy key → exec (.feederRefill k c f late) s = .next s) ∧
      (∀ (o : ArrOp) (n : Nat),
        let t0 := SMap.get (fun _ => 0) o.fed key
        let t1 := min (t0 + 64) o.total
        let p := o.side c
        let e := o.stepElems o.rate (min t0 o.len) (min t1 o.len)
        let ps := (o.poss.drop ((t0 - o.len) / 4)).take (min o.poss.length ((t1 - o.len + 3) / 4) - (t0 - o.len) / 4)
        let reads := p.reads (o.fmt c) f e.1 e.2 (p.slot.kstart.toNat + o.klen) ps
        let pends : Prop := ∃ z ∈ reads, (s.atl k).strm.pends z.1 z.2 = true
        let errs : Prop := ∃ z ∈ reads, s.lagErr k z.1 z.2 = true
        first = some (o, n) → m.occupancy key ≤ 64 →
        (pends → exec (.feederRefill k c f late) s = .next (s.flowNote k reads)) ∧
        (¬ pends → errs → exec (.feederRefill k c f late) s = .next (s.lagFault k)) ∧
        (¬ pends → ¬ errs → s.sideAwaits k p (o.fmt c) = true → exec (.feederRefill k c f late) s = .next s) ∧
        (¬ pends → ¬ errs → s.sideAwaits k p (o.fmt c) = false → ∃ t o', exec (.feederRefill k c f late) s = .next t ∧
          (t.atl k).arr.queue = m.queue.set n o' ∧ o'.op = o.op ∧ o'.a = o.a ∧ SMap.get (fun _ => 0) o'.fed key = t1 ∧
          (t.atl k).arr.acc = m.acc ∧ Only [.fresh, .regs, .atolls, .mem] s t))) ∧
    (m.queue = [] → exec (.arrayOpEnd k) s = .next s) ∧
    (∀ o l, m.queue = o :: l →
      let owes : Prop := m.gone o = false ∧ m.owed [] o = true
      let clk := max o.clk (o.total + m.skew o.a.m.toNat o.a.n.toNat)
      (o.ready < o.total ∨ owes → exec (.arrayOpEnd k) s = .next s) ∧
      (o.total ≤ o.ready → ¬ owes → ∃ t, exec (.arrayOpEnd k) s = .next t ∧ (t.atl k).arr.queue =
          (if o.clk < o.total then (match l with | x :: y => { x with behind := true } :: y | [] => []) else l) ∧
        (o.op = 6 → (t.atl k).arr.acc = m.acc) ∧
        (o.op ≠ 6 → (∀ i j : Fin 1024, i.val ≤ o.a.m.toNat → j.val ≤ o.a.n.toNat → (t.atl k).arr.word o.a.bank i j =
            o.cell (m.stepsAt o o.base i j) (m.stepsAt o clk i j) i j (m.word o.a.bank i j) % 2 ^ 32) ∧
          (∀ i j : Fin 1024, o.a.m.toNat < i.val ∨ o.a.n.toNat < j.val →
            (t.atl k).arr.word o.a.bank i j = m.word o.a.bank i j) ∧
          (∀ i j : Fin 1024, (t.atl k).arr.word (!o.a.bank) i j = m.word (!o.a.bank) i j)) ∧
        (o.op = 6 ∨ o.filed = true → ∀ b, (t.atl k).arr.bank b = m.bank b) ∧
        (o.op ≠ 6 → o.filed = false → (t.atl k).arr.bank (!o.a.bank) = m.bank (!o.a.bank) ∧
          ∃ z, (t.atl k).arr.bank o.a.bank = ⟨if o.a.fin = 0 then .live else if o.a.fin = 1 then .released else .free,
            o.a.m.toNat + 1, o.a.n.toNat + 1, [], z⟩ ∧ (o.a.fin = 0 → z = none)) ∧
        (∀ j : Atoll, j ≠ k → t.atl j = s.atl j) ∧ Only [.regs, .atolls] s t)) ∧
    (∀ (a : BitVec 29) (g : BitVec 4) (n : BitVec 16) (z : Bool) (l : List Byte),
      let lands (u : State) (peer : Bool) (c : Instr) : Prop :=
        let role := s.fld (F.FEED_FERRY_ROLE k)
        let orphan := role = 0 ∨ (peer = true ∧ (role ≠ 1 ∨ s.flag (F.FEED_FERRY_SRC_PEER k) = false)) ∨ (peer = false ∧ role = 1)
        (orphan → exec c s = .next ((u.bump (F.FEED_CNT_ORPHAN k)).raise 0x12 k 0)) ∧
        (¬ orphan → (s.atl k).strm.lagBad = [] → ∃ t, exec c s = .next t ∧ t.lagBytes k a.toNat l.length = l ∧
          (∀ b : Nat, b < a.toNat ∨ a.toNat + l.length ≤ b → SMap.get lagDefault (t.atl k).strm.lag b =
            SMap.get lagDefault (s.atl k).strm.lag b) ∧
          (z = true → t.flag (F.FEED_FERRY_TAG_VALID k g.toNat) = true ∧ t.fld (F.FEED_FERRY_TAG_NUM k g.toNat) = n.toNat) ∧
          Only [.sent, .regs, .irq, .atolls, .ports] u t)
      lands s false (.ferryPiece k none a g n z l) ∧
      (∀ v u, s.seqIn (bport v.port) v.peer.toNat v.t (max 1 ((l.length + 255) / 256)) = (false, u) →
        exec (.ferryPiece k (some v) a g n z l) s = .next u) ∧
      (∀ v u, s.seqIn (bport v.port) v.peer.toNat v.t (max 1 ((l.length + 255) / 256)) = (true, u) →
        lands (u.causeway (u.portAtoll (bport v.port) k) k l.length) true (.ferryPiece k (some v) a g n z l))) ∧
    (m.ferryOut = [] → exec (.ferrySend k) s = .next s) ∧
    (∀ r a n y l, m.ferryOut = r :: l → r.ranges = (a, n) :: y →
      s.fld (F.FEED_FERRY_ROLE k) = 1 ∨ s.fld (F.FEED_FERRY_ROLE k) = 2 → ∃ t, exec (.ferrySend k) s = .next t ∧
      t.sent = s.sent ++ [.ferry k.val ((k.val + 1) % 8) a r.tag r.fnum (n ≤ 4096 && y.isEmpty) (s.lagBytes k a (min n 4096))] ∧
      (t.atl k).arr.ferryOut = (if n ≤ 4096 then (if y.isEmpty then l else { r with ranges := y } :: l)
        else { r with ranges := (a + 4096, n - 4096) :: y } :: l) ∧ Only [.sent, .regs, .atolls] s t) ∧
    (m.testRun = true → ∀ f : Option (Fin 33), ∃ t, exec (.testDone k f) s = .next t ∧ (t.atl k).arr.testRun = false ∧
      t.flag (F.ARR_TEST_DONE k) = true ∧ t.flag (F.ARR_TEST_FAIL k) = f.isSome ∧
      t.fld (F.ARR_TEST_FAILCOL k) = f.elim 0x3F Fin.val ∧ (∀ c, f = some c → c.val ∈ (t.atl k).arr.badCols) ∧
      Only [.sent, .regs, .irq, .atolls] s t) ∧
    (m.testRun = false → ∀ f : Option (Fin 33), exec (.testDone k f) s = .next s) ∧
    (∀ d : Word64,
      (s.qAwaits k d.toNat = false → exec (.descriptorReread k d) s = .next s) ∧
      (s.qAwaits k d.toNat = true → Qd.await (s.vFree k d.toNat 8).1 = true →
        exec (.descriptorReread k d) s = .next (s.vFree k d.toNat 8).2) ∧
      (s.qAwaits k d.toNat = true → Qd.await (s.vFree k d.toNat 8).1 = false → ∃ t, exec (.descriptorReread k d) s = .next t ∧
        t.qAwaits k d.toNat = false ∧ (t.atl k).seq.await ≠ some d.toNat ∧ t.awaits 0x10 k 0 d.toNat = false ∧
        Only [.fresh, .regs, .waits, .atolls, .mem] s t))

/-- R183-R187, R217. -/
def Obligations.VectorArithmetic : Prop :=
  ∀ (s : State) (k : Atoll) (o : VOp),
    let v := (s.atl k).vec
    let r := (s.atl k).seq.r
    let f := o.ff
    let a (e : Nat) : Val := v.ev o o.va e
    let b (e : Nat) : Val := v.ev o o.vb e
    let c (e : Nat) : Val := v.ev o o.vc e
    let b' (e : Nat) : Val := if o.bcast then f.val (r.sv o.sa % 2 ^ (if o.bf then 16 else 32)) else b e
    let fits : Prop := (o.fmt = 0 ∨ o.fmt = 2) ∧ (o.hi = true → o.fmt = 2)
    let writes (i : Instr) (op : Nat) (g : Nat → Nat) : Prop :=
      (s.running k = true → fits → o.ext = 0 →
        exec i s = .next ((s.issued k op o).putElems k o ((r.lanes o).map fun e => (e, g e)))) ∧
      (s.running k = false → exec i s = .next (s.refuse k 2)) ∧
      (s.running k = true → o.ext ≠ 0 → exec i s = .next (s.refuse k 1)) ∧
      (s.running k = true → ¬ fits → o.ext = 0 → exec i s = .next (s.vecFault k 1))
    writes (.vadd k o) 0x01 (fun e => f.enc ((a e).add (b' e))) ∧ writes (.vsub k o) 0x02 (fun e => f.enc ((a e).sub (b' e))) ∧
    writes (.vmul k o) 0x03 (fun e => f.enc ((a e).mul (b' e))) ∧
    writes (.vfma k o) 0x04 (fun e => f.enc (((a e).mul (b e)).add (c e))) ∧
    writes (.vdiv k o) 0x05 (fun e => f.enc ((a e).div (b e))) ∧ writes (.vsqrt k o) 0x06 (fun e => f.enc (a e).sqrt) ∧
    writes (.vrsqrt k o) 0x07 (fun e => f.enc (a e).rsqrt) ∧ writes (.vexp k o) 0x08 (fun e => f.exp (a e)) ∧
    writes (.vlog k o) 0x09 (fun e => f.ln (a e)) ∧ writes (.vmax k o) 0x0A (fun e => f.enc ((a e).maxv (b e))) ∧
    writes (.vmin k o) 0x0B (fun e => f.enc ((a e).minv (b e))) ∧ writes (.vabs k o) 0x0C (fun e => f.enc (a e).abs) ∧
    writes (.vneg k o) 0x0D (fun e => f.enc (a e).negate) ∧
    writes (.vscalb k o) 0x0E (fun e => f.enc ((a e).scalb (max (-1000) (min 1000 (signed 64 (r.sv o.sa)))))) ∧
    writes (.vsel k o) 0x11 (fun e => v.elem o (if r.pred o.ps.toNat e then o.va else o.vb) e)

/-- R183, R184. -/
def Obligations.VectorWrites : Prop :=
  ∀ (s : State) (k : Atoll) (o : VOp) (g : Nat → Nat),
    let r := (s.atl k).seq.r
    let v := (s.atl k).vec
    let t := s.putElems k o ((r.lanes o).map fun e => (e, g e))
    let w := (t.atl k).vec
    (∀ e : Nat, e < 4096 → w.elem o o.vd e =
      if e ∈ r.lanes o then g e % 2 ^ (if o.bf then 16 else 32) else v.elem o o.vd e) ∧
    (o.bf = true → ∀ e : Nat, e < 4096 → w.half o.vd.toNat e (!o.hi) = v.half o.vd.toNat e (!o.hi)) ∧
    (∀ d e : Nat, d ≠ o.vd.toNat → e < 4096 → w.word d e = v.word d e) ∧
    t.atl k = { s.atl k with vec := { v with v := w.v } } ∧ (∀ j : Atoll, j ≠ k → t.atl j = s.atl j) ∧ Only [.atolls] s t

/-- R187, R196, R197, R199-R203. -/
def Obligations.VectorMoves : Prop :=
  ∀ (s : State) (k : Atoll) (o : VOp),
    let v := (s.atl k).vec
    let r := (s.atl k).seq.r
    let ready (op : Nat) : Prop := s.accepts k (s.vecBad k r op o) (s.vecStalls k r op o)
    let sets (i : Instr) (op : Nat) (l : List (Nat × Bool)) : Prop := ready op →
      exec i s = .next ((s.issued k op o).onSeq k fun q => { q with r := q.r.setPred o.pd.toNat l })
    sets (.vcmp k o) 0x10 ((r.lanes o).map fun e =>
      let a := v.ev o o.va e
      let b := v.ev o o.vb e
      (e, if a.isNan || b.isNan then decide (o.sub = 1 ∨ o.sub = 6) else match o.sub.toNat with
        | 0 => a.eqv b | 1 => !a.eqv b | 2 => a.ltv b | 3 => !b.ltv a | 4 => b.ltv a | 5 => !a.ltv b | _ => false)) ∧
    sets (.vplog k o) 0x12 ((List.range o.n).map fun e =>
      let a := r.pred o.ps.toNat e
      let b := r.pred (o.pm.toNat % 8) e
      (e, match o.sub.toNat with
        | 0 => a && b | 1 => a || b | 2 => a != b | 3 => a && !b | 4 => !a | 5 => true | _ => false)) ∧
    (ready 0x18 → ∃ t, exec (.vcvtw k o) s = .next t ∧ Only [.atolls] s t ∧ ∀ e ∈ r.lanes o,
      let x := v.word o.va.toNat e
      let h := v.half o.va.toNat e o.hi
      let w := (t.atl k).vec
      (o.sub = 0 → w.half o.vd.toNat e o.hi = bf16.enc (fp32.val x) % 2 ^ 16) ∧
      (o.sub = 1 → w.word o.vd.toNat e = fp32.enc (bf16.val h) % 2 ^ 32) ∧
      (o.sub = 2 → w.half o.vd.toNat e o.hi = fp16.enc (fp32.val x) % 2 ^ 16) ∧
      (o.sub = 3 → w.word o.vd.toNat e = fp32.enc (fp16.val h) % 2 ^ 32) ∧
      (o.sub = 4 → w.word o.vd.toNat e = fp32.enc (Val.ofQ ⟨signed 32 x, 1⟩) % 2 ^ 32) ∧
      (o.sub = 5 → w.word o.vd.toNat e = cvtw 5 x % 2 ^ 32)) ∧
    (ready 0x19 → ∃ t, exec (.viota k o) s = .next t ∧ Only [.atolls] s t ∧ ∀ e ∈ r.lanes o,
      (t.atl k).vec.word o.vd.toNat e = (r.sv o.sa + e * r.sv o.sb) % 2 ^ 32) ∧
    (ready 0x20 → s.lagErr k (r.sv o.sa) o.lagSize = false → ∃ t, exec (.vld k o) s = .next t ∧ Only [.regs, .atolls] s t ∧
      ∀ e ∈ r.lanes o,
        let a := r.sv o.sa
        let w := (t.atl k).vec
        (o.sub = 0 → w.word o.vd.toNat e = s.lagNum k (a + 4 * e) 4) ∧
        (o.sub = 1 → w.half o.vd.toNat e o.hi = s.lagNum k (a + 2 * e) 2) ∧
        (o.sub = 2 → w.word o.vd.toNat e = fp32.enc (bf16.val (s.lagNum k (a + 2 * e) 2)) % 2 ^ 32) ∧
        (o.sub = 3 → w.word o.vd.toNat e = fp32.enc (fp16.val (s.lagNum k (a + 2 * e) 2)) % 2 ^ 32)) ∧
    (ready 0x20 → s.lagErr k (r.sv o.sa) o.lagSize = true →
      exec (.vld k o) s = .next ((s.issued k 0x20 o).lagFault k)) ∧
    (ready 0x21 → o.sb = 0 → exec (.vst k o) s = .next ((s.issued k 0x21 o).vStore k r o)) ∧
    (ready 0x21 → o.sb = 0 → s.lagErr k (r.sv o.sa) o.lagSize = false → ∃ t, exec (.vst k o) s = .next t ∧
      Only [.regs, .atolls] s t ∧
      let a := r.sv o.sa
      let size := if o.sub = 0 then 4 else 2
      (∀ e ∈ r.lanes o,
        (o.sub = 0 → t.lagNum k (a + 4 * e) 4 = v.word o.va.toNat e) ∧
        (o.sub = 1 → t.lagNum k (a + 2 * e) 2 = v.half o.va.toNat e o.hi) ∧
        (o.sub = 2 → t.lagNum k (a + 2 * e) 2 = bf16.enc (fp32.val (v.word o.va.toNat e)) % 2 ^ 16) ∧
        (o.sub = 3 → t.lagNum k (a + 2 * e) 2 = fp16.enc (fp32.val (v.word o.va.toNat e)) % 2 ^ 16)) ∧
      (∀ b : Nat, (∀ e ∈ r.lanes o, b < a + size * e ∨ a + size * e + size ≤ b) →
        SMap.get lagDefault (t.atl k).strm.lag b = SMap.get lagDefault (s.atl k).strm.lag b)) ∧
    (ready 0x21 → o.sb ≠ 0 → exec (.vst k o) s = .next ((s.issued k 0x21 o).vConvert k r o)) ∧
    (ready 0x34 → exec (.vgather k o) s = .next (((s.issued k 0x34 o).putElems k o ((r.lanes o).map fun e =>
      let x := v.word o.vb.toNat e
      (e, if x < o.n then v.elem o o.va x else 0))).oob k
        (((r.lanes o).filter fun e => decide (o.n ≤ v.word o.vb.toNat e)).length))) ∧
    (ready 0x35 → exec (.vscatter k o) s = .next (((s.issued k 0x35 o).putElems k o
      (((r.lanes o).map fun e => (v.word o.vb.toNat e, v.elem o o.va e)).filter fun e => decide (e.1 < o.n))).oob k
        (((r.lanes o).filter fun e => decide (o.n ≤ v.word o.vb.toNat e)).length))) ∧
    (ready 0x40 → s.lagErr k (r.sv o.sa) 8256 = false → ∃ t, exec (.vtload k o) s = .next t ∧
      (t.atl k).vec.tabOk o.tab.toNat = (s.readTab k (r.sv o.sa)).isSome ∧
      t.flag (F.VEC_TAB_VALID k o.tab.toNat) = (s.readTab k (r.sv o.sa)).isSome ∧ Only [.regs, .atolls] s t) ∧
    (ready 0x40 → s.lagErr k (r.sv o.sa) 8256 = true →
      exec (.vtload k o) s = .next ((s.issued k 0x40 o).lagFault k)) ∧
    (let tab (d : Bool) (e : Nat) := tabEval (v.pair o.tab.toNat) d (v.ev o o.va e)
     (ready 0x41 → exec (.vfun k o) s = .next (((s.issued k 0x41 o).putElems k o ((r.lanes o).map fun e =>
        (e, o.ff.enc (tab false e).1))).countRange k ((r.lanes o).map fun e => (tab false e).2))) ∧
     (ready 0x42 → exec (.vdfun k o) s = .next (((s.issued k 0x42 o).putElems k o ((r.lanes o).map fun e =>
        (e, o.ff.enc ((tab true e).1.mul (v.ev o o.vb e))))).countRange k ((r.lanes o).map fun e => (tab true e).2))))

/-- R193. -/
def Obligations.AccumulatorFinished : Prop :=
  fp32.enc XaSt.zero.val = 0 ∧
  ∀ (s : State) (k : Atoll) (o : VOp), s.running k = true → o.hi = false → o.ext = 0 →
    ∃ t, exec (.vxfin k o) s = .next t ∧
      (o.sd ≠ 0 → (t.atl k).seq.r.sv o.sd % 2 ^ 32 = fp32.enc (s.xa k o.xi.toNat).val % 2 ^ 32) ∧
      (t.atl k).seq.r.sv 0 = 0 ∧ (∀ i : SReg, i ≠ o.sd → (t.atl k).seq.r.sv i = (s.atl k).seq.r.sv i) ∧
      (o.clr = true → t.xa k o.xi.toNat = XaSt.zero ∧ XaSt.zero.count = 0) ∧
      (∀ i : Nat, i ≠ o.xi.toNat ∨ o.clr = false → t.xa k i = s.xa k i) ∧ (t.atl k).vec.v = (s.atl k).vec.v ∧
      (∀ j : Atoll, j ≠ k → t.atl j = s.atl j) ∧ Only [.atolls] s t

/-- R188-R195, R198, R205-R208, R244-R249. -/
def Obligations.VectorSums : Prop :=
  ∀ (s : State) (k : Atoll) (o : VOp),
    let v := (s.atl k).vec
    let r := (s.atl k).seq.r
    let ready (op : Nat) : Prop := s.accepts k (s.vecBad k r op o) (s.vecStalls k r op o)
    let l := (r.lanes o).map fun e => v.ev o o.va e
    let sum (l : List Val) : Nat := fp32.enc (l.foldl XaSt.add XaSt.zero).val
    (ready 0x28 →
      let u := s.issued k 0x28 o
      (o.sub = 0 → exec (.vred k o) s = .next (if o.acc then u.xaAdd k o.xi.toNat l else u.setS k o.sd (sum l))) ∧
      (o.sub = 1 → exec (.vred k o) s = .next (if o.acc then u.xaAdd k o.xi.toNat (l.map fun x => x.mul x)
        else u.setS k o.sd (sum (l.map fun x => x.mul x)))) ∧
      (o.sub = 2 → exec (.vred k o) s = .next (u.setS k o.sd (fp32.enc (l.foldl Val.maxv (.inf true))))) ∧
      (o.sub = 3 → exec (.vred k o) s = .next (u.setS k o.sd (fp32.enc (l.foldl Val.minv (.inf false))))) ∧
      (o.sub = 4 ∨ o.sub = 5 → exec (.vred k o) s = .next (u.setS k o.sd (argExtreme (o.sub == 4) ((r.lanes o).zip l))))) ∧
    (ready 0x2A → exec (.vnorm k o) s = .next ((s.issued k 0x2A o).vNorm k r o)) ∧
    (ready 0x30 → exec (.vscan k o) s = .next ((s.issued k 0x30 o).vScan k r o) ∧
      (o.sub = 0 → o.incl = true → o.rev = false → o.carry = false → (∀ e, e < o.n → r.pred o.ps.toNat e = false) →
        ∃ t, exec (.vscan k o) s = .next t ∧ ∀ e ∈ r.lanes o, (t.atl k).vec.elem o o.vd e =
          o.ff.enc ((((r.lanes o).filter (· ≤ e)).map fun i => v.ev o o.va i).foldl XaSt.add XaSt.zero).val
            % 2 ^ (if o.bf then 16 else 32))) ∧
    (ready 0x38 → exec (.vsoftmax k o) s = .next ((s.issued k 0x38 o).vSoft k r o false)) ∧
    (ready 0x39 → exec (.vlse k o) s = .next ((s.issued k 0x39 o).vSoft k r o true)) ∧
    (ready 0x48 → exec (.vrand k o) s = .next ((s.issued k 0x48 o).vRand k r o) ∧
      (let i := r.sv o.sa
       let w := (s.gcgGet k i).1
       let c := s.gcgCtr k i w
       ∀ x, o.sub = 0 → (s.atl k).seq.slice = some x → ∃ t y, exec (.vrand k o) s = .next t ∧
         (∀ e ∈ r.lanes o, (t.atl k).vec.word o.vd.toNat e =
           gcgDraw (byteFld w 0 8) (byteFld w 8 8) ((c + e) % 2 ^ 64) % 2 ^ 32) ∧
         (t.atl k).seq.slice = some y ∧ (i, (c + o.n) % 2 ^ 64) ∈ y.gcg)) ∧
    (ready 0x4C → let h := foldDigest (r.sv o.sa) ((List.range o.n).flatMap fun e => bytesOf 4 (v.word o.va.toNat e))
      exec (.vdigest k o) s = .next (((s.issued k 0x4C o).setS k o.sd (r.sv o.sd + h.1.toNat)).setS k (o.sd + 1)
        (Nat.xor (r.sv (o.sd + 1)) h.2.toNat))) ∧
    (ready 0x50 → exec (.vlsq k o) s = .next ((s.issued k 0x50 o).vLsq k r o)) ∧
    (ready 0x51 → exec (.vlsqf k o) s = .next ((s.issued k 0x51 o).vLsqf k r o) ∧
      ∃ t, exec (.vlsqf k o) s = .next t ∧ t.xa k o.xi.toNat = XaSt.zero) ∧
    (let p : VOp := { o with sub := 0 }
     s.accepts k (s.vecBad k r 0x58 p) false → s.updErr k r p = false →
      exec (.vupdUpdate k o) s = .next ((s.issued k 0x58 p).vUpdate k r p)) ∧
    (let p : VOp := { o with sub := 0 }
     s.accepts k (s.vecBad k r 0x58 p) false → s.updErr k r p = true →
      exec (.vupdUpdate k o) s = .next ((s.issued k 0x58 p).lagFault k)) ∧
    (let p : VOp := { o with sub := 1 }
     s.accepts k (s.vecBad k r 0x58 p) false →
      (s.lagErr k (r.sv o.sa) 128 = true → exec (.vupdFinish k o) s = .next ((s.issued k 0x58 p).lagFault k)) ∧
      ∀ x, s.lagErr k (r.sv o.sa) 128 = false → (s.atl k).seq.slice = some x →
      let d := s.xa k o.xi.toNat
      let e := s.xa k (o.xi.toNat + 1)
      ∃ t y, exec (.vupdFinish k o) s = .next t ∧ (t.atl k).seq.slice = some y ∧
        y.finishes = x.finishes ++ [⟨r.sv o.sa, o.xi.toNat, d, e⟩] ∧
        (o.sd ≠ 0 → (t.atl k).seq.r.sv o.sd =
          (if d.count = byteFld (s.updRec k (r.sv o.sa)) 80 4 then updRatio d e else 0x7FC00000) % 2 ^ 64) ∧
        Only [.regs, .atolls] s t) ∧
    (∀ d : DrainOp, s.accepts k (s.drainBad k d) (s.drainStalls k r d) →
      exec (.vdrain k d) s = .next ((s.onSeq k fun q => { q with stalled := false }).drain k r d) ∧
      (let m := (s.atl k).arr
       let b := m.region d.bank
       let g := r.sv d.sa
       ∀ f ops, d.cnt = 255 → d.interp = 3 → g < b.groups → v.drained = none → m.group d.bank g = .readable f ops →
        ∃ t, exec (.vdrain k d) s = .next t ∧ (∀ j : Atoll, j ≠ k → t.atl j = s.atl j) ∧ ∀ c, c < 256 →
         (t.atl k).vec.word d.vd.toNat c =
           if b.cols ≤ 256 * (g % b.blocks) + c then 0
           else m.wordAfter ops d.bank (g / b.blocks) (256 * (g % b.blocks) + c) % 2 ^ 32)) ∧
    (∀ d : DrainOp,
      (s.running k = false → exec (.vdrain k d) s = .next (s.refuse k 2)) ∧
      (∀ t, s.running k = true → s.drainBad k d = some t → exec (.vdrain k d) s = .next t) ∧
      (s.running k = true → s.drainBad k d = none → s.drainStalls k r d = true →
        exec (.vdrain k d) s = .next ((s.onSeq k fun q => { q with stalled := true }).drainPart k r d))) ∧
    ∀ e ∈ [(0x01, o, Instr.vadd k o), (0x02, o, .vsub k o), (0x03, o, .vmul k o), (0x04, o, .vfma k o), (0x05, o, .vdiv k o),
        (0x06, o, .vsqrt k o), (0x07, o, .vrsqrt k o), (0x08, o, .vexp k o), (0x09, o, .vlog k o), (0x0A, o, .vmax k o),
        (0x0B, o, .vmin k o), (0x0C, o, .vabs k o), (0x0D, o, .vneg k o), (0x0E, o, .vscalb k o), (0x10, o, .vcmp k o),
        (0x11, o, .vsel k o), (0x12, o, .vplog k o), (0x18, o, .vcvtw k o), (0x19, o, .viota k o), (0x20, o, .vld k o),
        (0x21, o, .vst k o), (0x28, o, .vred k o), (0x29, o, .vxfin k o), (0x2A, o, .vnorm k o), (0x30, o, .vscan k o),
        (0x34, o, .vgather k o), (0x35, o, .vscatter k o), (0x38, o, .vsoftmax k o), (0x39, o, .vlse k o),
        (0x40, o, .vtload k o), (0x41, o, .vfun k o), (0x42, o, .vdfun k o), (0x48, o, .vrand k o), (0x4C, o, .vdigest k o),
        (0x50, o, .vlsq k o), (0x51, o, .vlsqf k o), (0x58, { o with sub := 0 }, .vupdUpdate k o),
        (0x58, { o with sub := 1 }, .vupdFinish k o)],
      let u := s.flowNote k (vldReads r e.1 e.2.1)
      (s.running k = false → exec e.2.2 s = .next (u.refuse k 2)) ∧
      (∀ t, s.running k = true → u.vecBad k r e.1 e.2.1 = some t → exec e.2.2 s = .next t) ∧
      (s.running k = true → u.vecBad k r e.1 e.2.1 = none → u.vecStalls k r e.1 e.2.1 = true →
        exec e.2.2 s = .next (u.onSeq k fun q => { q with stalled := true }))

/-- R393, R397, R403, R407, R408. -/
def Obligations.PointsWithinATide : Prop :=
  ∀ (s : State) (k : Atoll) (temp : Int) (w v : Nat),
    let pt (u : State) (j : Atoll) : Nat := u.fld (F.PWR_ATL_SET_PT j)
    let lower (p : Nat) : Nat := if p = 15 then 15 else p - 1
    let low := s.flag F.PWR_STAT_VIN_LOW
    let thr := 16 * (s.fld F.THERM_LIM_THROTTLE : Int)
    let clock (e : Instr) (d : Bool) (r : Nat) : Prop :=
      ∃ t, exec e s = .next t ∧ (t.atl k).pwr.droop = d ∧ (t.atl k).pwr.runPt = r ∧
        t.fld (F.PWR_ATL_SET_MHZ k) = (if d then pointMHz r / 2 else pointMHz r) % 2 ^ 12 ∧ pt t k = pt s k ∧
        SameRegs [R.PWR_ATL_SET k] s t ∧ Only [.regs, .atolls] s t
    (w ≤ s.fld F.PWR_CAP_WATTS → low = false ∨ 47500 ≤ v → exec (.limiterWindow w v []) s = .next s) ∧
    (s.fld F.PWR_CAP_WATTS < w → low = false ∨ 47500 ≤ v →
      ∀ j, s.highest (s.serving.map fun j => (j, (s.atl j).pwr.base, pt s j)) = some j →
      ∃ t, exec (.limiterWindow w v []) s = .next t ∧ pt t j = pt s j - 1 ∧ pt s j ≠ 0 ∧
        t.fld (F.PWR_ATL_SET_REASON j) = 4 ∧ (∀ i : Atoll, i ≠ j → pt t i = pt s i) ∧
        (t.fld (F.PG_EVT_CAUSE_CAUSE (pageBase 0x03 0))).testBit 1 = true ∧ Only [.sent, .regs, .irq, .atolls] s t) ∧
    (s.fld F.PWR_CAP_WATTS < w → low = false ∨ 47500 ≤ v →
      s.highest (s.serving.map fun j => (j, (s.atl j).pwr.base, pt s j)) = none →
      exec (.limiterWindow w v []) s = .next s) ∧
    (low = true → v < 47500 → ∀ u, exec (.limiterWindow w 47500 []) s = .next u → ∃ t, exec (.limiterWindow w v []) s = .next t ∧
      (∀ j : Atoll, pt t j = if s.inService j then lower (pt u j) else pt u j) ∧ Only [.regs, .atolls] u t) ∧
    (w ≤ s.fld F.PWR_CAP_WATTS → low = true → v < 47500 → ∃ t, exec (.limiterWindow w v []) s = .next t ∧
      (∀ j : Atoll, pt t j = if s.inService j then lower (pt s j) else pt s j) ∧ Only [.regs, .atolls] s t) ∧
    (∀ l u, exec (.limiterWindow w v l) s = .next u →
      (u.inService k = false ∨ pt u k = 0 ∨ pt u k = 15 → exec (.limiterWindow w v (l ++ [k])) s = .next u) ∧
      (u.inService k = true → pt u k ≠ 0 → pt u k ≠ 15 → ∃ t, exec (.limiterWindow w v (l ++ [k])) s = .next t ∧
        pt t k = pt u k - 1 ∧ t.fld (F.PWR_ATL_SET_REASON k) = 4 ∧ (∀ i : Atoll, i ≠ k → pt t i = pt u i) ∧
        (t.fld (F.PG_EVT_CAUSE_CAUSE (pageBase 0x03 0))).testBit 1 = true ∧ Only [.sent, .regs, .irq, .atolls] u t)) ∧
    (v < 47500 ∧ low = false → exec (.vinLow v) s = .next ((s.setFld F.PWR_STAT_VIN_LOW 1).raise 0x03 0 2)) ∧
    (47500 ≤ v ∨ low = true → exec (.vinLow v) s = .next s) ∧
    (∃ t, exec .senseFault s = .next t ∧ t.fld F.PWR_STAT_SENSE_LOCAL = 1 ∧
      (t.fld (F.PG_EVT_CAUSE_CAUSE (pageBase 0x03 0))).testBit 3 = true ∧ (t.rd R.MGMT_ALERT_CAUSE).testBit 5 = true ∧
      Only [.sent, .regs, .irq, .rst] s t) ∧
    (temp < thr → exec (.throttle k temp) s = .next s) ∧
    (thr ≤ temp → ∃ t, exec (.throttle k temp) s = .next t ∧ (t.fld F.THERM_STAT_THROTTLED).testBit k = true ∧
      pt t k = lower (pt s k) ∧ (3, lower (pt s k)) ∈ (t.atl k).pwr.reasons ∧
      (∀ i : Atoll, i ≠ k → pt t i = pt s i) ∧ Only [.sent, .regs, .irq, .atolls] s t) ∧
    (temp < 1840 ∨ (s.fld F.THERM_STAT_TRIPPED).testBit k = true → exec (.trip k temp) s = .next s) ∧
    (1840 ≤ temp → (s.fld F.THERM_STAT_TRIPPED).testBit k = false → ∃ t, exec (.trip k temp) s = .next t ∧
      (t.fld F.THERM_STAT_TRIPPED).testBit k = true ∧ pt t k = 15 ∧ (t.atl k).pwr.runPt = 15 ∧
      t.fld (F.PWR_ATL_SET_MHZ k) = 0 ∧ t.fld (F.PWR_ATL_SET_REASON k) = 3 ∧
      t.fld F.THERM_CNT_TRIP = min (s.fld F.THERM_CNT_TRIP + 1) 0xFFFFFFFF ∧
      (t.rd R.MGMT_ALERT_CAUSE).testBit 3 = true ∧ Only [.sent, .regs, .irq, .atolls, .rst] s t) ∧
    clock (.droop k) true (s.atl k).pwr.runPt ∧ clock (.droopRelease k) false (s.atl k).pwr.runPt ∧
    clock (.setpointReached k) (s.atl k).pwr.droop (pt s k)

/-- R408-R411. -/
def Obligations.CoolantStops : Prop :=
  ∀ (s : State) (x : Stack) (temp : Int) (d : OtherDie),
    let thr : Int := s.fld F.THERM_LIM_STACK_THR
    let hot := s.pwr.hot.contains x.val
    let inStop := s.flag F.THERM_STAT_COOLANT_STOP
    let event (t : State) (b : Nat) : Prop := (t.fld (F.PG_EVT_CAUSE_CAUSE (pageBase 0x04 0))).testBit b = true
    let stops (e : Instr) (other : Nat) : Prop :=
      ∃ t, exec e s = .next t ∧ t.fld F.THERM_STAT_COOLANT_STOP = 1 ∧ t.fld F.THERM_STAT_OTHER_TRIP = other ∧
        t.fld F.HOLM_STATE_STATE = 3 ∧ event t 2 ∧ (t.rd R.MGMT_ALERT_CAUSE).testBit 2 = true ∧ t.tide.running = false ∧
        (∀ k : Atoll, t.fld (F.PWR_ATL_SET_PT k) = 15 ∧ (t.atl k).seq.entry = none ∧ (t.atl k).seq.slice = none) ∧
        (∀ p : PortIx, t.fld (F.PORT_STAT_UP p) = 0) ∧ t.sent.getLast? = some (.msix 0) ∧
        Only [.sent, .regs, .irq, .waits, .tide, .atolls, .ports, .sound, .ckpt, .rst] s t
    (hot = false → thr * 16 ≤ temp → ∃ t, exec (.stackHot x temp) s = .next t ∧ x.val ∈ t.pwr.hot ∧ event t 3 ∧
      Only [.sent, .regs, .irq, .pwr] s t) ∧
    (hot = true → temp < (thr - 3) * 16 → ∃ t, exec (.stackHot x temp) s = .next t ∧ x.val ∉ t.pwr.hot ∧ event t 3 ∧
      Only [.sent, .regs, .irq, .pwr] s t) ∧
    ((hot = false ∧ temp < thr * 16) ∨ (hot = true ∧ (thr - 3) * 16 ≤ temp) → exec (.stackHot x temp) s = .next s) ∧
    (inStop = true ∨ s.fld F.RST_BRING_STAGE < 4 → exec .coolant s = .next (s.setFld F.THERM_STAT_COOL_OK 0)) ∧
    (inStop = false → 4 ≤ s.fld F.RST_BRING_STAGE → stops .coolant 0) ∧
    (inStop = false → stops (.otherTrip d) 1) ∧
    (inStop = true → exec (.otherTrip d) s = .next (match d with | .stack _ => s | _ => s.bump F.THERM_CNT_TRIP)) ∧
    (∀ l, inStop = false → exec (.stackLost l) s = .next s) ∧
    (inStop = true →
      (∃ t, exec (.stackLost (.stack x)) s = .next t ∧ t.fld F.THERM_STAT_STACK_LOST = 1 ∧
        (∀ a : Nat, SMap.get memDefault t.mem a =
          if a / 2 ^ 28 / 768 = x.val / 6 ∧ a / 2 ^ 28 % 768 % 6 = x.val % 6 then 0 else SMap.get memDefault s.mem a) ∧
        Only [.sent, .regs, .mem] s t) ∧
      exec (.stackLost .harbour) s = .next (s.emit (.railOff 72)) ∧
      (∃ t, exec (.stackLost .holm) s = .next t ∧ t.rst.power = false ∧ t.mem = [] ∧ t.pending = s.pending)) ∧
    exec .coolRestored s = .next ((s.setFld F.THERM_STAT_COOL_OK 1).raise 0x04 0 4)

/-- R425, with what R411 says of a reset that arrives during a coolant stop. -/
def Obligations.ResetDuringBringUp : Prop :=
  ∀ (s : State) (n : Nat), s.rst.power = true → s.rst.asserted = false → 1000 ≤ n →
    let anew (e : Instr) : Prop := ∃ t, exec e s = .next t ∧ t.fld F.RST_BRING_STAGE = 1 ∧ t.fld F.RST_BRING_FAILED = 0 ∧
      t.fld F.HOLM_STATE_STATE = 0
    (s.rst.wdog = true → anew .watchdog) ∧
    (s.takesWrites 0x06 0 → s.unlocked 0x06 0 → anew .moduleReset) ∧
    anew (.brdResetN true n) ∧
    (s.flag F.THERM_STAT_COOLANT_STOP = true → ∃ t, exec (.brdResetN true n) s = .next t ∧
      t.flag F.THERM_STAT_COOLANT_STOP = false ∧ t.flag F.THERM_STAT_COOL_OK = s.flag F.THERM_STAT_COOL_OK ∧
      t.mem = s.mem ∧ t.poison = s.poison) ∧
    (∀ o : StageOutcome, s.fld F.RST_BRING_STAGE = 3 → s.fld F.HOLM_STATE_STATE = 0 → s.flag F.RST_BRING_FAILED = false →
      s.flag F.THERM_STAT_COOL_OK = false → ∃ t, exec (.bringupStage o) s = .next t ∧ t.fld F.HOLM_STATE_STATE = 3 ∧
      t.fld F.RST_BRING_FAILED = 1 ∧ t.fld F.RST_BRING_STAGE = 3 ∧ t.atolls = s.atolls)

/-- R28, R426, R431, R433, R436. -/
def Obligations.BringUpStages : Prop :=
  ∀ (s : State) (o : StageOutcome),
    let n := max 1 (s.fld F.RST_BRING_STAGE)
    let goes := s.rst.power = true ∧ s.rst.asserted = false ∧ s.flag F.RST_BRING_FAILED = false ∧
      s.fld F.HOLM_STATE_STATE = 0 ∧ (n = 9 → 8 ≤ s.rst.marks)
    let fails := (n ≠ 7 ∧ o.done = false) ∨ o.fatal = true ∨ (n = 3 ∧ s.flag F.THERM_STAT_COOL_OK = false)
    let bad := s.badImage o.badImage (stageImages n)
    let ends (p : State → Prop) : Prop := ∃ t, exec (.bringupStage o) s = .next t ∧
      t.rd (R.RST_STAGE_T (n - 1)) = min s.rst.since 0xFFFFFFFF ∧ t.fld F.RST_BRING_STAGE = min 9 (n + 1) ∧ p t
    (¬ goes → exec (.bringupStage o) s = .next s) ∧
    (goes → fails → ∃ t, exec (.bringupStage o) s = .next t ∧ t.fld F.RST_BRING_FAILED = 1 ∧ t.fld F.HOLM_STATE_STATE = 3 ∧
      Only [.sent, .regs, .irq, .rst] s t) ∧
    (∀ c, goes → ¬ fails → bad = some c → ∃ t, exec (.bringupStage o) s = .next t ∧ t.rst.need = c ∧
      t.fld F.MGMT_REC_STAT_NEED = c ∧ t.fld F.HOLM_STATE_STATE = 2 ∧ Only [.sent, .regs, .irq, .rst] s t) ∧
    (goes → ¬ fails → bad = none →
      let w := s.stageWork n o
      let u := if 3 ≤ n ∧ n ≤ 5 then w.each o.lost fun s k => s.loseAtoll k (lossCause n) else w
      let v := if n = 7 ∧ o.done = false then u.setFld F.RST_BRING_STAGE 8 else u.stageEnd n
      exec (.bringupStage o) s = .next (if u.beyondRepair then u.halted
        else if n = 1 ∧ v.fld F.RST_CAUSE_WDOG_RUN = 3 then v.waitFirmware 1 else v)) ∧
    (goes → ¬ fails → bad = none → s.beyondRepair = false →
      (n = 1 → s.fld F.RST_CAUSE_WDOG_RUN ≠ 3 → ends fun t =>
        t.fld F.RST_STRAP_RATIO = o.strap.toNat ∧
        (4096 ≤ 36 * o.strap.toNat → 36 * o.strap.toNat < 33 * 4096 → t.fld F.HOLM_SLOT_READING = 0 ∧
          t.fld F.HOLM_SLOT_SLOT = (36 * o.strap.toNat - 4096) / 8192)) ∧
      (n = 2 → ends fun t => t.rst.wdog = true ∧ t.rst.kick = s.now ∧
        t.fld F.HOLM_BOOT_COUNT = (s.fld F.HOLM_BOOT_COUNT + 1) % 2 ^ 32 ∧
        t.fld F.SEC_STAT_ID_OK = if o.identityOk then 1 else 0) ∧
      (n = 8 → ends fun t => t.tide.running = true ∧ t.tide.phase = 0) ∧
      (n = 9 → ends fun t => t.ready = true ∧ t.fld F.RST_CAUSE_WDOG_RUN = 0 ∧ t.fld F.SNDCTX_STAT_PHASE = 1))

/-- R11: constants of the Reset columns. -/
def Obligations.ResetRegisters : Prop :=
  let s := State.reset
  s.fld F.TIDE_LEN_LEN = 12500 ∧ s.fld F.TIDE_GRACE_PCT = 5 ∧ s.fld F.TIDE_REISSUE_MAX = 3 ∧ s.fld F.TIDE_COUNT_COUNT = 0 ∧
  s.fld F.PWR_CAP_WATTS = 4500 ∧ s.fld F.THERM_LIM_STOP = 115 ∧ s.fld F.THERM_LIM_STACK_THR = 95 ∧
  s.fld F.THERM_LIM_THROTTLE = 100 ∧ s.fld F.RST_WDOG_PERIOD = 256 ∧ s.fld F.RST_CAUSE_CAUSE = 1 ∧
  s.fld F.MGMT_ADDR_STATIC = 0x3A ∧ s.fld F.HOLM_STATE_STATE = 0 ∧ s.fld F.CKPT_CTL_LAYERS = 2 ∧
  s.fld F.SNDCTX_RAMP_LEFT = 1024 ∧
  (∀ k : Atoll, s.fld (F.ARR_GEOM_ROWS k) = 1024 ∧ s.fld (F.MC_SCRUB_PERIOD k) = 4096 ∧ s.rd (R.STRM_WHEEL k) = 0x12041204 ∧
    s.fld (F.LAG_TOP_TOP k) = 0x20000000 ∧ s.rd (R.CWY_WHEEL k) = 0xD191D191) ∧
  (∀ p : PortIx, s.fld (F.PORT_RETRAIN_PERIOD p) = 0x10000 ∧ s.fld (F.PORT_MTU_BYTES p) = 9216 ∧
    s.fld (F.SND_RTO_CYCLES p) = 5000 ∧ s.fld (F.SND_RETRY_MAX p) = 15)

/-- R68, R441; a private write of a length that R441 does not give is the model's (log 94, DESIGN CHOICE). -/
def Obligations.ManagementTarget : Prop :=
  ∀ (s : State) (a b : BitVec 7) (l : List Byte) (x : SlowSensors),
    let off := ofBytes (l.take 4)
    let set := { s with rst := { s.rst with i3cOff := off } }
    let e := (s.slowEdges + 1) % 65536
    let named (c : Instr) : Prop := ∃ t, exec c s = .next t ∧ t.fld F.MGMT_ADDR_DYN = a.toNat ∧
      t.fld F.MGMT_ADDR_DYN_VALID = 1 ∧ t.fld F.MGMT_ADDR_STATIC = s.fld F.MGMT_ADDR_STATIC ∧
      SameRegs [R.MGMT_ADDR] s t ∧ Only [.regs] s t
    named (.entdaa a) ∧ (b.toNat = s.fld F.MGMT_ADDR_STATIC → named (.setdasa b a)) ∧
    (b.toNat ≠ s.fld F.MGMT_ADDR_STATIC → exec (.setdasa b a) s = .next s) ∧
    (l.length = 4 → exec (.i3cPrivateWrite l) s = .next set) ∧
    (l.length = 8 → s.rst.power = false ∨ s.rst.asserted = true → exec (.i3cPrivateWrite l) s = .next set) ∧
    (l.length = 8 → s.rst.power = true → s.rst.asserted = false →
      exec (.i3cPrivateWrite l) s = .next (if i3cWrites off then set.regWrite .i3c off 4 (ofBytes (l.drop 4))
        else set.bump F.MGMT_CNT_DENIED)) ∧
    (l.length ≠ 4 → l.length ≠ 8 → exec (.i3cPrivateWrite l) s = .next s) ∧
    (s.rst.power = true → s.rst.asserted = false → accessOk s.rst.i3cOff 4 = true → pageListed s.rst.i3cOff = true →
      ∃ t, exec .i3cPrivateRead s = .next t ∧ t.sent = s.sent ++ [.i3c (bytesOf 4 (s.readWord s.rst.i3cOff))] ∧
      t.rst.i3cOff = (s.rst.i3cOff + 4) % 2 ^ 32 ∧ Only [.sent, .regs, .rst] s t) ∧
    (let i := s.rst.i3cOff
     let answers (u : State) : Prop := exec .i3cPrivateRead s = .next ((u.emit (.i3c (bytesOf 4 0))).onRst fun r =>
       { r with i3cOff := (r.i3cOff + 4) % 2 ^ 32 })
     (s.rst.power = false ∨ s.rst.asserted = true → answers s) ∧
     (s.rst.power = true → s.rst.asserted = false →
      (accessOk i 4 = false → answers (s.accessErr i true false)) ∧
      (accessOk i 4 = true → pageListed i = false → answers (s.accessErr i false false)))) ∧
    (∃ t, exec (.slowClockEdge x) s = .next t ∧ t.slowEdges = e ∧
      t.rd R.PWR_INPUT = e * 2 ^ 48 + x.vin.toNat * 2 ^ 32 + x.iin.toNat * 2 ^ 16 + x.pin.toNat ∧
      (∀ (n : Nat) (v : BitVec 16),
        (n < 8 → x.atollTemp[n]? = some v → t.rd (R.THERM_ATL n) / 2 ^ 48 = e ∧ t.rd (R.THERM_ATL n) % 2 ^ 16 = v.toNat) ∧
        (n < 6 → x.portTemp[n]? = some v → t.rd (R.THERM_PORT n) / 2 ^ 48 = e ∧
          t.rd (R.THERM_PORT n) % 2 ^ 16 = v.toNat) ∧
        (n < 48 → x.stackTemp[n]? = some v → t.rd (R.SHOAL_TEMP n) = e * 2 ^ 48 + v.toNat)) ∧
      (t.rd R.THERM_HBR / 2 ^ 48 = e ∧ t.rd R.THERM_HBR % 2 ^ 16 = x.harbour.toNat) ∧
      (t.rd R.THERM_HOLM / 2 ^ 48 = e ∧ t.rd R.THERM_HOLM % 2 ^ 16 = x.holm.toNat) ∧ Only [.regs, .edges] s t)
end

