-- ==== Sys2Proof/Laws/Bits.lean ====
section
/-! SUPPORT. Laws of the bit-field helpers of Machine/Map.lean. -/

namespace Sys2Proof.Machine

theorem testBit_bits (v hi lo i : Nat) : (bits v hi lo).testBit i = (decide (i < hi + 1 - lo) && v.testBit (lo + i)) := by
  rw [bits, Nat.testBit_mod_two_pow, Nat.testBit_div_two_pow, Nat.add_comm i lo]

theorem bits_lt (v hi lo : Nat) : bits v hi lo < 2 ^ (hi + 1 - lo) := Nat.mod_lt _ (Nat.two_pow_pos _)

/-- A number cut at `lo` and at `hi + 1`. -/
theorem bits_split (v hi lo : Nat) (h : lo ≤ hi + 1) :
    v = v / 2 ^ (hi + 1) * 2 ^ (hi + 1) + bits v hi lo * 2 ^ lo + v % 2 ^ lo := by
  have e : 2 ^ (hi + 1) = 2 ^ (hi + 1 - lo) * 2 ^ lo := by rw [← Nat.pow_add, Nat.sub_add_cancel h]
  have h1 : v / 2 ^ (hi + 1) = v / 2 ^ lo / 2 ^ (hi + 1 - lo) := by rw [Nat.div_div_eq_div_mul, e, Nat.mul_comm]
  have h2 := Nat.div_add_mod v (2 ^ lo)
  have h3 := Nat.div_add_mod (v / 2 ^ lo) (2 ^ (hi + 1 - lo))
  rw [bits, h1, e]
  calc v = 2 ^ lo * (v / 2 ^ lo) + v % 2 ^ lo := h2.symm
    _ = 2 ^ lo * (2 ^ (hi + 1 - lo) * (v / 2 ^ lo / 2 ^ (hi + 1 - lo)) + v / 2 ^ lo % 2 ^ (hi + 1 - lo)) + v % 2 ^ lo := by
      rw [h3]
    _ = _ := by ring

theorem withBits_eq (v hi lo x : Nat) (h : lo ≤ hi + 1) :
    withBits v hi lo x = v / 2 ^ (hi + 1) * 2 ^ (hi + 1) + x % 2 ^ (hi + 1 - lo) * 2 ^ lo + v % 2 ^ lo := by
  have hs := bits_split v hi lo h
  rw [withBits]
  generalize v / 2 ^ (hi + 1) * 2 ^ (hi + 1) = a at *
  generalize bits v hi lo * 2 ^ lo = b at *
  omega

theorem testBit_withBits (v hi lo x i : Nat) (h : lo ≤ hi + 1) :
    (withBits v hi lo x).testBit i =
      if lo ≤ i ∧ i ≤ hi then x.testBit (i - lo) else v.testBit i := by
  rw [withBits_eq v hi lo x h]
  have hm : x % 2 ^ (hi + 1 - lo) * 2 ^ lo + v % 2 ^ lo < 2 ^ (hi + 1) := by
    have e : 2 ^ (hi + 1) = 2 ^ (hi + 1 - lo) * 2 ^ lo := by rw [← Nat.pow_add, Nat.sub_add_cancel h]
    have h1 : x % 2 ^ (hi + 1 - lo) + 1 ≤ 2 ^ (hi + 1 - lo) := Nat.mod_lt _ (Nat.two_pow_pos _)
    have h2 : v % 2 ^ lo < 2 ^ lo := Nat.mod_lt _ (Nat.two_pow_pos _)
    calc _ < x % 2 ^ (hi + 1 - lo) * 2 ^ lo + 2 ^ lo := by omega
      _ = (x % 2 ^ (hi + 1 - lo) + 1) * 2 ^ lo := by ring
      _ ≤ 2 ^ (hi + 1 - lo) * 2 ^ lo := Nat.mul_le_mul_right _ h1
      _ = _ := e.symm
  rw [Nat.add_assoc, Nat.mul_comm (v / 2 ^ (hi + 1)), Nat.testBit_two_pow_mul_add _ hm,
    Nat.mul_comm _ (2 ^ lo), Nat.testBit_two_pow_mul_add _ (Nat.mod_lt _ (Nat.two_pow_pos _))]
  simp only [Nat.testBit_mod_two_pow, Nat.testBit_div_two_pow]
  by_cases h1 : i < hi + 1
  · by_cases h2 : i < lo
    · simp [h1, h2, show ¬ lo ≤ i by omega]
    · have h3 : i - lo < hi + 1 - lo := by omega
      simp [h1, h2, h3, show lo ≤ i by omega, show i ≤ hi by omega]
  · simp [h1, show ¬ i ≤ hi by omega, show i - (hi + 1) + (hi + 1) = i by omega]

/-- A field reads as what was put there, cut to its width. -/
theorem bits_withBits_self (v hi lo x : Nat) (h : lo ≤ hi + 1) :
    bits (withBits v hi lo x) hi lo = x % 2 ^ (hi + 1 - lo) := by
  apply Nat.eq_of_testBit_eq
  intro i
  rw [testBit_bits, testBit_withBits _ _ _ _ _ h, Nat.testBit_mod_two_pow]
  by_cases hi' : i < hi + 1 - lo
  · simp [hi', show lo + i ≤ hi by omega]
  · simp [hi']

/-- A field that shares no bit with the one put reads as before. -/
theorem bits_withBits_ne (v hi lo x hi' lo' : Nat) (h : lo ≤ hi + 1) (hd : hi' < lo ∨ hi < lo') :
    bits (withBits v hi lo x) hi' lo' = bits v hi' lo' := by
  apply Nat.eq_of_testBit_eq
  intro i
  rw [testBit_bits, testBit_bits, testBit_withBits _ _ _ _ _ h]
  by_cases hi'' : i < hi' + 1 - lo'
  · simp [hi'', show ¬ (lo ≤ lo' + i ∧ lo' + i ≤ hi) by omega]
  · simp [hi'']

theorem bits_mod (v w hi lo : Nat) (h : hi < w) : bits (v % 2 ^ w) hi lo = bits v hi lo := by
  apply Nat.eq_of_testBit_eq
  intro i
  rw [testBit_bits, testBit_bits, Nat.testBit_mod_two_pow]
  by_cases hi' : i < hi + 1 - lo
  · simp [hi', show lo + i < w by omega]
  · simp [hi']

end Sys2Proof.Machine
end

