-- ==== Sys2Proof/Laws/Exec.lean ====
section
/-! SUPPORT. The meaning each command has in `exec`, arm by arm. -/

namespace Sys2Proof.Machine

theorem exec_slack (s : State) {m} : exec (.slack m) s = execSlack m s := rfl
theorem exec_mark (s : State) : exec .mark s = execMark s := rfl
theorem exec_markFlit (s : State) {port} {peer} {b} : exec (.markFlit port peer b) s = execMarkFlit port peer b s := rfl
theorem exec_peerLate (s : State) {port} {peer} : exec (.peerLate port peer) s = execPeerLate port peer s := rfl
theorem exec_graceExpiry (s : State) {m} : exec (.graceExpiry m) s = execGraceExpiry m s := rfl
theorem exec_cutResume (s : State) {k} : exec (.cutResume k) s = execCutResume k s := rfl
theorem exec_markLoss (s : State) : exec .markLoss s = execMarkLoss s := rfl
theorem exec_slice (s : State) {k} {phase} {budget} : exec (.slice k phase budget) s = execSlice k phase budget s := rfl
theorem exec_publish (s : State) {k} {rec} {rs} {rslot} {vreg} {treg} : exec (.publish k rec rs rslot vreg treg) s = execPublish k rec rs rslot vreg treg s := rfl
theorem exec_sliceClose (s : State) {k} : exec (.sliceClose k) s = execSliceClose k s := rfl
theorem exec_crRecordWrite (s : State) {k} : exec (.crRecordWrite k) s = execCrRecordWrite k s := rfl
theorem exec_divergedTimeout (s : State) : exec .divergedTimeout s = execDivergedTimeout s := rfl
theorem exec_windowDone (s : State) {k} {o} : exec (.windowDone k o) s = execWindowDone k o s := rfl
theorem exec_accessErr (s : State) {off} {wrongSize} {write} : exec (.accessErr off wrongSize write) s = execAccessErr off wrongSize write s := rfl
theorem exec_registerWrite (s : State) {by'} {off} {wide} {value} : exec (.registerWrite by' off wide value) s = execRegisterWrite by' off wide value s := rfl
theorem exec_stagedWrite (s : State) {by'} {page} {off} {wide} {value} : exec (.stagedWrite by' page off wide value) s = execStagedWrite by' page off wide value s := rfl
theorem exec_bind (s : State) {page} {t} : exec (.bind page t) s = execBind page t s := rfl
theorem exec_release (s : State) {page} : exec (.release page) s = execRelease page s := rfl
theorem exec_unlock (s : State) {page} {key} : exec (.unlock page key) s = execUnlock page key s := rfl
theorem exec_evtAck (s : State) {page} {seq} : exec (.evtAck page seq) s = execEvtAck page seq s := rfl
theorem exec_evtMaskWrite (s : State) {page} {mask} : exec (.evtMaskWrite page mask) s = execEvtMaskWrite page mask s := rfl
theorem exec_srst (s : State) {page} : exec (.srst page) s = execSrst page s := rfl
theorem exec_srstDone (s : State) {page} : exec (.srstDone page) s = execSrstDone page s := rfl
theorem exec_openTicket (s : State) {by'} {t} : exec (.openTicket by' t) s = execOpenTicket by' t s := rfl
theorem exec_check (s : State) {t} : exec (.check t) s = execCheck t s := rfl
theorem exec_checkDone (s : State) {t} : exec (.checkDone t) s = execCheckDone t s := rfl
theorem exec_arm (s : State) {t} : exec (.arm t) s = execArm t s := rfl
theorem exec_abort (s : State) {t} : exec (.abort t) s = execAbort t s := rfl
theorem exec_resolve (s : State) {t} : exec (.resolve t) s = execResolve t s := rfl
theorem exec_commitRuleDataRead (s : State) {word} : exec (.commitRuleDataRead word) s = execCommitRuleDataRead word s := rfl
theorem exec_prepare (s : State) {via} {tag} {total} {first} {records} : exec (.prepare via tag total first records) s = execPrepare via tag total first records s := rfl
theorem exec_vote (s : State) {via} {tag} {voter} {pass} {rule} {cls} {inst} {off} : exec (.vote via tag voter pass rule cls inst off) s = execVote via tag voter pass rule cls inst off s := rfl
theorem exec_decision (s : State) {via} {tag} {go} : exec (.decision via tag go) s = execDecision via tag go s := rfl
theorem exec_selfWaitAbort (s : State) : exec .selfWaitAbort s = execSelfWaitAbort s := rfl
theorem exec_hostTimeout (s : State) {page} {bit} : exec (.hostTimeout page bit) s = execHostTimeout page bit s := rfl
theorem exec_registerRequest (s : State) {server} {tag} {write} {len} {addr} {value} : exec (.registerRequest server tag write len addr value) s = execRegisterRequest server tag write len addr value s := rfl
theorem exec_memoryRequest (s : State) {core} {tag} {write} {addr} {len} {data} : exec (.memoryRequest core tag write addr len data) s = execMemoryRequest core tag write addr len data s := rfl
theorem exec_doorbell (s : State) {core} {word} {write} {aligned} {tail} : exec (.doorbell core word write aligned tail) s = execDoorbell core word write aligned tail s := rfl
theorem exec_attachErr (s : State) {k} {retrained} : exec (.attachErr k retrained) s = execAttachErr k retrained s := rfl
theorem exec_pcieLink (s : State) {up} {width} : exec (.pcieLink up width) s = execPcieLink up width s := rfl
theorem exec_planEntryStart (s : State) {k} : exec (.planEntryStart k) s = execPlanEntryStart k s := rfl
theorem exec_queueResume (s : State) {n} : exec (.queueResume n) s = execQueueResume n s := rfl
theorem exec_queueFlush (s : State) {n} : exec (.queueFlush n) s = execQueueFlush n s := rfl
theorem exec_queueHalt (s : State) {n} : exec (.queueHalt n) s = execQueueHalt n s := rfl
theorem exec_crHeadWrite (s : State) {k} {head} : exec (.crHeadWrite k head) s = execCrHeadWrite k head s := rfl
theorem exec_bundle (s : State) {k} : exec (.bundle k) s = execBundle k s := rfl
theorem exec_nop (s : State) {k} : exec (.nop k) s = execNop k s := rfl
theorem exec_jmp (s : State) {k} {tgt} : exec (.jmp k tgt) s = execJmp k tgt s := rfl
theorem exec_br (s : State) {k} {tgt} {p} {pn} : exec (.br k tgt p pn) s = execBr k tgt p pn s := rfl
theorem exec_jmpr (s : State) {k} {r} : exec (.jmpr k r) s = execJmpr k r s := rfl
theorem exec_call (s : State) {k} {tgt} : exec (.call k tgt) s = execCall k tgt s := rfl
theorem exec_ret (s : State) {k} : exec (.ret k) s = execRet k s := rfl
theorem exec_loop (s : State) {k} {count} {fin} : exec (.loop k count fin) s = execLoop k count fin s := rfl
theorem exec_swell (s : State) {k} {phase} {n} {level} : exec (.swell k phase n level) s = execSwell k phase n level s := rfl
theorem exec_qclose (s : State) {k} {qreg} : exec (.qclose k qreg) s = execQclose k qreg s := rfl
theorem exec_fence (s : State) {k} {mask} : exec (.fence k mask) s = execFence k mask s := rfl
theorem exec_add (s : State) {k} {rd} {rs1} {b} : exec (.add k rd rs1 b) s = execAdd k rd rs1 b s := rfl
theorem exec_sub (s : State) {k} {rd} {rs1} {b} : exec (.sub k rd rs1 b) s = execSub k rd rs1 b s := rfl
theorem exec_and (s : State) {k} {rd} {rs1} {b} : exec (.and k rd rs1 b) s = execAnd k rd rs1 b s := rfl
theorem exec_or (s : State) {k} {rd} {rs1} {b} : exec (.or k rd rs1 b) s = execOr k rd rs1 b s := rfl
theorem exec_xor (s : State) {k} {rd} {rs1} {b} : exec (.xor k rd rs1 b) s = execXor k rd rs1 b s := rfl
theorem exec_shl (s : State) {k} {rd} {rs1} {b} : exec (.shl k rd rs1 b) s = execShl k rd rs1 b s := rfl
theorem exec_shr (s : State) {k} {rd} {rs1} {b} : exec (.shr k rd rs1 b) s = execShr k rd rs1 b s := rfl
theorem exec_sar (s : State) {k} {rd} {rs1} {b} : exec (.sar k rd rs1 b) s = execSar k rd rs1 b s := rfl
theorem exec_mul (s : State) {k} {rd} {rs1} {b} : exec (.mul k rd rs1 b) s = execMul k rd rs1 b s := rfl
theorem exec_mulhu (s : State) {k} {rd} {rs1} {b} : exec (.mulhu k rd rs1 b) s = execMulhu k rd rs1 b s := rfl
theorem exec_min (s : State) {k} {rd} {rs1} {b} : exec (.min k rd rs1 b) s = execMin k rd rs1 b s := rfl
theorem exec_max (s : State) {k} {rd} {rs1} {b} : exec (.max k rd rs1 b) s = execMax k rd rs1 b s := rfl
theorem exec_minu (s : State) {k} {rd} {rs1} {b} : exec (.minu k rd rs1 b) s = execMinu k rd rs1 b s := rfl
theorem exec_maxu (s : State) {k} {rd} {rs1} {b} : exec (.maxu k rd rs1 b) s = execMaxu k rd rs1 b s := rfl
theorem exec_li (s : State) {k} {rd} {b} : exec (.li k rd b) s = execLi k rd b s := rfl
theorem exec_orh (s : State) {k} {rd} {rs1} {b} : exec (.orh k rd rs1 b) s = execOrh k rd rs1 b s := rfl
theorem exec_cmp (s : State) {k} {pred} {cond} {rs1} {b} : exec (.cmp k pred cond rs1 b) s = execCmp k pred cond rs1 b s := rfl
theorem exec_pget (s : State) {k} {rd} {b} : exec (.pget k rd b) s = execPget k rd b s := rfl
theorem exec_ldl (s : State) {k} {rd} {rs1} {b} : exec (.ldl k rd rs1 b) s = execLdl k rd rs1 b s := rfl
theorem exec_stl (s : State) {k} {rd} {rs1} {b} : exec (.stl k rd rs1 b) s = execStl k rd rs1 b s := rfl
theorem exec_rds (s : State) {k} {rd} {b} : exec (.rds k rd b) s = execRds k rd b s := rfl
theorem exec_hint (s : State) {k} {ramp} : exec (.hint k ramp) s = execHint k ramp s := rfl
theorem exec_mac (s : State) {k} {x} : exec (.mac k x) s = execMac k x s := rfl
theorem exec_l1 (s : State) {k} {x} : exec (.l1 k x) s = execL1 k x s := rfl
theorem exec_l2sq (s : State) {k} {x} : exec (.l2sq k x) s = execL2sq k x s := rfl
theorem exec_maxplus (s : State) {k} {x} : exec (.maxplus k x) s = execMaxplus k x s := rfl
theorem exec_minplus (s : State) {k} {x} : exec (.minplus k x) s = execMinplus k x s := rfl
theorem exec_cmpcount (s : State) {k} {x} : exec (.cmpcount k x) s = execCmpcount k x s := rfl
theorem exec_scout (s : State) {k} {x} : exec (.scout k x) s = execScout k x s := rfl
theorem exec_feederRefill (s : State) {k} {col} {feeder} {delayed} : exec (.feederRefill k col feeder delayed) s = execFeederRefill k col feeder delayed s := rfl
theorem exec_arrayOpEnd (s : State) {k} : exec (.arrayOpEnd k) s = execArrayOpEnd k s := rfl
theorem exec_ferryPiece (s : State) {k} {src} {off} {tag} {fnum} {last} {data} : exec (.ferryPiece k src off tag fnum last data) s = execFerryPiece k src off tag fnum last data s := rfl
theorem exec_fieldTest (s : State) {k} : exec (.fieldTest k) s = execFieldTest k s := rfl
theorem exec_testDone (s : State) {k} {failCol} : exec (.testDone k failCol) s = execTestDone k failCol s := rfl
theorem exec_iload (s : State) {k} : exec (.iload k) s = execIload k s := rfl
theorem exec_iloadDone (s : State) {k} : exec (.iloadDone k) s = execIloadDone k s := rfl
theorem exec_descriptorReread (s : State) {k} {desc} : exec (.descriptorReread k desc) s = execDescriptorReread k desc s := rfl
theorem exec_vadd (s : State) {k} {v} : exec (.vadd k v) s = execVadd k v s := rfl
theorem exec_vsub (s : State) {k} {v} : exec (.vsub k v) s = execVsub k v s := rfl
theorem exec_vmul (s : State) {k} {v} : exec (.vmul k v) s = execVmul k v s := rfl
theorem exec_vfma (s : State) {k} {v} : exec (.vfma k v) s = execVfma k v s := rfl
theorem exec_vdiv (s : State) {k} {v} : exec (.vdiv k v) s = execVdiv k v s := rfl
theorem exec_vsqrt (s : State) {k} {v} : exec (.vsqrt k v) s = execVsqrt k v s := rfl
theorem exec_vrsqrt (s : State) {k} {v} : exec (.vrsqrt k v) s = execVrsqrt k v s := rfl
theorem exec_vexp (s : State) {k} {v} : exec (.vexp k v) s = execVexp k v s := rfl
theorem exec_vlog (s : State) {k} {v} : exec (.vlog k v) s = execVlog k v s := rfl
theorem exec_vmax (s : State) {k} {v} : exec (.vmax k v) s = execVmax k v s := rfl
theorem exec_vmin (s : State) {k} {v} : exec (.vmin k v) s = execVmin k v s := rfl
theorem exec_vabs (s : State) {k} {v} : exec (.vabs k v) s = execVabs k v s := rfl
theorem exec_vneg (s : State) {k} {v} : exec (.vneg k v) s = execVneg k v s := rfl
theorem exec_vscalb (s : State) {k} {v} : exec (.vscalb k v) s = execVscalb k v s := rfl
theorem exec_vcmp (s : State) {k} {v} : exec (.vcmp k v) s = execVcmp k v s := rfl
theorem exec_vsel (s : State) {k} {v} : exec (.vsel k v) s = execVsel k v s := rfl
theorem exec_vplog (s : State) {k} {v} : exec (.vplog k v) s = execVplog k v s := rfl
theorem exec_vcvtw (s : State) {k} {v} : exec (.vcvtw k v) s = execVcvtw k v s := rfl
theorem exec_viota (s : State) {k} {v} : exec (.viota k v) s = execViota k v s := rfl
theorem exec_vld (s : State) {k} {v} : exec (.vld k v) s = execVld k v s := rfl
theorem exec_vst (s : State) {k} {v} : exec (.vst k v) s = execVst k v s := rfl
theorem exec_vred (s : State) {k} {v} : exec (.vred k v) s = execVred k v s := rfl
theorem exec_vxfin (s : State) {k} {v} : exec (.vxfin k v) s = execVxfin k v s := rfl
theorem exec_vnorm (s : State) {k} {v} : exec (.vnorm k v) s = execVnorm k v s := rfl
theorem exec_vscan (s : State) {k} {v} : exec (.vscan k v) s = execVscan k v s := rfl
theorem exec_vgather (s : State) {k} {v} : exec (.vgather k v) s = execVgather k v s := rfl
theorem exec_vscatter (s : State) {k} {v} : exec (.vscatter k v) s = execVscatter k v s := rfl
theorem exec_vsoftmax (s : State) {k} {v} : exec (.vsoftmax k v) s = execVsoftmax k v s := rfl
theorem exec_vlse (s : State) {k} {v} : exec (.vlse k v) s = execVlse k v s := rfl
theorem exec_vtload (s : State) {k} {v} : exec (.vtload k v) s = execVtload k v s := rfl
theorem exec_vfun (s : State) {k} {v} : exec (.vfun k v) s = execVfun k v s := rfl
theorem exec_vdfun (s : State) {k} {v} : exec (.vdfun k v) s = execVdfun k v s := rfl
theorem exec_vrand (s : State) {k} {v} : exec (.vrand k v) s = execVrand k v s := rfl
theorem exec_vdigest (s : State) {k} {v} : exec (.vdigest k v) s = execVdigest k v s := rfl
theorem exec_vlsq (s : State) {k} {v} : exec (.vlsq k v) s = execVlsq k v s := rfl
theorem exec_vlsqf (s : State) {k} {v} : exec (.vlsqf k v) s = execVlsqf k v s := rfl
theorem exec_vupdUpdate (s : State) {k} {v} : exec (.vupdUpdate k v) s = execVupdUpdate k v s := rfl
theorem exec_vupdFinish (s : State) {k} {v} : exec (.vupdFinish k v) s = execVupdFinish k v s := rfl
theorem exec_vdrain (s : State) {k} {d} : exec (.vdrain k d) s = execVdrain k d s := rfl
theorem exec_streamIssue (s : State) {k} {ctr} {r} {detach} : exec (.streamIssue k ctr r detach) s = execStreamIssue k ctr r detach s := rfl
theorem exec_streamWait (s : State) {k} {ctr} {r} : exec (.streamWait k ctr r) s = execStreamWait k ctr r s := rfl
theorem exec_send (s : State) {k} {ctr} {r} {now} : exec (.send k ctr r now) s = execSend k ctr r now s := rfl
theorem exec_reduce (s : State) {k} {ctr} {r} {now} : exec (.reduce k ctr r now) s = execReduce k ctr r now s := rfl
theorem exec_msgWait (s : State) {k} {ctr} {r} : exec (.msgWait k ctr r) s = execMsgWait k ctr r s := rfl
theorem exec_streamComplete (s : State) {k} {x} : exec (.streamComplete k x) s = execStreamComplete k x s := rfl
theorem exec_streamFault (s : State) {k} {x} : exec (.streamFault k x) s = execStreamFault k x s := rfl
theorem exec_faultServed (s : State) {k} {r} : exec (.faultServed k r) s = execFaultServed k r s := rfl
theorem exec_fltResume (s : State) {k} {r} : exec (.fltResume k r) s = execFltResume k r s := rfl
theorem exec_fltAbort (s : State) {k} {r} : exec (.fltAbort k r) s = execFltAbort k r s := rfl
theorem exec_fltReissue (s : State) {k} {r} : exec (.fltReissue k r) s = execFltReissue k r s := rfl
theorem exec_fltAbandon (s : State) {k} {r} : exec (.fltAbandon k r) s = execFltAbandon k r s := rfl
theorem exec_voidwaitExpiry (s : State) {k} : exec (.voidwaitExpiry k) s = execVoidwaitExpiry k s := rfl
theorem exec_skiffFlush (s : State) {k} : exec (.skiffFlush k) s = execSkiffFlush k s := rfl
theorem exec_invVa (s : State) {k} {va} : exec (.invVa k va) s = execInvVa k va s := rfl
theorem exec_invAll (s : State) {k} : exec (.invAll k) s = execInvAll k s := rfl
theorem exec_invDone (s : State) {k} : exec (.invDone k) s = execInvDone k s := rfl
theorem exec_editsDone (s : State) {k} : exec (.editsDone k) s = execEditsDone k s := rfl
theorem exec_atomRead (s : State) {addr} {cls} {noise} : exec (.atomRead addr cls noise) s = execAtomRead addr cls noise s := rfl
theorem exec_atomWrite (s : State) {addr} {cls} {noise} {data} : exec (.atomWrite addr cls noise data) s = execAtomWrite addr cls noise data s := rfl
theorem exec_scrubRead (s : State) {k} {c} {noise} : exec (.scrubRead k c noise) s = execScrubRead k c noise s := rfl
theorem exec_ebbCopy (s : State) {k} {noise} : exec (.ebbCopy k noise) s = execEbbCopy k noise s := rfl
theorem exec_retrain (s : State) {k} {c} : exec (.retrain k c) s = execRetrain k c s := rfl
theorem exec_mapout (s : State) {k} {c} : exec (.mapout k c) s = execMapout k c s := rfl
theorem exec_retire (s : State) {k} : exec (.retire k) s = execRetire k s := rfl
theorem exec_migrated (s : State) {k} : exec (.migrated k) s = execMigrated k s := rfl
theorem exec_linkRetrain (s : State) {k} {link} {passed} : exec (.linkRetrain k link passed) s = execLinkRetrain k link passed s := rfl
theorem exec_dataFlit (s : State) {port} {peer} {t} {body} : exec (.dataFlit port peer t body) s = execDataFlit port peer t body s := rfl
theorem exec_idleFlit (s : State) {port} {peer} {t} : exec (.idleFlit port peer t) s = execIdleFlit port peer t s := rfl
theorem exec_flitNak (s : State) {port} {peer} {ack} : exec (.flitNak port peer ack) s = execFlitNak port peer ack s := rfl
theorem exec_replayTimeout (s : State) {port} {peer} : exec (.replayTimeout port peer) s = execReplayTimeout port peer s := rfl
theorem exec_laneDrop (s : State) {port} {lane} : exec (.laneDrop port lane) s = execLaneDrop port lane s := rfl
theorem exec_echo (s : State) {port} {peer} {data} : exec (.echo port peer data) s = execEcho port peer data s := rfl
theorem exec_echoReply (s : State) {port} {peer} {roundTrip} {turnaround} : exec (.echoReply port peer roundTrip turnaround) s = execEchoReply port peer roundTrip turnaround s := rfl
theorem exec_resetReq (s : State) {port} {peer} : exec (.resetReq port peer) s = execResetReq port peer s := rfl
theorem exec_train (s : State) {port} {lane} {x} : exec (.train port lane x) s = execTrain port lane x s := rfl
theorem exec_peerUp (s : State) {port} {peer} : exec (.peerUp port peer) s = execPeerUp port peer s := rfl
theorem exec_peerDown (s : State) {port} {peer} : exec (.peerDown port peer) s = execPeerDown port peer s := rfl
theorem exec_laneExcluded (s : State) {port} {lane} {c} : exec (.laneExcluded port lane c) s = execLaneExcluded port lane c s := rfl
theorem exec_laneRetrain (s : State) {port} {lane} {passed} : exec (.laneRetrain port lane passed) s = execLaneRetrain port lane passed s := rfl
theorem exec_retrainLane (s : State) {port} {lane} : exec (.retrainLane port lane) s = execRetrainLane port lane s := rfl
theorem exec_excludeLane (s : State) {port} {lane} : exec (.excludeLane port lane) s = execExcludeLane port lane s := rfl
theorem exec_restoreLane (s : State) {port} {lane} : exec (.restoreLane port lane) s = execRestoreLane port lane s := rfl
theorem exec_linkRestart (s : State) {port} {peer} : exec (.linkRestart port peer) s = execLinkRestart port peer s := rfl
theorem exec_frame (s : State) {port} {f} : exec (.frame port f) s = execFrame port f s := rfl
theorem exec_lldp (s : State) {port} {chassis} {portId} : exec (.lldp port chassis portId) s = execLldp port chassis portId s := rfl
theorem exec_lldpSend (s : State) {port} : exec (.lldpSend port) s = execLldpSend port s := rfl
theorem exec_los (s : State) {port} {lane} : exec (.los port lane) s = execLos port lane s := rfl
theorem exec_link (s : State) {port} {up} : exec (.link port up) s = execLink port up s := rfl
theorem exec_soundData (s : State) {port} {h} {payload} {user} : exec (.soundData port h payload user) s = execSoundData port h payload user s := rfl
theorem exec_ack (s : State) {port} {h} : exec (.ack port h) s = execAck port h s := rfl
theorem exec_soundNak (s : State) {port} {h} : exec (.soundNak port h) s = execSoundNak port h s := rfl
theorem exec_connect (s : State) {port} {h} {offboard} {ip} : exec (.connect port h offboard ip) s = execConnect port h offboard ip s := rfl
theorem exec_accept (s : State) {port} {h} : exec (.accept port h) s = execAccept port h s := rfl
theorem exec_refuse (s : State) {port} {h} : exec (.refuse port h) s = execRefuse port h s := rfl
theorem exec_notReady (s : State) {port} {h} : exec (.notReady port h) s = execNotReady port h s := rfl
theorem exec_close (s : State) {port} {h} : exec (.close port h) s = execClose port h s := rfl
theorem exec_reset (s : State) {port} {h} : exec (.reset port h) s = execReset port h s := rfl
theorem exec_lagged (s : State) {port} {h} : exec (.lagged port h) s = execLagged port h s := rfl
theorem exec_serve (s : State) {port} {h} {member} : exec (.serve port h member) s = execServe port h member s := rfl
theorem exec_packetDepart (s : State) {c} : exec (.packetDepart c) s = execPacketDepart c s := rfl
theorem exec_stagingDrain (s : State) {port} {c} : exec (.stagingDrain port c) s = execStagingDrain port c s := rfl
theorem exec_retransmitTimeout (s : State) {c} : exec (.retransmitTimeout c) s = execRetransmitTimeout c s := rfl
theorem exec_grantReturn (s : State) {c} : exec (.grantReturn c) s = execGrantReturn c s := rfl
theorem exec_rampDone (s : State) : exec .rampDone s = execRampDone s := rfl
theorem exec_ctxConnect (s : State) {c} : exec (.ctxConnect c) s = execCtxConnect c s := rfl
theorem exec_ctxListen (s : State) {c} : exec (.ctxListen c) s = execCtxListen c s := rfl
theorem exec_ctxClose (s : State) {c} : exec (.ctxClose c) s = execCtxClose c s := rfl
theorem exec_admitAccept (s : State) : exec .admitAccept s = execAdmitAccept s := rfl
theorem exec_admitRefuse (s : State) : exec .admitRefuse s = execAdmitRefuse s := rfl
theorem exec_admitDefer (s : State) : exec .admitDefer s = execAdmitDefer s := rfl
theorem exec_reductionClose (s : State) {k} {slot} : exec (.reductionClose k slot) s = execReductionClose k slot s := rfl
theorem exec_stepCmdClose (s : State) {k} {slot} : exec (.stepCmdClose k slot) s = execStepCmdClose k slot s := rfl
theorem exec_stepCmdExtend (s : State) {k} {slot} : exec (.stepCmdExtend k slot) s = execStepCmdExtend k slot s := rfl
theorem exec_layerDone (s : State) {l} {ok} : exec (.layerDone l ok) s = execLayerDone l ok s := rfl
theorem exec_layerPartner (s : State) : exec .layerPartner s = execLayerPartner s := rfl
theorem exec_layerFlash (s : State) : exec .layerFlash s = execLayerFlash s := rfl
theorem exec_layerStore (s : State) : exec .layerStore s = execLayerStore s := rfl
theorem exec_storeDurable (s : State) : exec .storeDurable s = execStoreDurable s := rfl
theorem exec_restore (s : State) {src} {slot} : exec (.restore src slot) s = execRestore src slot s := rfl
theorem exec_replicaAnswer (s : State) {r} : exec (.replicaAnswer r) s = execReplicaAnswer r s := rfl
theorem exec_restoreDone (s : State) : exec .restoreDone s = execRestoreDone s := rfl
theorem exec_realign (s : State) : exec .realign s = execRealign s := rfl
theorem exec_keep (s : State) : exec .keep s = execKeep s := rfl
theorem exec_ckptAbort (s : State) : exec .ckptAbort s = execCkptAbort s := rfl
theorem exec_fetch (s : State) : exec .fetch s = execFetch s := rfl
theorem exec_next (s : State) : exec .next s = execNext s := rfl
theorem exec_ckptAccept (s : State) : exec .ckptAccept s = execCkptAccept s := rfl
theorem exec_limiterWindow (s : State) {watts} {vin} {limited} :
    exec (.limiterWindow watts vin limited) s = execLimiterWindow watts vin limited s := rfl
theorem exec_vinLow (s : State) {vin} : exec (.vinLow vin) s = execVinLow vin s := rfl
theorem exec_shutdown (s : State) {c} : exec (.shutdown c) s = execShutdown c s := rfl
theorem exec_senseFault (s : State) : exec .senseFault s = execSenseFault s := rfl
theorem exec_railFault (s : State) {k} : exec (.railFault k) s = execRailFault k s := rfl
theorem exec_droop (s : State) {k} : exec (.droop k) s = execDroop k s := rfl
theorem exec_droopRelease (s : State) {k} : exec (.droopRelease k) s = execDroopRelease k s := rfl
theorem exec_throttle (s : State) {k} {temp} : exec (.throttle k temp) s = execThrottle k temp s := rfl
theorem exec_trip (s : State) {k} {temp} : exec (.trip k temp) s = execTrip k temp s := rfl
theorem exec_stackHot (s : State) {x} {temp} : exec (.stackHot x temp) s = execStackHot x temp s := rfl
theorem exec_coolant (s : State) : exec .coolant s = execCoolant s := rfl
theorem exec_coolRestored (s : State) : exec .coolRestored s = execCoolRestored s := rfl
theorem exec_reading (s : State) {drifts} {dieDrifts} : exec (.reading drifts dieDrifts) s = execReading drifts dieDrifts s := rfl
theorem exec_ageRead (s : State) : exec .ageRead s = execAgeRead s := rfl
theorem exec_ageApply (s : State) : exec .ageApply s = execAgeApply s := rfl
theorem exec_ageDefer (s : State) : exec .ageDefer s = execAgeDefer s := rfl
theorem exec_pwrHostBeat (s : State) : exec .pwrHostBeat s = execPwrHostBeat s := rfl
theorem exec_powerOn (s : State) : exec .powerOn s = execPowerOn s := rfl
theorem exec_brdResetN (s : State) {low} {samples} : exec (.brdResetN low samples) s = execBrdResetN low samples s := rfl
theorem exec_watchdog (s : State) : exec .watchdog s = execWatchdog s := rfl
theorem exec_moduleReset (s : State) : exec .moduleReset s = execModuleReset s := rfl
theorem exec_rstWdogKick (s : State) {by'} : exec (.rstWdogKick by') s = execRstWdogKick by' s := rfl
theorem exec_bringupStage (s : State) {o} : exec (.bringupStage o) s = execBringupStage o s := rfl
theorem exec_recLoad (s : State) {src} {len} {image} : exec (.recLoad src len image) s = execRecLoad src len image s := rfl
theorem exec_recAbort (s : State) : exec .recAbort s = execRecAbort s := rfl
theorem exec_recBegin (s : State) : exec .recBegin s = execRecBegin s := rfl
theorem exec_mgmtRecData (s : State) {word} : exec (.mgmtRecData word) s = execMgmtRecData word s := rfl
theorem exec_recEnd (s : State) : exec .recEnd s = execRecEnd s := rfl
theorem exec_recCtlAbort (s : State) : exec .recCtlAbort s = execRecCtlAbort s := rfl
theorem exec_quote (s : State) : exec .quote s = execQuote s := rfl
theorem exec_cert (s : State) : exec .cert s = execCert s := rfl
theorem exec_quoteDone (s : State) : exec .quoteDone s = execQuoteDone s := rfl
theorem exec_secWinDataRead (s : State) : exec .secWinDataRead s = execSecWinDataRead s := rfl
theorem exec_entdaa (s : State) {addr} : exec (.entdaa addr) s = execEntdaa addr s := rfl
theorem exec_setdasa (s : State) {static} {addr} : exec (.setdasa static addr) s = execSetdasa static addr s := rfl
theorem exec_i3cPrivateWrite (s : State) {bytes} : exec (.i3cPrivateWrite bytes) s = execI3cPrivateWrite bytes s := rfl
theorem exec_i3cPrivateRead (s : State) : exec .i3cPrivateRead s = execI3cPrivateRead s := rfl
theorem exec_mgmtAlertAck (s : State) {bits} : exec (.mgmtAlertAck bits) s = execMgmtAlertAck bits s := rfl
theorem exec_slowClockEdge (s : State) {x} : exec (.slowClockEdge x) s = execSlowClockEdge x s := rfl
theorem exec_ferrySend (s : State) {k} : exec (.ferrySend k) s = execFerrySend k s := rfl
theorem exec_flitDiscard (s : State) {port} {peer} {lane} {raw} : exec (.flitDiscard port peer lane raw) s = execFlitDiscard port peer lane raw s := rfl
theorem exec_otherTrip (s : State) {d} : exec (.otherTrip d) s = execOtherTrip d s := rfl
theorem exec_stackLost (s : State) {l} : exec (.stackLost l) s = execStackLost l s := rfl
theorem exec_setpointReached (s : State) {k} : exec (.setpointReached k) s = execSetpointReached k s := rfl
theorem exec_rowCopyDone (s : State) {k} {c} {bank} : exec (.rowCopyDone k c bank) s = execRowCopyDone k c bank s := rfl

end Sys2Proof.Machine
end

