-- ==== Sys2Proof/Laws/Map.lean ====
section
/-! SUPPORT. Laws of the finite maps: what a key reads as after an update, and that every update keeps the canonical
form. -/

namespace Sys2Proof.Machine

section
variable {α : Type}

/-! ### Reading after an update -/

@[simp] theorem SMap.find_nil (j : Nat) : SMap.find ([] : SMap α) j = none := rfl

theorem SMap.find_ins_self (m : SMap α) (j : Nat) (v : α) : SMap.find (SMap.ins m j v) j = some v := by
  induction m with
  | nil => simp [SMap.ins, SMap.find]
  | cons e m ih =>
    obtain ⟨k, u⟩ := e
    simp only [SMap.ins]
    split
    · simp [SMap.find]
    · split
      · simp [SMap.find]
      · rename_i h
        simp [SMap.find, h, ih]

theorem SMap.find_ins_ne (m : SMap α) {i j : Nat} (v : α) (h : i ≠ j) :
    SMap.find (SMap.ins m j v) i = SMap.find m i := by
  induction m with
  | nil => simp [SMap.ins, SMap.find, h.symm]
  | cons e m ih =>
    obtain ⟨k, u⟩ := e
    simp only [SMap.ins]
    split
    · simp [SMap.find, h.symm]
    · split
      · rename_i hk
        subst hk
        simp [SMap.find, h.symm]
      · simp only [SMap.find]
        split
        · rfl
        · exact ih

theorem SMap.find_del_self (m : SMap α) (j : Nat) : SMap.find (SMap.del m j) j = none := by
  induction m with
  | nil => rfl
  | cons e m ih =>
    obtain ⟨k, u⟩ := e
    simp only [SMap.del]
    split
    · exact ih
    · rename_i h
      simp [SMap.find, h, ih]

theorem SMap.find_del_ne (m : SMap α) {i j : Nat} (h : i ≠ j) : SMap.find (SMap.del m j) i = SMap.find m i := by
  induction m with
  | nil => rfl
  | cons e m ih =>
    obtain ⟨k, u⟩ := e
    simp only [SMap.del]
    split
    · rename_i hk
      subst hk
      simp [SMap.find, ih, h.symm]
    · simp only [SMap.find]
      split
      · rfl
      · exact ih

@[simp] theorem SMap.get_nil (d : Nat → α) (j : Nat) : SMap.get d ([] : SMap α) j = d j := rfl

@[simp] theorem SMap.get_put_self [DecidableEq α] (d : Nat → α) (m : SMap α) (j : Nat) (v : α) :
    SMap.get d (SMap.put d m j v) j = v := by
  unfold SMap.get SMap.put
  split
  · rename_i h
    simp [SMap.find_del_self, h]
  · simp [SMap.find_ins_self]

theorem SMap.get_put_ne [DecidableEq α] (d : Nat → α) (m : SMap α) {i j : Nat} (v : α) (h : i ≠ j) :
    SMap.get d (SMap.put d m j v) i = SMap.get d m i := by
  unfold SMap.get SMap.put
  split
  · rw [SMap.find_del_ne m h]
  · rw [SMap.find_ins_ne m v h]

theorem SMap.get_put [DecidableEq α] (d : Nat → α) (m : SMap α) (i j : Nat) (v : α) :
    SMap.get d (SMap.put d m j v) i = if i = j then v else SMap.get d m i := by
  split
  · rename_i h
    rw [h, SMap.get_put_self]
  · rename_i h
    exact SMap.get_put_ne d m v h

@[simp] theorem SMap.get_ins_self (d : Nat → α) (m : SMap α) (j : Nat) (v : α) :
    SMap.get d (SMap.ins m j v) j = v := by
  simp [SMap.get, SMap.find_ins_self]

theorem SMap.get_ins_ne (d : Nat → α) (m : SMap α) {i j : Nat} (v : α) (h : i ≠ j) :
    SMap.get d (SMap.ins m j v) i = SMap.get d m i := by
  simp [SMap.get, SMap.find_ins_ne m v h]

/-- A key outside the range written reads as before. -/
theorem SMap.get_putRange_out [DecidableEq α] (d : Nat → α) (m : SMap α) (k : Nat) (vs : List α) (i : Nat)
    (h : i < k ∨ k + vs.length ≤ i) : SMap.get d (SMap.putRange d m k vs) i = SMap.get d m i := by
  induction vs generalizing m k with
  | nil => rfl
  | cons v vs ih =>
    simp only [List.length_cons] at h
    rw [SMap.putRange, ih, SMap.get_put_ne]
    · omega
    · omega

/-- A key of the range written reads as the value written there. -/
theorem SMap.get_putRange_in [DecidableEq α] (d : Nat → α) (m : SMap α) (k : Nat) (vs : List α) (i : Nat)
    (h : i < vs.length) : SMap.get d (SMap.putRange d m k vs) (k + i) = vs[i] := by
  induction vs generalizing m k i with
  | nil => exact absurd h (by simp)
  | cons v vs ih =>
    rw [SMap.putRange]
    cases i with
    | zero =>
      rw [SMap.get_putRange_out _ _ _ _ _ (by omega)]
      simp
    | succ i =>
      have := ih (SMap.put d m k v) (k + 1) i (by simpa using h)
      rw [show k + (i + 1) = k + 1 + i by omega, this]
      simp

/-! ### The canonical form -/

theorem SMap.rising_mono {m : SMap α} {a b : Nat} (h : a ≤ b) (hr : SMap.rising b m = true) :
    SMap.rising a m = true := by
  cases m with
  | nil => rfl
  | cons e m =>
    simp only [SMap.rising, Bool.and_eq_true, decide_eq_true_eq] at hr ⊢
    exact ⟨by omega, hr.2⟩

theorem SMap.rising_ins {m : SMap α} {b j : Nat} (v : α) (hb : b ≤ j) (hr : SMap.rising b m = true) :
    SMap.rising b (SMap.ins m j v) = true := by
  induction m generalizing b with
  | nil => simp [SMap.ins, SMap.rising, hb]
  | cons e m ih =>
    obtain ⟨k, u⟩ := e
    simp only [SMap.rising, Bool.and_eq_true, decide_eq_true_eq] at hr
    simp only [SMap.ins]
    split
    · simp only [SMap.rising, Bool.and_eq_true, decide_eq_true_eq]
      exact ⟨hb, by omega, hr.2⟩
    · split
      · rename_i hk
        subst hk
        simp only [SMap.rising, Bool.and_eq_true, decide_eq_true_eq]
        exact hr
      · simp only [SMap.rising, Bool.and_eq_true, decide_eq_true_eq]
        exact ⟨hr.1, ih (by omega) hr.2⟩

theorem SMap.rising_filter {m : SMap α} {b : Nat} (f : Nat × α → Bool) (hr : SMap.rising b m = true) :
    SMap.rising b (m.filter f) = true := by
  induction m generalizing b with
  | nil => rfl
  | cons e m ih =>
    obtain ⟨k, u⟩ := e
    simp only [SMap.rising, Bool.and_eq_true, decide_eq_true_eq] at hr
    rw [List.filter_cons]
    split
    · simp only [SMap.rising, Bool.and_eq_true, decide_eq_true_eq]
      exact ⟨hr.1, ih hr.2⟩
    · exact SMap.rising_mono (by omega) (ih hr.2)

theorem SMap.del_eq_filter (m : SMap α) (j : Nat) : SMap.del m j = m.filter fun e => decide (e.1 ≠ j) := by
  induction m with
  | nil => rfl
  | cons e m ih =>
    obtain ⟨k, u⟩ := e
    simp only [SMap.del, List.filter_cons]
    split
    · rename_i h
      simp [h, ih]
    · rename_i h
      simp [h, ih]

theorem SMap.rising_del {m : SMap α} {b : Nat} (j : Nat) (hr : SMap.rising b m = true) :
    SMap.rising b (SMap.del m j) = true := by
  rw [SMap.del_eq_filter]
  exact SMap.rising_filter _ hr

theorem SMap.mem_ins {m : SMap α} {j : Nat} {v : α} {e : Nat × α} (h : e ∈ SMap.ins m j v) :
    e = (j, v) ∨ e ∈ m := by
  induction m with
  | nil => simpa [SMap.ins] using h
  | cons a m ih =>
    obtain ⟨k, u⟩ := a
    simp only [SMap.ins] at h
    split at h
    · simpa using h
    · split at h
      · rcases List.mem_cons.1 h with h | h
        · exact .inl h
        · exact .inr (List.mem_cons_of_mem _ h)
      · rcases List.mem_cons.1 h with h | h
        · exact .inr (h ▸ List.mem_cons_self)
        · exact (ih h).imp_right (List.mem_cons_of_mem _)

theorem SMap.wf_filter [DecidableEq α] {d : Nat → α} {m : SMap α} (f : Nat × α → Bool) (h : SMap.wf d m = true) :
    SMap.wf d (m.filter f) = true := by
  simp only [SMap.wf, SMap.sparse, Bool.and_eq_true, List.all_eq_true] at h ⊢
  exact ⟨SMap.rising_filter f h.1, fun e he => h.2 e (List.mem_filter.1 he).1⟩

theorem SMap.wf_put [DecidableEq α] {d : Nat → α} {m : SMap α} (j : Nat) (v : α) (h : SMap.wf d m = true) :
    SMap.wf d (SMap.put d m j v) = true := by
  unfold SMap.put
  split
  · rw [SMap.del_eq_filter]
    exact SMap.wf_filter _ h
  · rename_i hv
    simp only [SMap.wf, SMap.sparse, Bool.and_eq_true, List.all_eq_true] at h ⊢
    refine ⟨SMap.rising_ins v (by omega) h.1, fun e he => ?_⟩
    rcases SMap.mem_ins he with rfl | he
    · simpa using hv
    · exact h.2 e he

theorem SMap.wf_putRange [DecidableEq α] {d : Nat → α} {m : SMap α} (k : Nat) (vs : List α)
    (h : SMap.wf d m = true) : SMap.wf d (SMap.putRange d m k vs) = true := by
  induction vs generalizing m k with
  | nil => exact h
  | cons v vs ih => exact ih (k + 1) (SMap.wf_put k v h)

theorem SMap.wf_paste [DecidableEq α] {d : Nat → α} {m : SMap α} (lo n : Nat) (b : SMap α)
    (h : SMap.wf d m = true) : SMap.wf d (SMap.paste d m lo n b) = true := by
  have hc : SMap.wf d (SMap.clear m lo n) = true := SMap.wf_filter _ h
  unfold SMap.paste
  generalize SMap.clear m lo n = acc at hc
  induction b generalizing acc with
  | nil => exact hc
  | cons e b ih =>
    apply ih
    dsimp only
    split
    · exact SMap.wf_put _ _ hc
    · exact hc

/-- A key below the lower bound of a rising list is not listed. -/
theorem SMap.find_of_lt {m : SMap α} {b j : Nat} (hr : SMap.rising b m = true) (h : j < b) : SMap.find m j = none := by
  induction m generalizing b with
  | nil => rfl
  | cons e m ih =>
    obtain ⟨k, u⟩ := e
    simp only [SMap.rising, Bool.and_eq_true, decide_eq_true_eq] at hr
    rw [SMap.find, if_neg (by omega)]
    exact ih hr.2 (by omega)

end

end Sys2Proof.Machine
end

