-- ==== Sys2Proof/Laws/Only.lean ====
section
/-! SUPPORT. What the named operations change (`Only`): how such facts compose, and one lemma for each operation over
the registers, the atolls, the ports, the tide and the message record. -/

namespace Sys2Proof.Machine

/-! ### Composition -/

theorem Part.same_refl (p : Part) (s : State) : p.same s s := by cases p <;> simp [Part.same]

theorem Part.same_trans {p : Part} {s t u : State} (h : p.same s t) (g : p.same t u) : p.same s u := by
  cases p <;> simp_all [Part.same]

theorem Only.refl {P : List Part} {s : State} : Only P s s := ⟨rfl, id, fun p _ => p.same_refl s⟩

theorem Only.andThen {P Q : List Part} {s u v : State} (g : Only Q u v)
    (hq : (Q.all fun p => P.contains p) = true) (h : Only P s u) : Only P s v :=
  ⟨g.1.trans h.1, g.2.1 ∘ h.2.1, fun p hp => Part.same_trans (h.2.2 p hp) (g.2.2 p fun hpq => hp (by
    simpa using List.all_eq_true.1 hq p hpq))⟩

theorem Only.mono {P Q : List Part} {s t : State} (h : Only Q s t) (hq : (Q.all fun p => P.contains p) = true) :
    Only P s t := Only.andThen h hq Only.refl

theorem Only.ite {P : List Part} {s : State} {c : Prop} [Decidable c] {a b : State} (hb : Only P s b)
    (ha : Only P s b → Only P s a) : Only P s (if c then a else b) := by
  split
  · exact ha hb
  · exact hb

theorem Only.ite_fst {β : Type} {P : List Part} {s : State} {c : Prop} [Decidable c] {a b : State × β}
    (hb : Only P s b.1) (ha : Only P s b.1 → Only P s a.1) : Only P s (if c then a else b).1 := by
  split
  · exact ha hb
  · exact hb

theorem Only.ite_snd {β : Type} {P : List Part} {s : State} {c : Prop} [Decidable c] {a b : β × State}
    (hb : Only P s b.2) (ha : Only P s b.2 → Only P s a.2) : Only P s (if c then a else b).2 := by
  split
  · exact ha hb
  · exact hb

theorem Only.fst {β : Type} {P : List Part} {s a : State} {b : β} {p : State × β} (h : p = (a, b))
    (hp : Only P s p.1) : Only P s a := by
  rw [h] at hp
  exact hp

theorem Only.snd {β : Type} {P : List Part} {s a : State} {b : β} {p : β × State} (h : p = (b, a))
    (hp : Only P s p.2) : Only P s a := by
  rw [h] at hp
  exact hp

theorem Only.snd2 {β γ : Type} {P : List Part} {s a : State} {b : β} {c : γ} {p : β × γ × State} (h : p = (b, c, a))
    (hp : Only P s p.2.2) : Only P s a := by
  rw [h] at hp
  exact hp

theorem Only.snd3 {β γ δ : Type} {P : List Part} {s a : State} {b : β} {c : γ} {d : δ} {p : β × γ × δ × State}
    (h : p = (b, c, d, a)) (hp : Only P s p.2.2.2) : Only P s a := by
  rw [h] at hp
  exact hp

theorem Only.foldl {α : Type} {P : List Part} {s u : State} {f : State → α → State} {l : List α}
    (hf : ∀ v x, Only P s v → Only P s (f v x)) (h : Only P s u) : Only P s (l.foldl f u) := by
  induction l generalizing u with
  | nil => exact h
  | cons x l ih => exact ih (hf u x h)

theorem Only.foldl_fst {α β : Type} {P : List Part} {s : State} {u : State × β} {f : State × β → α → State × β}
    {l : List α} (hf : ∀ v b x, Only P s v → Only P s (f (v, b) x).1) (h : Only P s u.1) :
    Only P s (l.foldl f u).1 := by
  induction l generalizing u with
  | nil => exact h
  | cons x l ih => exact ih (hf u.1 u.2 x h)

theorem Only.foldl_snd {α β : Type} {P : List Part} {s : State} {u : β × State} {f : β × State → α → β × State}
    {l : List α} (hf : ∀ b v x, Only P s v → Only P s (f (b, v) x).2) (h : Only P s u.2) :
    Only P s (l.foldl f u).2 := by
  induction l generalizing u with
  | nil => exact h
  | cons x l ih => exact ih (hf u.1 u.2 x h)

theorem Only.foldl_fst2 {α β γ : Type} {P : List Part} {s : State} {u : (State × β) × γ}
    {f : (State × β) × γ → α → (State × β) × γ} {l : List α}
    (hf : ∀ v b c x, Only P s v → Only P s (f ((v, b), c) x).1.1) (h : Only P s u.1.1) :
    Only P s (l.foldl f u).1.1 := by
  induction l generalizing u with
  | nil => exact h
  | cons x l ih => exact ih (hf u.1.1 u.1.2 u.2 x h)

theorem Only.foldl_snd2 {α β γ : Type} {P : List Part} {s : State} {u : β × γ × State}
    {f : β × γ × State → α → β × γ × State} {l : List α}
    (hf : ∀ b c v x, Only P s v → Only P s (f (b, c, v) x).2.2) (h : Only P s u.2.2) :
    Only P s (l.foldl f u).2.2 := by
  induction l generalizing u with
  | nil => exact h
  | cons x l ih => exact ih (hf u.1 u.2.1 u.2.2 x h)

theorem Only.foldl_snd3 {α β γ δ : Type} {P : List Part} {s : State} {u : β × γ × δ × State}
    {f : β × γ × δ × State → α → β × γ × δ × State} {l : List α}
    (hf : ∀ b c d v x, Only P s v → Only P s (f (b, c, d, v) x).2.2.2) (h : Only P s u.2.2.2) :
    Only P s (l.foldl f u).2.2.2 := by
  induction l generalizing u with
  | nil => exact h
  | cons x l ih => exact ih (hf u.1 u.2.1 u.2.2.1 u.2.2.2 x h)

theorem Only.optThen {P Q : List Part} {s u t : State} {o : Option State} (g : o = some t → Only Q u t)
    (hq : (Q.all fun p => P.contains p) = true) (h : o = some t) (hs : Only P s u) : Only P s t :=
  Only.andThen (g h) hq hs

theorem Only.optIte {P : List Part} {s t : State} {c : Bool} {o : Option State}
    (h : (if c then none else o) = some t) (ho : o = some t → Only P s t) : Only P s t := by
  split at h
  · cases h
  · exact ho h

theorem Only.optOr {P : List Part} {s t : State} {a : Option State} {b : Unit → Option State}
    (h : a.orElse b = some t) (ha : a = some t → Only P s t) (hb : b () = some t → Only P s t) : Only P s t := by
  cases a with
  | none => exact hb h
  | some a => exact ha h

theorem Only.getD {P : List Part} {s u : State} {o : Option State} (ho : ∀ t, o = some t → Only P s t)
    (h : Only P s u) : Only P s (o.getD u) := by
  cases o with
  | none => exact h
  | some t => exact ho t rfl

theorem Only.each {α : Type} {P : List Part} {s u : State} {f : State → α → State} {l : List α}
    (hf : ∀ v x, Only P s v → Only P s (f v x)) (h : Only P s u) : Only P s (u.each l f) := Only.foldl hf h

theorem OnlyNext.next {P : List Part} {s t : State} (h : Only P s t) : OnlyNext P s (.next t) := h

theorem OnlyNext.ite {P : List Part} {s : State} {c : Prop} [Decidable c] {a b : Host.Outcome State Fault Refusal}
    (hb : OnlyNext P s b) (ha : OnlyNext P s a) : OnlyNext P s (if c then a else b) := by
  split
  · exact ha
  · exact hb

theorem OnlyNext.mono {P Q : List Part} {s : State} {o : Host.Outcome State Fault Refusal} (h : OnlyNext Q s o)
    (hq : (Q.all fun p => P.contains p) = true) : OnlyNext P s o := by
  cases o with
  | next t => exact Only.mono h hq
  | fault f => exact h
  | refused r => exact h

/-! ### Updates of one part -/

theorem Only.of_same {p : Part} {s t : State} (hp : t.pending = s.pending) (hi : s.Inv → t.Inv)
    (h : ∀ q, q ≠ p → q.same s t) : Only [p] s t :=
  ⟨hp, hi, fun q hq => h q (by simpa using hq)⟩

theorem Only.sent {u : State} {x} : Only [.sent] u { u with sent := x } :=
  Only.of_same rfl id fun q hq => by cases q <;> first | rfl | exact ⟨rfl, rfl⟩ | exact absurd rfl hq

theorem Only.freshCount {u : State} {x} : Only [.fresh] u { u with freshCount := x } :=
  Only.of_same rfl id fun q hq => by cases q <;> first | rfl | exact ⟨rfl, rfl⟩ | exact absurd rfl hq

theorem Only.now {u : State} {x} : Only [.now] u { u with now := x } :=
  Only.of_same rfl id fun q hq => by cases q <;> first | rfl | exact ⟨rfl, rfl⟩ | exact absurd rfl hq

theorem Only.slowEdges {u : State} {x} : Only [.edges] u { u with slowEdges := x } :=
  Only.of_same rfl id fun q hq => by cases q <;> first | rfl | exact ⟨rfl, rfl⟩ | exact absurd rfl hq

theorem Only.irqPend {u : State} {x} : Only [.irq] u { u with irqPend := x } :=
  Only.of_same rfl id fun q hq => by cases q <;> first | rfl | exact ⟨rfl, rfl⟩ | exact absurd rfl hq

theorem Only.memWait {u : State} {x} : Only [.memWait] u { u with memWait := x } :=
  Only.of_same rfl id fun q hq => by cases q <;> first | rfl | exact ⟨rfl, rfl⟩ | exact absurd rfl hq

theorem Only.waits {u : State} {x} : Only [.waits] u { u with waits := x } :=
  Only.of_same rfl id fun q hq => by cases q <;> first | rfl | exact ⟨rfl, rfl⟩ | exact absurd rfl hq

theorem Only.selfActs {u : State} {x} : Only [.selfActs] u { u with selfActs := x } :=
  Only.of_same rfl id fun q hq => by cases q <;> first | rfl | exact ⟨rfl, rfl⟩ | exact absurd rfl hq

theorem Only.tickets {u : State} {x} : Only [.tickets] u { u with tickets := x } :=
  Only.of_same rfl id fun q hq => by cases q <;> first | rfl | exact ⟨rfl, rfl⟩ | exact absurd rfl hq

theorem Only.tide {u : State} {x} : Only [.tide] u { u with tide := x } :=
  Only.of_same rfl id fun q hq => by cases q <;> first | rfl | exact ⟨rfl, rfl⟩ | exact absurd rfl hq

theorem Only.ports {u : State} {x} : Only [.ports] u { u with ports := x } :=
  Only.of_same rfl id fun q hq => by cases q <;> first | rfl | exact ⟨rfl, rfl⟩ | exact absurd rfl hq

theorem Only.sound {u : State} {x} : Only [.sound] u { u with sound := x } :=
  Only.of_same rfl id fun q hq => by cases q <;> first | rfl | exact ⟨rfl, rfl⟩ | exact absurd rfl hq

theorem Only.ckpt {u : State} {x} : Only [.ckpt] u { u with ckpt := x } :=
  Only.of_same rfl id fun q hq => by cases q <;> first | rfl | exact ⟨rfl, rfl⟩ | exact absurd rfl hq

theorem Only.pwr {u : State} {x} : Only [.pwr] u { u with pwr := x } :=
  Only.of_same rfl id fun q hq => by cases q <;> first | rfl | exact ⟨rfl, rfl⟩ | exact absurd rfl hq

theorem Only.age {u : State} {x} : Only [.age] u { u with age := x } :=
  Only.of_same rfl id fun q hq => by cases q <;> first | rfl | exact ⟨rfl, rfl⟩ | exact absurd rfl hq

theorem Only.rst {u : State} {x} : Only [.rst] u { u with rst := x } :=
  Only.of_same rfl id fun q hq => by cases q <;> first | rfl | exact ⟨rfl, rfl⟩ | exact absurd rfl hq

theorem Only.setStaged {u : State} {x : SMap Word64} (hx : SMap.rising 0 u.staged = true → SMap.rising 0 x = true) :
    Only [.staged] u { u with staged := x } :=
  Only.of_same rfl (fun h => ⟨h.1, hx h.2.1, h.2.2⟩) fun q hq => by
    cases q <;> first | rfl | exact ⟨rfl, rfl⟩ | exact absurd rfl hq

theorem Only.setRegs {u : State} {x : SMap Word64} (hx : SMap.wf resetWord u.regs = true → SMap.wf resetWord x = true) :
    Only [.regs] u { u with regs := x } :=
  Only.of_same rfl (fun h => ⟨hx h.1, h.2⟩) fun q hq => by
    cases q <;> first | rfl | exact ⟨rfl, rfl⟩ | exact absurd rfl hq

theorem Only.setMem {u : State} {x : SMap Byte} (hx : Memory.wf u.mem = true → Memory.wf x = true) :
    Only [.mem] u { u with mem := x } :=
  Only.of_same rfl (fun h => ⟨h.1, h.2.1, hx h.2.2.1, h.2.2.2⟩) fun q hq => by
    cases q <;> first | rfl | exact absurd rfl hq

theorem Only.setPoison {u : State} {x : SMap Bool}
    (hx : SMap.wf (fun _ => false) u.poison = true → SMap.wf (fun _ => false) x = true) :
    Only [.mem] u { u with poison := x } :=
  Only.of_same rfl (fun h => ⟨h.1, h.2.1, h.2.2.1, hx h.2.2.2.1, h.2.2.2.2⟩) fun q hq => by
    cases q <;> first | rfl | exact absurd rfl hq

/-- Putting a range of bytes keeps the memory's canonical form. -/
theorem Memory.wf_putRange {m : SMap Byte} (p : Nat) (bs : List Byte) (h : Memory.wf m = true) :
    Memory.wf (SMap.putRange memDefault m p bs) = true := SMap.wf_putRange p bs h

theorem Memory.wf_put {m : SMap Byte} (p : Nat) (b : Byte) (h : Memory.wf m = true) :
    Memory.wf (SMap.put memDefault m p b) = true := SMap.wf_put p b h

/-! ### The named operations -/

theorem State.wr_only {u : State} {a v : Nat} : Only [.regs] u (u.wr a v) := Only.setRegs fun h => SMap.wf_put _ _ h

theorem State.setFld_only {u : State} {f : Fld} {v : Nat} : Only [.regs] u (u.setFld f v) := State.wr_only

theorem State.bump_only {u : State} {f : Fld} {n : Nat} : Only [.regs] u (u.bump f n) := State.wr_only

theorem State.emit_only {u : State} {m : Msg} : Only [.sent] u (u.emit m) := Only.sent

theorem State.emits_only {u : State} {m : List Msg} : Only [.sent] u (u.emits m) := Only.sent

theorem State.fresh_only {u : State} : Only [.fresh] u u.fresh.2 := Only.freshCount

/-- A change of one atoll that keeps its lagoon in canonical form. -/
theorem State.onAtl_only {u : State} {k : Atoll} {f : AtollSt → AtollSt}
    (hf : ∀ a, SMap.wf lagDefault a.strm.lag = true → SMap.wf lagDefault (f a).strm.lag = true) :
    Only [.atolls] u (u.onAtl k f) := by
  refine Only.of_same rfl (fun h => ⟨h.1, h.2.1, h.2.2.1, h.2.2.2.1, fun j => ?_⟩) fun q hq => by
    cases q <;> first | rfl | exact ⟨rfl, rfl⟩ | exact absurd rfl hq
  have hj := h.2.2.2.2 j
  have hk := h.2.2.2.2 k
  simp only [State.atl, State.onAtl, Fin.getElem_fin, Vector.getElem_set] at hj hk ⊢
  split
  · exact hf _ hk
  · exact hj

theorem State.onStrm_only {u : State} {k : Atoll} {f : StrmSt → StrmSt}
    (hf : ∀ m, SMap.wf lagDefault m.lag = true → SMap.wf lagDefault (f m).lag = true) :
    Only [.atolls] u (u.onStrm k f) := State.onAtl_only fun a h => hf a.strm h

theorem Only.onAtl {P : List Part} {s u : State} {k : Atoll} {f : AtollSt → AtollSt}
    (hq : ([Part.atolls].all fun p => P.contains p) = true)
    (hf : ∀ a, SMap.wf lagDefault a.strm.lag = true → SMap.wf lagDefault (f a).strm.lag = true) (h : Only P s u) :
    Only P s (u.onAtl k f) := Only.andThen (State.onAtl_only hf) hq h

theorem Only.onStrm {P : List Part} {s u : State} {k : Atoll} {f : StrmSt → StrmSt}
    (hq : ([Part.atolls].all fun p => P.contains p) = true)
    (hf : ∀ m, SMap.wf lagDefault m.lag = true → SMap.wf lagDefault (f m).lag = true) (h : Only P s u) :
    Only P s (u.onStrm k f) := Only.andThen (State.onStrm_only hf) hq h

theorem State.onSeq_only {u : State} {k : Atoll} {f : SeqSt → SeqSt} : Only [.atolls] u (u.onSeq k f) :=
  State.onAtl_only fun _ h => h

theorem State.onArr_only {u : State} {k : Atoll} {f : ArrSt → ArrSt} : Only [.atolls] u (u.onArr k f) :=
  State.onAtl_only fun _ h => h

theorem State.onVec_only {u : State} {k : Atoll} {f : VecSt → VecSt} : Only [.atolls] u (u.onVec k f) :=
  State.onAtl_only fun _ h => h

theorem State.onMc_only {u : State} {k : Atoll} {f : McSt → McSt} : Only [.atolls] u (u.onMc k f) :=
  State.onAtl_only fun _ h => h

theorem State.onStep_only {u : State} {k : Atoll} {f : StepSt → StepSt} : Only [.atolls] u (u.onStep k f) :=
  State.onAtl_only fun _ h => h

theorem State.onPwr_only {u : State} {k : Atoll} {f : AtlPwr → AtlPwr} : Only [.atolls] u (u.onPwr k f) :=
  State.onAtl_only fun _ h => h

theorem State.onPort_only {u : State} {p : PortIx} {f : PortSt → PortSt} : Only [.ports] u (u.onPort p f) :=
  Only.ports

theorem State.onTicket_only {u : State} {t : Ticket} {f : TicketSt → TicketSt} : Only [.tickets] u (u.onTicket t f) :=
  Only.tickets

theorem State.onTide_only {u : State} {f : TideSt → TideSt} : Only [.tide] u (u.onTide f) := Only.tide

theorem State.unstage_only {u : State} {c i : Nat} : Only [.staged] u (u.unstage c i) :=
  Only.setStaged fun h => SMap.rising_filter _ h

end Sys2Proof.Machine
end

