-- ==== Sys2Proof/Laws/OnlyOps.lean ====
section
/-! SUPPORT. What the operations of Machine/Ops.lean change (`Only`). -/

namespace Sys2Proof.Machine

theorem State.deliver_only {s : State} {c i : Nat} :
    Only [.sent, .irq] s (State.deliver s c i) := by
  unfold State.deliver
  repeat' (first
    | with_reducible apply Only.refl
    | (with_reducible apply Only.andThen State.emit_only; decide)
    | (with_reducible apply Only.ite; rotate_left; intro _)
    | fail_if_no_progress (with_reducible apply Only.andThen Only.irqPend; decide))

theorem State.countEvent_only {s : State} {c i : Nat} :
    Only [.regs] s (State.countEvent s c i) := by
  unfold State.countEvent
  repeat' (first
    | with_reducible apply Only.refl
    | (with_reducible apply Only.andThen State.setFld_only; decide))

theorem State.raise_only {s : State} {c i b : Nat} :
    Only [.sent, .regs, .irq] s (State.raise s c i b) := by
  unfold State.raise
  repeat' (first
    | with_reducible apply Only.refl
    | (with_reducible apply Only.andThen State.countEvent_only; decide)
    | (with_reducible apply Only.andThen State.setFld_only; decide)
    | (with_reducible apply Only.andThen State.deliver_only; decide)
    | (with_reducible apply Only.ite; rotate_left; intro _))

theorem State.raiseHdr_only {s : State} {c i : Nat} {f : Fld} :
    Only [.sent, .regs, .irq] s (State.raiseHdr s c i f) := by
  unfold State.raiseHdr
  repeat' (first
    | with_reducible apply Only.refl
    | (with_reducible apply Only.andThen State.countEvent_only; decide)
    | (with_reducible apply Only.andThen State.setFld_only; decide)
    | (with_reducible apply Only.andThen State.deliver_only; decide))

theorem State.raiseIf_only {s : State} {b : Bool} {c i bit : Nat} :
    Only [.sent, .regs, .irq] s (State.raiseIf s b c i bit) := by
  unfold State.raiseIf
  repeat' (first
    | with_reducible apply Only.refl
    | (with_reducible apply Only.andThen State.raise_only; decide)
    | (with_reducible apply Only.ite; rotate_left; intro _))

theorem State.awaitHost_only {s : State} {c i b what : Nat} :
    Only [.waits] s (State.awaitHost s c i b what) := by
  unfold State.awaitHost
  repeat' (first
    | with_reducible apply Only.refl
    | fail_if_no_progress (with_reducible apply Only.andThen Only.waits; decide))

theorem State.answered_only {s : State} {c i b what : Nat} :
    Only [.waits] s (State.answered s c i b what) := by
  unfold State.answered
  repeat' (first
    | with_reducible apply Only.refl
    | fail_if_no_progress (with_reducible apply Only.andThen Only.waits; decide))

theorem State.fell_only {s : State} {c i b : Nat} :
    Only [.sent, .regs, .irq] s (State.fell s c i b) := by
  unfold State.fell
  repeat' (first
    | with_reducible apply Only.refl
    | (with_reducible apply Only.andThen State.countEvent_only; decide)
    | (with_reducible apply Only.andThen State.setFld_only; decide)
    | (with_reducible apply Only.andThen State.deliver_only; decide))

end Sys2Proof.Machine
end

