-- ==== Sys2Proof/Laws/OnlyAlerts.lean ====
section
/-! SUPPORT. What the operations of Machine/Alerts.lean change (`Only`). -/

namespace Sys2Proof.Machine

theorem State.alertPin_only {s : State} :
    Only [.sent, .regs, .irq, .rst] s (State.alertPin s) := by
  unfold State.alertPin
  repeat' (first
    | with_reducible apply Only.refl
    | (with_reducible apply Only.andThen State.raiseIf_only; decide)
    | (with_reducible apply Only.andThen State.emit_only; decide)
    | (with_reducible apply Only.ite; rotate_left; intro _)
    | fail_if_no_progress (with_reducible apply Only.andThen Only.rst; decide))

theorem State.alertCause_only {s : State} {b : Nat} :
    Only [.sent, .regs, .irq, .rst] s (State.alertCause s b) := by
  unfold State.alertCause
  repeat' (first
    | with_reducible apply Only.refl
    | (with_reducible apply Only.andThen State.wr_only; decide)
    | (with_reducible apply Only.andThen State.alertPin_only; decide))

theorem State.alertAck_only {s : State} {v : Nat} :
    Only [.sent, .regs, .irq, .rst] s (State.alertAck s v) := by
  unfold State.alertAck
  repeat' (first
    | with_reducible apply Only.refl
    | with_reducible assumption
    | (with_reducible apply Only.andThen State.wr_only; decide)
    | (with_reducible apply Only.andThen State.alertCause_only; decide)
    | (with_reducible apply Only.andThen State.alertPin_only; decide)
    | with_reducible apply Only.each
    | intro _ _ _)

theorem State.holmState_only {s : State} {v : Nat} :
    Only [.sent, .regs, .irq, .rst] s (State.holmState s v) := by
  unfold State.holmState
  repeat' (first
    | with_reducible apply Only.refl
    | (with_reducible apply Only.andThen State.setFld_only; decide)
    | (with_reducible apply Only.andThen State.raise_only; decide)
    | (with_reducible apply Only.andThen State.alertCause_only; decide)
    | (with_reducible apply Only.ite; rotate_left; intro _))

end Sys2Proof.Machine
end

