-- ==== Sys2Proof/Laws/OnlyMemory.lean ====
section
/-! SUPPORT. What the operations of Machine/Memory.lean change (`Only`). -/

namespace Sys2Proof.Machine

theorem State.carried_only {s : State} {j n : Nat} {first : Bool} {fuel x : Nat} :
    Only [.regs] s (State.carried s j n first fuel x) := by
  induction fuel generalizing s first x with
  | zero => exact Only.refl
  | succ fuel ih =>
    unfold State.carried
    repeat' (first
      | with_reducible apply Only.refl
      | (with_reducible apply Only.andThen ih; decide)
      | (with_reducible apply Only.andThen State.bump_only; decide)
      | (with_reducible apply Only.ite; rotate_left; intro _))

theorem State.causeway_only {s : State} {i j n : Nat} :
    Only [.regs] s (State.causeway s i j n) := by
  unfold State.causeway
  repeat' (first
    | with_reducible apply Only.refl
    | (with_reducible apply Only.andThen State.carried_only; decide))

theorem State.onChan_only {s : State} {k : Atoll} {c : Nat} {f : ChSt → ChSt} :
    Only [.atolls] s (State.onChan s k c f) := by
  unfold State.onChan
  repeat' (first
    | with_reducible apply Only.refl
    | (with_reducible apply Only.andThen State.onMc_only; decide))

theorem State.holdReq_only {s : State} {k : Atoll} {c : Nat} {r : HeldReq} :
    Only [.atolls] s (State.holdReq s k c r) := by
  unfold State.holdReq
  repeat' (first
    | with_reducible apply Only.refl
    | (with_reducible apply Only.andThen State.onChan_only; decide)
    | (with_reducible apply Only.andThen State.onMc_only; decide))

theorem State.burst_only {s : State} {a cls : Nat} :
    Only [.atolls] s (State.burst s a cls) := by
  unfold State.burst
  repeat' (first
    | with_reducible apply Only.refl
    | (with_reducible apply Only.andThen State.onMc_only; decide)
    | (with_reducible apply Only.onStrm; decide)
    | (intro _ h; exact h)
    | (with_reducible apply Only.ite; rotate_left; intro _))

theorem State.reach_only {s : State} {k : Atoll} {a n : Nat} {write small : Bool} {port : Option PortIx} :
    Only [.regs, .atolls] s (State.reach s k a n write small port) := by
  unfold State.reach
  repeat' (first
    | with_reducible apply Only.refl
    | with_reducible assumption
    | (with_reducible apply Only.andThen State.burst_only; decide)
    | (with_reducible apply Only.andThen State.bump_only; decide)
    | (with_reducible apply Only.andThen State.causeway_only; decide)
    | with_reducible apply Only.each
    | (with_reducible apply Only.ite; rotate_left; intro _)
    | intro _ _ _)

theorem State.setPoison_only {s : State} {p : Nat} {b : Bool} :
    Only [.mem] s (State.setPoison s p b) := by
  unfold State.setPoison
  repeat' (first
    | with_reducible apply Only.refl
    | fail_if_no_progress (with_reducible apply Only.andThen (Only.setPoison fun h => SMap.wf_put _ _ h); decide))

theorem State.putByte_only {s : State} {p : Nat} {b : Byte} :
    Only [.mem] s (State.putByte s p b) := by
  unfold State.putByte
  repeat' (first
    | with_reducible apply Only.refl
    | fail_if_no_progress (with_reducible apply Only.andThen (Only.setMem fun h => Memory.wf_put _ _ h); decide))

theorem State.carryGranule_only {s : State} {p q : Nat} :
    Only [.mem] s (State.carryGranule s p q) := by
  unfold State.carryGranule
  repeat' (first
    | with_reducible apply Only.refl
    | with_reducible assumption
    | (with_reducible apply Only.andThen State.setPoison_only; decide)
    | with_reducible apply Only.foldl
    | intro _ _ _
    | fail_if_no_progress (with_reducible apply Only.andThen (Only.setMem fun h => Memory.wf_putRange _ _ h); decide))

theorem State.noteWrite_only {s : State} {a : Nat} :
    Only [.atolls, .mem] s (State.noteWrite s a) := by
  unfold State.noteWrite
  dsimp only
  repeat' (first
    | with_reducible apply Only.refl
    | (with_reducible apply Only.andThen State.onMc_only; decide)
    | (with_reducible apply Only.andThen State.carryGranule_only; decide)
    | split)

theorem State.dropHeld_only {s : State} {a : Nat} :
    Only [.atolls] s (State.dropHeld s a) := by
  unfold State.dropHeld
  repeat' (first
    | with_reducible apply Only.refl
    | (with_reducible apply Only.onStrm; decide)
    | (intro _ h; exact h)
    | (with_reducible apply Only.ite; rotate_left; intro _))

theorem State.atomPut_only {s : State} {a : Nat} {bs : List Byte} :
    Only [.atolls, .mem] s (State.atomPut s a bs).1 := by
  unfold State.atomPut
  repeat' (first
    | with_reducible apply Only.refl
    | (with_reducible apply Only.andThen State.noteWrite_only; decide)
    | (with_reducible apply Only.andThen State.setPoison_only; decide)
    | (with_reducible apply Only.ite_fst; rotate_left; intro _)
    | fail_if_no_progress (with_reducible apply Only.andThen (Only.setMem fun h => Memory.wf_putRange _ _ h); decide))

theorem State.flushAtom_only {s : State} {a : Nat} :
    Only [.atolls, .mem] s (State.flushAtom s a) := by
  unfold State.flushAtom
  repeat' (first
    | with_reducible apply Only.refl
    | (with_reducible apply Only.andThen State.dropHeld_only; decide)
    | (with_reducible apply Only.andThen State.atomPut_only; decide)
    | (with_reducible apply Only.andThen State.noteWrite_only; decide)
    | (with_reducible apply Only.ite; rotate_left; intro _)
    | fail_if_no_progress (with_reducible apply Only.andThen (Only.setMem fun h => Memory.wf_putRange _ _ h); decide))

theorem State.atomWrite_only {s : State} {a : Nat} {bs : List Byte} :
    Only [.atolls, .mem] s (State.atomWrite s a bs).1 := by
  unfold State.atomWrite
  repeat' (first
    | with_reducible apply Only.refl
    | (with_reducible apply Only.andThen State.flushAtom_only; decide)
    | (with_reducible apply Only.andThen State.atomPut_only; decide))

theorem State.devWrite_only {s : State} {a : Nat} {bs : List Byte} :
    Only [.atolls, .mem] s (State.devWrite s a bs).1 := by
  unfold State.devWrite
  repeat' (first
    | with_reducible apply Only.refl
    | with_reducible assumption
    | (with_reducible apply Only.andThen State.atomWrite_only; decide)
    | with_reducible apply Only.foldl_fst
    | intro _ _ _ _)

theorem State.engineWrite_only {s : State} {a : Nat} {bs : List Byte} :
    Only [.atolls, .mem] s (State.engineWrite s a bs) := by
  unfold State.engineWrite
  repeat' (first
    | with_reducible apply Only.refl
    | with_reducible assumption
    | (with_reducible apply Only.andThen State.holdReq_only; decide)
    | (with_reducible apply Only.andThen State.atomWrite_only; decide)
    | with_reducible apply Only.foldl
    | (with_reducible apply Only.ite; rotate_left; intro _)
    | intro _ _ _)

theorem State.skiffHold_only {s : State} {a : Nat} {bs : List Byte} :
    Only [.regs, .atolls] s (State.skiffHold s a bs) := by
  unfold State.skiffHold
  repeat' (first
    | with_reducible apply Only.refl
    | (with_reducible apply Only.onStrm; decide)
    | (with_reducible apply Only.andThen State.bump_only; decide)
    | (intro _ h; exact h)
    | (with_reducible apply Only.ite; rotate_left; intro _))

theorem State.skiffWrite_only {s : State} {a : Nat} {bs : List Byte} :
    Only [.regs, .atolls] s (State.skiffWrite s a bs) := by
  unfold State.skiffWrite
  repeat' (first
    | with_reducible apply Only.refl
    | with_reducible assumption
    | (with_reducible apply Only.andThen State.skiffHold_only; decide)
    | with_reducible apply Only.foldl
    | intro _ _ _)

theorem State.skiffFlush_only {s : State} {k : Atoll} :
    Only [.atolls, .mem] s (State.skiffFlush s k) := by
  unfold State.skiffFlush
  repeat' (first
    | with_reducible apply Only.refl
    | (with_reducible apply Only.andThen State.flushAtom_only; decide)
    | split)

theorem State.poisonAtom_only {s : State} {a : Nat} :
    Only [.atolls, .mem] s (State.poisonAtom s a) := by
  unfold State.poisonAtom
  repeat' (first
    | with_reducible apply Only.refl
    | (with_reducible apply Only.andThen State.flushAtom_only; decide)
    | (with_reducible apply Only.andThen State.setPoison_only; decide)
    | (with_reducible apply Only.andThen State.noteWrite_only; decide))

theorem State.flowNote_only {s : State} {k : Atoll} {l : List (Nat × Nat)} :
    Only [.atolls] s (State.flowNote s k l) := by
  unfold State.flowNote
  repeat' (first
    | with_reducible apply Only.refl
    | (with_reducible apply Only.onStrm; decide)
    | (intro _ h; exact h)
    | (with_reducible apply Only.ite; rotate_left; intro _))

theorem State.lagSeen_only {s : State} {k : Atoll} {a n : Nat} :
    Only [.regs] s (State.lagSeen s k a n) := by
  unfold State.lagSeen
  repeat' (first
    | with_reducible apply Only.refl
    | (with_reducible apply Only.andThen State.bump_only; decide)
    | (with_reducible apply Only.ite; rotate_left; intro _))

theorem State.lagWrite_only {s : State} {k : Atoll} {a : Nat} {bs : List Byte} :
    Only [.sent, .regs, .irq, .atolls] s (State.lagWrite s k a bs) := by
  unfold State.lagWrite
  repeat' (first
    | with_reducible apply Only.refl
    | with_reducible assumption
    | (with_reducible apply Only.andThen State.bump_only; decide)
    | (with_reducible apply Only.onStrm; decide)
    | (with_reducible apply Only.andThen State.raise_only; decide)
    | with_reducible apply Only.foldl
    | (intro _ h; exact SMap.wf_putRange _ _ h)
    | (with_reducible apply Only.ite; rotate_left; intro _)
    | intro _ _ _)

theorem State.lagCover_only {s : State} {k : Atoll} {a n : Nat} :
    Only [.atolls] s (State.lagCover s k a n) := by
  unfold State.lagCover
  repeat' (first
    | with_reducible apply Only.refl
    | (with_reducible apply Only.onStrm; decide)
    | (intro _ h; exact h))

theorem State.lagFlip_only {s : State} {k : Atoll} {w : Nat} {two : Bool} :
    Only [.atolls] s (State.lagFlip s k w two) := by
  unfold State.lagFlip
  repeat' (first
    | with_reducible apply Only.refl
    | with_reducible assumption
    | (with_reducible apply Only.onStrm; decide)
    | intro _ _
    | split)

theorem State.readEntry_only {s : State} {k : Atoll} {l va tbl : Nat} :
    Only [.regs, .atolls] s (State.readEntry s k l va tbl).2 := by
  unfold State.readEntry
  dsimp only
  repeat' (first
    | with_reducible apply Only.refl
    | (with_reducible apply Only.onStrm; decide)
    | (with_reducible apply Only.andThen State.reach_only; decide)
    | (intro _ h; exact h)
    | split)

theorem State.walkFrom_only {s : State} {k : Atoll} {va fuel l tbl : Nat} :
    Only [.regs, .atolls] s (State.walkFrom s k va fuel l tbl).2 := by
  induction fuel generalizing s l tbl with
  | zero => exact Only.refl
  | succ fuel ih =>
    unfold State.walkFrom
    repeat' (first
      | with_reducible apply Only.refl
      | (with_reducible apply Only.andThen ih; decide)
      | (with_reducible apply Only.andThen State.readEntry_only; decide)
      | (with_reducible apply Only.onStrm; decide)
      | (intro _ h; exact h)
      | (with_reducible apply Only.snd; assumption)
      | split)

theorem State.leaf_only {s : State} {k : Atoll} {va : Nat} :
    Only [.regs, .atolls] s (State.leaf s k va).2 := by
  unfold State.leaf
  dsimp only
  repeat' (first
    | with_reducible apply Only.refl
    | (with_reducible apply Only.onStrm; decide)
    | (with_reducible apply Only.andThen State.bump_only; decide)
    | (with_reducible apply Only.andThen State.walkFrom_only; decide)
    | (intro _ h; exact h)
    | split)

theorem State.translate_only {s : State} {k : Atoll} {va : Nat} {write : Bool} :
    Only [.regs, .atolls] s (State.translate s k va write).2 := by
  unfold State.translate
  dsimp only
  repeat' (first
    | with_reducible apply Only.refl
    | (with_reducible apply Only.andThen State.leaf_only; decide)
    | (with_reducible apply Only.snd; assumption)
    | split)

theorem State.vRead_only {s : State} {k : Atoll} {va n : Nat} {port : Option PortIx} :
    Only [.regs, .atolls] s (State.vRead s k va n port).2 := by
  unfold State.vRead
  dsimp only
  repeat' (first
    | with_reducible apply Only.refl
    | with_reducible assumption
    | (with_reducible apply Only.andThen State.translate_only; decide)
    | (with_reducible apply Only.andThen State.reach_only; decide)
    | with_reducible apply Only.foldl_snd
    | intro _ _ _ _
    | (with_reducible apply Only.snd; assumption)
    | split)

theorem State.vWrite_only {s : State} {k : Atoll} {va : Nat} {bs : List Byte} {port : Option PortIx} {src : Option Atoll} :
    Only [.regs, .atolls, .mem] s (State.vWrite s k va bs port src).2 := by
  unfold State.vWrite
  repeat' (first
    | with_reducible apply Only.refl
    | with_reducible assumption
    | (with_reducible apply Only.andThen State.translate_only; decide)
    | (with_reducible apply Only.andThen State.reach_only; decide)
    | (with_reducible apply Only.andThen State.skiffWrite_only; decide)
    | (with_reducible apply Only.andThen State.engineWrite_only; decide)
    | with_reducible apply Only.foldl_snd
    | intro _ _ _ _
    | (with_reducible apply Only.snd; assumption)
    | split)

theorem State.invVa_only {s : State} {k : Atoll} {va : Nat} :
    Only [.atolls] s (State.invVa s k va) := by
  unfold State.invVa
  repeat' (first
    | with_reducible apply Only.refl
    | (with_reducible apply Only.onStrm; decide)
    | (intro _ h; exact h))

theorem State.invAll_only {s : State} {k : Atoll} :
    Only [.atolls] s (State.invAll s k) := by
  unfold State.invAll
  repeat' (first
    | with_reducible apply Only.refl
    | (with_reducible apply Only.onStrm; decide)
    | (intro _ h; exact h))

theorem State.putEntry_only {s : State} {k : Atoll} {a e : Nat} :
    Only [.regs, .atolls] s (State.putEntry s k a e) := by
  unfold State.putEntry
  repeat' (first
    | with_reducible apply Only.refl
    | (with_reducible apply Only.andThen State.reach_only; decide)
    | (with_reducible apply Only.andThen State.skiffWrite_only; decide))

theorem State.writeEdit_only {s : State} {k : Atoll} {e : EditRec} :
    Only [.regs, .atolls] s (State.writeEdit s k e) := by
  unfold State.writeEdit
  repeat' (first
    | with_reducible apply Only.refl
    | with_reducible assumption
    | (with_reducible apply Only.andThen State.putEntry_only; decide)
    | (with_reducible apply Only.andThen State.invVa_only; decide)
    | with_reducible apply Only.foldl
    | intro _ _ _)

theorem State.vNum_only {s : State} {k : Atoll} {va n : Nat} :
    Only [.regs, .atolls] s (State.vNum s k va n).2 := by
  unfold State.vNum
  repeat' (first
    | with_reducible apply Only.refl
    | (with_reducible apply Only.andThen State.vRead_only; decide)
    | (with_reducible apply Only.snd; assumption)
    | split)

end Sys2Proof.Machine
end

