-- ==== Sys2Proof/Laws/OnlyTime.lean ====
section
/-! SUPPORT. What the operations of Machine/Time.lean change (`Only`). -/

namespace Sys2Proof.Machine

theorem State.passAtoll_only {s : State} {n : Nat} {k : Atoll} :
    Only [.atolls] s (State.passAtoll s n k) := by
  unfold State.passAtoll
  repeat' (first
    | with_reducible apply Only.refl
    | (with_reducible apply Only.onAtl; decide)
    | (intro _ h; exact h))

theorem State.bind_only {s : State} {r lost : Nat} :
    Only [.regs, .pwr] s (State.bind s r lost) := by
  unfold State.bind
  repeat' (first
    | with_reducible apply Only.refl
    | (with_reducible apply Only.andThen State.bump_only; decide)
    | (with_reducible apply Only.ite; rotate_left; intro _)
    | fail_if_no_progress (with_reducible apply Only.andThen Only.pwr; decide))

theorem State.passReason_only {s : State} {n : Nat} {k : Atoll} :
    Only [.regs, .pwr] s (State.passReason s n k) := by
  unfold State.passReason
  repeat' (first
    | with_reducible apply Only.refl
    | (with_reducible apply Only.andThen State.bind_only; decide)
    | (with_reducible apply Only.ite; rotate_left; intro _))

theorem State.sampleOcc_only {s : State} {n : Nat} {p : PortIx} :
    Only [.ports] s (State.sampleOcc s n p) := by
  unfold State.sampleOcc
  repeat' (first
    | with_reducible apply Only.refl
    | (with_reducible apply Only.andThen State.onPort_only; decide))

theorem State.pass_only {s : State} {n : Nat} :
    Only [.now, .regs, .tide, .atolls, .ports, .pwr, .rst] s (State.pass s n) := by
  unfold State.pass
  repeat' (first
    | with_reducible assumption
    | (with_reducible apply Only.andThen State.onTide_only; decide)
    | (with_reducible apply Only.andThen State.sampleOcc_only; decide)
    | (with_reducible apply Only.andThen State.passReason_only; decide)
    | (with_reducible apply Only.andThen State.passAtoll_only; decide)
    | exact Only.andThen (Only.rst (u := { s with now := s.now + n })) (by decide) (Only.andThen Only.now (by decide) Only.refl)
    | with_reducible apply Only.each
    | (with_reducible apply Only.ite; rotate_left; intro _)
    | intro _ _ _)

theorem State.runTo_only {s : State} {due : Nat} {t : State} (h : State.runTo s due = some t) :
    Only [.now, .regs, .tide, .atolls, .ports, .pwr, .rst] s t := by
  unfold State.runTo at h
  try dsimp only at h
  repeat' split at h
  all_goals (first | cases h | skip)
  all_goals
    repeat' (first
      | with_reducible apply Only.refl
      | (with_reducible apply Only.andThen State.pass_only; decide))

theorem State.passTo_only {s : State} {p : Nat} :
    Only [.now, .regs, .tide, .atolls, .ports, .pwr, .rst] s (State.passTo s p) := by
  unfold State.passTo
  repeat' (first
    | with_reducible apply Only.refl
    | (with_reducible apply Only.andThen State.pass_only; decide))

end Sys2Proof.Machine
end

