-- ==== Sys2Proof/Laws/OnlyFaults.lean ====
section
/-! SUPPORT. What the operations of Machine/Faults.lean change (`Only`). -/

namespace Sys2Proof.Machine

theorem State.onStream_only {s : State} {k : Atoll} {i : Nat} {f : StreamSt → StreamSt} :
    Only [.atolls] s (State.onStream s k i f) := by
  unfold State.onStream
  try dsimp only
  repeat' (first
    | with_reducible apply Only.refl
    | with_reducible assumption
    | (with_reducible apply Only.onStrm; decide)
    | (intro _ h; exact h))

theorem State.settle_only {s : State} {k : Atoll} {c n : Nat} :
    Only [.atolls] s (State.settle s k c n) := by
  induction n generalizing s with
  | zero => exact Only.refl
  | succ n ih =>
    unfold State.settle
    try dsimp only
    repeat' (first
      | with_reducible apply Only.refl
      | with_reducible assumption
      | (with_reducible apply Only.andThen ih; decide)
      | (with_reducible apply Only.onStrm; decide)
      | (with_reducible apply Only.andThen State.onSeq_only; decide)
      | (intro _ h; exact h)
      | (with_reducible apply Only.ite; rotate_left; intro _)
      | intro _ _ _ _ _ _
      | intro _ _ _ _ _
      | intro _ _ _ _
      | intro _ _ _
      | intro _ _
      | (with_reducible apply Only.fst; assumption)
      | (with_reducible apply Only.snd; assumption)
      | (with_reducible apply Only.snd2; assumption)
      | (with_reducible apply Only.snd3; assumption)
      | dsimp only
      | split)

theorem State.onFlt_only {s : State} {k : Atoll} {r : Nat} {f : FltRec → FltRec} :
    Only [.atolls] s (State.onFlt s k r f) := by
  unfold State.onFlt
  try dsimp only
  repeat' (first
    | with_reducible apply Only.refl
    | with_reducible assumption
    | (with_reducible apply Only.onStrm; decide)
    | (intro _ h; exact h))

theorem State.poolFrame_only {s : State} {k : Atoll} :
    Only [.regs, .atolls] s (State.poolFrame s k).2 := by
  unfold State.poolFrame
  try dsimp only
  repeat' (first
    | with_reducible apply Only.refl
    | with_reducible assumption
    | (with_reducible apply Only.andThen State.vRead_only; decide)
    | (with_reducible apply Only.ite; rotate_left; intro _)
    | (with_reducible apply Only.ite_fst; rotate_left; intro _)
    | (with_reducible apply Only.ite_snd; rotate_left; intro _)
    | intro _ _ _ _ _ _
    | intro _ _ _ _ _
    | intro _ _ _ _
    | intro _ _ _
    | intro _ _
    | (with_reducible apply Only.fst; assumption)
    | (with_reducible apply Only.snd; assumption)
    | (with_reducible apply Only.snd2; assumption)
    | (with_reducible apply Only.snd3; assumption)
    | dsimp only
    | split)

theorem State.dropStream_only {s : State} {k : Atoll} {x : StreamSt} :
    Only [.atolls] s (State.dropStream s k x) := by
  unfold State.dropStream
  try dsimp only
  repeat' (first
    | with_reducible apply Only.refl
    | with_reducible assumption
    | (with_reducible apply Only.onStrm; decide)
    | (with_reducible apply Only.andThen State.settle_only; decide)
    | (intro _ h; exact h))

theorem State.abortDetached_only {s : State} {k : Atoll} {x : StreamSt} {x_st : Stop} :
    Only [.sent, .regs, .irq, .atolls] s (State.abortDetached s k x x_st) := by
  unfold State.abortDetached
  try dsimp only
  repeat' (first
    | with_reducible apply Only.refl
    | with_reducible assumption
    | (with_reducible apply Only.andThen State.dropStream_only; decide)
    | (with_reducible apply Only.andThen State.raise_only; decide))

theorem State.selfServe_only {P : List Part} {s u : State} {abort : State → Atoll → StreamSt → Stop → State} {k : Atoll} {r : Nat}
    {x : StreamSt} {st : Stop} (hq : (([.sent, .regs, .irq, .atolls] : List Part).all fun p => P.contains p) = true)
    (ha : ∀ v x st, Only P s v → Only P s (abort v k x st)) (hu : Only P s u) : Only P s (u.selfServe abort k r x st) := by
  have hP : ∀ {Q : List Part} {v w : State}, Only Q v w → (Q.all fun p => ([.sent, .regs, .irq, .atolls] : List Part).contains p) = true →
      Only P s v → Only P s w := fun g h hv => Only.andThen (Only.mono g h) hq hv
  have hp := hP State.poolFrame_only (by decide) hu (w := (u.poolFrame k).2)
  unfold State.selfServe
  split
  · split
    · exact hP State.onFlt_only (by decide) (Only.snd (by assumption) hp)
    · exact ha _ _ _ (hP State.onFlt_only (by decide) (hP State.raise_only (by decide) (Only.snd (by assumption) hp)))
  · exact ha _ _ _ (hP State.onFlt_only (by decide) hu)

theorem State.recordFault_only {P : List Part} {s u : State} {abort : State → Atoll → StreamSt → Stop → State} {k : Atoll}
    {x : StreamSt} {st : Stop} (hq : (([.sent, .regs, .irq, .waits, .atolls] : List Part).all fun p => P.contains p) = true)
    (ha : ∀ v x st, Only P s v → Only P s (abort v k x st)) (hu : Only P s u) : Only P s (u.recordFault abort k x st) := by
  have hP : ∀ {Q : List Part} {v w : State}, Only Q v w → (Q.all fun p => ([.sent, .regs, .irq, .waits, .atolls] : List Part).contains p) = true →
      Only P s v → Only P s w := fun g h hv => Only.andThen (Only.mono g h) hq hv
  unfold State.recordFault
  split
  · split
    · exact ha _ _ _ hu
    · exact hu
  · have h : ∀ r e, Only P s (((u.onFlt k r fun _ => e).bump (F.STRM_CNT_FAULT k)).onStream k x.slot
        fun x => { x with recorded := true }) := fun r e =>
      hP State.onStream_only (by decide) (hP State.bump_only (by decide) (hP State.onFlt_only (by decide) hu))
    dsimp only
    split
    · exact ha _ _ _ (h _ _)
    · split
      · exact hP State.awaitHost_only (by decide) (hP State.raise_only (by decide) (h _ _))
      · exact State.selfServe_only (by simp at hq ⊢; simp [hq]) ha (h _ _)

theorem State.assignFaults_only {P : List Part} {s u : State} {abort : State → Atoll → StreamSt → Stop → State} {k : Atoll} {n : Nat}
    (hq : (([.sent, .regs, .irq, .waits, .atolls] : List Part).all fun p => P.contains p) = true)
    (ha : ∀ v x st, Only P s v → Only P s (abort v k x st)) (hu : Only P s u) : Only P s (State.assignFaults u abort k n) := by
  induction n generalizing u with
  | zero => exact hu
  | succ n ih =>
    unfold State.assignFaults
    split
    · exact ih (State.recordFault_only hq ha hu)
    · exact hu

end Sys2Proof.Machine
end

