-- ==== Sys2Proof/Laws/OnlyLayers.lean ====
section
/-! SUPPORT. What the operations of Machine/Layers.lean change (`Only`). -/

namespace Sys2Proof.Machine

theorem State.safety_only {s : State} :
    Only [.sent, .regs, .irq] s (State.safety s) := by
  unfold State.safety
  repeat' (first
    | with_reducible apply Only.refl
    | (with_reducible apply Only.andThen State.setFld_only; decide)
    | (with_reducible apply Only.andThen State.raise_only; decide)
    | (with_reducible apply Only.ite; rotate_left; intro _))

theorem State.trickle_only {s : State} :
    Only [.regs] s (State.trickle s) := by
  unfold State.trickle
  repeat' (first
    | with_reducible apply Only.refl
    | (with_reducible apply Only.andThen State.setFld_only; decide)
    | (with_reducible apply Only.ite; rotate_left; intro _))

theorem State.layerEnd_only {s : State} {l : Nat} {ok : Bool} :
    Only [.sent, .regs, .irq] s (State.layerEnd s l ok) := by
  unfold State.layerEnd
  repeat' (first
    | with_reducible apply Only.refl
    | (with_reducible apply Only.andThen State.setFld_only; decide)
    | (with_reducible apply Only.andThen State.safety_only; decide)
    | (with_reducible apply Only.andThen State.trickle_only; decide)
    | (with_reducible apply Only.andThen State.raise_only; decide))

theorem State.partnerLost_only {s : State} :
    Only [.sent, .regs, .irq] s (State.partnerLost s) := by
  unfold State.partnerLost
  repeat' (first
    | with_reducible apply Only.refl
    | (with_reducible apply Only.andThen State.layerEnd_only; decide)
    | (with_reducible apply Only.ite; rotate_left; intro _))

end Sys2Proof.Machine
end

