-- ==== Sys2Proof/Laws/OnlySlices.lean ====
section
/-! SUPPORT. What the operations of Machine/Slices.lean change (`Only`). -/

namespace Sys2Proof.Machine

theorem State.putRecord_only {s : State} {k : Atoll} {r : List Byte} :
    Only [.regs, .atolls] s (State.putRecord s k r) := by
  unfold State.putRecord
  repeat' (first
    | with_reducible apply Only.refl
    | (with_reducible apply Only.andThen State.reach_only; decide)
    | (with_reducible apply Only.andThen State.setFld_only; decide)
    | (with_reducible apply Only.andThen State.skiffWrite_only; decide))

theorem State.record_only {s : State} {k : Atoll} {r : List Byte} :
    Only [.sent, .regs, .irq, .atolls] s (State.record s k r) := by
  unfold State.record
  repeat' (first
    | with_reducible apply Only.refl
    | (with_reducible apply Only.andThen State.bump_only; decide)
    | (with_reducible apply Only.andThen State.putRecord_only; decide)
    | (with_reducible apply Only.onAtl; decide)
    | (with_reducible apply Only.andThen State.raise_only; decide)
    | (intro _ h; exact h)
    | (with_reducible apply Only.ite; rotate_left; intro _))

theorem State.haltQueue_only {s : State} {n : Nat} :
    Only [.sent, .regs, .irq] s (State.haltQueue s n) := by
  unfold State.haltQueue
  repeat' (first
    | with_reducible apply Only.refl
    | (with_reducible apply Only.andThen State.setFld_only; decide)
    | (with_reducible apply Only.andThen State.raise_only; decide))

theorem State.sample_only {s : State} {k : Atoll} :
    Only [.atolls] s (State.sample s k) := by
  unfold State.sample
  repeat' (first
    | with_reducible apply Only.refl
    | (with_reducible apply Only.andThen State.onPwr_only; decide)
    | split)

theorem State.dropUnits_only {s : State} {k : Atoll} :
    Only [.sent, .regs, .irq, .waits, .atolls] s (State.dropUnits s k) := by
  unfold State.dropUnits
  repeat' (first
    | with_reducible apply Only.refl
    | with_reducible assumption
    | (with_reducible apply Only.andThen State.sample_only; decide)
    | (with_reducible apply Only.andThen State.settle_only; decide)
    | (with_reducible apply Only.andThen State.abortDetached_only; decide)
    | (with_reducible apply Only.onAtl; decide)
    | (with_reducible apply State.assignFaults_only; decide)
    | with_reducible apply Only.each
    | (intro _ h; dsimp only; (repeat' split) <;> exact h)
    | intro _ _
    | fail_if_no_progress (with_reducible apply Only.andThen Only.waits; decide))

theorem State.endSlice_only {s : State} {k : Atoll} {status bundle : Nat} :
    Only [.sent, .regs, .irq, .waits, .atolls] s (State.endSlice s k status bundle) := by
  unfold State.endSlice
  repeat' (first
    | with_reducible apply Only.refl
    | (with_reducible apply Only.andThen State.dropUnits_only; decide)
    | (with_reducible apply Only.andThen State.bump_only; decide)
    | (with_reducible apply Only.andThen State.record_only; decide)
    | (with_reducible apply Only.andThen State.onSeq_only; decide)
    | (with_reducible apply Only.andThen State.haltQueue_only; decide)
    | (with_reducible apply Only.andThen State.raise_only; decide)
    | split)

theorem State.abandon_only {s : State} {k : Atoll} :
    Only [.sent, .regs, .irq, .waits, .atolls] s (State.abandon s k) := by
  unfold State.abandon
  repeat' (first
    | with_reducible apply Only.refl
    | (with_reducible apply Only.andThen State.endSlice_only; decide))

theorem State.refuse_only {s : State} {k : Atoll} {code : Nat} :
    Only [.sent, .regs, .irq, .waits, .atolls] s (State.refuse s k code) := by
  unfold State.refuse
  repeat' (first
    | with_reducible apply Only.refl
    | (with_reducible apply Only.andThen State.setFld_only; decide)
    | (with_reducible apply Only.andThen State.raise_only; decide)
    | (with_reducible apply Only.andThen State.endSlice_only; decide)
    | (with_reducible apply Only.ite; rotate_left; intro _))

theorem State.tideFault_only {s : State} {k : Atoll} :
    Only [.sent, .regs, .irq, .waits, .atolls] s (State.tideFault s k) := by
  unfold State.tideFault
  repeat' (first
    | with_reducible apply Only.refl
    | (with_reducible apply Only.andThen State.bump_only; decide)
    | (with_reducible apply Only.andThen State.raise_only; decide)
    | (with_reducible apply Only.andThen State.onSeq_only; decide)
    | (with_reducible apply Only.andThen State.abandon_only; decide)
    | (with_reducible apply Only.andThen State.dropUnits_only; decide)
    | (with_reducible apply Only.ite; rotate_left; intro _))

theorem State.voidSlice_only {s : State} {k : Atoll} {va : Nat} {write : Bool} :
    Only [.sent, .regs, .irq, .waits, .atolls] s (State.voidSlice s k va write) := by
  unfold State.voidSlice
  repeat' (first
    | with_reducible apply Only.refl
    | (with_reducible apply Only.andThen State.raise_only; decide)
    | (with_reducible apply Only.andThen State.dropUnits_only; decide)
    | (with_reducible apply Only.andThen State.onSeq_only; decide))

theorem State.abandonHeld_only {s : State} {k : Atoll} :
    Only [.sent, .regs, .irq, .waits, .atolls] s (State.abandonHeld s k) := by
  unfold State.abandonHeld
  repeat' (first
    | with_reducible apply Only.refl
    | (with_reducible apply Only.andThen State.raise_only; decide)
    | (with_reducible apply Only.andThen State.abandon_only; decide))

theorem State.fitWait_only {s : State} {k : Atoll} :
    Only [.regs, .atolls] s (State.fitWait s k) := by
  unfold State.fitWait
  repeat' (first
    | with_reducible apply Only.refl
    | (with_reducible apply Only.andThen State.bump_only; decide)
    | (with_reducible apply Only.andThen State.onSeq_only; decide)
    | split)

theorem State.oversize_only {s : State} {k : Atoll} :
    Only [.sent, .regs, .irq] s (State.oversize s k) := by
  unfold State.oversize
  repeat' (first
    | with_reducible apply Only.refl
    | (with_reducible apply Only.andThen State.bump_only; decide)
    | (with_reducible apply Only.andThen State.raise_only; decide))

theorem State.openSlice_only {s : State} {k : Atoll} :
    Only [.regs, .atolls] s (State.openSlice s k) := by
  unfold State.openSlice
  dsimp only
  repeat' (first
    | with_reducible apply Only.refl
    | (with_reducible apply Only.andThen State.onSeq_only; decide)
    | (with_reducible apply Only.andThen State.onPwr_only; decide)
    | (with_reducible apply Only.andThen State.setFld_only; decide)
    | split)

theorem State.tryOpen_only {s : State} {k : Atoll} :
    Only [.sent, .regs, .irq, .atolls] s (State.tryOpen s k).1 := by
  unfold State.tryOpen
  repeat' (first
    | with_reducible apply Only.refl
    | (with_reducible apply Only.andThen State.openSlice_only; decide)
    | (with_reducible apply Only.andThen State.oversize_only; decide)
    | (with_reducible apply Only.andThen State.fitWait_only; decide)
    | split)

theorem State.enterSlice_only {s : State} {k : Atoll} {phase budget : Nat} :
    Only [.atolls] s (State.enterSlice s k phase budget) := by
  unfold State.enterSlice
  repeat' (first
    | with_reducible apply Only.refl
    | (with_reducible apply Only.andThen State.onSeq_only; decide))

theorem State.reissue_only {s : State} {k : Atoll} :
    Only [.atolls] s (State.reissue s k) := by
  unfold State.reissue
  repeat' (first
    | with_reducible apply Only.refl
    | (with_reducible apply Only.andThen State.onSeq_only; decide))

end Sys2Proof.Machine
end

