-- ==== Sys2Proof/Laws/OnlyNarrow.lean ====
section
/-! SUPPORT. What the operations of Machine/Narrow.lean change (`Only`). -/

namespace Sys2Proof.Machine

theorem State.vFree_only {s : State} {k : Atoll} {va n : Nat} :
    Only [.fresh, .regs, .atolls] s (State.vFree s k va n).2 := by
  unfold State.vFree
  repeat' (first
    | with_reducible apply Only.refl
    | (with_reducible apply Only.andThen State.vRead_only; decide)
    | (with_reducible apply Only.andThen State.fresh_only; decide)
    | (with_reducible apply Only.snd; assumption)
    | split)

theorem State.vPut_only {s : State} {k : Atoll} {va n v : Nat} :
    Only [.regs, .atolls, .mem] s (State.vPut s k va n v) := by
  unfold State.vPut
  repeat' (first
    | with_reducible apply Only.refl
    | (with_reducible apply Only.andThen State.vWrite_only; decide))

theorem State.qWriteBack_only {s : State} {k : Atoll} {c : QCache} :
    Only [.regs, .atolls, .mem] s (State.qWriteBack s k c) := by
  unfold State.qWriteBack
  repeat' (first
    | with_reducible apply Only.refl
    | (with_reducible apply Only.andThen State.vPut_only; decide))

theorem State.qGet_only {s : State} {k : Atoll} {addr : Nat} :
    Only [.fresh, .regs, .atolls, .mem] s (State.qGet s k addr).2 := by
  unfold State.qGet
  repeat' (first
    | with_reducible apply Only.refl
    | (with_reducible apply Only.andThen State.onVec_only; decide)
    | (with_reducible apply Only.andThen State.vFree_only; decide)
    | (with_reducible apply Only.andThen State.qWriteBack_only; decide)
    | with_reducible apply Only.each
    | intro _ _
    | split)

theorem State.qSet_only {s : State} {k : Atoll} {addr : Nat} {f : Nat → Nat} :
    Only [.fresh, .regs, .atolls, .mem] s (State.qSet s k addr f) := by
  unfold State.qSet
  repeat' (first
    | with_reducible apply Only.refl
    | (with_reducible apply Only.andThen State.qGet_only; decide)
    | (with_reducible apply Only.andThen State.onVec_only; decide))

theorem State.qMark_only {s : State} {k : Atoll} {addr bit : Nat} :
    Only [.fresh, .regs, .atolls, .mem] s (State.qMark s k addr bit) := by
  unfold State.qMark
  repeat' (first
    | with_reducible apply Only.refl
    | (with_reducible apply Only.andThen State.qSet_only; decide))

theorem State.qFold_only {s : State} {k : Atoll} {d : QDelta} :
    Only [.fresh, .regs, .atolls, .mem] s (State.qFold s k d) := by
  unfold State.qFold
  repeat' (first
    | with_reducible apply Only.refl
    | (with_reducible apply Only.andThen State.qSet_only; decide))

theorem State.qCount_only {s : State} {k : Atoll} {d : QDelta} :
    Only [.fresh, .regs, .atolls, .mem] s (State.qCount s k d) := by
  unfold State.qCount
  repeat' (first
    | with_reducible apply Only.refl
    | (with_reducible apply Only.andThen State.onSeq_only; decide)
    | (with_reducible apply Only.andThen State.qFold_only; decide)
    | split)

theorem State.qClose_only {s : State} {k : Atoll} {addr : Nat} :
    Only [.sent, .fresh, .regs, .irq, .waits, .atolls, .mem] s (State.qClose s k addr) := by
  unfold State.qClose
  repeat' (first
    | with_reducible apply Only.refl
    | (with_reducible apply Only.andThen State.qGet_only; decide)
    | (with_reducible apply Only.andThen State.onVec_only; decide)
    | (with_reducible apply Only.andThen State.vPut_only; decide)
    | (with_reducible apply Only.andThen State.raiseIf_only; decide)
    | (with_reducible apply Only.andThen State.raise_only; decide)
    | (with_reducible apply Only.andThen State.awaitHost_only; decide)
    | (with_reducible apply Only.ite; rotate_left; intro _))

theorem State.qReread_only {s : State} {k : Atoll} {addr : Nat} :
    Only [.fresh, .regs, .waits, .atolls, .mem] s (State.qReread s k addr) := by
  unfold State.qReread
  repeat' (first
    | with_reducible apply Only.refl
    | (with_reducible apply Only.andThen State.vFree_only; decide)
    | (with_reducible apply Only.andThen State.qSet_only; decide)
    | (with_reducible apply Only.andThen State.onSeq_only; decide)
    | (with_reducible apply Only.andThen State.answered_only; decide)
    | (with_reducible apply Only.ite; rotate_left; intro _))

theorem State.qFallback_only {s : State} {k : Atoll} {addr : Nat} :
    Only [.fresh, .regs, .atolls, .mem] s (State.qFallback s k addr) := by
  unfold State.qFallback
  repeat' (first
    | with_reducible apply Only.refl
    | (with_reducible apply Only.andThen State.qSet_only; decide)
    | (with_reducible apply Only.andThen State.onSeq_only; decide))

theorem State.privWindow_only {s : State} {k : Atoll} {addr d w : Nat} :
    Only [.fresh, .regs, .atolls, .mem] s (State.privWindow s k addr d w).2 := by
  unfold State.privWindow
  repeat' (first
    | with_reducible apply Only.refl
    | (with_reducible apply Only.andThen State.vFree_only; decide)
    | (with_reducible apply Only.andThen State.qMark_only; decide)
    | (with_reducible apply Only.ite; rotate_left; intro _))

theorem State.privRange_only {s : State} {k : Atoll} {addr d lo hi : Nat} :
    Only [.fresh, .regs, .atolls, .mem] s (State.privRange s k addr d lo hi).2 := by
  unfold State.privRange
  repeat' (first
    | with_reducible apply Only.refl
    | with_reducible assumption
    | (with_reducible apply Only.andThen State.privWindow_only; decide)
    | with_reducible apply Only.foldl_snd
    | (with_reducible apply Only.ite_snd; rotate_left; intro _)
    | intro _ _ _ _)

theorem State.qScout_only {s : State} {k : Atoll} {addr : Nat} {m : Q} :
    Only [.fresh, .regs, .atolls, .mem] s (State.qScout s k addr m) := by
  unfold State.qScout
  repeat' (first
    | with_reducible apply Only.refl
    | (with_reducible apply Only.andThen State.qSet_only; decide))

end Sys2Proof.Machine
end

