-- ==== Sys2Proof/Laws/OnlyPorts.lean ====
section
/-! SUPPORT. What the operations of Machine/Ports.lean change (`Only`). -/

namespace Sys2Proof.Machine

theorem State.onLane_only {s : State} {p : PortIx} {l : Nat} {f : LaneSt → LaneSt} :
    Only [.ports] s (State.onLane s p l f) := by
  unfold State.onLane
  repeat' (first
    | with_reducible apply Only.refl
    | (with_reducible apply Only.andThen State.onPort_only; decide))

theorem State.onBundle_only {s : State} {p : PortIx} {x : Nat} {f : BundleSt → BundleSt} :
    Only [.ports] s (State.onBundle s p x f) := by
  unfold State.onBundle
  repeat' (first
    | with_reducible apply Only.refl
    | (with_reducible apply Only.andThen State.onPort_only; decide))

theorem State.putFlit_only {s : State} {p : PortIx} {x seq : Nat} {nak : Bool} {f : Flit} :
    Only [.sent, .fresh, .regs, .irq, .waits, .atolls, .ports, .sound, .mem] s (State.putFlit s p x seq nak f) := by
  unfold State.putFlit
  repeat' (first
    | with_reducible apply Only.refl
    | (with_reducible apply Only.andThen State.emit_only; decide)
    | (with_reducible apply Only.andThen State.onBundle_only; decide)
    | (with_reducible apply Only.andThen State.bump_only; decide))

theorem State.pumpFlits_only {s : State} {p : PortIx} {x : Nat} :
    Only [.sent, .fresh, .regs, .irq, .waits, .atolls, .ports, .sound, .mem] s (State.pumpFlits s p x) := by
  unfold State.pumpFlits
  repeat' (first
    | with_reducible apply Only.refl
    | with_reducible assumption
    | (with_reducible apply Only.andThen State.onBundle_only; decide)
    | (with_reducible apply Only.andThen State.putFlit_only; decide)
    | with_reducible apply Only.each
    | intro _ _ _)

theorem State.sendFlits_only {s : State} {p : PortIx} {x : Nat} {l : List Flit} :
    Only [.sent, .fresh, .regs, .irq, .waits, .atolls, .ports, .sound, .mem] s (State.sendFlits s p x l) := by
  unfold State.sendFlits
  repeat' (first
    | with_reducible apply Only.refl
    | (with_reducible apply Only.andThen State.onBundle_only; decide)
    | (with_reducible apply Only.andThen State.pumpFlits_only; decide))

theorem State.sendIdle_only {s : State} {p : PortIx} {x : Nat} {nak : Bool} :
    Only [.sent, .fresh, .regs, .irq, .waits, .atolls, .ports, .sound, .mem] s (State.sendIdle s p x nak) := by
  unfold State.sendIdle
  repeat' (first
    | with_reducible apply Only.refl
    | (with_reducible apply Only.andThen State.putFlit_only; decide))

theorem State.sendCtrl_only {s : State} {p : PortIx} {x op lane data : Nat} :
    Only [.sent, .regs] s (State.sendCtrl s p x op lane data) := by
  unfold State.sendCtrl
  repeat' (first
    | with_reducible apply Only.refl
    | (with_reducible apply Only.andThen State.emit_only; decide)
    | (with_reducible apply Only.andThen State.bump_only; decide))

theorem State.sendTrain_only {s : State} {p : PortIx} {lanes : List Nat} :
    Only [.sent, .regs] s (State.sendTrain s p lanes) := by
  unfold State.sendTrain
  repeat' (first
    | with_reducible apply Only.refl
    | (with_reducible apply Only.andThen State.emit_only; decide)
    | (with_reducible apply Only.andThen State.bump_only; decide))

theorem State.dropPeer_only {s : State} {slot : Nat} :
    Only [.regs, .tide] s (State.dropPeer s slot) := by
  unfold State.dropPeer
  repeat' (first
    | with_reducible apply Only.refl
    | (with_reducible apply Only.andThen State.onTide_only; decide)
    | (with_reducible apply Only.andThen State.setFld_only; decide))

theorem State.trainNeed_only {s : State} {p : PortIx} {what : Nat} :
    Only [.sent, .regs, .irq, .waits] s (State.trainNeed s p what) := by
  unfold State.trainNeed
  repeat' (first
    | with_reducible apply Only.refl
    | (with_reducible apply Only.andThen State.raise_only; decide)
    | (with_reducible apply Only.andThen State.awaitHost_only; decide)
    | (with_reducible apply Only.ite; rotate_left; intro _))

theorem State.bundleDown_only {s : State} {p : PortIx} {x : Nat} :
    Only [.sent, .fresh, .regs, .irq, .waits, .tide, .atolls, .ports, .sound, .mem] s (State.bundleDown s p x) := by
  unfold State.bundleDown
  repeat' (first
    | with_reducible apply Only.refl
    | (with_reducible apply Only.andThen State.onBundle_only; decide)
    | (with_reducible apply Only.andThen State.dropPeer_only; decide)
    | (with_reducible apply Only.andThen State.partnerLost_only; decide)
    | (with_reducible apply Only.andThen State.trainNeed_only; decide)
    | (with_reducible apply Only.andThen State.raise_only; decide)
    | (with_reducible apply Only.ite; rotate_left; intro _))

theorem State.checkBundle_only {s : State} {p : PortIx} {x : Nat} :
    Only [.sent, .fresh, .regs, .irq, .waits, .tide, .atolls, .ports, .sound, .mem] s (State.checkBundle s p x) := by
  unfold State.checkBundle
  repeat' (first
    | with_reducible apply Only.refl
    | (with_reducible apply Only.andThen State.bundleDown_only; decide)
    | (with_reducible apply Only.ite; rotate_left; intro _))

theorem State.tellSlot_only {s : State} {p : PortIx} {x slot : Nat} :
    Only [.sent, .regs, .irq, .tide, .ports] s (State.tellSlot s p x slot) := by
  unfold State.tellSlot
  repeat' (first
    | with_reducible apply Only.refl
    | (with_reducible apply Only.andThen State.onBundle_only; decide)
    | (with_reducible apply Only.andThen State.dropPeer_only; decide)
    | (with_reducible apply Only.andThen State.raise_only; decide)
    | (with_reducible apply Only.ite; rotate_left; intro _))

theorem State.echoOut_only {s : State} {p : PortIx} {x : Nat} :
    Only [.sent, .regs] s (State.echoOut s p x) := by
  unfold State.echoOut
  repeat' (first
    | with_reducible apply Only.refl
    | (with_reducible apply Only.andThen State.sendCtrl_only; decide)
    | (with_reducible apply Only.ite; rotate_left; intro _))

theorem State.hearTrain_only {s : State} {p : PortIx} {l : Nat} {i : TrainInfo} :
    Only [.sent, .regs, .irq, .tide, .ports] s (State.hearTrain s p l i) := by
  unfold State.hearTrain
  repeat' (first
    | with_reducible apply Only.refl
    | with_reducible assumption
    | (with_reducible apply Only.andThen State.bump_only; decide)
    | (with_reducible apply Only.andThen State.tellSlot_only; decide)
    | (with_reducible apply Only.andThen State.onLane_only; decide)
    | (with_reducible apply Only.andThen State.emit_only; decide)
    | (with_reducible apply Only.andThen State.echoOut_only; decide)
    | with_reducible apply Only.each
    | (with_reducible apply Only.ite; rotate_left; intro _)
    | intro _ _ _)

theorem State.assignLanes_only {s : State} {p : PortIx} {x : Nat} {tx : Bool} :
    Only [.ports] s (State.assignLanes s p x tx) := by
  unfold State.assignLanes
  repeat' (first
    | with_reducible apply Only.refl
    | with_reducible assumption
    | (with_reducible apply Only.andThen State.onLane_only; decide)
    | with_reducible apply Only.each
    | intro _ _ _)

theorem State.bundleUp_only {s : State} {p : PortIx} {x delay : Nat} :
    Only [.sent, .regs, .irq, .waits, .ports] s (State.bundleUp s p x delay) := by
  unfold State.bundleUp
  repeat' (first
    | with_reducible apply Only.refl
    | with_reducible assumption
    | (with_reducible apply Only.andThen State.setFld_only; decide)
    | (with_reducible apply Only.andThen State.assignLanes_only; decide)
    | (with_reducible apply Only.andThen State.onLane_only; decide)
    | (with_reducible apply Only.andThen State.onBundle_only; decide)
    | (with_reducible apply Only.andThen State.raise_only; decide)
    | (with_reducible apply Only.andThen State.raiseIf_only; decide)
    | (with_reducible apply Only.andThen State.answered_only; decide)
    | with_reducible apply Only.each
    | intro _ _ _)

theorem State.bundleTrained_only {s : State} {p : PortIx} {x : Nat} :
    Only [.sent, .fresh, .regs, .irq, .waits, .atolls, .ports, .sound, .mem] s (State.bundleTrained s p x) := by
  unfold State.bundleTrained
  repeat' (first
    | with_reducible apply Only.refl
    | with_reducible assumption
    | (with_reducible apply Only.andThen State.onBundle_only; decide)
    | (with_reducible apply Only.andThen State.putFlit_only; decide)
    | (with_reducible apply Only.andThen State.answered_only; decide)
    | with_reducible apply Only.each
    | intro _ _ _)

theorem State.discovered_only {s : State} {p : PortIx} {x : Nat} :
    Only [.sent, .fresh, .regs, .irq, .waits, .atolls, .ports, .sound, .mem] s (State.discovered s p x) := by
  unfold State.discovered
  dsimp only
  repeat' (first
    | with_reducible apply Only.refl
    | (with_reducible apply Only.andThen State.bundleTrained_only; decide)
    | (with_reducible apply Only.andThen State.bundleUp_only; decide)
    | split)

theorem State.flitAck_only {s : State} {p : PortIx} {x ack : Nat} :
    Only [.sent, .fresh, .regs, .irq, .waits, .atolls, .ports, .sound, .mem] s (State.flitAck s p x ack) := by
  unfold State.flitAck
  repeat' (first
    | with_reducible apply Only.refl
    | (with_reducible apply Only.andThen State.onBundle_only; decide)
    | (with_reducible apply Only.andThen State.pumpFlits_only; decide))

theorem State.resend_only {s : State} {p : PortIx} {x : Nat} :
    Only [.sent, .fresh, .regs, .irq, .waits, .atolls, .ports, .sound, .mem] s (State.resend s p x) := by
  unfold State.resend
  repeat' (first
    | with_reducible apply Only.refl
    | with_reducible assumption
    | (with_reducible apply Only.andThen State.onBundle_only; decide)
    | (with_reducible apply Only.andThen State.bump_only; decide)
    | (with_reducible apply Only.andThen State.putFlit_only; decide)
    | (with_reducible apply Only.andThen State.trainNeed_only; decide)
    | with_reducible apply Only.each
    | (with_reducible apply Only.ite; rotate_left; intro _)
    | intro _ _ _)

theorem State.trailerIn_only {s : State} {p : PortIx} {x : Nat} {t : Trailer} :
    Only [.sent, .fresh, .regs, .irq, .waits, .atolls, .ports, .sound, .mem] s (State.trailerIn s p x t) := by
  unfold State.trailerIn
  repeat' (first
    | with_reducible apply Only.refl
    | (with_reducible apply Only.andThen State.flitAck_only; decide)
    | (with_reducible apply Only.andThen State.resend_only; decide)
    | (with_reducible apply Only.ite; rotate_left; intro _))

theorem State.seqIn_only {s : State} {p : PortIx} {x : Nat} {t : Trailer} {n : Nat} :
    Only [.sent, .fresh, .regs, .irq, .waits, .atolls, .ports, .sound, .mem] s (State.seqIn s p x t n).2 := by
  unfold State.seqIn
  repeat' (first
    | with_reducible apply Only.refl
    | (with_reducible apply Only.andThen State.bump_only; decide)
    | (with_reducible apply Only.andThen State.onBundle_only; decide)
    | (with_reducible apply Only.andThen State.sendIdle_only; decide)
    | (with_reducible apply Only.andThen State.trailerIn_only; decide)
    | (with_reducible apply Only.ite_snd; rotate_left; intro _))

theorem State.commitIn_only {P : List Part} {s u : State} {v : StraitIn} {n : Nat} {f : State → State}
    (hq : (([.sent, .fresh, .regs, .irq, .waits, .atolls, .ports, .sound, .mem] : List Part).all fun p => P.contains p) = true)
    (hf : ∀ w, Only P s w → Only P s (f w)) (hu : Only P s u) : Only P s (u.commitIn v n f) := by
  have hP : ∀ {Q : List Part} {v w : State}, Only Q v w → (Q.all fun p => ([.sent, .fresh, .regs, .irq, .waits, .atolls, .ports, .sound, .mem] : List Part).contains p) = true →
      Only P s v → Only P s w := fun g h hv => Only.andThen (Only.mono g h) hq hv
  have h := hP (State.seqIn_only (p := bport v.port) (x := v.peer.toNat) (t := v.t) (n := n)) (by decide) hu
  unfold State.commitIn
  dsimp only
  split
  · exact hf _ h
  · exact h

theorem State.dataFlitIn_only {s : State} {p : PortIx} {x : Nat} {t : Trailer} {body : List Byte} :
    Only [.sent, .fresh, .regs, .irq, .waits, .atolls, .ports, .sound, .mem] s (State.dataFlitIn s p x t body).2 := by
  unfold State.dataFlitIn
  repeat' (first
    | with_reducible apply Only.refl
    | (with_reducible apply Only.andThen State.seqIn_only; decide)
    | (with_reducible apply Only.andThen State.onBundle_only; decide)
    | (with_reducible apply Only.ite_snd; rotate_left; intro _))

theorem State.excludeRx_only {s : State} {p : PortIx} {l cause : Nat} :
    Only [.sent, .fresh, .regs, .irq, .waits, .tide, .atolls, .ports, .sound, .mem] s (State.excludeRx s p l cause) := by
  unfold State.excludeRx
  dsimp only
  repeat' (first
    | with_reducible apply Only.refl
    | (with_reducible apply Only.andThen State.onLane_only; decide)
    | (with_reducible apply Only.andThen State.bump_only; decide)
    | (with_reducible apply Only.andThen State.sendCtrl_only; decide)
    | (with_reducible apply Only.andThen State.trainNeed_only; decide)
    | (with_reducible apply Only.andThen State.checkBundle_only; decide)
    | (with_reducible apply Only.andThen State.raise_only; decide)
    | split)

theorem State.excludeTx_only {s : State} {p : PortIx} {l : Nat} :
    Only [.sent, .fresh, .regs, .irq, .waits, .tide, .atolls, .ports, .sound, .mem] s (State.excludeTx s p l) := by
  unfold State.excludeTx
  dsimp only
  repeat' (first
    | with_reducible apply Only.refl
    | (with_reducible apply Only.andThen State.onLane_only; decide)
    | (with_reducible apply Only.andThen State.bump_only; decide)
    | (with_reducible apply Only.andThen State.checkBundle_only; decide)
    | (with_reducible apply Only.andThen State.raise_only; decide)
    | (with_reducible apply Only.andThen State.trainNeed_only; decide)
    | split)

theorem State.laneBack_only {s : State} {p : PortIx} {l : Nat} :
    Only [.sent, .regs, .irq, .waits, .ports] s (State.laneBack s p l) := by
  unfold State.laneBack
  repeat' (first
    | with_reducible apply Only.refl
    | (with_reducible apply Only.andThen State.onLane_only; decide)
    | (with_reducible apply Only.andThen State.raiseIf_only; decide)
    | (with_reducible apply Only.andThen State.answered_only; decide))

theorem State.retrainBundle_only {s : State} {p : PortIx} {x : Nat} :
    Only [.sent, .regs, .ports] s (State.retrainBundle s p x) := by
  unfold State.retrainBundle
  repeat' (first
    | with_reducible apply Only.refl
    | (with_reducible apply Only.andThen State.sendTrain_only; decide)
    | (with_reducible apply Only.andThen State.onBundle_only; decide))

theorem State.portCmd_only {s : State} {p : PortIx} {v : Nat} :
    Only [.sent, .fresh, .regs, .irq, .waits, .tide, .atolls, .ports, .sound, .mem] s (State.portCmd s p v) := by
  unfold State.portCmd
  dsimp only
  repeat' (first
    | with_reducible apply Only.refl
    | (with_reducible apply Only.andThen State.onLane_only; decide)
    | (with_reducible apply Only.andThen State.excludeRx_only; decide)
    | (with_reducible apply Only.andThen State.laneBack_only; decide)
    | (with_reducible apply Only.andThen State.sendCtrl_only; decide)
    | (with_reducible apply Only.andThen State.emit_only; decide)
    | (with_reducible apply Only.andThen State.answered_only; decide)
    | (with_reducible apply Only.andThen State.bundleDown_only; decide)
    | (with_reducible apply Only.andThen State.onBundle_only; decide)
    | (with_reducible apply Only.andThen State.retrainBundle_only; decide)
    | split)

theorem State.fillBundle_only {s : State} {p : PortIx} {x : Nat} :
    Only [.sent, .fresh, .regs, .irq, .waits, .atolls, .ports, .sound, .mem] s (State.fillBundle s p x) := by
  unfold State.fillBundle
  repeat' (first
    | with_reducible apply Only.refl
    | with_reducible assumption
    | (with_reducible apply Only.andThen State.onLane_only; decide)
    | (with_reducible apply Only.andThen State.raiseIf_only; decide)
    | (with_reducible apply Only.andThen State.onBundle_only; decide)
    | (with_reducible apply Only.andThen State.raise_only; decide)
    | with_reducible apply Only.each
    | (with_reducible apply Only.ite; rotate_left; intro _)
    | intro _ _ _)

theorem State.straitSlack_only {s : State} {p : PortIx} :
    Only [.sent, .fresh, .regs, .irq, .waits, .atolls, .ports, .sound, .mem] s (State.straitSlack s p) := by
  unfold State.straitSlack
  repeat' (first
    | with_reducible apply Only.refl
    | with_reducible assumption
    | (with_reducible apply Only.andThen State.onLane_only; decide)
    | (with_reducible apply Only.andThen State.fillBundle_only; decide)
    | (with_reducible apply Only.andThen State.retrainBundle_only; decide)
    | with_reducible apply Only.each
    | (with_reducible apply Only.ite; rotate_left; intro _)
    | intro _ _ _)

theorem State.linkState_only {s : State} {p : PortIx} {up : Bool} :
    Only [.sent, .regs, .irq, .waits] s (State.linkState s p up) := by
  unfold State.linkState
  repeat' (first
    | with_reducible apply Only.refl
    | (with_reducible apply Only.andThen State.setFld_only; decide)
    | (with_reducible apply Only.andThen State.raise_only; decide)
    | (with_reducible apply Only.andThen State.answered_only; decide)
    | (with_reducible apply Only.andThen State.awaitHost_only; decide)
    | (with_reducible apply Only.ite; rotate_left; intro _))

theorem State.fabricSlack_only {s : State} {p : PortIx} :
    Only [.sent] s (State.fabricSlack s p) := by
  unfold State.fabricSlack
  repeat' (first
    | with_reducible apply Only.refl
    | (with_reducible apply Only.andThen State.emit_only; decide)
    | (with_reducible apply Only.ite; rotate_left; intro _))

theorem State.lldpIn_only {s : State} {p : PortIx} {chassis portId : List Byte} :
    Only [.sent, .regs, .irq] s (State.lldpIn s p chassis portId) := by
  unfold State.lldpIn
  repeat' (first
    | with_reducible apply Only.refl
    | (with_reducible apply Only.andThen State.setFld_only; decide)
    | (with_reducible apply Only.andThen State.raise_only; decide)
    | (with_reducible apply Only.ite; rotate_left; intro _))

theorem State.frameIn_only {s : State} {p : PortIx} {f : Frame} :
    Only [.sent, .regs, .irq] s (State.frameIn s p f).2 := by
  unfold State.frameIn
  dsimp only
  repeat' (first
    | with_reducible apply Only.refl
    | (with_reducible apply Only.andThen State.bump_only; decide)
    | (with_reducible apply Only.andThen State.lldpIn_only; decide)
    | (with_reducible apply Only.andThen State.emit_only; decide)
    | split)

theorem onFabric_only {P : List Part} {p : PortIx} {s t : State} (h : Only P s t) :
    OnlyNext P s (onFabric p s t) := by
  unfold onFabric
  split
  · exact Only.refl
  · exact h

theorem execIdleFlit_only {port : BPort} {peer : Word64} {t : Trailer} {s : State} :
    OnlyNext [.sent, .fresh, .regs, .irq, .waits, .atolls, .ports, .sound, .mem] s (execIdleFlit port peer t s) := by
  unfold execIdleFlit
  repeat' (first
    | with_reducible apply Only.refl
    | with_reducible apply OnlyNext.next
    | with_reducible apply OnlyNext.ite
    | (with_reducible apply Only.andThen State.bump_only; decide)
    | (with_reducible apply Only.andThen State.trailerIn_only; decide))

theorem execFlitNak_only {port : BPort} {peer : Word64} {ack : BitVec 12} {s : State} :
    OnlyNext [.sent, .fresh, .regs, .irq, .waits, .atolls, .ports, .sound, .mem] s (execFlitNak port peer ack s) := by
  unfold execFlitNak
  repeat' (first
    | with_reducible apply Only.refl
    | with_reducible apply OnlyNext.next
    | with_reducible apply OnlyNext.ite
    | (with_reducible apply Only.andThen State.flitAck_only; decide)
    | (with_reducible apply Only.andThen State.resend_only; decide))

theorem execReplayTimeout_only {port : BPort} {peer : Word64} {s : State} :
    OnlyNext [.sent, .fresh, .now, .regs, .irq, .waits, .tide, .atolls, .ports, .sound, .mem, .pwr, .rst] s (execReplayTimeout port peer s) := by
  unfold execReplayTimeout
  dsimp only
  repeat' (first
    | with_reducible apply Only.refl
    | with_reducible apply OnlyNext.next
    | (with_reducible apply Only.optThen State.runTo_only; decide; with_reducible assumption)
    | (with_reducible apply Only.andThen State.resend_only; decide)
    | split)

theorem execFlitDiscard_only {port : BPort} {peer : Word64} {lane : LaneIx} {raw : List Byte} {s : State} :
    OnlyNext [.sent, .fresh, .regs, .irq, .waits, .atolls, .ports, .sound, .mem] s (execFlitDiscard port peer lane raw s) := by
  unfold execFlitDiscard
  repeat' (first
    | with_reducible apply Only.refl
    | with_reducible apply OnlyNext.next
    | with_reducible apply OnlyNext.ite
    | (with_reducible apply Only.andThen State.bump_only; decide)
    | (with_reducible apply Only.andThen State.sendIdle_only; decide)
    | (with_reducible apply Only.andThen State.onLane_only; decide)
    | (with_reducible apply Only.ite; rotate_left; intro _))

theorem execLaneDrop_only {port : BPort} {lane : LaneIx} {s : State} :
    OnlyNext [.sent, .fresh, .regs, .irq, .waits, .tide, .atolls, .ports, .sound, .mem] s (execLaneDrop port lane s) := by
  unfold execLaneDrop
  repeat' (first
    | with_reducible apply Only.refl
    | with_reducible apply OnlyNext.next
    | (with_reducible apply Only.andThen State.bump_only; decide)
    | (with_reducible apply Only.andThen State.excludeTx_only; decide))

theorem execEcho_only {port : BPort} {peer : Word64} {data : BitVec 32} {s : State} :
    OnlyNext [.sent, .regs] s (execEcho port peer data s) := by
  unfold execEcho
  repeat' (first
    | with_reducible apply Only.refl
    | with_reducible apply OnlyNext.next
    | (with_reducible apply Only.andThen State.bump_only; decide)
    | (with_reducible apply Only.andThen State.sendCtrl_only; decide))

theorem execEchoReply_only {port : BPort} {peer : Word64} {roundTrip turnaround : Nat} {s : State} :
    OnlyNext [.regs, .ports] s (execEchoReply port peer roundTrip turnaround s) := by
  unfold execEchoReply
  repeat' (first
    | with_reducible apply Only.refl
    | with_reducible apply OnlyNext.next
    | (with_reducible apply Only.andThen State.bump_only; decide)
    | (with_reducible apply Only.andThen State.onBundle_only; decide))

theorem execTrain_only {port : BPort} {lane : LaneIx} {i : TrainInfo} {s : State} :
    OnlyNext [.sent, .regs, .irq, .tide, .ports] s (execTrain port lane i s) := by
  unfold execTrain
  repeat' (first
    | with_reducible apply Only.refl
    | with_reducible apply OnlyNext.next
    | (with_reducible apply Only.andThen State.hearTrain_only; decide))

theorem execPeerUp_only {port : BPort} {peer : Word64} {s : State} :
    OnlyNext [.sent, .fresh, .regs, .irq, .waits, .atolls, .ports, .sound, .mem] s (execPeerUp port peer s) := by
  unfold execPeerUp
  repeat' (first
    | with_reducible apply Only.refl
    | with_reducible apply OnlyNext.next
    | (with_reducible apply Only.andThen State.discovered_only; decide))

theorem execLaneExcluded_only {port : BPort} {lane : LaneIx} {c : LaneCause} {s : State} :
    OnlyNext [.sent, .fresh, .regs, .irq, .waits, .tide, .atolls, .ports, .sound, .mem] s (execLaneExcluded port lane c s) := by
  unfold execLaneExcluded
  repeat' (first
    | with_reducible apply Only.refl
    | with_reducible apply OnlyNext.next
    | with_reducible apply OnlyNext.ite
    | (with_reducible apply Only.andThen State.excludeRx_only; decide))

theorem execLaneRetrain_only {port : BPort} {lane : LaneIx} {passed : Bool} {s : State} :
    OnlyNext [.sent, .regs, .irq, .waits, .ports] s (execLaneRetrain port lane passed s) := by
  unfold execLaneRetrain
  repeat' (first
    | with_reducible apply Only.refl
    | with_reducible apply OnlyNext.next
    | with_reducible apply OnlyNext.ite
    | (with_reducible apply Only.andThen State.onLane_only; decide)
    | (with_reducible apply Only.andThen State.laneBack_only; decide)
    | (with_reducible apply Only.ite; rotate_left; intro _))

theorem execLldp_only {port : PortIx} {chassis portId : List Byte} {s : State} :
    OnlyNext [.sent, .regs, .irq] s (execLldp port chassis portId s) := by
  unfold execLldp
  repeat' (first
    | with_reducible apply Only.refl
    | (with_reducible apply Only.andThen State.bump_only; decide)
    | (with_reducible apply Only.andThen State.lldpIn_only; decide)
    | with_reducible apply onFabric_only
    | (with_reducible apply Only.ite; rotate_left; intro _))

theorem execLldpSend_only {port : PortIx} {s : State} :
    OnlyNext [.sent, .regs, .ports] s (execLldpSend port s) := by
  unfold execLldpSend
  repeat' (first
    | with_reducible apply Only.refl
    | (with_reducible apply Only.andThen State.emit_only; decide)
    | (with_reducible apply Only.andThen State.onPort_only; decide)
    | (with_reducible apply Only.andThen State.bump_only; decide)
    | with_reducible apply onFabric_only
    | (with_reducible apply Only.ite; rotate_left; intro _))

theorem execLos_only {port : PortIx} {lane : Fin 8} {s : State} :
    OnlyNext [.sent, .regs, .irq, .waits] s (execLos port lane s) := by
  unfold execLos
  repeat' (first
    | with_reducible apply Only.refl
    | (with_reducible apply Only.andThen State.setFld_only; decide)
    | (with_reducible apply Only.andThen State.linkState_only; decide)
    | (with_reducible apply Only.andThen State.raise_only; decide)
    | with_reducible apply onFabric_only
    | (with_reducible apply Only.ite; rotate_left; intro _))

theorem execLink_only {port : PortIx} {up : Bool} {s : State} :
    OnlyNext [.sent, .regs, .irq, .waits] s (execLink port up s) := by
  unfold execLink
  repeat' (first
    | with_reducible apply Only.refl
    | (with_reducible apply Only.andThen State.linkState_only; decide)
    | with_reducible apply onFabric_only)

end Sys2Proof.Machine
end

