-- ==== Sys2Proof/Laws/OnlyArray.lean ====
section
/-! SUPPORT. What the operations of Machine/Array.lean change (`Only`). -/

namespace Sys2Proof.Machine

theorem State.arrFault_only {s : State} {k : Atoll} {code : Nat} :
    Only [.sent, .regs, .irq, .waits, .atolls] s (State.arrFault s k code) := by
  unfold State.arrFault
  repeat' (first
    | with_reducible apply Only.refl
    | (with_reducible apply Only.andThen State.setFld_only; decide)
    | (with_reducible apply Only.andThen State.raise_only; decide)
    | (with_reducible apply Only.andThen State.endSlice_only; decide))

theorem State.lagFault_only {s : State} {k : Atoll} :
    Only [.sent, .regs, .irq, .waits, .atolls] s (State.lagFault s k) := by
  unfold State.lagFault
  repeat' (first
    | with_reducible apply Only.refl
    | (with_reducible apply Only.andThen State.bump_only; decide)
    | (with_reducible apply Only.andThen State.raise_only; decide)
    | (with_reducible apply Only.andThen State.abandon_only; decide))

theorem State.sideDesc_only {s : State} {k : Atoll} {x : SideSt} :
    Only [.fresh, .regs, .atolls, .mem] s (State.sideDesc s k x).2 := by
  unfold State.sideDesc
  repeat' (first
    | with_reducible apply Only.refl
    | (with_reducible apply Only.andThen State.qGet_only; decide)
    | (with_reducible apply Only.ite_snd; rotate_left; intro _))

theorem State.arrRefuses_only {s : State} {k : Atoll} {o : ArrOp} :
    Only [.fresh, .regs, .atolls, .mem] s (State.arrRefuses s k o).2 := by
  unfold State.arrRefuses
  repeat' (first
    | with_reducible apply Only.refl
    | (with_reducible apply Only.andThen State.sideDesc_only; decide)
    | (with_reducible apply Only.ite_snd; rotate_left; intro _))

theorem State.privPass_only {s : State} {k : Atoll} {o : ArrOp} {dr dc : Nat} :
    Only [.fresh, .regs, .atolls, .mem] s (State.privPass s k o dr dc).2 := by
  unfold State.privPass
  repeat' (first
    | with_reducible apply Only.refl
    | (with_reducible apply Only.andThen State.privRange_only; decide)
    | (with_reducible apply Only.andThen State.qMark_only; decide)
    | (with_reducible apply Only.ite; rotate_left; intro _)
    | (with_reducible apply Only.ite_snd; rotate_left; intro _))

theorem State.arrEnter_only {s : State} {k : Atoll} {o : ArrOp} :
    Only [.fresh, .regs, .atolls, .mem] s (State.arrEnter s k o) := by
  unfold State.arrEnter
  repeat' (first
    | with_reducible apply Only.refl
    | (with_reducible apply Only.andThen State.sideDesc_only; decide)
    | (with_reducible apply Only.andThen State.privPass_only; decide)
    | (with_reducible apply Only.andThen State.onArr_only; decide)
    | (with_reducible apply Only.andThen State.setFld_only; decide))

theorem State.slotIssue_only {P : List Part} {s u : State} {k : Atoll} {bad : State → Option State}
    {stalls : State → Bool} {act : State → State}
    (hq : (([.sent, .regs, .irq, .waits, .atolls] : List Part).all fun p => P.contains p) = true)
    (hb : ∀ t, bad u = some t → Only P s t) (ha : ∀ v, Only P s v → Only P s (act v)) (hu : Only P s u) :
    Only P s (u.slotIssue k bad stalls act) := by
  have h4 : ∀ {v}, Only [.sent, .regs, .irq, .waits, .atolls] u v → Only P s v := fun h => Only.andThen h hq hu
  unfold State.slotIssue
  split
  · exact h4 State.refuse_only
  · split
    · exact hb _ (by assumption)
    · split
      · exact h4 (Only.mono State.onSeq_only (by decide))
      · exact ha _ (h4 (Only.mono State.onSeq_only (by decide)))

theorem State.arrBad_only {s : State} {k : Atoll} {r : SeqRegs} {op : Nat} {x : ArrayArgs} {t : State} (h : State.arrBad s k r op x = some t) :
    Only [.sent, .fresh, .regs, .irq, .waits, .atolls, .mem] s t := by
  unfold State.arrBad at h
  try dsimp only at h
  repeat' split at h
  all_goals (first | cases h | skip)
  all_goals
    repeat' (first
      | with_reducible apply Only.refl
      | (with_reducible apply Only.andThen State.refuse_only; decide)
      | (with_reducible apply Only.andThen State.arrRefuses_only; decide)
      | (with_reducible apply Only.andThen State.arrFault_only; decide))

theorem State.arrIssue_only {s : State} {k : Atoll} {op : Nat} {x : ArrayArgs} :
    Only [.sent, .fresh, .regs, .irq, .waits, .atolls, .mem] s (State.arrIssue s k op x) := by
  unfold State.arrIssue
  repeat' (first
    | with_reducible apply Only.refl
    | with_reducible assumption
    | (with_reducible apply Only.optThen State.arrBad_only; decide; with_reducible assumption)
    | (with_reducible apply Only.andThen State.arrEnter_only; decide)
    | (with_reducible apply State.slotIssue_only; decide)
    | intro _ _)

theorem State.privFetch_only {s : State} {k : Atoll} {o : ArrOp} {col : Bool} {d i p : Nat} :
    Only [.fresh, .regs, .atolls, .mem] s (State.privFetch s k o col d i p).2 := by
  unfold State.privFetch
  dsimp only
  repeat' (first
    | with_reducible apply Only.refl
    | (with_reducible apply Only.andThen State.privWindow_only; decide)
    | (with_reducible apply Only.andThen State.vFree_only; decide)
    | split)

theorem State.refillOp_only {s : State} {k : Atoll} {o : ArrOp} {col : Bool} {i t0 t1 : Nat} :
    Only [.fresh, .regs, .atolls, .mem] s (State.refillOp s k o col i t0 t1).2 := by
  unfold State.refillOp
  repeat' (first
    | with_reducible apply Only.refl
    | with_reducible assumption
    | (with_reducible apply Only.andThen State.sideDesc_only; decide)
    | (with_reducible apply Only.andThen State.privRange_only; decide)
    | (with_reducible apply Only.andThen State.fresh_only; decide)
    | (with_reducible apply Only.andThen State.qMark_only; decide)
    | (with_reducible apply Only.andThen State.qScout_only; decide)
    | (with_reducible apply Only.andThen State.qCount_only; decide)
    | (with_reducible apply Only.andThen State.privFetch_only; decide)
    | with_reducible apply Only.foldl_snd
    | (with_reducible apply Only.ite; rotate_left; intro _)
    | (with_reducible apply Only.ite_snd; rotate_left; intro _)
    | intro _ _ _ _)

theorem State.refill_only {s : State} {k : Atoll} {col : Bool} {i : Nat} {delayed : Bool} :
    Only [.sent, .fresh, .regs, .irq, .waits, .atolls, .mem] s (State.refill s k col i delayed) := by
  unfold State.refill
  dsimp only
  repeat' (first
    | with_reducible apply Only.refl
    | (with_reducible apply Only.andThen State.flowNote_only; decide)
    | (with_reducible apply Only.andThen State.lagFault_only; decide)
    | (with_reducible apply Only.andThen State.lagSeen_only; decide)
    | (with_reducible apply Only.andThen State.refillOp_only; decide)
    | (with_reducible apply Only.andThen State.onArr_only; decide)
    | (with_reducible apply Only.andThen State.bump_only; decide)
    | with_reducible apply Only.each
    | intro _ _
    | split)

theorem State.arrEnd_only {s : State} {k : Atoll} :
    Only [.regs, .atolls] s (State.arrEnd s k) := by
  unfold State.arrEnd
  dsimp only
  repeat' (first
    | with_reducible apply Only.refl
    | (with_reducible apply Only.andThen State.bump_only; decide)
    | (with_reducible apply Only.andThen State.onArr_only; decide)
    | split)

theorem State.ferryOn_only {s : State} {k : Atoll} {off tag fnum : Nat} {last : Bool} {data : List Byte} :
    Only [.sent, .fresh, .regs, .irq, .waits, .atolls, .ports, .sound, .mem] s (State.ferryOn s k off tag fnum last data) := by
  unfold State.ferryOn
  dsimp only
  repeat' (first
    | with_reducible apply Only.refl
    | (with_reducible apply Only.andThen State.causeway_only; decide)
    | (with_reducible apply Only.andThen State.bump_only; decide)
    | (with_reducible apply Only.andThen State.sendFlits_only; decide)
    | (with_reducible apply Only.andThen State.raise_only; decide)
    | (with_reducible apply Only.andThen State.emit_only; decide)
    | split)

theorem State.ferryArrive_only {s : State} {k : Atoll} {peer : Bool} {off tag fnum : Nat} {last : Bool} {data : List Byte} :
    Only [.sent, .fresh, .regs, .irq, .waits, .atolls, .ports, .sound, .mem] s (State.ferryArrive s k peer off tag fnum last data) := by
  unfold State.ferryArrive
  repeat' (first
    | with_reducible apply Only.refl
    | (with_reducible apply Only.andThen State.bump_only; decide)
    | (with_reducible apply Only.andThen State.lagWrite_only; decide)
    | (with_reducible apply Only.andThen State.setFld_only; decide)
    | (with_reducible apply Only.andThen State.ferryOn_only; decide)
    | (with_reducible apply Only.andThen State.raise_only; decide)
    | (with_reducible apply Only.ite; rotate_left; intro _))

theorem State.ferryPop_only {s : State} {k : Atoll} :
    Only [.sent, .fresh, .regs, .irq, .waits, .atolls, .ports, .sound, .mem] s (State.ferryPop s k) := by
  unfold State.ferryPop
  repeat' (first
    | with_reducible apply Only.refl
    | (with_reducible apply Only.andThen State.onArr_only; decide)
    | (with_reducible apply Only.andThen State.setFld_only; decide)
    | (with_reducible apply Only.andThen State.ferryOn_only; decide)
    | split)

theorem State.testArm_only {s : State} {k : Atoll} :
    Only [.atolls] s (State.testArm s k) := by
  unfold State.testArm
  repeat' (first
    | with_reducible apply Only.refl
    | (with_reducible apply Only.andThen State.onArr_only; decide))

theorem State.testBegin_only {s : State} {k : Atoll} :
    Only [.atolls] s (State.testBegin s k) := by
  unfold State.testBegin
  repeat' (first
    | with_reducible apply Only.refl
    | (with_reducible apply Only.andThen State.onArr_only; decide))

theorem State.testEnd_only {s : State} {k : Atoll} {fail : Option (Fin 33)} :
    Only [.sent, .regs, .irq, .atolls] s (State.testEnd s k fail) := by
  unfold State.testEnd
  repeat' (first
    | with_reducible apply Only.refl
    | (with_reducible apply Only.andThen State.onArr_only; decide)
    | (with_reducible apply Only.andThen State.setFld_only; decide)
    | (with_reducible apply Only.andThen State.raise_only; decide)
    | split)

theorem execMac_only {k : Atoll} {x : ArrayArgs} {s : State} :
    OnlyNext [.sent, .fresh, .regs, .irq, .waits, .atolls, .mem] s (execMac k x s) := by
  unfold execMac
  repeat' (first
    | with_reducible apply Only.refl
    | with_reducible apply OnlyNext.next
    | (with_reducible apply Only.andThen State.arrIssue_only; decide))

theorem execL1_only {k : Atoll} {x : ArrayArgs} {s : State} :
    OnlyNext [.sent, .fresh, .regs, .irq, .waits, .atolls, .mem] s (execL1 k x s) := by
  unfold execL1
  repeat' (first
    | with_reducible apply Only.refl
    | with_reducible apply OnlyNext.next
    | (with_reducible apply Only.andThen State.arrIssue_only; decide))

theorem execL2sq_only {k : Atoll} {x : ArrayArgs} {s : State} :
    OnlyNext [.sent, .fresh, .regs, .irq, .waits, .atolls, .mem] s (execL2sq k x s) := by
  unfold execL2sq
  repeat' (first
    | with_reducible apply Only.refl
    | with_reducible apply OnlyNext.next
    | (with_reducible apply Only.andThen State.arrIssue_only; decide))

theorem execMaxplus_only {k : Atoll} {x : ArrayArgs} {s : State} :
    OnlyNext [.sent, .fresh, .regs, .irq, .waits, .atolls, .mem] s (execMaxplus k x s) := by
  unfold execMaxplus
  repeat' (first
    | with_reducible apply Only.refl
    | with_reducible apply OnlyNext.next
    | (with_reducible apply Only.andThen State.arrIssue_only; decide))

theorem execMinplus_only {k : Atoll} {x : ArrayArgs} {s : State} :
    OnlyNext [.sent, .fresh, .regs, .irq, .waits, .atolls, .mem] s (execMinplus k x s) := by
  unfold execMinplus
  repeat' (first
    | with_reducible apply Only.refl
    | with_reducible apply OnlyNext.next
    | (with_reducible apply Only.andThen State.arrIssue_only; decide))

theorem execCmpcount_only {k : Atoll} {x : ArrayArgs} {s : State} :
    OnlyNext [.sent, .fresh, .regs, .irq, .waits, .atolls, .mem] s (execCmpcount k x s) := by
  unfold execCmpcount
  repeat' (first
    | with_reducible apply Only.refl
    | with_reducible apply OnlyNext.next
    | (with_reducible apply Only.andThen State.arrIssue_only; decide))

theorem execScout_only {k : Atoll} {x : ArrayArgs} {s : State} :
    OnlyNext [.sent, .fresh, .regs, .irq, .waits, .atolls, .mem] s (execScout k x s) := by
  unfold execScout
  repeat' (first
    | with_reducible apply Only.refl
    | with_reducible apply OnlyNext.next
    | (with_reducible apply Only.andThen State.arrIssue_only; decide))

theorem execFeederRefill_only {k : Atoll} {col : Bool} {feeder : Fin 1024} {delayed : Bool} {s : State} :
    OnlyNext [.sent, .fresh, .regs, .irq, .waits, .atolls, .mem] s (execFeederRefill k col feeder delayed s) := by
  unfold execFeederRefill
  repeat' (first
    | with_reducible apply Only.refl
    | with_reducible apply OnlyNext.next
    | (with_reducible apply Only.andThen State.refill_only; decide))

theorem execArrayOpEnd_only {k : Atoll} {s : State} :
    OnlyNext [.regs, .atolls] s (execArrayOpEnd k s) := by
  unfold execArrayOpEnd
  repeat' (first
    | with_reducible apply Only.refl
    | with_reducible apply OnlyNext.next
    | (with_reducible apply Only.andThen State.arrEnd_only; decide))

theorem execFerryPiece_only {k : Atoll} {src : Option StraitIn} {off : BitVec 29} {tag : BitVec 4} {fnum : BitVec 16} {last : Bool} {data : List Byte} {s : State} :
    OnlyNext [.sent, .fresh, .regs, .irq, .waits, .atolls, .ports, .sound, .mem] s (execFerryPiece k src off tag fnum last data s) := by
  unfold execFerryPiece
  repeat' (first
    | with_reducible apply Only.refl
    | with_reducible apply OnlyNext.next
    | (with_reducible apply Only.andThen State.ferryArrive_only; decide)
    | (with_reducible apply Only.andThen State.seqIn_only; decide)
    | (with_reducible apply Only.andThen State.causeway_only; decide)
    | split)

theorem execFerrySend_only {k : Atoll} {s : State} :
    OnlyNext [.sent, .fresh, .regs, .irq, .waits, .atolls, .ports, .sound, .mem] s (execFerrySend k s) := by
  unfold execFerrySend
  repeat' (first
    | with_reducible apply Only.refl
    | with_reducible apply OnlyNext.next
    | (with_reducible apply Only.andThen State.ferryPop_only; decide))

theorem execTestDone_only {k : Atoll} {failCol : Option (Fin 33)} {s : State} :
    OnlyNext [.sent, .regs, .irq, .atolls] s (execTestDone k failCol s) := by
  unfold execTestDone
  repeat' (first
    | with_reducible apply Only.refl
    | with_reducible apply OnlyNext.next
    | (with_reducible apply Only.andThen State.testEnd_only; decide))

end Sys2Proof.Machine
end

