-- ==== Sys2Proof/Laws/OnlyProtect.lean ====
section
/-! SUPPORT. What the operations of Machine/Protect.lean change (`Only`). -/

namespace Sys2Proof.Machine

theorem State.copyPiece_only {s : State} {base : Nat} {p : Piece} :
    Only [.atolls, .mem] s (State.copyPiece s base p) := by
  unfold State.copyPiece
  repeat' (first
    | with_reducible apply Only.refl
    | with_reducible assumption
    | (with_reducible apply Only.andThen State.devWrite_only; decide)
    | (with_reducible apply Only.andThen State.poisonAtom_only; decide)
    | with_reducible apply Only.foldl
    | (with_reducible apply Only.ite; rotate_left; intro _)
    | intro _ _ _)

theorem State.writeShare_only {s : State} {id : Nat} {all : List Piece} {k : Nat} :
    Only [.atolls, .mem] s (State.writeShare s id all k) := by
  unfold State.writeShare
  repeat' (first
    | with_reducible apply Only.refl
    | with_reducible assumption
    | (with_reducible apply Only.andThen State.devWrite_only; decide)
    | (with_reducible apply Only.andThen State.copyPiece_only; decide)
    | with_reducible apply Only.foldl
    | intro _ _ _)

theorem State.partLand_only {s : State} {slot user off : Nat} {data : List Byte} :
    Only [.atolls, .mem, .ckpt] s (State.partLand s slot user off data) := by
  unfold State.partLand
  repeat' (first
    | with_reducible apply Only.refl
    | (with_reducible apply Only.andThen State.devWrite_only; decide)
    | fail_if_no_progress (with_reducible apply Only.andThen Only.ckpt; decide))

end Sys2Proof.Machine
end

