-- ==== Sys2Proof/Laws/OnlySound.lean ====
section
/-! SUPPORT. What the operations of Machine/Sound.lean change (`Only`). -/

namespace Sys2Proof.Machine

theorem State.ctxCache_only {s : State} {c w : Nat} :
    Only [.regs, .atolls, .sound, .mem] s (State.ctxCache s c w) := by
  unfold State.ctxCache
  dsimp only
  repeat' (first
    | with_reducible apply Only.refl
    | (with_reducible apply Only.andThen State.vPut_only; decide)
    | split
    | fail_if_no_progress (with_reducible apply Only.andThen Only.sound; decide))

theorem State.ctxGet_only {s : State} {c : Nat} :
    Only [.fresh, .regs, .atolls, .sound, .mem] s (State.ctxGet s c).2 := by
  unfold State.ctxGet
  dsimp only
  repeat' (first
    | with_reducible apply Only.refl
    | (with_reducible apply Only.andThen State.ctxCache_only; decide)
    | (with_reducible apply Only.andThen State.bump_only; decide)
    | (with_reducible apply Only.andThen State.vFree_only; decide)
    | split)

theorem State.ctxSet_only {s : State} {c : Nat} {f : Nat → Nat} :
    Only [.fresh, .regs, .atolls, .sound, .mem] s (State.ctxSet s c f) := by
  unfold State.ctxSet
  repeat' (first
    | with_reducible apply Only.refl
    | (with_reducible apply Only.andThen State.ctxGet_only; decide)
    | (with_reducible apply Only.andThen State.setFld_only; decide)
    | (with_reducible apply Only.andThen State.ctxCache_only; decide)
    | (with_reducible apply Only.andThen State.vPut_only; decide)
    | (with_reducible apply Only.ite; rotate_left; intro _)
    | fail_if_no_progress (with_reducible apply Only.andThen Only.sound; decide))

theorem State.onCtx_only {s : State} {c : Nat} {f : CtxRun → CtxRun} :
    Only [.sound] s (State.onCtx s c f) := by
  unfold State.onCtx
  repeat' (first
    | with_reducible apply Only.refl
    | fail_if_no_progress (with_reducible apply Only.andThen Only.sound; decide))

theorem State.grant_only {s : State} {c : Nat} :
    Only [.fresh, .regs, .atolls, .ports, .sound, .mem] s (State.grant s c) := by
  unfold State.grant
  repeat' (first
    | with_reducible apply Only.refl
    | (with_reducible apply Only.andThen State.ctxGet_only; decide)
    | (with_reducible apply Only.andThen State.setFld_only; decide)
    | (with_reducible apply Only.andThen State.onPort_only; decide)
    | (with_reducible apply Only.andThen State.onCtx_only; decide)
    | (with_reducible apply Only.ite; rotate_left; intro _))

theorem State.ungrant_only {s : State} {c n : Nat} :
    Only [.fresh, .regs, .atolls, .ports, .sound, .mem] s (State.ungrant s c n) := by
  unfold State.ungrant
  repeat' (first
    | with_reducible apply Only.refl
    | (with_reducible apply Only.andThen State.ctxGet_only; decide)
    | (with_reducible apply Only.andThen State.setFld_only; decide)
    | (with_reducible apply Only.andThen State.onPort_only; decide)
    | (with_reducible apply Only.andThen State.onCtx_only; decide)
    | (with_reducible apply Only.ite; rotate_left; intro _))

theorem State.packetOut_only {s : State} {p : PortIx} {slot ip kind : Nat} {h : SoundHdr} {data : List Byte} :
    Only [.sent, .fresh, .regs, .irq, .waits, .atolls, .ports, .sound, .mem] s (State.packetOut s p slot ip kind h data) := by
  unfold State.packetOut
  repeat' (first
    | with_reducible apply Only.refl
    | (with_reducible apply Only.andThen State.emit_only; decide)
    | (with_reducible apply Only.andThen State.sendFlits_only; decide)
    | (with_reducible apply Only.andThen State.bump_only; decide)
    | split)

theorem State.sendPkt_only {s : State} {c kind flags psn msg off : Nat} {data : List Byte} {grant : Option Nat} :
    Only [.sent, .fresh, .regs, .irq, .waits, .atolls, .ports, .sound, .mem] s (State.sendPkt s c kind flags psn msg off data grant) := by
  unfold State.sendPkt
  repeat' (first
    | with_reducible apply Only.refl
    | (with_reducible apply Only.andThen State.ctxGet_only; decide)
    | (with_reducible apply Only.andThen State.packetOut_only; decide))

theorem State.answer_only {s : State} {p : PortIx} {h : SoundHdr} {kind off grant : Nat} :
    Only [.sent, .fresh, .regs, .irq, .waits, .atolls, .ports, .sound, .mem] s (State.answer s p h kind off grant) := by
  unfold State.answer
  repeat' (first
    | with_reducible apply Only.refl
    | (with_reducible apply Only.andThen State.packetOut_only; decide))

theorem State.raiseMc_only {s : State} {k : Atoll} {ctr : Nat} :
    Only [.atolls] s (State.raiseMc s k ctr) := by
  unfold State.raiseMc
  repeat' (first
    | with_reducible apply Only.refl
    | (with_reducible apply Only.andThen State.onSeq_only; decide))

theorem State.trackTake_only {s : State} {m : SoundMsg} {psn : Nat} :
    Only [.regs, .sound] s (State.trackTake s m psn).2 := by
  unfold State.trackTake
  repeat' (first
    | with_reducible apply Only.refl
    | (with_reducible apply Only.andThen State.setFld_only; decide)
    | (with_reducible apply Only.ite_snd; rotate_left; intro _)
    | fail_if_no_progress (with_reducible apply Only.andThen Only.sound; decide))

theorem State.trackFree_only {s : State} {m : SoundMsg} :
    Only [.regs, .sound] s (State.trackFree s m) := by
  unfold State.trackFree
  repeat' (first
    | with_reducible apply Only.refl
    | (with_reducible apply Only.andThen State.setFld_only; decide)
    | split
    | fail_if_no_progress (with_reducible apply Only.andThen Only.sound; decide))

theorem State.trackWrite_only {s : State} {c : Nat} {m : SoundMsg} :
    Only [.regs, .atolls, .mem] s (State.trackWrite s c m) := by
  unfold State.trackWrite
  repeat' (first
    | with_reducible apply Only.refl
    | (with_reducible apply Only.andThen State.vPut_only; decide)
    | split)

theorem State.settleMsgs_only {s : State} {c fuel : Nat} :
    Only [.sent, .fresh, .regs, .irq, .atolls, .sound, .mem] s (State.settleMsgs s c fuel) := by
  induction fuel generalizing s with
  | zero => exact Only.refl
  | succ fuel ih =>
    unfold State.settleMsgs
    repeat' (first
      | with_reducible apply Only.refl
      | (with_reducible apply Only.andThen ih; decide)
      | (with_reducible apply Only.andThen State.onCtx_only; decide)
      | (with_reducible apply Only.andThen State.trackFree_only; decide)
      | (with_reducible apply Only.andThen State.raiseMc_only; decide)
      | (with_reducible apply Only.andThen State.ctxGet_only; decide)
      | (with_reducible apply Only.andThen State.ctxSet_only; decide)
      | (with_reducible apply Only.andThen State.raise_only; decide)
      | split)

theorem State.settleCtx_only {s : State} {c : Nat} :
    Only [.sent, .fresh, .regs, .irq, .atolls, .sound, .mem] s (State.settleCtx s c) := by
  unfold State.settleCtx
  repeat' (first
    | with_reducible apply Only.refl
    | (with_reducible apply Only.andThen State.settleMsgs_only; decide))

theorem State.queueMsg_only {s : State} {c : Nat} {m : SoundMsg} {bad : Bool} :
    Only [.sent, .fresh, .regs, .irq, .atolls, .sound, .mem] s (State.queueMsg s c m bad) := by
  unfold State.queueMsg
  repeat' (first
    | with_reducible apply Only.refl
    | (with_reducible apply Only.andThen State.ctxGet_only; decide)
    | (with_reducible apply Only.andThen State.onCtx_only; decide)
    | (with_reducible apply Only.andThen State.ctxSet_only; decide)
    | (with_reducible apply Only.andThen State.settleCtx_only; decide)
    | (with_reducible apply Only.ite; rotate_left; intro _))

theorem State.sendMsg_only {s : State} {k : Atoll} {ctr d : Nat} :
    Only [.sent, .fresh, .regs, .irq, .atolls, .sound, .mem] s (State.sendMsg s k ctr d) := by
  unfold State.sendMsg
  repeat' (first
    | with_reducible apply Only.refl
    | (with_reducible apply Only.andThen State.raise_only; decide)
    | (with_reducible apply Only.andThen State.queueMsg_only; decide)
    | (with_reducible apply Only.andThen State.raiseMc_only; decide)
    | (with_reducible apply Only.ite; rotate_left; intro _))

theorem State.sendBytes_only {s : State} {k : Atoll} {c : Nat} {bs : List Byte} {roff user : Nat} :
    Only [.sent, .fresh, .regs, .irq, .atolls, .sound, .mem] s (State.sendBytes s k c bs roff user) := by
  unfold State.sendBytes
  repeat' (first
    | with_reducible apply Only.refl
    | (with_reducible apply Only.andThen State.queueMsg_only; decide)
    | (with_reducible apply Only.ite; rotate_left; intro _))

theorem State.sendRange_only {s : State} {k : Atoll} {c src len roff user : Nat} {dst : Option Nat} :
    Only [.sent, .fresh, .regs, .irq, .atolls, .sound, .mem] s (State.sendRange s k c src len roff user dst) := by
  unfold State.sendRange
  repeat' (first
    | with_reducible apply Only.refl
    | (with_reducible apply Only.andThen State.queueMsg_only; decide)
    | (with_reducible apply Only.ite; rotate_left; intro _))

theorem State.msgBytes_only {s : State} {p : PortIx} {m : SoundMsg} {o n : Nat} :
    Only [.regs, .atolls] s (State.msgBytes s p m o n).2 := by
  unfold State.msgBytes
  dsimp only
  repeat' (first
    | with_reducible apply Only.refl
    | (with_reducible apply Only.andThen State.causeway_only; decide)
    | (with_reducible apply Only.andThen State.vRead_only; decide)
    | (with_reducible apply Only.snd; assumption)
    | split)

theorem State.endMsg_only {s : State} {c msg : Nat} {ok : Bool} {dst : Option Nat} :
    Only [.sent, .fresh, .regs, .irq, .atolls, .sound, .mem] s (State.endMsg s c msg ok dst) := by
  unfold State.endMsg
  repeat' (first
    | with_reducible apply Only.refl
    | (with_reducible apply Only.andThen State.onCtx_only; decide)
    | (with_reducible apply Only.andThen State.settleCtx_only; decide))

theorem State.sendGroup_only {s : State} {c flags psn msg off : Nat} {data : List Byte} :
    Only [.sent, .fresh, .regs, .irq, .waits, .atolls, .ports, .sound, .mem] s (State.sendGroup s c flags psn msg off data) := by
  unfold State.sendGroup
  dsimp only
  repeat' (first
    | with_reducible apply Only.refl
    | with_reducible assumption
    | (with_reducible apply Only.andThen State.ctxGet_only; decide)
    | (with_reducible apply Only.andThen State.packetOut_only; decide)
    | with_reducible apply Only.foldl
    | intro _ _ _
    | split)

theorem State.memberOut_only {s : State} {c key kind flags psn msg off : Nat} {data : List Byte} :
    Only [.sent, .fresh, .regs, .irq, .waits, .atolls, .ports, .sound, .mem] s (State.memberOut s c key kind flags psn msg off data) := by
  unfold State.memberOut
  repeat' (first
    | with_reducible apply Only.refl
    | (with_reducible apply Only.andThen State.packetOut_only; decide))

theorem State.emitData_only {s : State} {c : Nat} {m : SoundMsg} {psn off n : Nat} {data : List Byte} :
    Only [.sent, .fresh, .regs, .irq, .waits, .atolls, .ports, .sound, .mem] s (State.emitData s c m psn off n data) := by
  unfold State.emitData
  dsimp only
  repeat' (first
    | with_reducible apply Only.refl
    | (with_reducible apply Only.andThen State.ctxGet_only; decide)
    | (with_reducible apply Only.andThen State.memberOut_only; decide)
    | (with_reducible apply Only.andThen State.sendGroup_only; decide)
    | (with_reducible apply Only.andThen State.sendPkt_only; decide)
    | split)

theorem State.sendTo_only {s : State} {c kind key msg off : Nat} {data : List Byte} :
    Only [.sent, .fresh, .regs, .irq, .waits, .atolls, .ports, .sound, .mem] s (State.sendTo s c kind key msg off data) := by
  unfold State.sendTo
  repeat' (first
    | with_reducible apply Only.refl
    | (with_reducible apply Only.andThen State.memberOut_only; decide))

theorem State.unserved_only {s : State} {c key msg : Nat} :
    Only [.sent, .fresh, .regs, .irq, .waits, .atolls, .ports, .sound, .mem] s (State.unserved s c key msg) := by
  unfold State.unserved
  repeat' (first
    | with_reducible apply Only.refl
    | (with_reducible apply Only.andThen State.endMsg_only; decide)
    | (with_reducible apply Only.andThen State.sendTo_only; decide)
    | (with_reducible apply Only.andThen State.onCtx_only; decide)
    | (with_reducible apply Only.andThen State.sendPkt_only; decide)
    | (with_reducible apply Only.andThen State.raise_only; decide)
    | (with_reducible apply Only.ite; rotate_left; intro _))

theorem State.depart_only {s : State} {c : Nat} :
    Only [.sent, .fresh, .regs, .irq, .waits, .atolls, .ports, .sound, .mem] s (State.depart s c) := by
  unfold State.depart
  dsimp only
  repeat' (first
    | with_reducible apply Only.refl
    | (with_reducible apply Only.andThen State.ctxGet_only; decide)
    | (with_reducible apply Only.andThen State.raise_only; decide)
    | (with_reducible apply Only.andThen State.onCtx_only; decide)
    | (with_reducible apply Only.andThen State.msgBytes_only; decide)
    | (with_reducible apply Only.andThen State.unserved_only; decide)
    | (with_reducible apply Only.andThen State.endMsg_only; decide)
    | (with_reducible apply Only.andThen State.onPort_only; decide)
    | (with_reducible apply Only.andThen State.emitData_only; decide)
    | (with_reducible apply Only.andThen State.trackTake_only; decide)
    | (with_reducible apply Only.andThen State.trackWrite_only; decide)
    | (with_reducible apply Only.andThen State.ctxSet_only; decide)
    | (with_reducible apply Only.andThen State.bump_only; decide)
    | (with_reducible apply Only.snd; assumption)
    | split)

theorem State.ackTo_only {s : State} {c ack : Nat} :
    Only [.sent, .fresh, .regs, .irq, .atolls, .sound, .mem] s (State.ackTo s c ack) := by
  unfold State.ackTo
  repeat' (first
    | with_reducible apply Only.refl
    | (with_reducible apply Only.andThen State.ctxSet_only; decide)
    | (with_reducible apply Only.andThen State.onCtx_only; decide)
    | (with_reducible apply Only.andThen State.settleCtx_only; decide)
    | (with_reducible apply Only.ite; rotate_left; intro _))

theorem State.ackIn_only {s : State} {c src slot ack : Nat} :
    Only [.sent, .fresh, .regs, .irq, .atolls, .sound, .mem] s (State.ackIn s c src slot ack) := by
  unfold State.ackIn
  repeat' (first
    | with_reducible apply Only.refl
    | (with_reducible apply Only.andThen State.ctxGet_only; decide)
    | (with_reducible apply Only.andThen State.onCtx_only; decide)
    | (with_reducible apply Only.andThen State.ackTo_only; decide)
    | (with_reducible apply Only.ite; rotate_left; intro _))

theorem State.resendPkts_only {s : State} {c : Nat} :
    Only [.sent, .fresh, .regs, .irq, .waits, .atolls, .ports, .sound, .mem] s (State.resendPkts s c) := by
  unfold State.resendPkts
  repeat' (first
    | with_reducible apply Only.refl
    | with_reducible assumption
    | (with_reducible apply Only.andThen State.ctxGet_only; decide)
    | (with_reducible apply Only.andThen State.onCtx_only; decide)
    | (with_reducible apply Only.andThen State.trackWrite_only; decide)
    | (with_reducible apply Only.andThen State.msgBytes_only; decide)
    | (with_reducible apply Only.andThen State.emitData_only; decide)
    | (with_reducible apply Only.andThen State.bump_only; decide)
    | with_reducible apply Only.foldl
    | intro _ _ _
    | (with_reducible apply Only.snd; assumption)
    | split)

theorem State.ctxEnd_only {s : State} {c st : Nat} {status : Option Nat} :
    Only [.sent, .fresh, .regs, .irq, .atolls, .ports, .sound, .mem] s (State.ctxEnd s c st status) := by
  unfold State.ctxEnd
  repeat' (first
    | with_reducible apply Only.refl
    | (with_reducible apply Only.andThen State.ungrant_only; decide)
    | (with_reducible apply Only.andThen State.onCtx_only; decide)
    | (with_reducible apply Only.andThen State.settleCtx_only; decide)
    | (with_reducible apply Only.andThen State.ctxSet_only; decide))

theorem State.sendConnect_only {s : State} {c : Nat} :
    Only [.sent, .fresh, .regs, .irq, .waits, .atolls, .ports, .sound, .mem] s (State.sendConnect s c) := by
  unfold State.sendConnect
  repeat' (first
    | with_reducible apply Only.refl
    | (with_reducible apply Only.andThen State.sendPkt_only; decide))

theorem State.ctxOpen_only {s : State} {c cmd : Nat} :
    Only [.sent, .fresh, .regs, .irq, .waits, .atolls, .ports, .sound, .mem] s (State.ctxOpen s c cmd) := by
  unfold State.ctxOpen
  repeat' (first
    | with_reducible apply Only.refl
    | (with_reducible apply Only.andThen State.ungrant_only; decide)
    | (with_reducible apply Only.andThen State.ctxSet_only; decide)
    | (with_reducible apply Only.andThen State.onCtx_only; decide)
    | (with_reducible apply Only.andThen State.sendConnect_only; decide)
    | (with_reducible apply Only.ite; rotate_left; intro _))

theorem State.renewQuotas_only {s : State} :
    Only [.fresh, .regs, .atolls, .sound, .mem] s (State.renewQuotas s) := by
  unfold State.renewQuotas
  repeat' (first
    | with_reducible apply Only.refl
    | with_reducible assumption
    | (with_reducible apply Only.andThen State.ctxSet_only; decide)
    | with_reducible apply Only.each
    | (with_reducible apply Only.ite; rotate_left; intro _)
    | intro _ _ _)

theorem State.overloadSlack_only {s : State} {p : PortIx} :
    Only [.sent, .regs, .irq, .ports] s (State.overloadSlack s p) := by
  unfold State.overloadSlack
  repeat' (first
    | with_reducible apply Only.refl
    | (with_reducible apply Only.andThen State.setFld_only; decide)
    | (with_reducible apply Only.andThen State.bump_only; decide)
    | (with_reducible apply Only.andThen State.onPort_only; decide)
    | (with_reducible apply Only.andThen State.raise_only; decide)
    | (with_reducible apply Only.ite; rotate_left; intro _))

theorem State.topUp_only {s : State} {c : Nat} :
    Only [.sent, .fresh, .regs, .irq, .waits, .atolls, .ports, .sound, .mem] s (State.topUp s c) := by
  unfold State.topUp
  repeat' (first
    | with_reducible apply Only.refl
    | (with_reducible apply Only.andThen State.grant_only; decide)
    | (with_reducible apply Only.andThen State.sendPkt_only; decide)
    | (with_reducible apply Only.ite; rotate_left; intro _))

theorem State.soundSlack_only {s : State} :
    Only [.sent, .fresh, .regs, .irq, .waits, .atolls, .ports, .sound, .mem] s (State.soundSlack s) := by
  unfold State.soundSlack
  dsimp only
  repeat' (first
    | with_reducible apply Only.refl
    | with_reducible assumption
    | (with_reducible apply Only.andThen State.setFld_only; decide)
    | (with_reducible apply Only.andThen State.topUp_only; decide)
    | (with_reducible apply Only.andThen State.onCtx_only; decide)
    | (with_reducible apply Only.andThen State.sendConnect_only; decide)
    | with_reducible apply Only.each
    | intro _ _ _
    | split
    | fail_if_no_progress (with_reducible apply Only.andThen Only.sound; decide))

theorem execPacketDepart_only {c : CtxNo} {s : State} :
    OnlyNext [.sent, .fresh, .regs, .irq, .waits, .atolls, .ports, .sound, .mem] s (execPacketDepart c s) := by
  unfold execPacketDepart
  dsimp only
  repeat' (first
    | with_reducible apply Only.refl
    | with_reducible apply OnlyNext.next
    | (with_reducible apply Only.andThen State.depart_only; decide)
    | (with_reducible apply Only.andThen State.raise_only; decide)
    | (with_reducible apply Only.andThen State.onCtx_only; decide)
    | split)

theorem execGrantReturn_only {c : CtxNo} {s : State} :
    OnlyNext [.sent, .fresh, .regs, .irq, .waits, .atolls, .ports, .sound, .mem] s (execGrantReturn c s) := by
  unfold execGrantReturn
  repeat' (first
    | with_reducible apply Only.refl
    | with_reducible apply OnlyNext.next
    | with_reducible apply OnlyNext.ite
    | (with_reducible apply Only.andThen State.ctxGet_only; decide)
    | (with_reducible apply Only.andThen State.ctxSet_only; decide)
    | (with_reducible apply Only.andThen State.onCtx_only; decide)
    | (with_reducible apply Only.andThen State.sendPkt_only; decide))

theorem execRampDone_only {s : State} :
    OnlyNext [.sent, .regs, .irq] s (execRampDone s) := by
  unfold execRampDone
  repeat' (first
    | with_reducible apply Only.refl
    | with_reducible apply OnlyNext.next
    | with_reducible apply OnlyNext.ite
    | (with_reducible apply Only.andThen State.setFld_only; decide)
    | (with_reducible apply Only.andThen State.raise_only; decide))

end Sys2Proof.Machine
end

