-- ==== Sys2Proof/Laws/OnlyVector.lean ====
section
/-! SUPPORT. What the operations of Machine/Vector.lean change (`Only`). -/

namespace Sys2Proof.Machine

theorem State.setS_only {s : State} {k : Atoll} {i : SReg} {v : Nat} :
    Only [.atolls] s (State.setS s k i v) := by
  unfold State.setS
  repeat' (first
    | with_reducible apply Only.refl
    | (with_reducible apply Only.andThen State.onSeq_only; decide))

theorem State.putElems_only {s : State} {k : Atoll} {o : VOp} {l : List (Nat × Nat)} :
    Only [.atolls] s (State.putElems s k o l) := by
  unfold State.putElems
  repeat' (first
    | with_reducible apply Only.refl
    | (with_reducible apply Only.andThen State.onVec_only; decide))

theorem State.vecCode_only {s : State} {k : Atoll} {r : SeqRegs} {op : Nat} {o : VOp} :
    Only [.fresh, .regs, .atolls, .mem] s (State.vecCode s k r op o).2 := by
  unfold State.vecCode
  repeat' (first
    | with_reducible apply Only.refl
    | (with_reducible apply Only.andThen State.qGet_only; decide)
    | (with_reducible apply Only.ite_snd; rotate_left; intro _))

theorem State.vecFault_only {s : State} {k : Atoll} {code : Nat} :
    Only [.sent, .regs, .irq, .waits, .atolls] s (State.vecFault s k code) := by
  unfold State.vecFault
  repeat' (first
    | with_reducible apply Only.refl
    | (with_reducible apply Only.andThen State.setFld_only; decide)
    | (with_reducible apply Only.andThen State.raise_only; decide)
    | (with_reducible apply Only.andThen State.endSlice_only; decide))

theorem State.vecBad_only {s : State} {k : Atoll} {r : SeqRegs} {op : Nat} {o : VOp} {t : State} (h : State.vecBad s k r op o = some t) :
    Only [.sent, .fresh, .regs, .irq, .waits, .atolls, .mem] s t := by
  unfold State.vecBad at h
  try dsimp only at h
  repeat' split at h
  all_goals (first | cases h | skip)
  all_goals
    repeat' (first
      | with_reducible apply Only.refl
      | (with_reducible apply Only.andThen State.refuse_only; decide)
      | (with_reducible apply Only.andThen State.vecCode_only; decide)
      | (with_reducible apply Only.andThen State.vecFault_only; decide))

theorem State.vElem_only {s : State} {k : Atoll} {r : SeqRegs} {op : Nat} {o : VOp} {v : VecSt} :
    Only [.atolls] s (State.vElem s k r op o v) := by
  unfold State.vElem
  repeat' (first
    | with_reducible apply Only.refl
    | (with_reducible apply Only.andThen State.putElems_only; decide))

theorem State.vCmp_only {s : State} {k : Atoll} {r : SeqRegs} {o : VOp} {v : VecSt} :
    Only [.atolls] s (State.vCmp s k r o v) := by
  unfold State.vCmp
  repeat' (first
    | with_reducible apply Only.refl
    | (with_reducible apply Only.andThen State.onSeq_only; decide))

theorem State.vSel_only {s : State} {k : Atoll} {r : SeqRegs} {o : VOp} {v : VecSt} :
    Only [.atolls] s (State.vSel s k r o v) := by
  unfold State.vSel
  repeat' (first
    | with_reducible apply Only.refl
    | (with_reducible apply Only.andThen State.putElems_only; decide))

theorem State.vPlog_only {s : State} {k : Atoll} {r : SeqRegs} {o : VOp} :
    Only [.atolls] s (State.vPlog s k r o) := by
  unfold State.vPlog
  repeat' (first
    | with_reducible apply Only.refl
    | (with_reducible apply Only.andThen State.onSeq_only; decide))

theorem State.vCvtw_only {s : State} {k : Atoll} {r : SeqRegs} {o : VOp} {v : VecSt} :
    Only [.atolls] s (State.vCvtw s k r o v) := by
  unfold State.vCvtw
  repeat' (first
    | with_reducible apply Only.refl
    | (with_reducible apply Only.andThen State.onVec_only; decide))

theorem State.vIota_only {s : State} {k : Atoll} {r : SeqRegs} {o : VOp} :
    Only [.atolls] s (State.vIota s k r o) := by
  unfold State.vIota
  repeat' (first
    | with_reducible apply Only.refl
    | (with_reducible apply Only.andThen State.onVec_only; decide))

theorem State.setXa_only {s : State} {k : Atoll} {i : Nat} {x : XaSt} :
    Only [.atolls] s (State.setXa s k i x) := by
  unfold State.setXa
  repeat' (first
    | with_reducible apply Only.refl
    | (with_reducible apply Only.andThen State.onVec_only; decide))

theorem State.xaTo_only {s : State} {k : Atoll} {i : Nat} {y : XaSt} :
    Only [.sent, .regs, .irq, .atolls] s (State.xaTo s k i y) := by
  unfold State.xaTo
  repeat' (first
    | with_reducible apply Only.refl
    | (with_reducible apply Only.andThen State.setXa_only; decide)
    | (with_reducible apply Only.andThen State.bump_only; decide)
    | (with_reducible apply Only.andThen State.raise_only; decide)
    | (with_reducible apply Only.ite; rotate_left; intro _))

theorem State.xaAdd_only {s : State} {k : Atoll} {i : Nat} {ts : List Val} :
    Only [.sent, .regs, .irq, .atolls] s (State.xaAdd s k i ts) := by
  unfold State.xaAdd
  repeat' (first
    | with_reducible apply Only.refl
    | (with_reducible apply Only.andThen State.xaTo_only; decide))

theorem State.vRed_only {s : State} {k : Atoll} {r : SeqRegs} {o : VOp} {v : VecSt} :
    Only [.sent, .regs, .irq, .atolls] s (State.vRed s k r o v) := by
  unfold State.vRed
  repeat' (first
    | with_reducible apply Only.refl
    | (with_reducible apply Only.andThen State.xaAdd_only; decide)
    | (with_reducible apply Only.andThen State.setS_only; decide)
    | (with_reducible apply Only.ite; rotate_left; intro _))

theorem State.vXfin_only {s : State} {k : Atoll} {o : VOp} :
    Only [.atolls] s (State.vXfin s k o) := by
  unfold State.vXfin
  repeat' (first
    | with_reducible apply Only.refl
    | (with_reducible apply Only.andThen State.setS_only; decide)
    | (with_reducible apply Only.andThen State.setXa_only; decide)
    | (with_reducible apply Only.ite; rotate_left; intro _))

theorem State.vNorm_only {s : State} {k : Atoll} {r : SeqRegs} {o : VOp} :
    Only [.atolls] s (State.vNorm s k r o) := by
  unfold State.vNorm
  repeat' (first
    | with_reducible apply Only.refl
    | (with_reducible apply Only.andThen State.setS_only; decide))

theorem State.vScan_only {s : State} {k : Atoll} {r : SeqRegs} {o : VOp} {v : VecSt} :
    Only [.sent, .regs, .irq, .atolls] s (State.vScan s k r o v) := by
  unfold State.vScan
  repeat' (first
    | with_reducible apply Only.refl
    | (with_reducible apply Only.andThen State.putElems_only; decide)
    | (with_reducible apply Only.andThen State.xaTo_only; decide)
    | (with_reducible apply Only.ite; rotate_left; intro _))

theorem State.oob_only {s : State} {k : Atoll} {n : Nat} :
    Only [.sent, .regs, .irq] s (State.oob s k n) := by
  unfold State.oob
  repeat' (first
    | with_reducible apply Only.refl
    | (with_reducible apply Only.andThen State.bump_only; decide)
    | (with_reducible apply Only.andThen State.raise_only; decide)
    | (with_reducible apply Only.ite; rotate_left; intro _))

theorem State.vGather_only {s : State} {k : Atoll} {r : SeqRegs} {o : VOp} {v : VecSt} :
    Only [.sent, .regs, .irq, .atolls] s (State.vGather s k r o v) := by
  unfold State.vGather
  repeat' (first
    | with_reducible apply Only.refl
    | (with_reducible apply Only.andThen State.putElems_only; decide)
    | (with_reducible apply Only.andThen State.oob_only; decide))

theorem State.vScatter_only {s : State} {k : Atoll} {r : SeqRegs} {o : VOp} {v : VecSt} :
    Only [.sent, .regs, .irq, .atolls] s (State.vScatter s k r o v) := by
  unfold State.vScatter
  repeat' (first
    | with_reducible apply Only.refl
    | (with_reducible apply Only.andThen State.putElems_only; decide)
    | (with_reducible apply Only.andThen State.oob_only; decide))

theorem State.vSoft_only {s : State} {k : Atoll} {r : SeqRegs} {o : VOp} {lse : Bool} {v : VecSt} :
    Only [.regs, .atolls] s (State.vSoft s k r o lse v) := by
  unfold State.vSoft
  repeat' (first
    | with_reducible apply Only.refl
    | with_reducible assumption
    | (with_reducible apply Only.andThen State.bump_only; decide)
    | (with_reducible apply Only.andThen State.putElems_only; decide)
    | with_reducible apply Only.foldl
    | (with_reducible apply Only.ite; rotate_left; intro _)
    | intro _ _ _)

end Sys2Proof.Machine
end

