-- ==== Sys2Proof/Laws/OnlyReduce.lean ====
section
/-! SUPPORT. What the operations of Machine/Reduce.lean change (`Only`). -/

namespace Sys2Proof.Machine

theorem State.onRed_only {s : State} {k : Atoll} {i : Nat} {f : RedSt → RedSt} :
    Only [.atolls] s (State.onRed s k i f) := by
  unfold State.onRed
  repeat' (first
    | with_reducible apply Only.refl
    | (with_reducible apply Only.andThen State.onStep_only; decide))

theorem State.redWriteBack_only {s : State} {k : Atoll} {i : Nat} :
    Only [.regs, .atolls, .mem] s (State.redWriteBack s k i) := by
  unfold State.redWriteBack
  repeat' (first
    | with_reducible apply Only.refl
    | (with_reducible apply Only.andThen State.onRed_only; decide)
    | (with_reducible apply Only.andThen State.vPut_only; decide)
    | split)

theorem State.redGet_only {s : State} {k : Atoll} {addr : Nat} :
    Only [.fresh, .regs, .atolls, .mem] s (State.redGet s k addr).2 := by
  unfold State.redGet
  dsimp only
  repeat' (first
    | with_reducible apply Only.refl
    | (with_reducible apply Only.andThen State.onStep_only; decide)
    | (with_reducible apply Only.andThen State.redWriteBack_only; decide)
    | (with_reducible apply Only.andThen State.vFree_only; decide)
    | split)

theorem State.rankOf_only {s : State} {k : Atoll} {w j : Nat} :
    Only [.fresh, .regs, .atolls] s (State.rankOf s k w j).2 := by
  unfold State.rankOf
  repeat' (first
    | with_reducible apply Only.refl
    | (with_reducible apply Only.andThen State.vFree_only; decide))

theorem State.settleRed_only {s : State} {k : Atoll} {i n : Nat} :
    Only [.atolls] s (State.settleRed s k i n) := by
  induction n generalizing s with
  | zero => exact Only.refl
  | succ n ih =>
    unfold State.settleRed
    repeat' (first
      | with_reducible apply Only.refl
      | (with_reducible apply Only.andThen ih; decide)
      | (with_reducible apply Only.andThen State.onRed_only; decide)
      | (with_reducible apply Only.andThen State.raiseMc_only; decide)
      | split)

theorem State.countIn_only {s : State} {k : Atoll} {i st j : Nat} :
    Only [.atolls] s (State.countIn s k i st j) := by
  unfold State.countIn
  repeat' (first
    | with_reducible apply Only.refl
    | (with_reducible apply Only.andThen State.onRed_only; decide)
    | (with_reducible apply Only.andThen State.settleRed_only; decide))

theorem State.contribute_only {s : State} {k : Atoll} {i st j tide : Nat} :
    Only [.sent, .regs, .irq, .atolls] s (State.contribute s k i st j tide) := by
  unfold State.contribute
  repeat' (first
    | with_reducible apply Only.refl
    | (with_reducible apply Only.andThen State.onRed_only; decide)
    | (with_reducible apply Only.andThen State.raise_only; decide)
    | (with_reducible apply Only.andThen State.bump_only; decide)
    | split)

theorem State.redLanded_only {s : State} {k : Atoll} {u : Unclaimed} :
    Only [.sent, .fresh, .regs, .irq, .atolls] s (State.redLanded s k u) := by
  unfold State.redLanded
  dsimp only
  repeat' (first
    | with_reducible apply Only.refl
    | (with_reducible apply Only.andThen State.onStep_only; decide)
    | (with_reducible apply Only.andThen State.contribute_only; decide)
    | (with_reducible apply Only.andThen State.vFree_only; decide)
    | (with_reducible apply Only.andThen State.countIn_only; decide)
    | split)

theorem State.claim_only {s : State} {k : Atoll} :
    Only [.sent, .fresh, .regs, .irq, .atolls] s (State.claim s k) := by
  unfold State.claim
  repeat' (first
    | with_reducible apply Only.refl
    | with_reducible assumption
    | (with_reducible apply Only.andThen State.onStep_only; decide)
    | (with_reducible apply Only.andThen State.redLanded_only; decide)
    | with_reducible apply Only.each
    | intro _ _ _)

theorem State.localLand_only {s : State} {k a : Atoll} {o : Nat} {bs : List Byte} {user : Nat} :
    Only [.sent, .fresh, .regs, .irq, .atolls, .mem] s (State.localLand s k a o bs user) := by
  unfold State.localLand
  repeat' (first
    | with_reducible apply Only.refl
    | (with_reducible apply Only.andThen State.vWrite_only; decide)
    | (with_reducible apply Only.andThen State.redLanded_only; decide)
    | (with_reducible apply Only.ite; rotate_left; intro _))

theorem State.vBytes_only {s : State} {k : Atoll} {va n : Nat} :
    Only [.fresh, .regs, .atolls] s (State.vBytes s k va n).2 := by
  unfold State.vBytes
  repeat' (first
    | with_reducible apply Only.refl
    | (with_reducible apply Only.andThen State.vRead_only; decide)
    | (with_reducible apply Only.andThen State.fresh_only; decide)
    | (with_reducible apply Only.snd; assumption)
    | split)

theorem State.toRank_only {s : State} {k : Atoll} {w j o : Nat} {bs : List Byte} {user : Nat} :
    Only [.sent, .fresh, .regs, .irq, .atolls, .sound, .mem] s (State.toRank s k w j o bs user) := by
  unfold State.toRank
  repeat' (first
    | with_reducible apply Only.refl
    | (with_reducible apply Only.andThen State.rankOf_only; decide)
    | (with_reducible apply Only.andThen State.localLand_only; decide)
    | (with_reducible apply Only.andThen State.sendBytes_only; decide)
    | (with_reducible apply Only.snd; assumption)
    | split)

theorem State.rankLost_only {s : State} {k : Atoll} {i j : Nat} :
    Only [.sent, .regs, .irq, .atolls, .mem] s (State.rankLost s k i j) := by
  unfold State.rankLost
  repeat' (first
    | with_reducible apply Only.refl
    | with_reducible assumption
    | (with_reducible apply Only.andThen State.vWrite_only; decide)
    | (with_reducible apply Only.andThen State.onRed_only; decide)
    | (with_reducible apply Only.andThen State.bump_only; decide)
    | (with_reducible apply Only.andThen State.countIn_only; decide)
    | (with_reducible apply Only.andThen State.raise_only; decide)
    | with_reducible apply Only.foldl
    | intro _ _ _
    | split)

theorem State.lostRanks_only {s : State} {k : Atoll} {i : Nat} :
    Only [.sent, .fresh, .regs, .irq, .atolls, .mem] s (State.lostRanks s k i) := by
  unfold State.lostRanks
  dsimp only
  repeat' (first
    | with_reducible apply Only.refl
    | with_reducible assumption
    | (with_reducible apply Only.andThen State.rankOf_only; decide)
    | (with_reducible apply Only.andThen State.rankLost_only; decide)
    | with_reducible apply Only.foldl
    | intro _ _ _
    | split)

theorem State.reduceBad_only {s : State} {k : Atoll} {i ctr : Nat} :
    Only [.sent, .regs, .irq, .atolls, .mem] s (State.reduceBad s k i ctr) := by
  unfold State.reduceBad
  repeat' (first
    | with_reducible apply Only.refl
    | (with_reducible apply Only.andThen State.vWrite_only; decide)
    | (with_reducible apply Only.andThen State.bump_only; decide)
    | (with_reducible apply Only.andThen State.onRed_only; decide)
    | (with_reducible apply Only.andThen State.redWriteBack_only; decide)
    | (with_reducible apply Only.andThen State.raise_only; decide)
    | (with_reducible apply Only.andThen State.raiseIf_only; decide)
    | (with_reducible apply Only.andThen State.raiseMc_only; decide)
    | with_reducible apply Only.foldl
    | intro _ _
    | split)

theorem State.sendShards_only {s : State} {k : Atoll} {w st : Nat} :
    Only [.sent, .fresh, .regs, .irq, .atolls, .sound, .mem] s (State.sendShards s k w st) := by
  unfold State.sendShards
  dsimp only
  repeat' (first
    | with_reducible apply Only.refl
    | with_reducible assumption
    | (with_reducible apply Only.andThen State.vBytes_only; decide)
    | (with_reducible apply Only.andThen State.vWrite_only; decide)
    | (with_reducible apply Only.andThen State.rankOf_only; decide)
    | (with_reducible apply Only.andThen State.localLand_only; decide)
    | (with_reducible apply Only.andThen State.sendRange_only; decide)
    | with_reducible apply Only.foldl
    | intro _ _ _
    | (with_reducible apply Only.snd; assumption)
    | split)

theorem State.reduceNow_only {s : State} {k : Atoll} {ctr addr : Nat} :
    Only [.sent, .fresh, .regs, .irq, .atolls, .sound, .mem] s (State.reduceNow s k ctr addr) := by
  unfold State.reduceNow
  dsimp only
  repeat' (first
    | with_reducible apply Only.refl
    | (with_reducible apply Only.andThen State.onStep_only; decide)
    | (with_reducible apply Only.andThen State.redGet_only; decide)
    | (with_reducible apply Only.andThen State.reduceBad_only; decide)
    | (with_reducible apply Only.andThen State.claim_only; decide)
    | (with_reducible apply Only.andThen State.onRed_only; decide)
    | (with_reducible apply Only.andThen State.sendShards_only; decide)
    | (with_reducible apply Only.andThen State.lostRanks_only; decide)
    | (with_reducible apply Only.snd; assumption)
    | split)

theorem State.redSum_only {s : State} {k : Atoll} {r : RedSt} {x : RedStep} {now : List Nat} :
    Only [.fresh, .regs, .atolls] s (State.redSum s k r x now).2.2 := by
  unfold State.redSum
  repeat' (first
    | with_reducible apply Only.refl
    | with_reducible assumption
    | (with_reducible apply Only.andThen State.vBytes_only; decide)
    | with_reducible apply Only.foldl_snd
    | intro _ _ _ _)

theorem State.reduceWaiting_only {s : State} {k : Atoll} :
    Only [.sent, .fresh, .regs, .irq, .atolls, .sound, .mem] s (State.reduceWaiting s k) := by
  unfold State.reduceWaiting
  repeat' (first
    | with_reducible apply Only.refl
    | with_reducible assumption
    | (with_reducible apply Only.andThen State.onStep_only; decide)
    | (with_reducible apply Only.andThen State.reduceNow_only; decide)
    | with_reducible apply Only.each
    | intro _ _ _)

theorem State.closeStep_only {s : State} {k : Atoll} {i : Nat} {fell held all : Bool} :
    Only [.sent, .fresh, .regs, .irq, .waits, .atolls, .sound, .mem] s (State.closeStep s k i fell held all) := by
  unfold State.closeStep
  repeat' (first
    | with_reducible apply Only.refl
    | with_reducible assumption
    | (with_reducible apply Only.andThen State.redSum_only; decide)
    | (with_reducible apply Only.andThen State.vWrite_only; decide)
    | (with_reducible apply Only.andThen State.onRed_only; decide)
    | (with_reducible apply Only.andThen State.bump_only; decide)
    | (with_reducible apply Only.andThen State.toRank_only; decide)
    | (with_reducible apply Only.andThen State.contribute_only; decide)
    | (with_reducible apply Only.andThen State.answered_only; decide)
    | (with_reducible apply Only.andThen State.countIn_only; decide)
    | (with_reducible apply Only.andThen State.redWriteBack_only; decide)
    | (with_reducible apply Only.andThen State.reduceWaiting_only; decide)
    | with_reducible apply Only.foldl
    | intro _ _ _
    | split)

theorem State.comeToClose_only {s : State} {k : Atoll} {i : Nat} {all : Bool} :
    Only [.sent, .fresh, .regs, .irq, .waits, .atolls, .sound, .mem] s (State.comeToClose s k i all) := by
  unfold State.comeToClose
  repeat' (first
    | with_reducible apply Only.refl
    | (with_reducible apply Only.andThen State.closeStep_only; decide)
    | (with_reducible apply Only.andThen State.onRed_only; decide)
    | (with_reducible apply Only.andThen State.raise_only; decide)
    | (with_reducible apply Only.andThen State.awaitHost_only; decide)
    | split)

theorem State.stepCmd_only {s : State} {k : Atoll} {i cmd : Nat} :
    Only [.waits, .atolls] s (State.stepCmd s k i cmd) := by
  unfold State.stepCmd
  repeat' (first
    | with_reducible apply Only.refl
    | (with_reducible apply Only.andThen State.onRed_only; decide)
    | (with_reducible apply Only.andThen State.answered_only; decide)
    | split)

theorem State.stepFallback_only {s : State} {k : Atoll} {i : Nat} :
    Only [.atolls] s (State.stepFallback s k i) := by
  unfold State.stepFallback
  repeat' (first
    | with_reducible apply Only.refl
    | (with_reducible apply Only.andThen State.onRed_only; decide))

theorem State.ownerLost_only {s : State} {c : Nat} :
    Only [.sent, .fresh, .regs, .irq, .atolls, .mem] s (State.ownerLost s c) := by
  unfold State.ownerLost
  repeat' (first
    | with_reducible apply Only.refl
    | with_reducible assumption
    | (with_reducible apply Only.andThen State.rankOf_only; decide)
    | (with_reducible apply Only.andThen State.rankLost_only; decide)
    | with_reducible apply Only.foldl
    | intro _ _ _
    | (with_reducible apply Only.snd; assumption)
    | split)

theorem execReductionClose_only {k : Atoll} {slot : Fin 64} {s : State} :
    OnlyNext [.sent, .fresh, .regs, .irq, .waits, .atolls, .sound, .mem] s (execReductionClose k slot s) := by
  unfold execReductionClose
  repeat' (first
    | with_reducible apply Only.refl
    | with_reducible apply OnlyNext.next
    | (with_reducible apply Only.andThen State.comeToClose_only; decide))

end Sys2Proof.Machine
end

