-- ==== Sys2Proof/Laws/OnlyReplica.lean ====
section
/-! SUPPORT. What the operations of Machine/Replica.lean change (`Only`). -/

namespace Sys2Proof.Machine

theorem State.answerReplica_only {s : State} {c : Nat} {bs : List Byte} :
    Only [.sent, .fresh, .regs, .irq, .atolls, .sound, .mem] s (State.answerReplica s c bs) := by
  unfold State.answerReplica
  dsimp only
  repeat' (first
    | with_reducible apply Only.refl
    | (with_reducible apply Only.andThen State.sendBytes_only; decide)
    | split)

end Sys2Proof.Machine
end

