-- ==== Sys2Proof/Laws/OnlyShoal.lean ====
section
/-! SUPPORT. What the operations of Machine/Shoal.lean change (`Only`). -/

namespace Sys2Proof.Machine

theorem State.retirePage_only {s : State} {k : Atoll} {page : Nat} :
    Only [.sent, .regs, .irq, .waits, .atolls] s (State.retirePage s k page) := by
  unfold State.retirePage
  repeat' (first
    | with_reducible apply Only.refl
    | (with_reducible apply Only.andThen State.onMc_only; decide)
    | (with_reducible apply Only.andThen State.raise_only; decide)
    | (with_reducible apply Only.andThen State.answered_only; decide)
    | (with_reducible apply Only.ite; rotate_left; intro _))

theorem State.markPage_only {s : State} {k : Atoll} {page : Nat} :
    Only [.sent, .regs, .irq, .waits, .selfActs, .atolls] s (State.markPage s k page) := by
  unfold State.markPage
  repeat' (first
    | with_reducible apply Only.refl
    | (with_reducible apply Only.andThen State.onMc_only; decide)
    | (with_reducible apply Only.andThen State.raise_only; decide)
    | (with_reducible apply Only.andThen State.awaitHost_only; decide)
    | (with_reducible apply Only.ite; rotate_left; intro _)
    | fail_if_no_progress (with_reducible apply Only.andThen Only.selfActs; decide))

theorem State.rowFail_only {s : State} {k : Atoll} {c o : Nat} :
    Only [.sent, .regs, .irq, .waits, .selfActs, .atolls] s (State.rowFail s k c o) := by
  unfold State.rowFail
  repeat' (first
    | with_reducible apply Only.refl
    | with_reducible assumption
    | (with_reducible apply Only.andThen State.onChan_only; decide)
    | (with_reducible apply Only.andThen State.markPage_only; decide)
    | with_reducible apply Only.each
    | (with_reducible apply Only.ite; rotate_left; intro _)
    | intro _ _ _)

theorem State.trackRow_only {s : State} {k : Atoll} {c o : Nat} :
    Only [.sent, .regs, .irq, .waits, .selfActs, .atolls] s (State.trackRow s k c o) := by
  unfold State.trackRow
  repeat' (first
    | with_reducible apply Only.refl
    | (with_reducible apply Only.andThen State.rowFail_only; decide)
    | (with_reducible apply Only.andThen State.onChan_only; decide)
    | (with_reducible apply Only.ite; rotate_left; intro _))

theorem State.readAt_only {s : State} {p : Nat} {errors : List (Nat × Byte)} {scrub : Bool} :
    Only [.sent, .regs, .irq, .waits, .selfActs, .atolls, .mem] s (State.readAt s p errors scrub).2 := by
  unfold State.readAt
  dsimp only
  repeat' (first
    | with_reducible apply Only.refl
    | (with_reducible apply Only.andThen State.bump_only; decide)
    | (with_reducible apply Only.andThen State.trackRow_only; decide)
    | (with_reducible apply Only.andThen State.rowFail_only; decide)
    | (with_reducible apply Only.andThen State.setPoison_only; decide)
    | (with_reducible apply Only.andThen State.raise_only; decide)
    | split
    | fail_if_no_progress (with_reducible apply Only.andThen (Only.setMem fun h => Memory.wf_putRange _ _ h); decide))

theorem State.crcRetries_only {s : State} {k : Atoll} {c fails : Nat} :
    Only [.sent, .regs, .irq, .waits, .atolls] s (State.crcRetries s k c fails) := by
  unfold State.crcRetries
  repeat' (first
    | with_reducible apply Only.refl
    | (with_reducible apply Only.andThen State.bump_only; decide)
    | (with_reducible apply Only.andThen State.onChan_only; decide)
    | (with_reducible apply Only.andThen State.raise_only; decide)
    | (with_reducible apply Only.andThen State.awaitHost_only; decide)
    | (with_reducible apply Only.ite; rotate_left; intro _))

theorem State.atomDone_only {s : State} {r : HeldReq} {poison : Bool} {data : List Byte} :
    Only [.sent] s (State.atomDone s r poison data) := by
  unfold State.atomDone
  repeat' (first
    | with_reducible apply Only.refl
    | (with_reducible apply Only.andThen State.emit_only; decide)
    | (with_reducible apply Only.ite; rotate_left; intro _))

theorem State.atomRequest_only {s : State} {r : HeldReq} :
    Only [.sent, .regs, .irq, .waits, .selfActs, .atolls, .mem] s (State.atomRequest s r) := by
  unfold State.atomRequest
  dsimp only
  repeat' (first
    | with_reducible apply Only.refl
    | (with_reducible apply Only.andThen State.holdReq_only; decide)
    | (with_reducible apply Only.andThen State.crcRetries_only; decide)
    | (with_reducible apply Only.andThen State.atomWrite_only; decide)
    | (with_reducible apply Only.andThen State.flushAtom_only; decide)
    | (with_reducible apply Only.andThen State.readAt_only; decide)
    | (with_reducible apply Only.andThen State.atomDone_only; decide)
    | (with_reducible apply Only.snd; assumption)
    | split)

theorem State.ckptLonger_only {s : State} {n : Nat} :
    Only [.ckpt] s (State.ckptLonger s n) := by
  unfold State.ckptLonger
  repeat' (first
    | with_reducible apply Only.refl
    | fail_if_no_progress (with_reducible apply Only.andThen Only.ckpt; decide))

theorem State.stopBurst_only {s : State} :
    Only [.fresh, .ckpt] s (State.stopBurst s) := by
  unfold State.stopBurst
  repeat' (first
    | with_reducible apply Only.refl
    | (with_reducible apply Only.andThen State.fresh_only; decide)
    | (with_reducible apply Only.andThen State.ckptLonger_only; decide)
    | (with_reducible apply Only.ite; rotate_left; intro _))

theorem State.complete_only {s : State} {ty tag addr : Nat} {poison : Bool} {data : List Byte} :
    Only [.sent] s (State.complete s ty tag addr poison data) := by
  unfold State.complete
  repeat' (first
    | with_reducible apply Only.refl
    | (with_reducible apply Only.andThen State.emit_only; decide))

theorem State.memWrite_only {s : State} {l : List (Nat × Nat)} {bs : List Byte} :
    Only [.atolls, .mem] s (State.memWrite s l bs).1 := by
  unfold State.memWrite
  repeat' (first
    | with_reducible apply Only.refl
    | with_reducible assumption
    | (with_reducible apply Only.andThen State.devWrite_only; decide)
    | with_reducible apply Only.foldl_fst2
    | intro _ _ _ _ _)

theorem State.memServe_only {s : State} {r : MemReq} {l : List (Nat × Nat)} :
    Only [.sent, .fresh, .regs, .atolls, .mem, .ckpt] s (State.memServe s r l) := by
  unfold State.memServe
  repeat' (first
    | with_reducible apply Only.refl
    | with_reducible assumption
    | (with_reducible apply Only.andThen State.burst_only; decide)
    | (with_reducible apply Only.andThen State.stopBurst_only; decide)
    | (with_reducible apply Only.andThen State.bump_only; decide)
    | (with_reducible apply Only.andThen State.memWrite_only; decide)
    | (with_reducible apply Only.andThen State.complete_only; decide)
    | with_reducible apply Only.each
    | (with_reducible apply Only.ite; rotate_left; intro _)
    | intro _ _ _)

theorem State.doorbell_only {s : State} {n t : Nat} :
    Only [.sent, .regs, .irq] s (State.doorbell s n t) := by
  unfold State.doorbell
  repeat' (first
    | with_reducible apply Only.refl
    | (with_reducible apply Only.andThen State.setFld_only; decide)
    | (with_reducible apply Only.andThen State.raise_only; decide)
    | (with_reducible apply Only.ite; rotate_left; intro _))

theorem State.bellRequest_only {s : State} {core n t : Nat} :
    Only [.sent, .regs, .irq, .memWait] s (State.bellRequest s core n t) := by
  unfold State.bellRequest
  repeat' (first
    | with_reducible apply Only.refl
    | (with_reducible apply Only.andThen State.doorbell_only; decide)
    | (with_reducible apply Only.ite; rotate_left; intro _)
    | fail_if_no_progress (with_reducible apply Only.andThen Only.memWait; decide))

theorem State.memRequest_only {s : State} {r : MemReq} :
    Only [.sent, .fresh, .regs, .irq, .memWait, .atolls, .mem, .ckpt] s (State.memRequest s r) := by
  unfold State.memRequest
  dsimp only
  repeat' (first
    | with_reducible apply Only.refl
    | (with_reducible apply Only.andThen State.bellRequest_only; decide)
    | (with_reducible apply Only.andThen State.emit_only; decide)
    | (with_reducible apply Only.andThen State.holdReq_only; decide)
    | (with_reducible apply Only.andThen State.memServe_only; decide)
    | split
    | fail_if_no_progress (with_reducible apply Only.andThen Only.memWait; decide))

theorem State.memDrain_only {s : State} :
    Only [.sent, .fresh, .regs, .irq, .memWait, .atolls, .mem, .ckpt] s (State.memDrain s) := by
  unfold State.memDrain
  repeat' (first
    | with_reducible apply Only.refl
    | (with_reducible apply Only.andThen State.memRequest_only; decide)
    | with_reducible apply Only.each
    | intro _ _
    | fail_if_no_progress (with_reducible apply Only.andThen Only.memWait; decide))

theorem State.drainHold_only {s : State} {k : Atoll} {c : Nat} :
    Only [.sent, .fresh, .regs, .irq, .memWait, .waits, .selfActs, .atolls, .mem, .ckpt] s (State.drainHold s k c) := by
  unfold State.drainHold
  repeat' (first
    | with_reducible apply Only.refl
    | (with_reducible apply Only.andThen State.onChan_only; decide)
    | (with_reducible apply Only.andThen State.memRequest_only; decide)
    | (with_reducible apply Only.andThen State.atomRequest_only; decide)
    | (with_reducible apply Only.andThen State.memDrain_only; decide)
    | with_reducible apply Only.each
    | intro _ _
    | split)

theorem State.raiseDue_only {s : State} {k : Atoll} :
    Only [.sent, .regs, .irq, .waits, .atolls] s (State.raiseDue s k) := by
  unfold State.raiseDue
  repeat' (first
    | with_reducible apply Only.refl
    | with_reducible assumption
    | (with_reducible apply Only.andThen State.onChan_only; decide)
    | (with_reducible apply Only.andThen State.raise_only; decide)
    | (with_reducible apply Only.andThen State.awaitHost_only; decide)
    | with_reducible apply Only.each
    | (with_reducible apply Only.ite; rotate_left; intro _)
    | intro _ _ _)

theorem State.openWindow_only {s : State} {k : Atoll} :
    Only [.sent, .regs, .irq, .waits, .atolls, .ckpt] s (State.openWindow s k) := by
  unfold State.openWindow
  dsimp only
  repeat' (first
    | with_reducible apply Only.refl
    | (with_reducible apply Only.andThen State.raiseDue_only; decide)
    | (with_reducible apply Only.andThen State.ckptLonger_only; decide)
    | (with_reducible apply Only.andThen State.onChan_only; decide)
    | (with_reducible apply Only.andThen State.onMc_only; decide)
    | (with_reducible apply Only.andThen State.setFld_only; decide)
    | (with_reducible apply Only.andThen State.answered_only; decide)
    | (with_reducible apply Only.andThen State.bump_only; decide)
    | split)

theorem State.queueMapout_only {s : State} {k : Atoll} {c : Nat} :
    Only [.atolls] s (State.queueMapout s k c) := by
  unfold State.queueMapout
  repeat' (first
    | with_reducible apply Only.refl
    | (with_reducible apply Only.andThen State.onMc_only; decide))

theorem State.closeWindow_only {s : State} {k : Atoll} {c : Nat} {o : TrainOutcome} :
    Only [.sent, .fresh, .regs, .irq, .memWait, .waits, .selfActs, .atolls, .mem, .ckpt] s (State.closeWindow s k c o) := by
  unfold State.closeWindow
  repeat' (first
    | with_reducible apply Only.refl
    | (with_reducible apply Only.andThen State.onChan_only; decide)
    | (with_reducible apply Only.andThen State.onMc_only; decide)
    | (with_reducible apply Only.andThen State.setFld_only; decide)
    | (with_reducible apply Only.andThen State.raiseIf_only; decide)
    | (with_reducible apply Only.andThen State.raise_only; decide)
    | (with_reducible apply Only.andThen State.queueMapout_only; decide)
    | (with_reducible apply Only.andThen State.drainHold_only; decide)
    | (with_reducible apply Only.andThen State.awaitHost_only; decide)
    | (with_reducible apply Only.ite; rotate_left; intro _))

theorem State.mapoutLimit_only {s : State} {k : Atoll} :
    Only [.sent, .regs, .irq, .rst] s (State.mapoutLimit s k) := by
  unfold State.mapoutLimit
  repeat' (first
    | with_reducible apply Only.refl
    | (with_reducible apply Only.andThen State.raise_only; decide)
    | fail_if_no_progress (with_reducible apply Only.andThen Only.rst; decide))

theorem State.beginEbb_only {s : State} {k : Atoll} {c : Nat} :
    Only [.sent, .fresh, .regs, .irq, .memWait, .waits, .selfActs, .atolls, .mem, .ckpt, .rst] s (State.beginEbb s k c) := by
  unfold State.beginEbb
  repeat' (first
    | with_reducible apply Only.refl
    | (with_reducible apply Only.andThen State.mapoutLimit_only; decide)
    | (with_reducible apply Only.andThen State.onMc_only; decide)
    | (with_reducible apply Only.andThen State.onChan_only; decide)
    | (with_reducible apply Only.andThen State.setFld_only; decide)
    | (with_reducible apply Only.andThen State.raise_only; decide)
    | (with_reducible apply Only.andThen State.drainHold_only; decide)
    | split)

theorem State.ebbSlack_only {s : State} {k : Atoll} :
    Only [.sent, .fresh, .regs, .irq, .memWait, .waits, .selfActs, .atolls, .mem, .ckpt, .rst] s (State.ebbSlack s k) := by
  unfold State.ebbSlack
  repeat' (first
    | with_reducible apply Only.refl
    | (with_reducible apply Only.andThen State.onMc_only; decide)
    | (with_reducible apply Only.andThen State.beginEbb_only; decide)
    | split)

theorem State.ebbAtom_only {s : State} {k : Atoll} {c p q : Nat} {lost : Bool} {noise : BurstNoise} :
    Only [.sent, .regs, .irq, .waits, .selfActs, .atolls, .mem] s (State.ebbAtom s k c p q lost noise) := by
  unfold State.ebbAtom
  dsimp only
  repeat' (first
    | with_reducible apply Only.refl
    | (with_reducible apply Only.andThen State.crcRetries_only; decide)
    | (with_reducible apply Only.andThen State.setPoison_only; decide)
    | (with_reducible apply Only.andThen State.readAt_only; decide)
    | (with_reducible apply Only.snd; assumption)
    | split
    | fail_if_no_progress (with_reducible apply Only.andThen (Only.setMem fun h => Memory.wf_putRange _ _ h); decide))

theorem State.ebbOne_only {s : State} {k : Atoll} {noise : List BurstNoise} :
    Only [.sent, .regs, .irq, .waits, .selfActs, .atolls, .mem] s (State.ebbOne s k noise) := by
  unfold State.ebbOne
  dsimp only
  repeat' (first
    | with_reducible apply Only.refl
    | (with_reducible apply Only.andThen State.ebbAtom_only; decide)
    | (with_reducible apply Only.andThen State.onMc_only; decide)
    | with_reducible apply Only.each
    | intro _ _
    | split)

theorem State.ebbEnd_only {s : State} {k : Atoll} :
    Only [.selfActs, .atolls] s (State.ebbEnd s k) := by
  unfold State.ebbEnd
  dsimp only
  repeat' (first
    | with_reducible apply Only.refl
    | (with_reducible apply Only.andThen State.onMc_only; decide)
    | split
    | fail_if_no_progress (with_reducible apply Only.andThen Only.selfActs; decide))

theorem State.ebbCopies_only {s : State} {k : Atoll} {noise : List BurstNoise} {n : Nat} :
    Only [.sent, .regs, .irq, .waits, .selfActs, .atolls, .mem] s (State.ebbCopies s k noise n) := by
  induction n generalizing s noise with
  | zero => exact Only.refl
  | succ n ih =>
    unfold State.ebbCopies
    repeat' (first
      | with_reducible apply Only.refl
      | (with_reducible apply Only.andThen ih; decide)
      | (with_reducible apply Only.andThen State.ebbOne_only; decide))

theorem State.mapDone_only {s : State} {k : Atoll} :
    Only [.sent, .regs, .irq, .atolls] s (State.mapDone s k) := by
  unfold State.mapDone
  repeat' (first
    | with_reducible apply Only.refl
    | (with_reducible apply Only.andThen State.onMc_only; decide)
    | (with_reducible apply Only.andThen State.onChan_only; decide)
    | (with_reducible apply Only.andThen State.setFld_only; decide)
    | (with_reducible apply Only.andThen State.raise_only; decide)
    | split)

theorem State.mapoutCmd_only {s : State} {k : Atoll} {c : Nat} :
    Only [.sent, .regs, .irq, .waits, .atolls, .rst] s (State.mapoutCmd s k c) := by
  unfold State.mapoutCmd
  repeat' (first
    | with_reducible apply Only.refl
    | (with_reducible apply Only.andThen State.mapoutLimit_only; decide)
    | (with_reducible apply Only.andThen State.answered_only; decide)
    | (with_reducible apply Only.andThen State.queueMapout_only; decide)
    | split)

theorem State.retrainCmd_only {s : State} {k : Atoll} {c : Nat} :
    Only [.waits, .atolls] s (State.retrainCmd s k c) := by
  unfold State.retrainCmd
  repeat' (first
    | with_reducible apply Only.refl
    | (with_reducible apply Only.andThen State.onChan_only; decide)
    | (with_reducible apply Only.andThen State.answered_only; decide)
    | (with_reducible apply Only.ite; rotate_left; intro _))

theorem State.retireCmd_only {s : State} {k : Atoll} :
    Only [.sent, .regs, .irq, .waits, .selfActs, .atolls] s (State.retireCmd s k) := by
  unfold State.retireCmd
  repeat' (first
    | with_reducible apply Only.refl
    | (with_reducible apply Only.andThen State.retirePage_only; decide)
    | split
    | fail_if_no_progress (with_reducible apply Only.andThen Only.selfActs; decide))

theorem State.mcCmd_only {s : State} {k : Atoll} {v : Nat} :
    Only [.sent, .regs, .irq, .waits, .selfActs, .atolls, .rst] s (State.mcCmd s k v) := by
  unfold State.mcCmd
  repeat' (first
    | with_reducible apply Only.refl
    | (with_reducible apply Only.andThen State.retrainCmd_only; decide)
    | (with_reducible apply Only.andThen State.mapoutCmd_only; decide)
    | (with_reducible apply Only.andThen State.retireCmd_only; decide)
    | (with_reducible apply Only.ite; rotate_left; intro _))

theorem State.classed_only {s : State} {a n : Nat} {write : Bool} {cls : MemClass} :
    Only [.regs, .atolls] s (State.classed s a n write cls) := by
  unfold State.classed
  dsimp only
  repeat' (first
    | with_reducible apply Only.refl
    | (with_reducible apply Only.andThen State.burst_only; decide)
    | (with_reducible apply Only.andThen State.reach_only; decide)
    | (with_reducible apply Only.andThen State.bump_only; decide)
    | split)

theorem execAtomRead_only {addr : BitVec 41} {cls : MemClass} {noise : BurstNoise} {s : State} :
    OnlyNext [.sent, .regs, .irq, .waits, .selfActs, .atolls, .mem] s (execAtomRead addr cls noise s) := by
  unfold execAtomRead
  repeat' (first
    | with_reducible apply Only.refl
    | with_reducible apply OnlyNext.next
    | with_reducible apply OnlyNext.ite
    | (with_reducible apply Only.andThen State.classed_only; decide)
    | (with_reducible apply Only.andThen State.atomRequest_only; decide))

theorem execAtomWrite_only {addr : BitVec 41} {cls : MemClass} {noise : BurstNoise} {data : List Byte} {s : State} :
    OnlyNext [.sent, .regs, .irq, .waits, .selfActs, .atolls, .mem] s (execAtomWrite addr cls noise data s) := by
  unfold execAtomWrite
  repeat' (first
    | with_reducible apply Only.refl
    | with_reducible apply OnlyNext.next
    | with_reducible apply OnlyNext.ite
    | (with_reducible apply Only.andThen State.classed_only; decide)
    | (with_reducible apply Only.andThen State.skiffHold_only; decide)
    | (with_reducible apply Only.andThen State.atomRequest_only; decide))

theorem execScrubRead_only {k : Atoll} {c : Chan} {noise : BurstNoise} {s : State} :
    OnlyNext [.sent, .now, .regs, .irq, .waits, .selfActs, .tide, .atolls, .ports, .mem, .pwr, .rst] s (execScrubRead k c noise s) := by
  unfold execScrubRead
  dsimp only
  repeat' (first
    | with_reducible apply Only.refl
    | with_reducible apply OnlyNext.next
    | (with_reducible apply Only.optThen State.runTo_only; decide; with_reducible assumption)
    | (with_reducible apply Only.andThen State.crcRetries_only; decide)
    | (with_reducible apply Only.andThen State.onMc_only; decide)
    | (with_reducible apply Only.andThen State.readAt_only; decide)
    | split)

theorem execEbbCopy_only {k : Atoll} {noise : List BurstNoise} {s : State} :
    OnlyNext [.sent, .regs, .irq, .waits, .selfActs, .atolls, .mem] s (execEbbCopy k noise s) := by
  unfold execEbbCopy
  repeat' (first
    | with_reducible apply Only.refl
    | with_reducible apply OnlyNext.next
    | (with_reducible apply Only.andThen State.ebbCopies_only; decide)
    | (with_reducible apply Only.andThen State.ebbEnd_only; decide)
    | split)

theorem execWindowDone_only {k : Atoll} {o : TrainOutcome} {s : State} :
    OnlyNext [.sent, .fresh, .regs, .irq, .memWait, .waits, .selfActs, .atolls, .mem, .ckpt] s (execWindowDone k o s) := by
  unfold execWindowDone
  repeat' (first
    | with_reducible apply Only.refl
    | with_reducible apply OnlyNext.next
    | (with_reducible apply Only.andThen State.closeWindow_only; decide)
    | split)

theorem execRowCopyDone_only {k : Atoll} {c : Chan} {bank : Fin 32} {s : State} :
    OnlyNext [.sent, .fresh, .regs, .irq, .memWait, .waits, .selfActs, .atolls, .mem, .ckpt] s (execRowCopyDone k c bank s) := by
  unfold execRowCopyDone
  dsimp only
  repeat' (first
    | with_reducible apply Only.refl
    | with_reducible apply OnlyNext.next
    | (with_reducible apply Only.andThen State.onChan_only; decide)
    | (with_reducible apply Only.andThen State.bump_only; decide)
    | (with_reducible apply Only.andThen State.raiseIf_only; decide)
    | (with_reducible apply Only.andThen State.drainHold_only; decide)
    | (with_reducible apply Only.andThen State.raise_only; decide)
    | split)

end Sys2Proof.Machine
end

