-- ==== Sys2Proof/Laws/OnlyVectorMem.lean ====
section
/-! SUPPORT. What the operations of Machine/VectorMem.lean change (`Only`). -/

namespace Sys2Proof.Machine

theorem State.vLoad_only {s : State} {k : Atoll} {r : SeqRegs} {o : VOp} :
    Only [.sent, .regs, .irq, .waits, .atolls] s (State.vLoad s k r o) := by
  unfold State.vLoad
  repeat' (first
    | with_reducible apply Only.refl
    | (with_reducible apply Only.andThen State.lagFault_only; decide)
    | (with_reducible apply Only.andThen State.lagSeen_only; decide)
    | (with_reducible apply Only.andThen State.onVec_only; decide)
    | (with_reducible apply Only.ite; rotate_left; intro _))

theorem State.vStore_only {s : State} {k : Atoll} {r : SeqRegs} {o : VOp} {v : VecSt} :
    Only [.sent, .regs, .irq, .atolls] s (State.vStore s k r o v) := by
  unfold State.vStore
  repeat' (first
    | with_reducible apply Only.refl
    | with_reducible assumption
    | (with_reducible apply Only.andThen State.lagWrite_only; decide)
    | with_reducible apply Only.foldl
    | intro _ _ _)

theorem State.vConvert_only {s : State} {k : Atoll} {r : SeqRegs} {o : VOp} {v : VecSt} :
    Only [.sent, .fresh, .regs, .irq, .atolls, .mem] s (State.vConvert s k r o v) := by
  unfold State.vConvert
  repeat' (first
    | with_reducible apply Only.refl
    | with_reducible assumption
    | (with_reducible apply Only.andThen State.qGet_only; decide)
    | (with_reducible apply Only.andThen State.privRange_only; decide)
    | (with_reducible apply Only.andThen State.qScout_only; decide)
    | (with_reducible apply Only.andThen State.qMark_only; decide)
    | (with_reducible apply Only.andThen State.lagWrite_only; decide)
    | (with_reducible apply Only.andThen State.vPut_only; decide)
    | (with_reducible apply Only.andThen State.qCount_only; decide)
    | with_reducible apply Only.foldl
    | (with_reducible apply Only.ite; rotate_left; intro _)
    | intro _ _ _)

theorem State.vTload_only {s : State} {k : Atoll} {r : SeqRegs} {o : VOp} :
    Only [.sent, .regs, .irq, .waits, .atolls] s (State.vTload s k r o) := by
  unfold State.vTload
  repeat' (first
    | with_reducible apply Only.refl
    | (with_reducible apply Only.andThen State.lagFault_only; decide)
    | (with_reducible apply Only.andThen State.lagSeen_only; decide)
    | (with_reducible apply Only.andThen State.onVec_only; decide)
    | (with_reducible apply Only.andThen State.setFld_only; decide)
    | (with_reducible apply Only.ite; rotate_left; intro _))

theorem State.countRange_only {s : State} {k : Atoll} {l : List TabRange} :
    Only [.regs] s (State.countRange s k l) := by
  unfold State.countRange
  repeat' (first
    | with_reducible apply Only.refl
    | (with_reducible apply Only.andThen State.bump_only; decide))

theorem State.vTab_only {s : State} {k : Atoll} {r : SeqRegs} {o : VOp} {deriv : Bool} {v : VecSt} :
    Only [.regs, .atolls] s (State.vTab s k r o deriv v) := by
  unfold State.vTab
  repeat' (first
    | with_reducible apply Only.refl
    | (with_reducible apply Only.andThen State.putElems_only; decide)
    | (with_reducible apply Only.andThen State.countRange_only; decide))

theorem State.gcgGet_only {s : State} {k : Atoll} {i : Nat} :
    Only [.fresh, .regs, .atolls] s (State.gcgGet s k i).2 := by
  unfold State.gcgGet
  repeat' (first
    | with_reducible apply Only.refl
    | (with_reducible apply Only.andThen State.onVec_only; decide)
    | (with_reducible apply Only.andThen State.vFree_only; decide)
    | split)

theorem State.gcgAdvance_only {s : State} {k : Atoll} {i c : Nat} :
    Only [.atolls] s (State.gcgAdvance s k i c) := by
  unfold State.gcgAdvance
  repeat' (first
    | with_reducible apply Only.refl
    | (with_reducible apply Only.andThen State.onSeq_only; decide))

theorem State.gcgWriteBack_only {s : State} {k : Atoll} {l : List (Nat × Nat)} :
    Only [.fresh, .regs, .atolls, .mem] s (State.gcgWriteBack s k l) := by
  unfold State.gcgWriteBack
  repeat' (first
    | with_reducible apply Only.refl
    | with_reducible assumption
    | (with_reducible apply Only.andThen State.gcgGet_only; decide)
    | (with_reducible apply Only.andThen State.onVec_only; decide)
    | (with_reducible apply Only.andThen State.vPut_only; decide)
    | with_reducible apply Only.foldl
    | intro _ _ _)

theorem State.vRand_only {s : State} {k : Atoll} {r : SeqRegs} {o : VOp} :
    Only [.sent, .fresh, .regs, .irq, .atolls] s (State.vRand s k r o) := by
  unfold State.vRand
  repeat' (first
    | with_reducible apply Only.refl
    | (with_reducible apply Only.andThen State.gcgGet_only; decide)
    | (with_reducible apply Only.andThen State.onSeq_only; decide)
    | (with_reducible apply Only.andThen State.onVec_only; decide)
    | (with_reducible apply Only.andThen State.gcgAdvance_only; decide)
    | (with_reducible apply Only.andThen State.raiseIf_only; decide)
    | (with_reducible apply Only.ite; rotate_left; intro _))

theorem State.vDigest_only {s : State} {k : Atoll} {r : SeqRegs} {o : VOp} {v : VecSt} :
    Only [.atolls] s (State.vDigest s k r o v) := by
  unfold State.vDigest
  repeat' (first
    | with_reducible apply Only.refl
    | (with_reducible apply Only.andThen State.setS_only; decide))

theorem State.vLsq_only {s : State} {k : Atoll} {r : SeqRegs} {o : VOp} {v : VecSt} :
    Only [.sent, .fresh, .regs, .irq, .atolls, .mem] s (State.vLsq s k r o v) := by
  unfold State.vLsq
  repeat' (first
    | with_reducible apply Only.refl
    | (with_reducible apply Only.andThen State.qGet_only; decide)
    | (with_reducible apply Only.andThen State.onVec_only; decide)
    | (with_reducible apply Only.andThen State.setXa_only; decide)
    | (with_reducible apply Only.andThen State.xaAdd_only; decide)
    | (with_reducible apply Only.ite; rotate_left; intro _))

theorem State.vLsqf_only {s : State} {k : Atoll} {r : SeqRegs} {o : VOp} :
    Only [.fresh, .regs, .atolls, .mem] s (State.vLsqf s k r o) := by
  unfold State.vLsqf
  repeat' (first
    | with_reducible apply Only.refl
    | (with_reducible apply Only.andThen State.qGet_only; decide)
    | (with_reducible apply Only.andThen State.setXa_only; decide)
    | (with_reducible apply Only.andThen State.setS_only; decide)
    | (with_reducible apply Only.andThen State.qMark_only; decide)
    | (with_reducible apply Only.ite; rotate_left; intro _))

theorem State.drainGroup_only {s : State} {k : Atoll} {v : VecSt} {d : DrainOp} {g0 r : Nat} :
    Only [.sent, .regs, .irq, .atolls] s (State.drainGroup s k v d g0 r) := by
  unfold State.drainGroup
  repeat' (first
    | with_reducible apply Only.refl
    | (with_reducible apply Only.andThen State.onVec_only; decide)
    | (with_reducible apply Only.andThen State.oob_only; decide)
    | (with_reducible apply Only.andThen State.countRange_only; decide)
    | (with_reducible apply Only.andThen State.onArr_only; decide)
    | (with_reducible apply Only.ite; rotate_left; intro _))

theorem State.drainFrom_only {s : State} {k : Atoll} {v : VecSt} {d : DrainOp} {g0 r n : Nat} :
    Only [.sent, .regs, .irq, .atolls] s (State.drainFrom s k v d g0 r n) := by
  unfold State.drainFrom
  repeat' (first
    | with_reducible apply Only.refl
    | with_reducible assumption
    | (with_reducible apply Only.andThen State.drainGroup_only; decide)
    | with_reducible apply Only.foldl
    | intro _ _ _)

theorem State.drain_only {s : State} {k : Atoll} {r : SeqRegs} {d : DrainOp} {v : VecSt} :
    Only [.sent, .regs, .irq, .atolls] s (State.drain s k r d v) := by
  unfold State.drain
  repeat' (first
    | with_reducible apply Only.refl
    | (with_reducible apply Only.andThen State.drainFrom_only; decide)
    | (with_reducible apply Only.andThen State.onVec_only; decide))

theorem State.drainPart_only {s : State} {k : Atoll} {r : SeqRegs} {d : DrainOp} :
    Only [.sent, .regs, .irq, .atolls] s (State.drainPart s k r d) := by
  unfold State.drainPart
  repeat' (first
    | with_reducible apply Only.refl
    | (with_reducible apply Only.andThen State.drainFrom_only; decide)
    | (with_reducible apply Only.andThen State.onVec_only; decide)
    | (with_reducible apply Only.ite; rotate_left; intro _))

theorem State.drainBad_only {s : State} {k : Atoll} {d : DrainOp} {t : State} (h : State.drainBad s k d = some t) :
    Only [.sent, .regs, .irq, .waits, .atolls] s t := by
  unfold State.drainBad at h
  try dsimp only at h
  repeat' split at h
  all_goals (first | cases h | skip)
  all_goals
    repeat' (first
      | with_reducible apply Only.refl
      | (with_reducible apply Only.andThen State.vecFault_only; decide))

end Sys2Proof.Machine
end

