-- ==== Sys2Proof/Laws/OnlyStreams.lean ====
section
/-! SUPPORT. What the operations of Machine/Streams.lean change (`Only`). -/

namespace Sys2Proof.Machine

theorem State.takeDesc_only {s : State} {k : Atoll} {addr : Nat} :
    Only [.fresh, .regs, .atolls, .mem] s (State.takeDesc s k addr).2.2 := by
  unfold State.takeDesc
  dsimp only
  repeat' (first
    | with_reducible apply Only.refl
    | (with_reducible apply Only.andThen State.vRead_only; decide)
    | (with_reducible apply Only.andThen State.qGet_only; decide)
    | (with_reducible apply Only.snd; assumption)
    | split)

theorem State.issueStream_only {s : State} {k : Atoll} {ctr addr : Nat} {detach : Bool} :
    Only [.fresh, .regs, .atolls, .mem] s (State.issueStream s k ctr addr detach) := by
  unfold State.issueStream
  repeat' (first
    | with_reducible apply Only.refl
    | (with_reducible apply Only.andThen State.takeDesc_only; decide)
    | (with_reducible apply Only.onStrm; decide)
    | (intro _ h; exact h))

theorem State.startStreams_only {s : State} {k : Atoll} :
    Only [.waits, .atolls] s (State.startStreams s k) := by
  unfold State.startStreams
  repeat' (first
    | with_reducible apply Only.refl
    | (with_reducible apply Only.onStrm; decide)
    | (intro _ h; exact h))

theorem State.sideRead_only {s : State} {k : Atoll} {d kind a n : Nat} :
    Only [.sent, .regs, .irq, .atolls] s (State.sideRead s k d kind a n).2.2.2 := by
  unfold State.sideRead
  dsimp only
  repeat' (first
    | with_reducible apply Only.refl
    | with_reducible assumption
    | (with_reducible apply Only.andThen State.translate_only; decide)
    | (with_reducible apply Only.andThen State.reach_only; decide)
    | (with_reducible apply Only.andThen State.bump_only; decide)
    | (with_reducible apply Only.andThen State.lagSeen_only; decide)
    | (with_reducible apply Only.andThen State.raise_only; decide)
    | (with_reducible apply Only.andThen State.causeway_only; decide)
    | with_reducible apply Only.foldl_snd3
    | intro _ _ _ _ _ _
    | (with_reducible apply Only.snd; assumption)
    | (with_reducible apply Only.snd3; assumption)
    | split)

theorem State.sideWrite_only {s : State} {k : Atoll} {d kind a : Nat} {bs : List Byte} {bad : List Nat} :
    Only [.sent, .regs, .irq, .atolls, .mem] s (State.sideWrite s k d kind a bs bad).2.2 := by
  unfold State.sideWrite
  repeat' (first
    | with_reducible apply Only.refl
    | with_reducible assumption
    | (with_reducible apply Only.andThen State.translate_only; decide)
    | (with_reducible apply Only.andThen State.reach_only; decide)
    | (with_reducible apply Only.andThen State.skiffWrite_only; decide)
    | (with_reducible apply Only.andThen State.atomWrite_only; decide)
    | (with_reducible apply Only.andThen State.poisonAtom_only; decide)
    | (with_reducible apply Only.andThen State.lagWrite_only; decide)
    | (with_reducible apply Only.andThen State.lagFlip_only; decide)
    | (with_reducible apply Only.andThen State.causeway_only; decide)
    | with_reducible apply Only.each
    | with_reducible apply Only.foldl_snd2
    | intro _ _ _ _ _
    | intro _ _
    | (with_reducible apply Only.snd; assumption)
    | (with_reducible apply Only.snd2; assumption)
    | split)

theorem State.streamCount_only {s : State} {k : Atoll} {x : StreamSt} {c : QDelta} :
    Only [.fresh, .regs, .atolls, .mem] s (State.streamCount s k x c) := by
  unfold State.streamCount
  repeat' (first
    | with_reducible apply Only.refl
    | (with_reducible apply Only.andThen State.onStream_only; decide)
    | (with_reducible apply Only.andThen State.qCount_only; decide)
    | (with_reducible apply Only.ite; rotate_left; intro _))

theorem State.rowScale_only {s : State} {k : Atoll} {d r : Nat} :
    Only [.sent, .regs, .irq, .atolls] s (State.rowScale s k d r).2.2.2 := by
  unfold State.rowScale
  repeat' (first
    | with_reducible apply Only.refl
    | (with_reducible apply Only.andThen State.sideRead_only; decide)
    | (with_reducible apply Only.snd3; assumption)
    | split)

theorem State.segConvert_only {s : State} {k : Atoll} {d q r b c : Nat} {xs : List Val} :
    Only [.fresh, .regs, .atolls, .mem] s (State.segConvert s k d q r b c xs).2 := by
  unfold State.segConvert
  repeat' (first
    | with_reducible apply Only.refl
    | (with_reducible apply Only.andThen State.privRange_only; decide)
    | (with_reducible apply Only.andThen State.qMark_only; decide)
    | (with_reducible apply Only.ite; rotate_left; intro _))

theorem State.poisonVa_only {s : State} {k : Atoll} {va : Nat} :
    Only [.regs, .atolls, .mem] s (State.poisonVa s k va) := by
  unfold State.poisonVa
  repeat' (first
    | with_reducible apply Only.refl
    | (with_reducible apply Only.andThen State.translate_only; decide)
    | (with_reducible apply Only.andThen State.poisonAtom_only; decide)
    | (with_reducible apply Only.snd; assumption)
    | split)

theorem State.sideScales_only {s : State} {k : Atoll} {d r b : Nat} {scales : List Nat} {pv : List (Nat × Nat × Nat)} {bad one : List Nat} :
    Only [.sent, .regs, .irq, .atolls, .mem] s (State.sideScales s k d r b scales pv bad one).2 := by
  unfold State.sideScales
  dsimp only
  repeat' (first
    | with_reducible apply Only.refl
    | with_reducible assumption
    | (with_reducible apply Only.andThen State.sideWrite_only; decide)
    | (with_reducible apply Only.andThen State.vPut_only; decide)
    | (with_reducible apply Only.andThen State.poisonVa_only; decide)
    | with_reducible apply Only.foldl
    | intro _ _ _
    | (with_reducible apply Only.snd2; assumption)
    | split)

theorem State.moveSeg_only {s : State} {k : Atoll} {x : StreamSt} {r i0 : Nat} :
    Only [.sent, .fresh, .regs, .irq, .atolls, .mem] s (State.moveSeg s k x r i0).2.2 := by
  unfold State.moveSeg
  dsimp only
  repeat' (first
    | with_reducible apply Only.refl
    | (with_reducible apply Only.andThen State.sideRead_only; decide)
    | (with_reducible apply Only.andThen State.sideWrite_only; decide)
    | (with_reducible apply Only.andThen State.bump_only; decide)
    | (with_reducible apply Only.andThen State.onStream_only; decide)
    | (with_reducible apply Only.andThen State.rowScale_only; decide)
    | (with_reducible apply Only.andThen State.qGet_only; decide)
    | (with_reducible apply Only.andThen State.segConvert_only; decide)
    | (with_reducible apply Only.andThen State.qScout_only; decide)
    | (with_reducible apply Only.andThen State.sideScales_only; decide)
    | (with_reducible apply Only.andThen State.streamCount_only; decide)
    | (with_reducible apply Only.snd; assumption)
    | (with_reducible apply Only.snd3; assumption)
    | split)

theorem State.moveStream_only {s : State} {k : Atoll} {x : StreamSt} :
    Only [.sent, .fresh, .regs, .irq, .atolls, .mem] s (State.moveStream s k x).2.2 := by
  unfold State.moveStream
  repeat' (first
    | with_reducible apply Only.refl
    | with_reducible assumption
    | (with_reducible apply Only.andThen State.moveSeg_only; decide)
    | with_reducible apply Only.foldl_snd2
    | intro _ _ _ _ _
    | (with_reducible apply Only.snd2; assumption)
    | split)

theorem State.finishStream_only {s : State} {k : Atoll} {x : StreamSt} :
    Only [.fresh, .regs, .atolls, .mem] s (State.finishStream s k x) := by
  unfold State.finishStream
  repeat' (first
    | with_reducible apply Only.refl
    | (with_reducible apply Only.andThen State.qFold_only; decide)
    | (with_reducible apply Only.andThen State.onStream_only; decide)
    | (with_reducible apply Only.andThen State.settle_only; decide)
    | split)

theorem State.abortStream_only {s : State} {k : Atoll} {x : StreamSt} {st : Stop} :
    Only [.sent, .regs, .irq, .waits, .atolls] s (State.abortStream s k x st) := by
  unfold State.abortStream
  repeat' (first
    | with_reducible apply Only.refl
    | (with_reducible apply Only.andThen State.abortDetached_only; decide)
    | (with_reducible apply Only.andThen State.voidSlice_only; decide)
    | (with_reducible apply Only.andThen State.abandonHeld_only; decide)
    | (with_reducible apply Only.ite; rotate_left; intro _))

theorem State.stopStream_only {s : State} {k : Atoll} {x : StreamSt} {cursor : Nat} {st : Stop} :
    Only [.sent, .regs, .irq, .waits, .atolls] s (State.stopStream s k x cursor st) := by
  unfold State.stopStream
  dsimp only
  repeat' (first
    | with_reducible apply Only.refl
    | with_reducible assumption
    | (with_reducible apply Only.andThen State.onStream_only; decide)
    | (with_reducible apply Only.andThen State.abortStream_only; decide)
    | (with_reducible apply State.recordFault_only; decide)
    | (with_reducible apply State.assignFaults_only; decide)
    | intro _ _
    | split)

theorem State.runStream_only {s t : State} {k : Atoll} {i e : Nat} {x : StreamSt} {st : Option Stop}
    (h : s.runStream k i = some (x, e, st, t)) : Only [.sent, .fresh, .regs, .irq, .atolls, .mem] s t := by
  unfold State.runStream at h
  dsimp only at h
  repeat' split at h
  all_goals first | cases h | (simp only [Option.some.injEq, Prod.mk.injEq] at h; obtain ⟨-, -, -, rfl⟩ := h)
  · exact Only.refl
  · exact State.moveStream_only

theorem State.completeStream_only {s : State} {k : Atoll} {i : Nat} :
    Only [.sent, .fresh, .regs, .irq, .waits, .atolls, .mem] s (State.completeStream s k i) := by
  unfold State.completeStream
  repeat' (first
    | with_reducible apply Only.refl
    | (with_reducible apply Only.andThen State.finishStream_only; decide)
    | (with_reducible apply Only.andThen State.onStream_only; decide)
    | (with_reducible apply Only.andThen State.stopStream_only; decide)
    | (exact Only.mono (State.runStream_only (by assumption)) (by decide))
    | split)

theorem State.faultStream_only {s : State} {k : Atoll} {i : Nat} :
    Only [.sent, .fresh, .regs, .irq, .waits, .atolls, .mem] s (State.faultStream s k i) := by
  unfold State.faultStream
  repeat' (first
    | with_reducible apply Only.refl
    | (with_reducible apply Only.andThen State.stopStream_only; decide)
    | (exact Only.mono (State.runStream_only (by assumption)) (by decide))
    | split)

theorem State.resumeStream_only {s : State} {k : Atoll} {r : Nat} {x : StreamSt} :
    Only [.sent, .fresh, .regs, .irq, .waits, .atolls, .mem] s (State.resumeStream s k r x) := by
  unfold State.resumeStream
  repeat' (first
    | with_reducible apply Only.refl
    | with_reducible assumption
    | (with_reducible apply Only.andThen State.onFlt_only; decide)
    | (with_reducible apply Only.andThen State.takeDesc_only; decide)
    | (with_reducible apply Only.andThen State.onStream_only; decide)
    | (with_reducible apply Only.andThen State.abortStream_only; decide)
    | (with_reducible apply Only.andThen State.answered_only; decide)
    | (with_reducible apply State.assignFaults_only; decide)
    | (with_reducible apply Only.ite; rotate_left; intro _)
    | intro _ _ _ _)

theorem State.abortRec_only {s : State} {k : Atoll} {r : Nat} {x : StreamSt} :
    Only [.sent, .regs, .irq, .waits, .atolls] s (State.abortRec s k r x) := by
  unfold State.abortRec
  repeat' (first
    | with_reducible apply Only.refl
    | with_reducible assumption
    | (with_reducible apply Only.andThen State.onFlt_only; decide)
    | (with_reducible apply Only.andThen State.abortStream_only; decide)
    | (with_reducible apply Only.andThen State.answered_only; decide)
    | (with_reducible apply State.assignFaults_only; decide)
    | intro _ _ _ _)

theorem State.supply_only {s : State} {k : Atoll} {va frame : Nat} :
    Only [.regs, .atolls, .mem] s (State.supply s k va frame) := by
  unfold State.supply
  repeat' (first
    | with_reducible apply Only.refl
    | (with_reducible apply Only.andThen State.devWrite_only; decide)
    | (with_reducible apply Only.andThen State.putEntry_only; decide)
    | (with_reducible apply Only.andThen State.setFld_only; decide)
    | (with_reducible apply Only.andThen State.bump_only; decide)
    | (with_reducible apply Only.andThen State.invVa_only; decide)
    | split)

theorem State.served_only {s : State} {k : Atoll} {r : Nat} :
    Only [.sent, .fresh, .regs, .irq, .waits, .atolls, .mem] s (State.served s k r) := by
  unfold State.served
  dsimp only
  repeat' (first
    | with_reducible apply Only.refl
    | (with_reducible apply Only.andThen State.poolFrame_only; decide)
    | (with_reducible apply Only.andThen State.supply_only; decide)
    | (with_reducible apply Only.andThen State.raise_only; decide)
    | (with_reducible apply Only.andThen State.resumeStream_only; decide)
    | (with_reducible apply Only.andThen State.abortRec_only; decide)
    | (with_reducible apply Only.snd; assumption)
    | split)

theorem State.strmSelfRule_only {s : State} {k : Atoll} {r : Nat} :
    Only [.sent, .regs, .irq, .waits, .atolls] s (State.strmSelfRule s k r) := by
  unfold State.strmSelfRule
  repeat' (first
    | with_reducible apply Only.refl
    | with_reducible assumption
    | (with_reducible apply Only.andThen State.answered_only; decide)
    | (with_reducible apply Only.andThen State.onFlt_only; decide)
    | (with_reducible apply Only.andThen State.abortStream_only; decide)
    | (with_reducible apply State.selfServe_only; decide)
    | (with_reducible apply State.assignFaults_only; decide)
    | intro _ _
    | split)

theorem State.rewalk_only {s : State} {k : Atoll} {va : Nat} {write : Bool} :
    Only [.regs, .atolls] s (State.rewalk s k va write).2 := by
  unfold State.rewalk
  repeat' (first
    | with_reducible apply Only.refl
    | (with_reducible apply Only.andThen State.translate_only; decide)
    | (with_reducible apply Only.snd; assumption)
    | split)

theorem State.retest_only {s : State} {k : Atoll} :
    Only [.sent, .regs, .irq, .atolls] s (State.retest s k) := by
  unfold State.retest
  repeat' (first
    | with_reducible apply Only.refl
    | (with_reducible apply Only.andThen State.tryOpen_only; decide)
    | (with_reducible apply Only.andThen State.onSeq_only; decide)
    | (with_reducible apply Only.ite; rotate_left; intro _))

theorem State.fltCmd_only {s : State} {k : Atoll} {r cmd : Nat} :
    Only [.sent, .fresh, .regs, .irq, .waits, .atolls, .mem] s (State.fltCmd s k r cmd) := by
  unfold State.fltCmd
  dsimp only
  repeat' (first
    | with_reducible apply Only.refl
    | (with_reducible apply Only.andThen State.resumeStream_only; decide)
    | (with_reducible apply Only.andThen State.abortRec_only; decide)
    | (with_reducible apply Only.andThen State.rewalk_only; decide)
    | (with_reducible apply Only.andThen State.reissue_only; decide)
    | (with_reducible apply Only.andThen State.abandonHeld_only; decide)
    | (with_reducible apply Only.andThen State.retest_only; decide)
    | (with_reducible apply Only.snd; assumption)
    | split)

theorem State.voidSlack_only {s : State} {k : Atoll} :
    Only [.regs, .atolls] s (State.voidSlack s k) := by
  unfold State.voidSlack
  repeat' (first
    | with_reducible apply Only.refl
    | (with_reducible apply Only.andThen State.rewalk_only; decide)
    | (with_reducible apply Only.andThen State.reissue_only; decide)
    | (with_reducible apply Only.andThen State.onSeq_only; decide)
    | (with_reducible apply Only.snd; assumption)
    | split)

theorem State.xlatCmd_only {s : State} {k : Atoll} {v : Nat} :
    Only [.regs, .atolls] s (State.xlatCmd s k v) := by
  unfold State.xlatCmd
  repeat' (first
    | with_reducible apply Only.refl
    | (with_reducible apply Only.andThen State.invVa_only; decide)
    | (with_reducible apply Only.andThen State.invAll_only; decide)
    | (with_reducible apply Only.andThen State.setFld_only; decide)
    | (with_reducible apply Only.ite; rotate_left; intro _))

theorem execStreamIssue_only {k : Atoll} {ctr : BitVec 4} {r : SReg} {detach : Bool} {s : State} :
    OnlyNext [.sent, .fresh, .regs, .irq, .waits, .atolls, .mem] s (execStreamIssue k ctr r detach s) := by
  unfold execStreamIssue
  repeat' (first
    | with_reducible apply Only.refl
    | with_reducible assumption
    | with_reducible apply OnlyNext.next
    | (with_reducible apply Only.andThen State.issueStream_only; decide)
    | (with_reducible apply State.slotIssue_only; decide)
    | (intro _ ht; contradiction)
    | intro _ _)

theorem execStreamWait_only {k : Atoll} {ctr : BitVec 4} {r : SReg} {s : State} :
    OnlyNext [.sent, .regs, .irq, .waits, .atolls] s (execStreamWait k ctr r s) := by
  unfold execStreamWait
  repeat' (first
    | with_reducible apply Only.refl
    | with_reducible apply OnlyNext.next
    | (intro _ h; exact h)
    | (with_reducible apply State.slotIssue_only; decide)
    | (intro _ ht; contradiction))

theorem execFaultServed_only {k : Atoll} {r : FaultIx} {s : State} :
    OnlyNext [.sent, .fresh, .regs, .irq, .waits, .atolls, .mem] s (execFaultServed k r s) := by
  unfold execFaultServed
  repeat' (first
    | with_reducible apply Only.refl
    | with_reducible apply OnlyNext.next
    | (with_reducible apply Only.andThen State.served_only; decide))

theorem execStreamFault_only {k : Atoll} {i : StreamIx} {s : State} :
    OnlyNext [.sent, .fresh, .regs, .irq, .waits, .atolls, .mem] s (execStreamFault k i s) := by
  unfold execStreamFault
  repeat' (first
    | with_reducible apply Only.refl
    | with_reducible apply OnlyNext.next
    | (with_reducible apply Only.andThen State.faultStream_only; decide))

theorem execVoidwaitExpiry_only {k : Atoll} {s : State} :
    OnlyNext [.sent, .regs, .irq, .waits, .atolls] s (execVoidwaitExpiry k s) := by
  unfold execVoidwaitExpiry
  repeat' (first
    | with_reducible apply Only.refl
    | with_reducible apply OnlyNext.next
    | (with_reducible apply Only.andThen State.abandonHeld_only; decide)
    | split)

theorem execSkiffFlush_only {k : Atoll} {s : State} :
    OnlyNext [.atolls, .mem] s (execSkiffFlush k s) := by
  unfold execSkiffFlush
  repeat' (first
    | with_reducible apply Only.refl
    | with_reducible apply OnlyNext.next
    | (with_reducible apply Only.andThen State.skiffFlush_only; decide))

theorem execInvDone_only {k : Atoll} {s : State} :
    OnlyNext [.sent, .regs, .irq] s (execInvDone k s) := by
  unfold execInvDone
  repeat' (first
    | with_reducible apply Only.refl
    | with_reducible apply OnlyNext.next
    | with_reducible apply OnlyNext.ite
    | (with_reducible apply Only.andThen State.setFld_only; decide)
    | (with_reducible apply Only.andThen State.raise_only; decide))

theorem execEditsDone_only {k : Atoll} {s : State} :
    OnlyNext [.sent, .regs, .irq] s (execEditsDone k s) := by
  unfold execEditsDone
  repeat' (first
    | with_reducible apply Only.refl
    | with_reducible apply OnlyNext.next
    | with_reducible apply OnlyNext.ite
    | (with_reducible apply Only.andThen State.setFld_only; decide)
    | (with_reducible apply Only.andThen State.raise_only; decide))

end Sys2Proof.Machine
end

