-- ==== Sys2Proof/Laws/OnlySoundIn.lean ====
section
/-! SUPPORT. What the operations of Machine/SoundIn.lean change (`Only`). -/

namespace Sys2Proof.Machine

theorem State.packetIn_only {P : List Part} {s u : State} {p : PortIx} {h : SoundHdr} {n : Nat} {conn : Bool}
    {f : State → State} (hq : (([.regs] : List Part).all fun p => P.contains p) = true)
    (hf : ∀ v, Only P s v → Only P s (f v)) (hu : Only P s u) : Only P s (u.packetIn p h n conn f) := by
  unfold State.packetIn
  repeat' split
  · exact hu
  · exact Only.andThen State.bump_only hq hu
  · exact Only.andThen State.bump_only hq hu
  · exact hf u hu

theorem State.grantIn_only {s : State} {c : Nat} {h : SoundHdr} :
    Only [.fresh, .regs, .atolls, .ports, .sound, .mem] s (State.grantIn s c h) := by
  unfold State.grantIn
  repeat' (first
    | with_reducible apply Only.refl
    | (with_reducible apply Only.andThen State.ungrant_only; decide)
    | (with_reducible apply Only.andThen State.ctxGet_only; decide)
    | (with_reducible apply Only.andThen State.onCtx_only; decide)
    | (with_reducible apply Only.andThen State.ctxSet_only; decide)
    | (with_reducible apply Only.ite; rotate_left; intro _))

theorem State.carriedIn_only {s : State} {c : Nat} {h : SoundHdr} :
    Only [.sent, .fresh, .regs, .irq, .atolls, .ports, .sound, .mem] s (State.carriedIn s c h) := by
  unfold State.carriedIn
  repeat' (first
    | with_reducible apply Only.refl
    | (with_reducible apply Only.andThen State.grantIn_only; decide)
    | (with_reducible apply Only.andThen State.ackIn_only; decide)
    | (with_reducible apply Only.ite; rotate_left; intro _))

theorem State.ctxFall_only {s : State} {c st : Nat} {status : Option Nat} :
    Only [.sent, .fresh, .regs, .irq, .atolls, .ports, .sound, .mem] s (State.ctxFall s c st status) := by
  unfold State.ctxFall
  repeat' (first
    | with_reducible apply Only.refl
    | (with_reducible apply Only.andThen State.ctxEnd_only; decide)
    | (with_reducible apply Only.andThen State.partnerLost_only; decide)
    | (with_reducible apply Only.andThen State.ownerLost_only; decide)
    | (with_reducible apply Only.ite; rotate_left; intro _))

theorem State.arrived_only {s : State} {c w : Nat} {h : SoundHdr} {user : Nat} :
    Only [.sent, .fresh, .regs, .irq, .atolls, .sound, .mem] s (State.arrived s c w h user) := by
  unfold State.arrived
  dsimp only
  repeat' (first
    | with_reducible apply Only.refl
    | (with_reducible apply Only.andThen State.vWrite_only; decide)
    | (with_reducible apply Only.andThen State.raiseMc_only; decide)
    | (with_reducible apply Only.andThen State.ctxSet_only; decide)
    | (with_reducible apply Only.andThen State.redLanded_only; decide)
    | (with_reducible apply Only.andThen State.vRead_only; decide)
    | (with_reducible apply Only.andThen State.answerReplica_only; decide)
    | (with_reducible apply Only.snd; assumption)
    | split)

theorem State.land_only {s : State} {c : Nat} {h : SoundHdr} {data : List Byte} {user : Nat} :
    Only [.sent, .fresh, .regs, .irq, .atolls, .sound, .mem, .ckpt] s (State.land s c h data user) := by
  unfold State.land
  repeat' (first
    | with_reducible apply Only.refl
    | (with_reducible apply Only.andThen State.ctxGet_only; decide)
    | (with_reducible apply Only.andThen State.bump_only; decide)
    | (with_reducible apply Only.andThen State.vWrite_only; decide)
    | (with_reducible apply Only.andThen State.onCtx_only; decide)
    | (with_reducible apply Only.andThen State.ctxSet_only; decide)
    | (with_reducible apply Only.andThen State.arrived_only; decide)
    | (with_reducible apply Only.andThen State.causeway_only; decide)
    | (with_reducible apply Only.andThen State.partLand_only; decide)
    | (with_reducible apply Only.ite; rotate_left; intro _))

theorem State.stage_only {s : State} {p : PortIx} {c : Nat} {h : SoundHdr} {data : List Byte} {user : Nat} :
    Only [.sent, .fresh, .regs, .irq, .atolls, .sound, .mem, .ckpt] s (State.stage s p c h data user) := by
  unfold State.stage
  repeat' (first
    | with_reducible apply Only.refl
    | (with_reducible apply Only.andThen State.bump_only; decide)
    | (with_reducible apply Only.andThen State.onCtx_only; decide)
    | (with_reducible apply Only.andThen State.land_only; decide)
    | (with_reducible apply Only.ite; rotate_left; intro _)
    | fail_if_no_progress (with_reducible apply Only.andThen Only.sound; decide))

theorem State.landLater_only {s : State} :
    Only [.sent, .fresh, .regs, .irq, .atolls, .sound, .mem, .ckpt] s (State.landLater s) := by
  unfold State.landLater
  repeat' (first
    | with_reducible apply Only.refl
    | (with_reducible apply Only.andThen State.land_only; decide)
    | with_reducible apply Only.each
    | intro _ _
    | fail_if_no_progress (with_reducible apply Only.andThen Only.sound; decide))

theorem State.dataInOrder_only {s : State} {p : PortIx} {c : Nat} {h : SoundHdr} {data : List Byte} {user : Nat} :
    Only [.sent, .fresh, .regs, .irq, .waits, .atolls, .ports, .sound, .mem, .ckpt] s (State.dataInOrder s p c h data user) := by
  unfold State.dataInOrder
  repeat' (first
    | with_reducible apply Only.refl
    | (with_reducible apply Only.andThen State.ctxGet_only; decide)
    | (with_reducible apply Only.andThen State.sendPkt_only; decide)
    | (with_reducible apply Only.andThen State.ctxSet_only; decide)
    | (with_reducible apply Only.andThen State.stage_only; decide)
    | (with_reducible apply Only.andThen State.ctxFall_only; decide)
    | (with_reducible apply Only.ite; rotate_left; intro _))

theorem State.dataServed_only {s : State} {p : PortIx} {c : Nat} {h : SoundHdr} {data : List Byte} {user : Nat} :
    Only [.sent, .fresh, .regs, .irq, .waits, .atolls, .ports, .sound, .mem, .ckpt] s (State.dataServed s p c h data user) := by
  unfold State.dataServed
  repeat' (first
    | with_reducible apply Only.refl
    | (with_reducible apply Only.andThen State.ctxGet_only; decide)
    | (with_reducible apply Only.andThen State.sendPkt_only; decide)
    | (with_reducible apply Only.andThen State.stage_only; decide)
    | (with_reducible apply Only.andThen State.ctxFall_only; decide)
    | (with_reducible apply Only.ite; rotate_left; intro _))

theorem State.dataIn_only {s : State} {p : PortIx} {h : SoundHdr} {payload : List Byte} {user : Nat} :
    Only [.sent, .fresh, .regs, .irq, .waits, .atolls, .ports, .sound, .mem, .ckpt] s (State.dataIn s p h payload user) := by
  unfold State.dataIn
  repeat' (first
    | with_reducible apply Only.refl
    | (with_reducible apply Only.andThen State.ctxGet_only; decide)
    | (with_reducible apply Only.andThen State.dataServed_only; decide)
    | (with_reducible apply Only.andThen State.carriedIn_only; decide)
    | (with_reducible apply Only.andThen State.ctxSet_only; decide)
    | (with_reducible apply Only.andThen State.dataInOrder_only; decide)
    | (with_reducible apply Only.andThen State.answer_only; decide)
    | (with_reducible apply Only.ite; rotate_left; intro _))

theorem State.memberAck_only {s : State} {c key msg : Nat} :
    Only [.sound] s (State.memberAck s c key msg) := by
  unfold State.memberAck
  repeat' (first
    | with_reducible apply Only.refl
    | (with_reducible apply Only.andThen State.onCtx_only; decide)
    | (with_reducible apply Only.ite; rotate_left; intro _))

theorem State.serveCopies_only {s : State} {c key : Nat} {ms : List SoundMsg} :
    Only [.sound] s (State.serveCopies s c key ms) := by
  unfold State.serveCopies
  repeat' (first
    | with_reducible apply Only.refl
    | (with_reducible apply Only.andThen State.onCtx_only; decide))

theorem State.askServer_only {s : State} {c key : Nat} :
    Only [.sent, .fresh, .regs, .irq, .waits, .atolls, .ports, .sound, .mem] s (State.askServer s c key) := by
  unfold State.askServer
  dsimp only
  repeat' (first
    | with_reducible apply Only.refl
    | with_reducible assumption
    | (with_reducible apply Only.andThen State.onCtx_only; decide)
    | (with_reducible apply Only.andThen State.sendTo_only; decide)
    | (with_reducible apply Only.andThen State.serveCopies_only; decide)
    | (with_reducible apply Only.andThen State.unserved_only; decide)
    | with_reducible apply Only.foldl
    | intro _ _ _
    | split)

theorem State.catchupSlack_only {s : State} {c : Nat} :
    Only [.sent, .fresh, .regs, .irq, .waits, .atolls, .ports, .sound, .mem] s (State.catchupSlack s c) := by
  unfold State.catchupSlack
  dsimp only
  repeat' (first
    | with_reducible apply Only.refl
    | with_reducible assumption
    | (with_reducible apply Only.andThen State.onCtx_only; decide)
    | (with_reducible apply Only.andThen State.sendTo_only; decide)
    | (with_reducible apply Only.andThen State.ackTo_only; decide)
    | (with_reducible apply Only.andThen State.askServer_only; decide)
    | (with_reducible apply Only.andThen State.memberAck_only; decide)
    | (with_reducible apply Only.andThen State.bump_only; decide)
    | (with_reducible apply Only.andThen State.raise_only; decide)
    | with_reducible apply Only.foldl
    | intro _ _ _
    | split)

theorem State.groupsSlack_only {s : State} :
    Only [.sent, .fresh, .regs, .irq, .waits, .atolls, .ports, .sound, .mem] s (State.groupsSlack s) := by
  unfold State.groupsSlack
  repeat' (first
    | with_reducible apply Only.refl
    | with_reducible assumption
    | (with_reducible apply Only.andThen State.catchupSlack_only; decide)
    | with_reducible apply Only.each
    | intro _ _ _)

theorem State.laggedIn_only {s : State} {p : PortIx} {c first : Nat} :
    Only [.sent, .fresh, .regs, .irq, .waits, .atolls, .ports, .sound, .mem] s (State.laggedIn s p c first) := by
  unfold State.laggedIn
  repeat' (first
    | with_reducible apply Only.refl
    | with_reducible assumption
    | (with_reducible apply Only.andThen State.ctxGet_only; decide)
    | (with_reducible apply Only.andThen State.ctxSet_only; decide)
    | (with_reducible apply Only.andThen State.raiseMc_only; decide)
    | (with_reducible apply Only.andThen State.raise_only; decide)
    | (with_reducible apply Only.andThen State.onCtx_only; decide)
    | (with_reducible apply Only.andThen State.sendPkt_only; decide)
    | with_reducible apply Only.foldl
    | (with_reducible apply Only.ite; rotate_left; intro _)
    | intro _ _ _)

theorem State.serveIn_only {s : State} {p : PortIx} {h : SoundHdr} {member : Nat} :
    Only [.sent, .fresh, .regs, .irq, .waits, .atolls, .ports, .sound, .mem] s (State.serveIn s p h member) := by
  unfold State.serveIn
  dsimp only
  repeat' (first
    | with_reducible apply Only.refl
    | (with_reducible apply Only.andThen State.ctxGet_only; decide)
    | (with_reducible apply Only.andThen State.answer_only; decide)
    | (with_reducible apply Only.andThen State.serveCopies_only; decide)
    | split)

theorem State.notReadyTo_only {s : State} {p : PortIx} {h : SoundHdr} :
    Only [.sent, .fresh, .regs, .irq, .waits, .atolls, .ports, .sound, .mem] s (State.notReadyTo s p h) := by
  unfold State.notReadyTo
  repeat' (first
    | with_reducible apply Only.refl
    | (with_reducible apply Only.andThen State.answer_only; decide)
    | (with_reducible apply Only.andThen State.bump_only; decide))

theorem State.refuseTo_only {s : State} {p : PortIx} {h : SoundHdr} {cause : Nat} :
    Only [.sent, .fresh, .regs, .irq, .waits, .atolls, .ports, .sound, .mem] s (State.refuseTo s p h cause) := by
  unfold State.refuseTo
  repeat' (first
    | with_reducible apply Only.refl
    | (with_reducible apply Only.andThen State.answer_only; decide)
    | (with_reducible apply Only.andThen State.bump_only; decide))

theorem State.acceptTo_only {s : State} {a : Admission} :
    Only [.sent, .fresh, .regs, .irq, .waits, .atolls, .ports, .sound, .mem] s (State.acceptTo s a) := by
  unfold State.acceptTo
  repeat' (first
    | with_reducible apply Only.refl
    | (with_reducible apply Only.andThen State.onCtx_only; decide)
    | (with_reducible apply Only.andThen State.ctxSet_only; decide)
    | (with_reducible apply Only.andThen State.grant_only; decide)
    | (with_reducible apply Only.andThen State.sendPkt_only; decide)
    | (with_reducible apply Only.andThen State.bump_only; decide)
    | fail_if_no_progress (with_reducible apply Only.andThen Only.sound; decide))

theorem State.admitAs_only {s : State} {w : Nat} {a : Admission} :
    Only [.sent, .fresh, .regs, .irq, .waits, .atolls, .ports, .sound, .mem] s (State.admitAs s w a) := by
  unfold State.admitAs
  repeat' (first
    | with_reducible apply Only.refl
    | (with_reducible apply Only.andThen State.refuseTo_only; decide)
    | (with_reducible apply Only.andThen State.notReadyTo_only; decide)
    | (with_reducible apply Only.andThen State.acceptTo_only; decide)
    | (with_reducible apply Only.ite; rotate_left; intro _))

theorem State.admitNow_only {s : State} {a : Admission} :
    Only [.sent, .fresh, .regs, .irq, .waits, .atolls, .ports, .sound, .mem] s (State.admitNow s a) := by
  unfold State.admitNow
  dsimp only
  repeat' (first
    | with_reducible apply Only.refl
    | (with_reducible apply Only.andThen State.ctxGet_only; decide)
    | (with_reducible apply Only.andThen State.admitAs_only; decide))

theorem State.connectIn_only {s : State} {a : Admission} :
    Only [.sent, .fresh, .regs, .irq, .waits, .atolls, .ports, .sound, .mem] s (State.connectIn s a) := by
  unfold State.connectIn
  repeat' (first
    | with_reducible apply Only.refl
    | (with_reducible apply Only.andThen State.notReadyTo_only; decide)
    | (with_reducible apply Only.andThen State.refuseTo_only; decide)
    | (with_reducible apply Only.andThen State.ctxGet_only; decide)
    | (with_reducible apply Only.andThen State.admitAs_only; decide)
    | (with_reducible apply Only.andThen State.raise_only; decide)
    | (with_reducible apply Only.andThen State.awaitHost_only; decide)
    | (with_reducible apply Only.ite; rotate_left; intro _)
    | fail_if_no_progress (with_reducible apply Only.andThen Only.sound; decide))

theorem State.admitPop_only {s : State} :
    Only [.waits, .sound] s (State.admitPop s).2 := by
  unfold State.admitPop
  repeat' (first
    | with_reducible apply Only.refl
    | (with_reducible apply Only.andThen State.answered_only; decide)
    | split
    | fail_if_no_progress (with_reducible apply Only.andThen Only.sound; decide))

theorem State.admitCmd_only {s : State} {cmd : Nat} :
    Only [.sent, .fresh, .regs, .irq, .waits, .atolls, .ports, .sound, .mem] s (State.admitCmd s cmd) := by
  unfold State.admitCmd
  repeat' (first
    | with_reducible apply Only.refl
    | (with_reducible apply Only.andThen State.admitPop_only; decide)
    | (with_reducible apply Only.andThen State.admitNow_only; decide)
    | (with_reducible apply Only.andThen State.refuseTo_only; decide)
    | (with_reducible apply Only.andThen State.notReadyTo_only; decide)
    | (with_reducible apply Only.snd; assumption)
    | split)

theorem State.admitFallback_only {s : State} {c : Nat} :
    Only [.sent, .fresh, .regs, .irq, .waits, .atolls, .ports, .sound, .mem] s (State.admitFallback s c) := by
  unfold State.admitFallback
  repeat' (first
    | with_reducible apply Only.refl
    | (with_reducible apply Only.andThen State.admitNow_only; decide)
    | split
    | fail_if_no_progress (with_reducible apply Only.andThen Only.sound; decide))

theorem State.acceptIn_only {s : State} {p : PortIx} {h : SoundHdr} :
    Only [.sent, .fresh, .regs, .irq, .waits, .atolls, .ports, .sound, .mem] s (State.acceptIn s p h) := by
  unfold State.acceptIn
  repeat' (first
    | with_reducible apply Only.refl
    | (with_reducible apply Only.andThen State.ctxGet_only; decide)
    | (with_reducible apply Only.andThen State.onCtx_only; decide)
    | (with_reducible apply Only.andThen State.ctxSet_only; decide)
    | (with_reducible apply Only.andThen State.grant_only; decide)
    | (with_reducible apply Only.andThen State.carriedIn_only; decide)
    | (with_reducible apply Only.andThen State.answer_only; decide)
    | (with_reducible apply Only.andThen State.sendPkt_only; decide)
    | (with_reducible apply Only.ite; rotate_left; intro _))

theorem State.refuseIn_only {s : State} {p : PortIx} {h : SoundHdr} :
    Only [.sent, .fresh, .regs, .irq, .waits, .atolls, .ports, .sound, .mem] s (State.refuseIn s p h) := by
  unfold State.refuseIn
  repeat' (first
    | with_reducible apply Only.refl
    | with_reducible assumption
    | (with_reducible apply Only.andThen State.ctxGet_only; decide)
    | (with_reducible apply Only.andThen State.ctxFall_only; decide)
    | (with_reducible apply Only.andThen State.askServer_only; decide)
    | (with_reducible apply Only.andThen State.answer_only; decide)
    | with_reducible apply Only.each
    | (with_reducible apply Only.ite; rotate_left; intro _)
    | intro _ _ _)

theorem State.notReadyIn_only {s : State} {p : PortIx} {h : SoundHdr} :
    Only [.sent, .fresh, .regs, .irq, .waits, .atolls, .ports, .sound, .mem] s (State.notReadyIn s p h) := by
  unfold State.notReadyIn
  repeat' (first
    | with_reducible apply Only.refl
    | (with_reducible apply Only.andThen State.ctxGet_only; decide)
    | (with_reducible apply Only.andThen State.onCtx_only; decide)
    | (with_reducible apply Only.andThen State.answer_only; decide)
    | (with_reducible apply Only.ite; rotate_left; intro _))

theorem State.whenOpen_only {P : List Part} {s u : State} {p : PortIx} {h : SoundHdr} {f : State → State}
    (hq : (([.sent, .fresh, .regs, .irq, .waits, .atolls, .ports, .sound, .mem] : List Part).all fun p => P.contains p) = true)
    (hf : ∀ v, Only P s v → Only P s (f v)) (hu : Only P s u) : Only P s (u.whenOpen p h f) := by
  have hs : Only P s (u.ctxGet h.dst.toNat).2 :=
    Only.andThen (Only.mono State.ctxGet_only (by decide : (_ : List Part).all (fun p => ([.sent, .fresh, .regs, .irq, .waits, .atolls, .ports, .sound, .mem] : List Part).contains p) = true)) hq hu
  unfold State.whenOpen
  dsimp only
  split
  · exact hf _ hs
  · exact Only.andThen (Only.mono State.answer_only (by decide : (_ : List Part).all (fun p => ([.sent, .fresh, .regs, .irq, .waits, .atolls, .ports, .sound, .mem] : List Part).contains p) = true)) hq hs

theorem State.nakIn_only {s : State} {h : SoundHdr} :
    Only [.sent, .fresh, .regs, .irq, .waits, .atolls, .ports, .sound, .mem] s (State.nakIn s h) := by
  unfold State.nakIn
  repeat' (first
    | with_reducible apply Only.refl
    | (with_reducible apply Only.andThen State.ctxFall_only; decide)
    | (with_reducible apply Only.andThen State.carriedIn_only; decide)
    | (with_reducible apply Only.andThen State.resendPkts_only; decide)
    | (with_reducible apply Only.ite; rotate_left; intro _))

theorem State.ackPktIn_only {s : State} {h : SoundHdr} :
    Only [.sent, .fresh, .regs, .irq, .atolls, .ports, .sound, .mem] s (State.ackPktIn s h) := by
  unfold State.ackPktIn
  repeat' (first
    | with_reducible apply Only.refl
    | (with_reducible apply Only.andThen State.grantIn_only; decide)
    | (with_reducible apply Only.andThen State.carriedIn_only; decide)
    | (with_reducible apply Only.andThen State.memberAck_only; decide)
    | (with_reducible apply Only.ite; rotate_left; intro _))

theorem State.resetIn_only {s : State} {c : Nat} :
    Only [.sent, .fresh, .regs, .irq, .atolls, .ports, .sound, .mem] s (State.resetIn s c) := by
  unfold State.resetIn
  repeat' (first
    | with_reducible apply Only.refl
    | (with_reducible apply Only.andThen State.ctxGet_only; decide)
    | (with_reducible apply Only.andThen State.ctxFall_only; decide)
    | (with_reducible apply Only.ite; rotate_left; intro _))

theorem State.ctxCmd_only {s : State} {c cmd : Nat} :
    Only [.sent, .fresh, .regs, .irq, .waits, .atolls, .ports, .sound, .mem] s (State.ctxCmd s c cmd) := by
  unfold State.ctxCmd
  repeat' (first
    | with_reducible apply Only.refl
    | (with_reducible apply Only.andThen State.ctxOpen_only; decide)
    | (with_reducible apply Only.andThen State.sendPkt_only; decide)
    | (with_reducible apply Only.andThen State.ctxFall_only; decide)
    | (with_reducible apply Only.ite; rotate_left; intro _))

theorem State.retxTimeout_only {s : State} {c : Nat} :
    Only [.sent, .fresh, .now, .regs, .irq, .waits, .tide, .atolls, .ports, .sound, .mem, .pwr, .rst] s (State.retxTimeout s c) := by
  unfold State.retxTimeout
  dsimp only
  repeat' (first
    | with_reducible apply Only.refl
    | (with_reducible apply Only.andThen State.ctxGet_only; decide)
    | (with_reducible apply Only.optThen State.runTo_only; decide; with_reducible assumption)
    | (with_reducible apply Only.andThen State.ctxSet_only; decide)
    | (with_reducible apply Only.andThen State.ctxFall_only; decide)
    | (with_reducible apply Only.andThen State.raise_only; decide)
    | (with_reducible apply Only.andThen State.resendPkts_only; decide)
    | split)

theorem State.drainCtx_only {s : State} {p : PortIx} {c : Nat} :
    Only [.sent, .fresh, .regs, .irq, .waits, .atolls, .ports, .sound, .mem] s (State.drainCtx s p c) := by
  unfold State.drainCtx
  repeat' (first
    | with_reducible apply Only.refl
    | (with_reducible apply Only.andThen State.onPort_only; decide)
    | (with_reducible apply Only.andThen State.onCtx_only; decide)
    | (with_reducible apply Only.andThen State.ungrant_only; decide)
    | (with_reducible apply Only.andThen State.grant_only; decide)
    | (with_reducible apply Only.andThen State.sendPkt_only; decide)
    | split)

theorem State.soundReady_only {s : State} :
    Only [.fresh, .regs, .atolls, .sound, .mem] s (State.soundReady s) := by
  unfold State.soundReady
  repeat' (first
    | with_reducible apply Only.refl
    | with_reducible assumption
    | (with_reducible apply Only.andThen State.setFld_only; decide)
    | (with_reducible apply Only.andThen State.ctxSet_only; decide)
    | with_reducible apply Only.each
    | (with_reducible apply Only.ite; rotate_left; intro _)
    | intro _ _ _)

theorem State.soundIn_only {s : State} {p : PortIx} {kind : Nat} {h : SoundHdr} {payload : List Byte} {user : Nat} {offboard : Bool} {ip : Nat} :
    Only [.sent, .fresh, .regs, .irq, .waits, .atolls, .ports, .sound, .mem, .ckpt] s (State.soundIn s p kind h payload user offboard ip) := by
  unfold State.soundIn
  repeat' (first
    | with_reducible apply Only.refl
    | with_reducible assumption
    | (with_reducible apply Only.andThen State.dataIn_only; decide)
    | (with_reducible apply Only.andThen State.ackPktIn_only; decide)
    | (with_reducible apply Only.andThen State.nakIn_only; decide)
    | (with_reducible apply Only.andThen State.connectIn_only; decide)
    | (with_reducible apply Only.andThen State.acceptIn_only; decide)
    | (with_reducible apply Only.andThen State.refuseIn_only; decide)
    | (with_reducible apply Only.andThen State.notReadyIn_only; decide)
    | (with_reducible apply Only.andThen State.ctxFall_only; decide)
    | (with_reducible apply Only.andThen State.resetIn_only; decide)
    | (with_reducible apply Only.andThen State.laggedIn_only; decide)
    | (with_reducible apply Only.andThen State.serveIn_only; decide)
    | (with_reducible apply Only.andThen State.bump_only; decide)
    | (with_reducible apply State.packetIn_only; decide)
    | (with_reducible apply State.whenOpen_only; decide)
    | intro _ _
    | split)

theorem State.packetBytes_only {s : State} {p : PortIx} {bs : List Byte} {offboard : Bool} {ip : Nat} {dst : Option (List Nat)} :
    Only [.sent, .fresh, .regs, .irq, .waits, .atolls, .ports, .sound, .mem, .ckpt] s (State.packetBytes s p bs offboard ip dst) := by
  unfold State.packetBytes
  repeat' (first
    | with_reducible apply Only.refl
    | (with_reducible apply Only.andThen State.fresh_only; decide)
    | (with_reducible apply Only.andThen State.soundIn_only; decide)
    | with_reducible apply Only.each
    | intro _ _
    | split)

theorem execSoundData_only {port : PortIx} {h : SoundHdr} {payload : List Byte} {user : Word32} {s : State} :
    OnlyNext [.sent, .fresh, .regs, .irq, .waits, .atolls, .ports, .sound, .mem, .ckpt] s (execSoundData port h payload user s) := by
  unfold execSoundData
  repeat' (first
    | with_reducible apply Only.refl
    | with_reducible apply OnlyNext.next
    | (with_reducible apply Only.andThen State.soundIn_only; decide))

theorem execAck_only {port : PortIx} {h : SoundHdr} {s : State} :
    OnlyNext [.sent, .fresh, .regs, .irq, .waits, .atolls, .ports, .sound, .mem, .ckpt] s (execAck port h s) := by
  unfold execAck
  repeat' (first
    | with_reducible apply Only.refl
    | with_reducible apply OnlyNext.next
    | (with_reducible apply Only.andThen State.soundIn_only; decide))

theorem execSoundNak_only {port : PortIx} {h : SoundHdr} {s : State} :
    OnlyNext [.sent, .fresh, .regs, .irq, .waits, .atolls, .ports, .sound, .mem, .ckpt] s (execSoundNak port h s) := by
  unfold execSoundNak
  repeat' (first
    | with_reducible apply Only.refl
    | with_reducible apply OnlyNext.next
    | (with_reducible apply Only.andThen State.soundIn_only; decide))

theorem execConnect_only {port : PortIx} {h : SoundHdr} {offboard : Bool} {ip : BitVec 128} {s : State} :
    OnlyNext [.sent, .fresh, .regs, .irq, .waits, .atolls, .ports, .sound, .mem, .ckpt] s (execConnect port h offboard ip s) := by
  unfold execConnect
  repeat' (first
    | with_reducible apply Only.refl
    | with_reducible apply OnlyNext.next
    | (with_reducible apply Only.andThen State.soundIn_only; decide))

theorem execAccept_only {port : PortIx} {h : SoundHdr} {s : State} :
    OnlyNext [.sent, .fresh, .regs, .irq, .waits, .atolls, .ports, .sound, .mem, .ckpt] s (execAccept port h s) := by
  unfold execAccept
  repeat' (first
    | with_reducible apply Only.refl
    | with_reducible apply OnlyNext.next
    | (with_reducible apply Only.andThen State.soundIn_only; decide))

theorem execRefuse_only {port : PortIx} {h : SoundHdr} {s : State} :
    OnlyNext [.sent, .fresh, .regs, .irq, .waits, .atolls, .ports, .sound, .mem, .ckpt] s (execRefuse port h s) := by
  unfold execRefuse
  repeat' (first
    | with_reducible apply Only.refl
    | with_reducible apply OnlyNext.next
    | (with_reducible apply Only.andThen State.soundIn_only; decide))

theorem execNotReady_only {port : PortIx} {h : SoundHdr} {s : State} :
    OnlyNext [.sent, .fresh, .regs, .irq, .waits, .atolls, .ports, .sound, .mem, .ckpt] s (execNotReady port h s) := by
  unfold execNotReady
  repeat' (first
    | with_reducible apply Only.refl
    | with_reducible apply OnlyNext.next
    | (with_reducible apply Only.andThen State.soundIn_only; decide))

theorem execClose_only {port : PortIx} {h : SoundHdr} {s : State} :
    OnlyNext [.sent, .fresh, .regs, .irq, .waits, .atolls, .ports, .sound, .mem, .ckpt] s (execClose port h s) := by
  unfold execClose
  repeat' (first
    | with_reducible apply Only.refl
    | with_reducible apply OnlyNext.next
    | (with_reducible apply Only.andThen State.soundIn_only; decide))

theorem execReset_only {port : PortIx} {h : SoundHdr} {s : State} :
    OnlyNext [.sent, .fresh, .regs, .irq, .waits, .atolls, .ports, .sound, .mem, .ckpt] s (execReset port h s) := by
  unfold execReset
  repeat' (first
    | with_reducible apply Only.refl
    | with_reducible apply OnlyNext.next
    | (with_reducible apply Only.andThen State.soundIn_only; decide))

theorem execLagged_only {port : PortIx} {h : SoundHdr} {s : State} :
    OnlyNext [.sent, .fresh, .regs, .irq, .waits, .atolls, .ports, .sound, .mem, .ckpt] s (execLagged port h s) := by
  unfold execLagged
  repeat' (first
    | with_reducible apply Only.refl
    | with_reducible apply OnlyNext.next
    | (with_reducible apply Only.andThen State.soundIn_only; decide))

theorem execServe_only {port : PortIx} {h : SoundHdr} {member : CtxNo} {s : State} :
    OnlyNext [.sent, .fresh, .regs, .irq, .waits, .atolls, .ports, .sound, .mem, .ckpt] s (execServe port h member s) := by
  unfold execServe
  repeat' (first
    | with_reducible apply Only.refl
    | with_reducible apply OnlyNext.next
    | (with_reducible apply Only.andThen State.soundIn_only; decide))

theorem execDataFlit_only {port : BPort} {peer : Word64} {t : Trailer} {body : List Byte} {s : State} :
    OnlyNext [.sent, .fresh, .regs, .irq, .waits, .atolls, .ports, .sound, .mem, .ckpt] s (execDataFlit port peer t body s) := by
  unfold execDataFlit
  repeat' (first
    | with_reducible apply Only.refl
    | with_reducible apply OnlyNext.next
    | (with_reducible apply Only.andThen State.dataFlitIn_only; decide)
    | (with_reducible apply Only.andThen State.packetBytes_only; decide)
    | (with_reducible apply Only.snd; assumption)
    | split)

theorem execFrame_only {port : PortIx} {f : Frame} {s : State} :
    OnlyNext [.sent, .fresh, .regs, .irq, .waits, .atolls, .ports, .sound, .mem, .ckpt] s (execFrame port f s) := by
  unfold execFrame
  repeat' (first
    | with_reducible apply Only.refl
    | (with_reducible apply Only.andThen State.frameIn_only; decide)
    | (with_reducible apply Only.andThen State.packetBytes_only; decide)
    | with_reducible apply onFabric_only
    | (with_reducible apply Only.snd; assumption)
    | split)

theorem execStagingDrain_only {port : PortIx} {c : CtxNo} {s : State} :
    OnlyNext [.sent, .fresh, .regs, .irq, .waits, .atolls, .ports, .sound, .mem] s (execStagingDrain port c s) := by
  unfold execStagingDrain
  repeat' (first
    | with_reducible apply Only.refl
    | with_reducible apply OnlyNext.next
    | (with_reducible apply Only.andThen State.drainCtx_only; decide))

theorem execRetransmitTimeout_only {c : CtxNo} {s : State} :
    OnlyNext [.sent, .fresh, .now, .regs, .irq, .waits, .tide, .atolls, .ports, .sound, .mem, .pwr, .rst] s (execRetransmitTimeout c s) := by
  unfold execRetransmitTimeout
  repeat' (first
    | with_reducible apply Only.refl
    | with_reducible apply OnlyNext.next
    | with_reducible apply OnlyNext.ite
    | (with_reducible apply Only.andThen State.retxTimeout_only; decide))

theorem execStreamComplete_only {k : Atoll} {i : StreamIx} {s : State} :
    OnlyNext [.sent, .fresh, .regs, .irq, .waits, .atolls, .sound, .mem] s (execStreamComplete k i s) := by
  unfold execStreamComplete
  repeat' (first
    | with_reducible apply Only.refl
    | with_reducible apply OnlyNext.next
    | (with_reducible apply Only.andThen State.sendBytes_only; decide)
    | (with_reducible apply Only.andThen State.finishStream_only; decide)
    | (with_reducible apply Only.andThen State.completeStream_only; decide)
    | (exact Only.mono (State.runStream_only (by assumption)) (by decide))
    | split)

end Sys2Proof.Machine
end

