-- ==== Sys2Proof/Laws/OnlyCheckpoint.lean ====
section
/-! SUPPORT. What the operations of Machine/Checkpoint.lean change (`Only`). -/

namespace Sys2Proof.Machine

theorem State.onCkpt_only {s : State} {f : CkptSt → CkptSt} :
    Only [.ckpt] s (State.onCkpt s f) := by
  unfold State.onCkpt
  repeat' (first
    | with_reducible apply Only.refl
    | fail_if_no_progress (with_reducible apply Only.andThen Only.ckpt; decide))

theorem State.layerFail_only {s : State} {l : Nat} :
    Only [.sent, .regs, .irq, .ckpt] s (State.layerFail s l) := by
  unfold State.layerFail
  repeat' (first
    | with_reducible apply Only.refl
    | (with_reducible apply Only.andThen State.onCkpt_only; decide)
    | (with_reducible apply Only.andThen State.layerEnd_only; decide)
    | split)

theorem State.failLayers_only {s : State} :
    Only [.sent, .regs, .irq, .ckpt] s (State.failLayers s) := by
  unfold State.failLayers
  repeat' (first
    | with_reducible apply Only.refl
    | with_reducible assumption
    | (with_reducible apply Only.andThen State.layerFail_only; decide)
    | with_reducible apply Only.each
    | intro _ _ _)

theorem State.dropLayers_only {s : State} :
    Only [.sent, .regs, .irq, .ckpt] s (State.dropLayers s) := by
  unfold State.dropLayers
  repeat' (first
    | with_reducible apply Only.refl
    | (with_reducible apply Only.andThen State.failLayers_only; decide)
    | (with_reducible apply Only.andThen State.onCkpt_only; decide)
    | (with_reducible apply Only.andThen State.setFld_only; decide)
    | (with_reducible apply Only.andThen State.layerEnd_only; decide)
    | (with_reducible apply Only.ite; rotate_left; intro _))

theorem State.setPartner_only {s : State} {host : Bool} {o : Option Nat} :
    Only [.regs, .ckpt] s (State.setPartner s host o) := by
  unfold State.setPartner
  repeat' (first
    | with_reducible apply Only.refl
    | (with_reducible apply Only.andThen State.onCkpt_only; decide)
    | (with_reducible apply Only.andThen State.setFld_only; decide)
    | split)

theorem State.choosePartner_only {s : State} :
    Only [.sent, .regs, .irq, .waits, .ckpt] s (State.choosePartner s) := by
  unfold State.choosePartner
  dsimp only
  repeat' (first
    | with_reducible apply Only.refl
    | (with_reducible apply Only.andThen State.setPartner_only; decide)
    | (with_reducible apply Only.andThen State.onCkpt_only; decide)
    | (with_reducible apply Only.andThen State.raise_only; decide)
    | (with_reducible apply Only.andThen State.awaitHost_only; decide)
    | split
    | fail_if_no_progress (with_reducible apply Only.andThen Only.waits; decide))

theorem State.sendShares_only {s : State} {c : Nat} :
    Only [.sent, .fresh, .regs, .irq, .atolls, .sound, .mem] s (State.sendShares s c) := by
  unfold State.sendShares
  repeat' (first
    | with_reducible apply Only.refl
    | with_reducible assumption
    | (with_reducible apply Only.andThen State.sendBytes_only; decide)
    | with_reducible apply Only.each
    | intro _ _ _)

theorem State.startLayer_only {s : State} {l : Nat} :
    Only [.sent, .fresh, .regs, .irq, .atolls, .sound, .mem, .ckpt] s (State.startLayer s l) := by
  unfold State.startLayer
  dsimp only
  repeat' (first
    | with_reducible apply Only.refl
    | (with_reducible apply Only.andThen State.setFld_only; decide)
    | (with_reducible apply Only.andThen State.onCkpt_only; decide)
    | (with_reducible apply Only.andThen State.sendShares_only; decide)
    | (with_reducible apply Only.andThen State.layerFail_only; decide)
    | (with_reducible apply Only.andThen State.emits_only; decide)
    | (with_reducible apply Only.andThen State.trickle_only; decide)
    | (with_reducible apply Only.andThen State.raiseIf_only; decide)
    | split)

theorem State.startLayers_only {s : State} :
    Only [.sent, .fresh, .regs, .irq, .atolls, .sound, .mem, .ckpt] s (State.startLayers s) := by
  unfold State.startLayers
  repeat' (first
    | with_reducible apply Only.refl
    | with_reducible assumption
    | (with_reducible apply Only.andThen State.startLayer_only; decide)
    | with_reducible apply Only.each
    | (with_reducible apply Only.ite; rotate_left; intro _)
    | intro _ _ _)

theorem State.layerCmd_only {s : State} {l : Nat} :
    Only [.sent, .fresh, .regs, .irq, .waits, .atolls, .sound, .mem, .ckpt] s (State.layerCmd s l) := by
  unfold State.layerCmd
  repeat' (first
    | with_reducible apply Only.refl
    | (with_reducible apply Only.andThen State.answered_only; decide)
    | (with_reducible apply Only.andThen State.startLayer_only; decide)
    | (with_reducible apply Only.ite; rotate_left; intro _))

theorem State.layerDone_only {s : State} {l : Nat} {ok : Bool} :
    Only [.sent, .regs, .irq, .ckpt] s (State.layerDone s l ok) := by
  unfold State.layerDone
  repeat' (first
    | with_reducible apply Only.refl
    | (with_reducible apply Only.andThen State.layerFail_only; decide)
    | (with_reducible apply Only.andThen State.onCkpt_only; decide)
    | (with_reducible apply Only.andThen State.bump_only; decide)
    | (with_reducible apply Only.andThen State.raise_only; decide)
    | (with_reducible apply Only.andThen State.layerEnd_only; decide)
    | (with_reducible apply Only.andThen State.setFld_only; decide)
    | split)

theorem State.storeDurable_only {s : State} :
    Only [.sent, .regs, .irq] s (State.storeDurable s) := by
  unfold State.storeDurable
  repeat' (first
    | with_reducible apply Only.refl
    | (with_reducible apply Only.andThen State.layerEnd_only; decide)
    | (with_reducible apply Only.ite; rotate_left; intro _))

theorem State.writeBackAll_only {s : State} :
    Only [.regs, .atolls, .mem] s (State.writeBackAll s) := by
  unfold State.writeBackAll
  repeat' (first
    | with_reducible apply Only.refl
    | with_reducible assumption
    | (with_reducible apply Only.andThen State.qWriteBack_only; decide)
    | (with_reducible apply Only.andThen State.onVec_only; decide)
    | (with_reducible apply Only.andThen State.redWriteBack_only; decide)
    | (with_reducible apply Only.andThen State.vPut_only; decide)
    | with_reducible apply Only.each
    | with_reducible apply Only.foldl
    | intro _ _ _)

theorem State.armRefused_only {s : State} {cause : Nat} :
    Only [.sent, .regs, .irq] s (State.armRefused s cause) := by
  unfold State.armRefused
  repeat' (first
    | with_reducible apply Only.refl
    | (with_reducible apply Only.andThen State.setFld_only; decide)
    | (with_reducible apply Only.andThen State.bump_only; decide)
    | (with_reducible apply Only.andThen State.raise_only; decide))

theorem State.stopBegin_only {s : State} {l : List Piece} :
    Only [.sent, .regs, .irq, .waits, .atolls, .mem, .ckpt] s (State.stopBegin s l) := by
  unfold State.stopBegin
  repeat' (first
    | with_reducible apply Only.refl
    | with_reducible assumption
    | (with_reducible apply Only.andThen State.failLayers_only; decide)
    | (with_reducible apply Only.andThen State.writeBackAll_only; decide)
    | (with_reducible apply Only.andThen State.setFld_only; decide)
    | (with_reducible apply Only.andThen State.choosePartner_only; decide)
    | (with_reducible apply Only.andThen State.writeShare_only; decide)
    | (with_reducible apply Only.andThen State.onCkpt_only; decide)
    | (with_reducible apply Only.andThen State.bump_only; decide)
    | with_reducible apply Only.each
    | intro _ _ _)

theorem State.snapArm_only {s : State} :
    Only [.sent, .regs, .staged, .irq, .waits, .atolls, .mem, .ckpt] s (State.snapArm s) := by
  unfold State.snapArm
  dsimp only
  repeat' (first
    | with_reducible apply Only.refl
    | (with_reducible apply Only.andThen State.armRefused_only; decide)
    | (with_reducible apply Only.andThen State.stopBegin_only; decide)
    | exact Only.andThen (Only.setStaged (u := s.setFld F.CKPT_ARM_GO 0) fun h => SMap.rising_del _ h) (by decide) (Only.mono State.setFld_only (by decide))
    | split)

theorem State.releaseHolds_only {s : State} :
    Only [.sent, .fresh, .regs, .irq, .memWait, .waits, .selfActs, .atolls, .mem, .ckpt] s (State.releaseHolds s) := by
  unfold State.releaseHolds
  repeat' (first
    | with_reducible apply Only.refl
    | with_reducible assumption
    | (with_reducible apply Only.andThen State.drainHold_only; decide)
    | with_reducible apply Only.each
    | with_reducible apply Only.foldl
    | intro _ _ _)

theorem State.stoppedCloses_only {s : State} :
    Only [.sent, .fresh, .regs, .irq, .waits, .atolls, .sound, .mem] s (State.stoppedCloses s) := by
  unfold State.stoppedCloses
  repeat' (first
    | with_reducible apply Only.refl
    | with_reducible assumption
    | (with_reducible apply Only.andThen State.comeToClose_only; decide)
    | with_reducible apply Only.each
    | with_reducible apply Only.foldl
    | intro _ _ _)

theorem State.stopEnd_only {s : State} :
    Only [.sent, .fresh, .regs, .irq, .memWait, .waits, .selfActs, .atolls, .sound, .mem, .ckpt] s (State.stopEnd s) := by
  unfold State.stopEnd
  dsimp only
  repeat' (first
    | with_reducible apply Only.refl
    | (with_reducible apply Only.andThen State.onCkpt_only; decide)
    | (with_reducible apply Only.andThen State.setFld_only; decide)
    | (with_reducible apply Only.andThen State.layerEnd_only; decide)
    | (with_reducible apply Only.andThen State.raise_only; decide)
    | (with_reducible apply Only.andThen State.startLayers_only; decide)
    | (with_reducible apply Only.andThen State.landLater_only; decide)
    | (with_reducible apply Only.andThen State.releaseHolds_only; decide)
    | (with_reducible apply Only.andThen State.memDrain_only; decide)
    | (with_reducible apply Only.andThen State.stoppedCloses_only; decide)
    | (with_reducible apply Only.andThen State.awaitHost_only; decide)
    | split)

theorem State.partnerSlack_only {s : State} :
    Only [.sent, .fresh, .regs, .irq, .waits, .atolls, .sound, .mem, .ckpt] s (State.partnerSlack s) := by
  unfold State.partnerSlack
  dsimp only
  repeat' (first
    | with_reducible apply Only.refl
    | (with_reducible apply Only.andThen State.answered_only; decide)
    | (with_reducible apply Only.andThen State.startLayer_only; decide)
    | (with_reducible apply Only.andThen State.setPartner_only; decide)
    | split)

theorem State.putPiece_only {s t : State} {p : Piece} {bs : List Byte} (h : s.putPiece p bs = some t) :
    Only [.atolls, .mem] s t := by
  simp only [State.putPiece, Option.map_eq_some_iff] at h
  obtain ⟨l, -, rfl⟩ := h
  exact Only.foldl (fun v x hv => Only.andThen State.devWrite_only (by decide) hv) Only.refl

theorem State.flashBad_only {s : State} {i : Nat} :
    Only [.sent, .regs, .irq, .ckpt] s (State.flashBad s i) := by
  unfold State.flashBad
  dsimp only
  repeat' (first
    | with_reducible apply Only.refl
    | (with_reducible apply Only.andThen State.onCkpt_only; decide)
    | (with_reducible apply Only.andThen State.setFld_only; decide)
    | (with_reducible apply Only.andThen State.bump_only; decide)
    | (with_reducible apply Only.andThen State.raise_only; decide)
    | (with_reducible apply Only.ite; rotate_left; intro _))

theorem State.readPiece_only {s : State} {l slot : Nat} {p : Piece} :
    Only [.sent, .fresh, .regs, .irq, .ckpt] s (State.readPiece s l slot p).2 := by
  unfold State.readPiece
  dsimp only
  repeat' (first
    | with_reducible apply Only.refl
    | (with_reducible apply Only.andThen State.flashBad_only; decide)
    | (with_reducible apply Only.andThen State.fresh_only; decide)
    | (with_reducible apply Only.andThen State.bump_only; decide)
    | split)

theorem State.reload_only {s : State} {id : Nat} {p : Piece} {l : List Nat} :
    Only [.sent, .fresh, .regs, .irq, .atolls, .mem, .ckpt] s (State.reload s id p l).1 := by
  induction l generalizing s with
  | nil => exact Only.refl
  | cons x l ih =>
    unfold State.reload
    dsimp only
    repeat' (first
      | with_reducible apply Only.refl
      | (with_reducible apply Only.andThen ih; decide)
      | (with_reducible apply Only.andThen State.readPiece_only; decide)
      | (intro _ _; with_reducible apply Only.optThen State.putPiece_only; decide; with_reducible assumption)
      | with_reducible apply Only.getD
      | split)

theorem State.loadPiece_only {s : State} {src slot id : Nat} {p : Piece} :
    Only [.sent, .fresh, .regs, .irq, .atolls, .mem, .ckpt] s (State.loadPiece s src slot id p).1 := by
  unfold State.loadPiece
  dsimp only
  repeat' (first
    | with_reducible apply Only.refl
    | (with_reducible apply Only.andThen State.readPiece_only; decide)
    | (with_reducible apply Only.optThen State.putPiece_only; decide; with_reducible assumption)
    | (with_reducible apply Only.andThen State.bump_only; decide)
    | (with_reducible apply Only.andThen State.reload_only; decide)
    | split)

theorem State.realignAll_only {s : State} {l : List Realign} :
    Only [.regs, .atolls, .mem] s (State.realignAll s l) := by
  unfold State.realignAll
  repeat' (first
    | with_reducible apply Only.refl
    | with_reducible assumption
    | (with_reducible apply Only.andThen State.vWrite_only; decide)
    | (with_reducible apply Only.andThen State.bump_only; decide)
    | with_reducible apply Only.foldl
    | intro _ _ _)

theorem State.onRestore_only {s : State} {f : RestoreSt → RestoreSt} :
    Only [.ckpt] s (State.onRestore s f) := by
  unfold State.onRestore
  repeat' (first
    | with_reducible apply Only.refl
    | (with_reducible apply Only.andThen State.onCkpt_only; decide))

theorem State.restoreCmd_only {s : State} {src slot : Nat} :
    Only [.sent, .fresh, .regs, .irq, .atolls, .sound, .mem, .ckpt] s (State.restoreCmd s src slot) := by
  unfold State.restoreCmd
  dsimp only
  repeat' (first
    | with_reducible apply Only.refl
    | with_reducible assumption
    | (with_reducible apply Only.andThen State.setFld_only; decide)
    | (with_reducible apply Only.andThen State.onCkpt_only; decide)
    | (with_reducible apply Only.andThen State.loadPiece_only; decide)
    | (with_reducible apply Only.andThen State.onRestore_only; decide)
    | (with_reducible apply Only.andThen State.sendBytes_only; decide)
    | (with_reducible apply Only.andThen State.bump_only; decide)
    | (with_reducible apply Only.andThen State.raise_only; decide)
    | with_reducible apply Only.each
    | intro _ _ _
    | (with_reducible apply Only.fst; assumption)
    | split)

theorem State.realignStep_only {s : State} :
    Only [.sent, .regs, .irq, .waits, .atolls, .mem, .ckpt] s (State.realignStep s) := by
  unfold State.realignStep
  dsimp only
  repeat' (first
    | with_reducible apply Only.refl
    | (with_reducible apply Only.andThen State.onRestore_only; decide)
    | (with_reducible apply Only.andThen State.raise_only; decide)
    | (with_reducible apply Only.andThen State.realignAll_only; decide)
    | (with_reducible apply Only.andThen State.setFld_only; decide)
    | (with_reducible apply Only.andThen State.awaitHost_only; decide)
    | split)

theorem State.restoreEnd_only {s : State} :
    Only [.sent, .fresh, .regs, .irq, .waits, .atolls, .sound, .mem, .ckpt] s (State.restoreEnd s) := by
  unfold State.restoreEnd
  repeat' (first
    | with_reducible apply Only.refl
    | (with_reducible apply Only.andThen State.onCkpt_only; decide)
    | (with_reducible apply Only.andThen State.onVec_only; decide)
    | (with_reducible apply Only.andThen State.setFld_only; decide)
    | (with_reducible apply Only.andThen State.reduceWaiting_only; decide)
    | (with_reducible apply Only.andThen State.trickle_only; decide)
    | (with_reducible apply Only.andThen State.raise_only; decide)
    | with_reducible apply Only.each
    | intro _ _
    | fail_if_no_progress (with_reducible apply Only.andThen Only.waits; decide))

theorem State.checkNext_only {s : State} :
    Only [.sent, .regs, .irq, .waits, .atolls, .mem, .ckpt] s (State.checkNext s) := by
  unfold State.checkNext
  repeat' (first
    | with_reducible apply Only.refl
    | (with_reducible apply Only.andThen State.setFld_only; decide)
    | (with_reducible apply Only.andThen State.realignStep_only; decide)
    | split)

theorem State.mendNext_only {s : State} {r : RestoreSt} {p : Piece} :
    Only [.sent, .fresh, .regs, .irq, .atolls, .mem, .ckpt] s (State.mendNext s r p) := by
  unfold State.mendNext
  repeat' (first
    | with_reducible apply Only.refl
    | (with_reducible apply Only.andThen State.reload_only; decide))

theorem State.mendFetch_only {s : State} {p : Piece} {x : ReplicaInfo} {t : State} (h : State.mendFetch s p x = some t) :
    Only [.atolls, .mem] s t := by
  unfold State.mendFetch at h
  try dsimp only at h
  repeat' split at h
  all_goals (first | cases h | skip)
  all_goals
    repeat' (first
      | with_reducible apply Only.refl
      | (with_reducible apply Only.optThen State.putPiece_only; decide; with_reducible assumption))

theorem State.mendSelf_only {s : State} {r : RestoreSt} {p : Piece} {x : ReplicaInfo} :
    Only [.sent, .fresh, .regs, .irq, .atolls, .mem, .ckpt] s (State.mendSelf s r p x) := by
  unfold State.mendSelf
  repeat' (first
    | with_reducible apply Only.refl
    | (intro _ _; with_reducible apply Only.optThen State.mendFetch_only; decide; with_reducible assumption)
    | (with_reducible apply Only.andThen State.mendNext_only; decide)
    | with_reducible apply Only.getD
    | (with_reducible apply Only.ite; rotate_left; intro _))

theorem State.replicaAnswer_only {s : State} {x : ReplicaInfo} :
    Only [.sent, .fresh, .regs, .irq, .waits, .atolls, .mem, .ckpt] s (State.replicaAnswer s x) := by
  unfold State.replicaAnswer
  dsimp only
  repeat' (first
    | with_reducible apply Only.refl
    | (with_reducible apply Only.andThen State.onRestore_only; decide)
    | (with_reducible apply Only.andThen State.checkNext_only; decide)
    | (with_reducible apply Only.andThen State.bump_only; decide)
    | (with_reducible apply Only.andThen State.raise_only; decide)
    | (with_reducible apply Only.andThen State.mendSelf_only; decide)
    | (with_reducible apply Only.andThen State.awaitHost_only; decide)
    | split)

theorem State.answerMismatch_only {P : List Part} {s u : State}
    {f : State → RestoreSt → Piece → ReplicaInfo → State}
    (hq : (([.sent, .regs, .irq, .waits, .atolls, .mem, .ckpt] : List Part).all fun p => P.contains p) = true)
    (hf : ∀ v r p x, Only P s v → Only P s (f v r p x)) (hu : Only P s u) : Only P s (u.answerMismatch f) := by
  have hP : ∀ {Q : List Part} {v w : State}, Only Q v w → (Q.all fun p => ([.sent, .regs, .irq, .waits, .atolls, .mem, .ckpt] : List Part).contains p) = true →
      Only P s v → Only P s w := fun g h hv => Only.andThen (Only.mono g h) hq hv
  unfold State.answerMismatch
  split
  · split
    · exact hP State.checkNext_only (by decide) (hf _ _ _ _ (hP State.onRestore_only (by decide)
        (hP State.answered_only (by decide) hu)))
    · exact hu
  · exact hu

theorem State.answerRealign_only {s : State} {keep : Bool} :
    Only [.regs, .waits, .atolls, .mem, .ckpt] s (State.answerRealign s keep) := by
  unfold State.answerRealign
  repeat' (first
    | with_reducible apply Only.refl
    | (with_reducible apply Only.andThen State.answered_only; decide)
    | (with_reducible apply Only.andThen State.realignAll_only; decide)
    | (with_reducible apply Only.andThen State.onRestore_only; decide)
    | (with_reducible apply Only.andThen State.setFld_only; decide)
    | split)

theorem State.restoreDone_only {s : State} :
    Only [.sent, .fresh, .regs, .irq, .waits, .atolls, .sound, .mem, .ckpt] s (State.restoreDone s) := by
  unfold State.restoreDone
  dsimp only
  repeat' (first
    | with_reducible apply Only.refl
    | (with_reducible apply Only.andThen State.restoreEnd_only; decide)
    | (with_reducible apply Only.andThen State.bump_only; decide)
    | (with_reducible apply Only.andThen State.realignStep_only; decide)
    | (with_reducible apply Only.andThen State.onRestore_only; decide)
    | split)

theorem State.ckptCmd_only {s : State} {cmd src slot : Nat} :
    Only [.sent, .fresh, .regs, .irq, .waits, .atolls, .sound, .mem, .ckpt] s (State.ckptCmd s cmd src slot) := by
  unfold State.ckptCmd
  repeat' (first
    | with_reducible apply Only.refl
    | with_reducible assumption
    | (with_reducible apply Only.andThen State.layerCmd_only; decide)
    | (with_reducible apply Only.andThen State.storeDurable_only; decide)
    | (with_reducible apply Only.andThen State.restoreCmd_only; decide)
    | (with_reducible apply Only.andThen State.answerRealign_only; decide)
    | (with_reducible apply Only.andThen State.restoreEnd_only; decide)
    | (intro _ _; with_reducible apply Only.optThen State.mendFetch_only; decide; with_reducible assumption)
    | (with_reducible apply Only.andThen State.mendNext_only; decide)
    | (with_reducible apply State.answerMismatch_only; decide)
    | with_reducible apply Only.getD
    | intro _ _ _ _ _
    | split)

theorem State.ckptFallback_only {s : State} {b : Nat} :
    Only [.sent, .fresh, .regs, .irq, .waits, .atolls, .sound, .mem, .ckpt] s (State.ckptFallback s b) := by
  unfold State.ckptFallback
  dsimp only
  repeat' (first
    | with_reducible apply Only.refl
    | (with_reducible apply Only.andThen State.answered_only; decide)
    | (with_reducible apply Only.andThen State.startLayer_only; decide)
    | (with_reducible apply Only.andThen State.mendSelf_only; decide)
    | (with_reducible apply Only.andThen State.answerRealign_only; decide)
    | (with_reducible apply Only.andThen State.startLayers_only; decide)
    | (with_reducible apply Only.andThen State.setPartner_only; decide)
    | (with_reducible apply State.answerMismatch_only; decide)
    | intro _ _
    | split)

theorem State.slotsErased_only {s : State} :
    Only [.sent, .regs, .irq, .ckpt] s (State.slotsErased s) := by
  unfold State.slotsErased
  repeat' (first
    | with_reducible apply Only.refl
    | (with_reducible apply Only.andThen State.onCkpt_only; decide)
    | (with_reducible apply Only.andThen State.setFld_only; decide)
    | (with_reducible apply Only.andThen State.raise_only; decide))

theorem execLayerDone_only {l : Layer} {ok : Bool} {s : State} :
    OnlyNext [.sent, .regs, .irq, .ckpt] s (execLayerDone l ok s) := by
  unfold execLayerDone
  repeat' (first
    | with_reducible apply Only.refl
    | with_reducible apply OnlyNext.next
    | (with_reducible apply Only.andThen State.layerDone_only; decide))

theorem execReplicaAnswer_only {r : ReplicaInfo} {s : State} :
    OnlyNext [.sent, .fresh, .regs, .irq, .waits, .atolls, .mem, .ckpt] s (execReplicaAnswer r s) := by
  unfold execReplicaAnswer
  repeat' (first
    | with_reducible apply Only.refl
    | with_reducible apply OnlyNext.next
    | (with_reducible apply Only.andThen State.replicaAnswer_only; decide))

theorem execRestoreDone_only {s : State} :
    OnlyNext [.sent, .fresh, .regs, .irq, .waits, .atolls, .sound, .mem, .ckpt] s (execRestoreDone s) := by
  unfold execRestoreDone
  repeat' (first
    | with_reducible apply Only.refl
    | with_reducible apply OnlyNext.next
    | (with_reducible apply Only.andThen State.restoreDone_only; decide))

end Sys2Proof.Machine
end

