-- ==== Sys2Proof/Laws/OnlyRules.lean ====
section
/-! SUPPORT. What the operations of Machine/Rules.lean change (`Only`). -/

namespace Sys2Proof.Machine

theorem State.overlay_only {s : State} {t : Nat} :
    Only [.regs] s (State.overlay s t) := by
  unfold State.overlay
  repeat' (first
    | with_reducible apply Only.refl
    | with_reducible assumption
    | (with_reducible apply Only.andThen State.wr_only; decide)
    | with_reducible apply Only.each
    | intro _ _ _)

end Sys2Proof.Machine
end

