-- ==== Sys2Proof/Laws/OnlyCommit.lean ====
section
/-! SUPPORT. What the operations of Machine/Commit.lean change (`Only`). -/

namespace Sys2Proof.Machine

theorem State.setTk_only {s : State} {t : Ticket} {st : Nat} :
    Only [.regs] s (State.setTk s t st) := by
  unfold State.setTk
  repeat' (first
    | with_reducible apply Only.refl
    | (with_reducible apply Only.andThen State.setFld_only; decide))

theorem State.setResult_only {s : State} {t : Ticket} {r : Nat} :
    Only [.regs] s (State.setResult s t r) := by
  unfold State.setResult
  repeat' (first
    | with_reducible apply Only.refl
    | (with_reducible apply Only.andThen State.setFld_only; decide))

theorem State.report_only {s : State} {t : Ticket} {rule : Nat} {h : Hit} {remote : Option Nat} :
    Only [.regs] s (State.report s t rule h remote) := by
  unfold State.report
  repeat' (first
    | with_reducible apply Only.refl
    | (with_reducible apply Only.andThen State.setFld_only; decide))

theorem State.countPages_only {s : State} {t : Nat} :
    Only [.regs] s (State.countPages s t) := by
  unfold State.countPages
  repeat' (first
    | with_reducible apply Only.refl
    | (with_reducible apply Only.andThen State.setFld_only; decide))

theorem State.cleanPage_only {s : State} {p : Nat} :
    Only [.regs, .staged] s (State.cleanPage s p) := by
  unfold State.cleanPage
  repeat' (first
    | with_reducible apply Only.refl
    | (with_reducible apply Only.andThen State.unstage_only; decide)
    | (with_reducible apply Only.andThen State.setFld_only; decide))

theorem State.bindPage_only {s : State} {p t : Nat} :
    Only [.regs, .staged] s (State.bindPage s p t) := by
  unfold State.bindPage
  repeat' (first
    | with_reducible apply Only.refl
    | (with_reducible apply Only.andThen State.cleanPage_only; decide)
    | (with_reducible apply Only.andThen State.setFld_only; decide)
    | (with_reducible apply Only.andThen State.countPages_only; decide))

theorem State.unbindPage_only {s : State} {p : Nat} :
    Only [.regs, .staged] s (State.unbindPage s p) := by
  unfold State.unbindPage
  dsimp only
  repeat' (first
    | with_reducible apply Only.refl
    | (with_reducible apply Only.andThen State.cleanPage_only; decide)
    | (with_reducible apply Only.andThen State.setFld_only; decide)
    | (with_reducible apply Only.andThen State.countPages_only; decide)
    | split)

theorem State.dropPages_only {s : State} {t : Nat} :
    Only [.regs, .staged] s (State.dropPages s t) := by
  unfold State.dropPages
  repeat' (first
    | with_reducible apply Only.refl
    | with_reducible assumption
    | (with_reducible apply Only.andThen State.unbindPage_only; decide)
    | with_reducible apply Only.each
    | intro _ _ _)

theorem State.stageRefused_only {s : State} {p : Nat} :
    Only [.sent, .regs, .irq] s (State.stageRefused s p) := by
  unfold State.stageRefused
  repeat' (first
    | with_reducible apply Only.refl
    | (with_reducible apply Only.andThen State.raiseHdr_only; decide))

theorem State.reopen_only {s : State} {t : Nat} :
    Only [.regs] s (State.reopen s t) := by
  unfold State.reopen
  repeat' (first
    | with_reducible apply Only.refl
    | (with_reducible apply Only.andThen State.setTk_only; decide)
    | (with_reducible apply Only.ite; rotate_left; intro _))

theorem State.stageCtl_only {s : State} {p : Nat} {bind release : Bool} {t : Nat} :
    Only [.sent, .regs, .staged, .irq] s (State.stageCtl s p bind release t) := by
  unfold State.stageCtl
  repeat' (first
    | with_reducible apply Only.refl
    | (with_reducible apply Only.andThen State.stageRefused_only; decide)
    | (with_reducible apply Only.andThen State.bindPage_only; decide)
    | (with_reducible apply Only.andThen State.unbindPage_only; decide)
    | (with_reducible apply Only.andThen State.reopen_only; decide)
    | split)

theorem State.stageWord_only {s : State} {a v : Nat} :
    Only [.regs, .staged] s (State.stageWord s a v) := by
  unfold State.stageWord
  repeat' (first
    | with_reducible apply Only.refl
    | (with_reducible apply Only.andThen State.setFld_only; decide)
    | (with_reducible apply Only.andThen State.bump_only; decide)
    | split
    | fail_if_no_progress (with_reducible apply Only.andThen (Only.setStaged fun h => SMap.rising_ins _ (Nat.zero_le _) h); decide))

theorem State.commitFlits_only {s : State} {slot : Nat} {l : List Flit} :
    Only [.sent, .fresh, .regs, .irq, .waits, .atolls, .ports, .sound, .mem] s (State.commitFlits s slot l) := by
  unfold State.commitFlits
  repeat' (first
    | with_reducible apply Only.refl
    | (with_reducible apply Only.andThen State.sendFlits_only; decide)
    | split)

theorem State.tellPeers_only {s : State} {m : Msg} {l : List Flit} :
    Only [.sent, .fresh, .regs, .irq, .waits, .atolls, .ports, .sound, .mem] s (State.tellPeers s m l) := by
  unfold State.tellPeers
  repeat' (first
    | with_reducible apply Only.refl
    | with_reducible assumption
    | (with_reducible apply Only.andThen State.emit_only; decide)
    | (with_reducible apply Only.andThen State.commitFlits_only; decide)
    | with_reducible apply Only.each
    | intro _ _ _)

theorem State.tellDecision_only {s : State} {t : Ticket} {go : Bool} :
    Only [.sent, .fresh, .regs, .irq, .waits, .atolls, .ports, .sound, .mem] s (State.tellDecision s t go) := by
  unfold State.tellDecision
  repeat' (first
    | with_reducible apply Only.refl
    | (with_reducible apply Only.andThen State.tellPeers_only; decide))

theorem State.sendVote_only {s : State} {init gen target : Nat} {fail : Option (Nat × Hit)} :
    Only [.sent, .fresh, .regs, .irq, .waits, .atolls, .ports, .sound, .mem] s (State.sendVote s init gen target fail) := by
  unfold State.sendVote
  repeat' (first
    | with_reducible apply Only.refl
    | (with_reducible apply Only.andThen State.emit_only; decide)
    | (with_reducible apply Only.andThen State.commitFlits_only; decide))

theorem State.badCmd_only {s : State} {t : Ticket} :
    Only [.regs] s (State.badCmd s t) := by
  unfold State.badCmd
  repeat' (first
    | with_reducible apply Only.refl
    | (with_reducible apply Only.andThen State.setResult_only; decide))

theorem State.openTk_only {s : State} {by' : Requester} {t : Ticket} :
    Only [.regs, .tickets] s (State.openTk s by' t) := by
  unfold State.openTk
  repeat' (first
    | with_reducible apply Only.refl
    | (with_reducible apply Only.andThen State.badCmd_only; decide)
    | (with_reducible apply Only.andThen State.setFld_only; decide)
    | (with_reducible apply Only.andThen State.onTicket_only; decide)
    | (with_reducible apply Only.andThen State.setTk_only; decide)
    | (with_reducible apply Only.ite; rotate_left; intro _))

theorem State.toIdle_only {s : State} {t : Ticket} :
    Only [.regs, .staged, .selfActs, .tickets] s (State.toIdle s t) := by
  unfold State.toIdle
  repeat' (first
    | with_reducible apply Only.refl
    | (with_reducible apply Only.andThen State.dropPages_only; decide)
    | (with_reducible apply Only.andThen State.onTicket_only; decide)
    | (with_reducible apply Only.andThen State.setTk_only; decide)
    | (with_reducible apply Only.ite; rotate_left; intro _)
    | fail_if_no_progress (with_reducible apply Only.andThen Only.selfActs; decide))

theorem State.abortTk_only {s : State} {t : Ticket} {result : Nat} :
    Only [.sent, .regs, .staged, .irq, .selfActs, .tickets] s (State.abortTk s t result) := by
  unfold State.abortTk
  repeat' (first
    | with_reducible apply Only.refl
    | (with_reducible apply Only.andThen State.toIdle_only; decide)
    | (with_reducible apply Only.andThen State.setResult_only; decide)
    | (with_reducible apply Only.andThen State.raise_only; decide))

theorem State.armTk_only {s : State} {t : Ticket} :
    Only [.sent, .fresh, .regs, .irq, .waits, .tickets, .atolls, .ports, .sound, .mem] s (State.armTk s t) := by
  unfold State.armTk
  repeat' (first
    | with_reducible apply Only.refl
    | (with_reducible apply Only.andThen State.setResult_only; decide)
    | (with_reducible apply Only.andThen State.onTicket_only; decide)
    | (with_reducible apply Only.andThen State.setTk_only; decide)
    | (with_reducible apply Only.andThen State.raise_only; decide)
    | (with_reducible apply Only.andThen State.tellPeers_only; decide)
    | (with_reducible apply Only.ite; rotate_left; intro _))

theorem State.abortCmd_only {s : State} {t : Ticket} :
    Only [.sent, .fresh, .regs, .staged, .irq, .waits, .selfActs, .tickets, .atolls, .ports, .sound, .mem] s (State.abortCmd s t) := by
  unfold State.abortCmd
  repeat' (first
    | with_reducible apply Only.refl
    | (with_reducible apply Only.andThen State.badCmd_only; decide)
    | (with_reducible apply Only.andThen State.tellDecision_only; decide)
    | (with_reducible apply Only.andThen State.abortTk_only; decide)
    | (with_reducible apply Only.andThen State.onTicket_only; decide)
    | (with_reducible apply Only.ite; rotate_left; intro _))

theorem State.resolveTk_only {s : State} {t : Ticket} :
    Only [.regs, .staged, .selfActs, .tickets, .atolls] s (State.resolveTk s t) := by
  unfold State.resolveTk
  repeat' (first
    | with_reducible apply Only.refl
    | with_reducible assumption
    | (with_reducible apply Only.andThen State.badCmd_only; decide)
    | (with_reducible apply Only.andThen State.toIdle_only; decide)
    | (with_reducible apply Only.andThen State.onSeq_only; decide)
    | with_reducible apply Only.each
    | (with_reducible apply Only.ite; rotate_left; intro _)
    | intro _ _ _)

theorem State.commitCmd_only {s : State} {by' : Requester} {t : Ticket} {cmd : Nat} :
    Only [.sent, .fresh, .regs, .staged, .irq, .waits, .selfActs, .tickets, .atolls, .ports, .sound, .mem] s (State.commitCmd s by' t cmd) := by
  unfold State.commitCmd
  repeat' (first
    | with_reducible apply Only.refl
    | (with_reducible apply Only.andThen State.openTk_only; decide)
    | (with_reducible apply Only.andThen State.setTk_only; decide)
    | (with_reducible apply Only.andThen State.badCmd_only; decide)
    | (with_reducible apply Only.andThen State.armTk_only; decide)
    | (with_reducible apply Only.andThen State.abortCmd_only; decide)
    | (with_reducible apply Only.andThen State.resolveTk_only; decide)
    | split)

theorem State.checkTk_only {s : State} {t : Ticket} :
    Only [.sent, .fresh, .regs, .irq, .waits, .tickets, .atolls, .ports, .sound, .mem] s (State.checkTk s t) := by
  unfold State.checkTk
  dsimp only
  repeat' (first
    | with_reducible apply Only.refl
    | (with_reducible apply Only.andThen State.report_only; decide)
    | (with_reducible apply Only.andThen State.raise_only; decide)
    | (with_reducible apply Only.andThen State.onTicket_only; decide)
    | (with_reducible apply Only.andThen State.setTk_only; decide)
    | (with_reducible apply Only.andThen State.setResult_only; decide)
    | (with_reducible apply Only.andThen State.bump_only; decide)
    | (with_reducible apply Only.andThen State.sendVote_only; decide)
    | split)

theorem State.pageApplied_only {s o : State} {w : List Nat} {p : Nat} :
    Only [.sent, .regs, .irq, .tide, .atolls, .sound, .ckpt] s (State.pageApplied s o w p) := by
  unfold State.pageApplied
  dsimp only
  repeat' (first
    | with_reducible apply Only.refl
    | (with_reducible apply Only.andThen State.setFld_only; decide)
    | (with_reducible apply Only.andThen State.onTide_only; decide)
    | (with_reducible apply Only.andThen State.slotsErased_only; decide)
    | (with_reducible apply Only.andThen State.onCkpt_only; decide)
    | (with_reducible apply Only.andThen State.onVec_only; decide)
    | (with_reducible apply Only.andThen State.invAll_only; decide)
    | (with_reducible apply Only.andThen State.writeEdit_only; decide)
    | (with_reducible apply Only.andThen State.raise_only; decide)
    | with_reducible apply Only.each
    | with_reducible apply Only.foldl
    | intro _ _
    | split
    | fail_if_no_progress (with_reducible apply Only.andThen Only.sound; decide))

theorem State.applyTk_only {s : State} {t : Ticket} :
    Only [.sent, .regs, .staged, .irq, .selfActs, .tickets, .tide, .atolls, .sound, .ckpt] s (State.applyTk s t) := by
  unfold State.applyTk
  repeat' (first
    | with_reducible apply Only.refl
    | (with_reducible apply Only.andThen State.report_only; decide)
    | (with_reducible apply Only.andThen State.toIdle_only; decide)
    | (with_reducible apply Only.andThen State.onTicket_only; decide)
    | (with_reducible apply Only.andThen State.overlay_only; decide)
    | (with_reducible apply Only.andThen State.setResult_only; decide)
    | (with_reducible apply Only.andThen State.raise_only; decide)
    | (with_reducible apply Only.andThen State.pageApplied_only; decide)
    | (with_reducible apply Only.andThen State.bump_only; decide)
    | (with_reducible apply Only.andThen State.setTk_only; decide)
    | (with_reducible apply Only.andThen State.setFld_only; decide)
    | with_reducible apply Only.each
    | intro _ _
    | split)

theorem State.voteNo_only {s : State} {g : BoardTag} {r : Nat} {h : Hit} :
    Only [.sent, .fresh, .regs, .irq, .waits, .atolls, .ports, .sound, .mem] s (State.voteNo s g r h) := by
  unfold State.voteNo
  repeat' (first
    | with_reducible apply Only.refl
    | (with_reducible apply Only.andThen State.sendVote_only; decide))

theorem State.takePrepare_only {s : State} {g : BoardTag} {recs : List CommitRecord} :
    Only [.sent, .fresh, .regs, .staged, .irq, .waits, .selfActs, .tickets, .atolls, .ports, .sound, .mem] s (State.takePrepare s g recs) := by
  unfold State.takePrepare
  dsimp only
  repeat' (first
    | with_reducible apply Only.refl
    | (with_reducible apply Only.andThen State.toIdle_only; decide)
    | (with_reducible apply Only.andThen State.bindPage_only; decide)
    | (with_reducible apply Only.andThen State.stageWord_only; decide)
    | (with_reducible apply Only.andThen State.setTk_only; decide)
    | (with_reducible apply Only.andThen State.voteNo_only; decide)
    | with_reducible apply Only.each
    | intro _ _
    | split)

theorem State.prepareIn_only {s : State} {g : BoardTag} {total first : Nat} {recs : List CommitRecord} :
    Only [.sent, .fresh, .regs, .staged, .irq, .waits, .selfActs, .tickets, .atolls, .ports, .sound, .mem] s (State.prepareIn s g total first recs) := by
  unfold State.prepareIn
  repeat' (first
    | with_reducible apply Only.refl
    | (with_reducible apply Only.andThen State.voteNo_only; decide)
    | (with_reducible apply Only.andThen State.setFld_only; decide)
    | (with_reducible apply Only.andThen State.onTicket_only; decide)
    | (with_reducible apply Only.andThen State.setTk_only; decide)
    | (with_reducible apply Only.andThen State.takePrepare_only; decide)
    | (with_reducible apply Only.ite; rotate_left; intro _))

theorem State.voteIn_only {s : State} {g : BoardTag} {v : VoteGot} :
    Only [.tickets] s (State.voteIn s g v) := by
  unfold State.voteIn
  repeat' (first
    | with_reducible apply Only.refl
    | with_reducible assumption
    | (with_reducible apply Only.andThen State.onTicket_only; decide)
    | with_reducible apply Only.each
    | (with_reducible apply Only.ite; rotate_left; intro _)
    | intro _ _ _)

theorem State.decisionIn_only {s : State} {init gen target : Nat} {go : Bool} :
    Only [.sent, .regs, .staged, .irq, .selfActs, .tickets] s (State.decisionIn s init gen target go) := by
  unfold State.decisionIn
  repeat' (first
    | with_reducible apply Only.refl
    | (with_reducible apply Only.andThen State.onTicket_only; decide)
    | (with_reducible apply Only.andThen State.abortTk_only; decide)
    | (with_reducible apply Only.andThen State.setTk_only; decide)
    | (with_reducible apply Only.ite; rotate_left; intro _))

theorem State.heardInit_only {s : State} {slot : Nat} :
    Only [.tickets] s (State.heardInit s slot) := by
  unfold State.heardInit
  repeat' (first
    | with_reducible apply Only.refl
    | (with_reducible apply Only.andThen State.onTicket_only; decide))

theorem State.decideTk_only {s : State} {t : Ticket} :
    Only [.sent, .fresh, .regs, .irq, .waits, .tickets, .atolls, .ports, .sound, .mem] s (State.decideTk s t) := by
  unfold State.decideTk
  dsimp only
  repeat' (first
    | with_reducible apply Only.refl
    | (with_reducible apply Only.andThen State.tellDecision_only; decide)
    | (with_reducible apply Only.andThen State.setTk_only; decide)
    | (with_reducible apply Only.andThen State.report_only; decide)
    | (with_reducible apply Only.andThen State.onTicket_only; decide)
    | (with_reducible apply Only.andThen State.setResult_only; decide)
    | split)

theorem State.decideDue_only {s : State} :
    Only [.sent, .fresh, .regs, .irq, .waits, .tickets, .atolls, .ports, .sound, .mem] s (State.decideDue s) := by
  unfold State.decideDue
  repeat' (first
    | with_reducible apply Only.refl
    | with_reducible assumption
    | (with_reducible apply Only.andThen State.decideTk_only; decide)
    | with_reducible apply Only.each
    | (with_reducible apply Only.ite; rotate_left; intro _)
    | intro _ _ _)

theorem State.ticketSlack_only {s : State} {t : Ticket} :
    Only [.sent, .fresh, .regs, .staged, .irq, .waits, .selfActs, .tickets, .tide, .atolls, .ports, .sound, .mem, .ckpt] s (State.ticketSlack s t) := by
  unfold State.ticketSlack
  repeat' (first
    | with_reducible apply Only.refl
    | (with_reducible apply Only.andThen State.onTicket_only; decide)
    | (with_reducible apply Only.andThen State.applyTk_only; decide)
    | (with_reducible apply Only.andThen State.abortTk_only; decide)
    | (with_reducible apply Only.andThen State.tellDecision_only; decide)
    | (with_reducible apply Only.andThen State.setTk_only; decide)
    | (with_reducible apply Only.andThen State.setResult_only; decide)
    | (with_reducible apply Only.andThen State.raise_only; decide)
    | (with_reducible apply Only.ite; rotate_left; intro _))

theorem State.bindActs_only {s : State} {n : Nat} :
    Only [.regs, .staged, .selfActs, .tickets] s (State.bindActs s n) := by
  unfold State.bindActs
  repeat' (first
    | with_reducible apply Only.refl
    | (with_reducible apply Only.andThen State.openTk_only; decide)
    | (with_reducible apply Only.andThen State.bindPage_only; decide)
    | (with_reducible apply Only.andThen State.onTicket_only; decide)
    | (with_reducible apply Only.andThen State.setTk_only; decide)
    | with_reducible apply Only.each
    | (with_reducible apply Only.ite; rotate_left; intro _)
    | intro _ _
    | fail_if_no_progress (with_reducible apply Only.andThen Only.selfActs; decide))

theorem State.selfWaitAbort_only {s : State} :
    Only [.sent, .regs, .staged, .irq, .selfActs, .tickets] s (State.selfWaitAbort s) := by
  unfold State.selfWaitAbort
  dsimp only
  repeat' (first
    | with_reducible apply Only.refl
    | (with_reducible apply Only.andThen State.abortTk_only; decide)
    | (with_reducible apply Only.andThen State.bindActs_only; decide)
    | split)

theorem State.ruleRead_only {s : State} {w : Nat} :
    Only [.regs] s (State.ruleRead s w) := by
  unfold State.ruleRead
  repeat' (first
    | with_reducible apply Only.refl
    | (with_reducible apply Only.andThen State.setFld_only; decide)
    | (with_reducible apply Only.ite; rotate_left; intro _))

theorem execBind_only {page : PageIx} {t : Ticket} {s : State} :
    OnlyNext [.sent, .regs, .staged, .irq] s (execBind page t s) := by
  unfold execBind
  repeat' (first
    | with_reducible apply Only.refl
    | with_reducible apply OnlyNext.next
    | (with_reducible apply Only.andThen State.stageCtl_only; decide))

theorem execRelease_only {page : PageIx} {s : State} :
    OnlyNext [.sent, .regs, .staged, .irq] s (execRelease page s) := by
  unfold execRelease
  repeat' (first
    | with_reducible apply Only.refl
    | with_reducible apply OnlyNext.next
    | (with_reducible apply Only.andThen State.stageCtl_only; decide))

theorem execOpenTicket_only {by' : Requester} {t : Ticket} {s : State} :
    OnlyNext [.sent, .fresh, .regs, .staged, .irq, .waits, .selfActs, .tickets, .atolls, .ports, .sound, .mem] s (execOpenTicket by' t s) := by
  unfold execOpenTicket
  repeat' (first
    | with_reducible apply Only.refl
    | with_reducible apply OnlyNext.next
    | (with_reducible apply Only.andThen State.commitCmd_only; decide))

theorem execCheck_only {t : Ticket} {s : State} :
    OnlyNext [.sent, .fresh, .regs, .staged, .irq, .waits, .selfActs, .tickets, .atolls, .ports, .sound, .mem] s (execCheck t s) := by
  unfold execCheck
  repeat' (first
    | with_reducible apply Only.refl
    | with_reducible apply OnlyNext.next
    | (with_reducible apply Only.andThen State.commitCmd_only; decide))

theorem execCheckDone_only {t : Ticket} {s : State} :
    OnlyNext [.sent, .fresh, .regs, .irq, .waits, .tickets, .atolls, .ports, .sound, .mem] s (execCheckDone t s) := by
  unfold execCheckDone
  repeat' (first
    | with_reducible apply Only.refl
    | with_reducible apply OnlyNext.next
    | (with_reducible apply Only.andThen State.checkTk_only; decide))

theorem execArm_only {t : Ticket} {s : State} :
    OnlyNext [.sent, .fresh, .regs, .staged, .irq, .waits, .selfActs, .tickets, .atolls, .ports, .sound, .mem] s (execArm t s) := by
  unfold execArm
  repeat' (first
    | with_reducible apply Only.refl
    | with_reducible apply OnlyNext.next
    | (with_reducible apply Only.andThen State.commitCmd_only; decide))

theorem execAbort_only {t : Ticket} {s : State} :
    OnlyNext [.sent, .fresh, .regs, .staged, .irq, .waits, .selfActs, .tickets, .atolls, .ports, .sound, .mem] s (execAbort t s) := by
  unfold execAbort
  repeat' (first
    | with_reducible apply Only.refl
    | with_reducible apply OnlyNext.next
    | (with_reducible apply Only.andThen State.commitCmd_only; decide))

theorem execResolve_only {t : Ticket} {s : State} :
    OnlyNext [.sent, .fresh, .regs, .staged, .irq, .waits, .selfActs, .tickets, .atolls, .ports, .sound, .mem] s (execResolve t s) := by
  unfold execResolve
  repeat' (first
    | with_reducible apply Only.refl
    | with_reducible apply OnlyNext.next
    | (with_reducible apply Only.andThen State.commitCmd_only; decide))

theorem execCommitRuleDataRead_only {word : Fin 8} {s : State} :
    OnlyNext [.sent, .regs] s (execCommitRuleDataRead word s) := by
  unfold execCommitRuleDataRead
  repeat' (first
    | with_reducible apply Only.refl
    | with_reducible apply OnlyNext.next
    | (with_reducible apply Only.andThen State.emit_only; decide)
    | (with_reducible apply Only.andThen State.ruleRead_only; decide))

theorem execPrepare_only {via : StraitIn} {tag : BoardTag} {total first : Nat} {records : List CommitRecord} {s : State} :
    OnlyNext [.sent, .fresh, .regs, .staged, .irq, .waits, .selfActs, .tickets, .atolls, .ports, .sound, .mem] s (execPrepare via tag total first records s) := by
  unfold execPrepare
  repeat' (first
    | with_reducible apply Only.refl
    | with_reducible assumption
    | with_reducible apply OnlyNext.next
    | (with_reducible apply Only.andThen State.prepareIn_only; decide)
    | (with_reducible apply State.commitIn_only; decide)
    | intro _ _)

theorem execVote_only {via : StraitIn} {tag : BoardTag} {voter : Slot} {pass : Bool} {rule : BitVec 16} {cls inst : BitVec 8} {off : BitVec 11} {s : State} :
    OnlyNext [.sent, .fresh, .regs, .irq, .waits, .tickets, .atolls, .ports, .sound, .mem] s (execVote via tag voter pass rule cls inst off s) := by
  unfold execVote
  repeat' (first
    | with_reducible apply Only.refl
    | with_reducible assumption
    | with_reducible apply OnlyNext.next
    | (with_reducible apply Only.andThen State.voteIn_only; decide)
    | (with_reducible apply State.commitIn_only; decide)
    | intro _ _)

theorem execDecision_only {via : StraitIn} {tag : BoardTag} {go : Bool} {s : State} :
    OnlyNext [.sent, .fresh, .regs, .staged, .irq, .waits, .selfActs, .tickets, .atolls, .ports, .sound, .mem] s (execDecision via tag go s) := by
  unfold execDecision
  repeat' (first
    | with_reducible apply Only.refl
    | with_reducible assumption
    | with_reducible apply OnlyNext.next
    | (with_reducible apply Only.andThen State.heardInit_only; decide)
    | (with_reducible apply Only.andThen State.decisionIn_only; decide)
    | (with_reducible apply State.commitIn_only; decide)
    | intro _ _)

theorem execDivergedTimeout_only {s : State} :
    OnlyNext [.regs, .staged, .tickets] s (execDivergedTimeout s) := by
  unfold execDivergedTimeout
  repeat' (first
    | with_reducible apply Only.refl
    | with_reducible apply OnlyNext.next
    | with_reducible apply OnlyNext.ite
    | (with_reducible apply Only.andThen State.dropPages_only; decide)
    | (with_reducible apply Only.andThen State.onTicket_only; decide))

theorem execSelfWaitAbort_only {s : State} :
    OnlyNext [.sent, .regs, .staged, .irq, .selfActs, .tickets] s (execSelfWaitAbort s) := by
  unfold execSelfWaitAbort
  repeat' (first
    | with_reducible apply Only.refl
    | with_reducible apply OnlyNext.next
    | (with_reducible apply Only.andThen State.selfWaitAbort_only; decide))

end Sys2Proof.Machine
end

