-- ==== Sys2Proof/Laws/OnlyAgeing.lean ====
section
/-! SUPPORT. What the operations of Machine/Ageing.lean change (`Only`). -/

namespace Sys2Proof.Machine

theorem State.onAge_only {s : State} {f : AgeSt → AgeSt} :
    Only [.age] s (State.onAge s f) := by
  unfold State.onAge
  repeat' (first
    | with_reducible apply Only.refl
    | fail_if_no_progress (with_reducible apply Only.andThen Only.age; decide))

theorem State.planAtoll_only {s : State} {k : Atoll} {g : Nat} :
    Only [.sent, .regs, .irq, .age] s (State.planAtoll s k g) := by
  unfold State.planAtoll
  repeat' (first
    | with_reducible apply Only.refl
    | (with_reducible apply Only.andThen State.setFld_only; decide)
    | (with_reducible apply Only.andThen State.onAge_only; decide)
    | (with_reducible apply Only.andThen State.raiseIf_only; decide)
    | with_reducible apply Only.each
    | intro _ _
    | split)

theorem State.planClear_only {s : State} :
    Only [.regs, .age] s (State.planClear s) := by
  unfold State.planClear
  repeat' (first
    | with_reducible apply Only.refl
    | with_reducible assumption
    | (with_reducible apply Only.andThen State.onAge_only; decide)
    | (with_reducible apply Only.andThen State.wr_only; decide)
    | (with_reducible apply Only.andThen State.setFld_only; decide)
    | with_reducible apply Only.each
    | intro _ _ _)

theorem State.replan_only {s : State} :
    Only [.sent, .regs, .irq, .waits, .age] s (State.replan s) := by
  unfold State.replan
  repeat' (first
    | with_reducible apply Only.refl
    | with_reducible assumption
    | (with_reducible apply Only.andThen State.planAtoll_only; decide)
    | (with_reducible apply Only.andThen State.setFld_only; decide)
    | (with_reducible apply Only.andThen State.planClear_only; decide)
    | (with_reducible apply Only.andThen State.answered_only; decide)
    | (with_reducible apply Only.andThen State.onAge_only; decide)
    | (with_reducible apply Only.andThen State.raise_only; decide)
    | with_reducible apply Only.each
    | intro _ _ _
    | split)

theorem State.queueReplan_only {s : State} :
    Only [.selfActs] s (State.queueReplan s) := by
  unfold State.queueReplan
  repeat' (first
    | with_reducible apply Only.refl
    | (with_reducible apply Only.ite; rotate_left; intro _)
    | fail_if_no_progress (with_reducible apply Only.andThen Only.selfActs; decide))

theorem State.planDue_only {s : State} :
    Only [.sent, .regs, .irq, .waits, .selfActs, .age] s (State.planDue s) := by
  unfold State.planDue
  repeat' (first
    | with_reducible apply Only.refl
    | with_reducible assumption
    | (with_reducible apply Only.andThen State.onAge_only; decide)
    | (with_reducible apply Only.andThen State.setFld_only; decide)
    | (with_reducible apply Only.andThen State.raise_only; decide)
    | (with_reducible apply Only.andThen State.awaitHost_only; decide)
    | (with_reducible apply Only.andThen State.queueReplan_only; decide)
    | with_reducible apply Only.each
    | (with_reducible apply Only.ite; rotate_left; intro _)
    | intro _ _ _)

theorem State.putDrifts_only {s : State} {drifts dies : List Nat} :
    Only [.regs, .age] s (State.putDrifts s drifts dies) := by
  unfold State.putDrifts
  repeat' (first
    | with_reducible apply Only.refl
    | with_reducible assumption
    | (with_reducible apply Only.andThen State.setFld_only; decide)
    | (with_reducible apply Only.andThen State.onAge_only; decide)
    | with_reducible apply Only.each
    | intro _ _ _)

theorem State.readingDone_only {s : State} {drifts dies : List Nat} :
    Only [.sent, .regs, .irq, .waits, .selfActs, .age] s (State.readingDone s drifts dies) := by
  unfold State.readingDone
  repeat' (first
    | with_reducible apply Only.refl
    | (with_reducible apply Only.andThen State.putDrifts_only; decide)
    | (with_reducible apply Only.andThen State.planDue_only; decide)
    | (with_reducible apply Only.andThen State.raise_only; decide)
    | (with_reducible apply Only.ite; rotate_left; intro _))

theorem State.withdrawPoints_only {s : State} :
    Only [.sent, .regs, .irq, .age] s (State.withdrawPoints s) := by
  unfold State.withdrawPoints
  repeat' (first
    | with_reducible apply Only.refl
    | with_reducible assumption
    | (with_reducible apply Only.andThen State.onAge_only; decide)
    | (with_reducible apply Only.andThen State.setFld_only; decide)
    | (with_reducible apply Only.andThen State.raise_only; decide)
    | with_reducible apply Only.each
    | intro _ _ _
    | split)

theorem State.ageSlack_only {s : State} :
    Only [.sent, .regs, .irq, .waits, .selfActs, .age] s (State.ageSlack s) := by
  unfold State.ageSlack
  repeat' (first
    | with_reducible apply Only.refl
    | (with_reducible apply Only.andThen State.bump_only; decide)
    | (with_reducible apply Only.andThen State.onAge_only; decide)
    | (with_reducible apply Only.andThen State.withdrawPoints_only; decide)
    | (with_reducible apply Only.andThen State.setFld_only; decide)
    | (with_reducible apply Only.andThen State.planDue_only; decide)
    | (with_reducible apply Only.ite; rotate_left; intro _))

theorem State.ageCmd_only {s : State} {cmd : Nat} :
    Only [.regs, .waits, .selfActs, .age] s (State.ageCmd s cmd) := by
  unfold State.ageCmd
  repeat' (first
    | with_reducible apply Only.refl
    | (with_reducible apply Only.andThen State.onAge_only; decide)
    | (with_reducible apply Only.andThen State.answered_only; decide)
    | (with_reducible apply Only.andThen State.planClear_only; decide)
    | (with_reducible apply Only.andThen State.queueReplan_only; decide)
    | (with_reducible apply Only.ite; rotate_left; intro _))

theorem execReading_only {drifts dieDrifts : List Nat} {s : State} :
    OnlyNext [.sent, .regs, .irq, .waits, .selfActs, .age] s (execReading drifts dieDrifts s) := by
  unfold execReading
  repeat' (first
    | with_reducible apply Only.refl
    | with_reducible apply OnlyNext.next
    | (with_reducible apply Only.andThen State.readingDone_only; decide))

theorem State.perform_only {s : State} {a : SelfAct} :
    Only [.sent, .regs, .irq, .waits, .atolls, .age] s (State.perform s a) := by
  cases a <;> unfold State.perform <;> try dsimp only
  all_goals
    repeat' (first
      | with_reducible apply Only.refl
      | (with_reducible apply Only.andThen State.mapDone_only; decide)
      | (with_reducible apply Only.andThen State.retirePage_only; decide)
      | (with_reducible apply Only.andThen State.replan_only; decide))

theorem State.ticketsSlack_only {s : State} :
    Only [.sent, .fresh, .regs, .staged, .irq, .waits, .selfActs, .tickets, .tide, .atolls, .ports, .sound, .mem, .ckpt, .age] s (State.ticketsSlack s) := by
  unfold State.ticketsSlack
  repeat' (first
    | with_reducible apply Only.refl
    | (with_reducible apply Only.andThen State.bindActs_only; decide)
    | (with_reducible apply Only.andThen State.ticketSlack_only; decide)
    | (with_reducible apply Only.andThen State.perform_only; decide)
    | with_reducible apply Only.each
    | (with_reducible apply Only.ite; rotate_left; intro _)
    | intro _ _
    | fail_if_no_progress (with_reducible apply Only.andThen Only.selfActs; decide))

end Sys2Proof.Machine
end

