-- ==== Sys2Proof/Laws/OnlyPower.lean ====
section
/-! SUPPORT. What the operations of Machine/Power.lean change (`Only`). -/

namespace Sys2Proof.Machine

theorem State.onPower_only {s : State} {f : PwrSt → PwrSt} :
    Only [.pwr] s (State.onPower s f) := by
  unfold State.onPower
  repeat' (first
    | with_reducible apply Only.refl
    | fail_if_no_progress (with_reducible apply Only.andThen Only.pwr; decide))

theorem State.showMHz_only {s : State} {k : Atoll} :
    Only [.regs] s (State.showMHz s k) := by
  unfold State.showMHz
  repeat' (first
    | with_reducible apply Only.refl
    | (with_reducible apply Only.andThen State.setFld_only; decide))

theorem State.setPt_only {s : State} {k : Atoll} {p reason : Nat} :
    Only [.regs, .atolls] s (State.setPt s k p reason) := by
  unfold State.setPt
  repeat' (first
    | with_reducible apply Only.refl
    | (with_reducible apply Only.andThen State.setFld_only; decide)
    | (with_reducible apply Only.andThen State.onPwr_only; decide)
    | (with_reducible apply Only.andThen State.showMHz_only; decide))

theorem State.lowerPt_only {s : State} {k : Atoll} {reason : Nat} :
    Only [.regs, .atolls] s (State.lowerPt s k reason) := by
  unfold State.lowerPt
  repeat' (first
    | with_reducible apply Only.refl
    | (with_reducible apply Only.andThen State.onPwr_only; decide)
    | (with_reducible apply Only.andThen State.setPt_only; decide)
    | (with_reducible apply Only.ite; rotate_left; intro _))

theorem State.wrapAdd_only {s : State} {f : Fld} {n : Nat} :
    Only [.regs] s (State.wrapAdd s f n) := by
  unfold State.wrapAdd
  repeat' (first
    | with_reducible apply Only.refl
    | (with_reducible apply Only.andThen State.setFld_only; decide))

theorem State.countEnergy_only {s : State} {m : TideMeasure} {c : Nat} :
    Only [.regs, .atolls] s (State.countEnergy s m c) := by
  unfold State.countEnergy
  repeat' (first
    | with_reducible apply Only.refl
    | with_reducible assumption
    | (with_reducible apply Only.andThen State.wrapAdd_only; decide)
    | (with_reducible apply Only.andThen State.onPwr_only; decide)
    | with_reducible apply Only.each
    | intro _ _ _)

theorem State.learnPhases_only {s : State} {k : Atoll} {e : Nat} :
    Only [.atolls] s (State.learnPhases s k e) := by
  unfold State.learnPhases
  repeat' (first
    | with_reducible apply Only.refl
    | (with_reducible apply Only.andThen State.onPwr_only; decide))

theorem State.allocate_only {s : State} {m : TideMeasure} {c : Nat} :
    Only [.sent, .fresh, .regs, .irq, .atolls, .pwr] s (State.allocate s m c) := by
  unfold State.allocate
  repeat' (first
    | with_reducible apply Only.refl
    | with_reducible assumption
    | (with_reducible apply Only.andThen State.fresh_only; decide)
    | (with_reducible apply Only.andThen State.setFld_only; decide)
    | (with_reducible apply Only.andThen State.raiseIf_only; decide)
    | (with_reducible apply Only.andThen State.onPwr_only; decide)
    | (with_reducible apply Only.andThen State.setPt_only; decide)
    | (with_reducible apply Only.andThen State.onPower_only; decide)
    | with_reducible apply Only.each
    | intro _ _ _
    | split)

theorem State.reasonSlack_only {s : State} :
    Only [.regs, .pwr] s (State.reasonSlack s) := by
  unfold State.reasonSlack
  repeat' (first
    | with_reducible apply Only.refl
    | with_reducible assumption
    | (with_reducible apply Only.andThen State.bump_only; decide)
    | (with_reducible apply Only.andThen State.onPower_only; decide)
    | (with_reducible apply Only.andThen State.setFld_only; decide)
    | with_reducible apply Only.each
    | (with_reducible apply Only.ite; rotate_left; intro _)
    | intro _ _ _)

theorem State.clearBit_only {s : State} {f : Fld} {k : Nat} :
    Only [.regs] s (State.clearBit s f k) := by
  unfold State.clearBit
  repeat' (first
    | with_reducible apply Only.refl
    | (with_reducible apply Only.andThen State.setFld_only; decide))

theorem State.setBit_only {s : State} {f : Fld} {k : Nat} :
    Only [.regs] s (State.setBit s f k) := by
  unfold State.setBit
  repeat' (first
    | with_reducible apply Only.refl
    | (with_reducible apply Only.andThen State.setFld_only; decide))

theorem State.releaseSlack_only {s : State} {m : TideMeasure} :
    Only [.sent, .regs, .irq, .atolls] s (State.releaseSlack s m) := by
  unfold State.releaseSlack
  dsimp only
  repeat' (first
    | with_reducible apply Only.refl
    | with_reducible assumption
    | (with_reducible apply Only.andThen State.clearBit_only; decide)
    | (with_reducible apply Only.andThen State.onPwr_only; decide)
    | (with_reducible apply Only.andThen State.setFld_only; decide)
    | (with_reducible apply Only.andThen State.raise_only; decide)
    | with_reducible apply Only.each
    | intro _ _ _
    | split)

theorem State.powerSlack_only {s : State} {m : TideMeasure} {c : Nat} :
    Only [.sent, .fresh, .regs, .irq, .waits, .selfActs, .atolls, .pwr, .age] s (State.powerSlack s m c) := by
  unfold State.powerSlack
  repeat' (first
    | with_reducible apply Only.refl
    | with_reducible assumption
    | (with_reducible apply Only.andThen State.countEnergy_only; decide)
    | (with_reducible apply Only.andThen State.learnPhases_only; decide)
    | (with_reducible apply Only.andThen State.reasonSlack_only; decide)
    | (with_reducible apply Only.andThen State.releaseSlack_only; decide)
    | (with_reducible apply Only.andThen State.onPower_only; decide)
    | (with_reducible apply Only.andThen State.allocate_only; decide)
    | (with_reducible apply Only.andThen State.ageSlack_only; decide)
    | with_reducible apply Only.each
    | (with_reducible apply Only.ite; rotate_left; intro _)
    | intro _ _ _)

theorem State.converterLimit_only {s : State} {k : Atoll} :
    Only [.sent, .regs, .irq, .atolls] s (State.converterLimit s k) := by
  unfold State.converterLimit
  dsimp only
  repeat' (first
    | with_reducible apply Only.refl
    | (with_reducible apply Only.andThen State.lowerPt_only; decide)
    | (with_reducible apply Only.andThen State.raise_only; decide)
    | (with_reducible apply Only.ite; rotate_left; intro _))

theorem execLimiterWindow_only {watts vin : Nat} {limited : List Atoll} {s : State} :
    OnlyNext [.sent, .regs, .irq, .atolls] s (execLimiterWindow watts vin limited s) := by
  unfold execLimiterWindow
  repeat' (first
    | with_reducible apply Only.refl
    | with_reducible apply OnlyNext.next
    | (with_reducible apply Only.andThen State.lowerPt_only; decide)
    | (with_reducible apply Only.andThen State.converterLimit_only; decide)
    | (with_reducible apply Only.andThen State.raise_only; decide)
    | with_reducible apply Only.each
    | intro _ _
    | split)

theorem execVinLow_only {vin : Nat} {s : State} :
    OnlyNext [.sent, .regs, .irq] s (execVinLow vin s) := by
  unfold execVinLow
  repeat' (first
    | with_reducible apply Only.refl
    | with_reducible apply OnlyNext.next
    | with_reducible apply OnlyNext.ite
    | (with_reducible apply Only.andThen State.setFld_only; decide)
    | (with_reducible apply Only.andThen State.raise_only; decide))

theorem execSenseFault_only {s : State} :
    OnlyNext [.sent, .regs, .irq, .rst] s (execSenseFault s) := by
  unfold execSenseFault
  repeat' (first
    | with_reducible apply Only.refl
    | with_reducible apply OnlyNext.next
    | (with_reducible apply Only.andThen State.setFld_only; decide)
    | (with_reducible apply Only.andThen State.raise_only; decide)
    | (with_reducible apply Only.andThen State.alertCause_only; decide))

theorem execDroop_only {k : Atoll} {s : State} :
    OnlyNext [.regs, .atolls] s (execDroop k s) := by
  unfold execDroop
  repeat' (first
    | with_reducible apply Only.refl
    | with_reducible apply OnlyNext.next
    | (with_reducible apply Only.andThen State.onPwr_only; decide)
    | (with_reducible apply Only.andThen State.showMHz_only; decide))

theorem execDroopRelease_only {k : Atoll} {s : State} :
    OnlyNext [.regs, .atolls] s (execDroopRelease k s) := by
  unfold execDroopRelease
  repeat' (first
    | with_reducible apply Only.refl
    | with_reducible apply OnlyNext.next
    | (with_reducible apply Only.andThen State.onPwr_only; decide)
    | (with_reducible apply Only.andThen State.showMHz_only; decide))

theorem execThrottle_only {k : Atoll} {temp : Int} {s : State} :
    OnlyNext [.sent, .regs, .irq, .atolls] s (execThrottle k temp s) := by
  unfold execThrottle
  repeat' (first
    | with_reducible apply Only.refl
    | with_reducible apply OnlyNext.next
    | with_reducible apply OnlyNext.ite
    | (with_reducible apply Only.andThen State.setBit_only; decide)
    | (with_reducible apply Only.andThen State.lowerPt_only; decide)
    | (with_reducible apply Only.andThen State.raise_only; decide)
    | (with_reducible apply Only.ite; rotate_left; intro _))

theorem execTrip_only {k : Atoll} {temp : Int} {s : State} :
    OnlyNext [.sent, .regs, .irq, .atolls, .rst] s (execTrip k temp s) := by
  unfold execTrip
  repeat' (first
    | with_reducible apply Only.refl
    | with_reducible apply OnlyNext.next
    | with_reducible apply OnlyNext.ite
    | (with_reducible apply Only.andThen State.setBit_only; decide)
    | (with_reducible apply Only.andThen State.raise_only; decide)
    | (with_reducible apply Only.andThen State.bump_only; decide)
    | (with_reducible apply Only.andThen State.setPt_only; decide)
    | (with_reducible apply Only.andThen State.alertCause_only; decide))

theorem execStackHot_only {stack : Stack} {temp : Int} {s : State} :
    OnlyNext [.sent, .regs, .irq, .pwr] s (execStackHot stack temp s) := by
  unfold execStackHot
  repeat' (first
    | with_reducible apply Only.refl
    | with_reducible apply OnlyNext.next
    | with_reducible apply OnlyNext.ite
    | (with_reducible apply Only.andThen State.onPower_only; decide)
    | (with_reducible apply Only.andThen State.raise_only; decide))

theorem execSetpointReached_only {k : Atoll} {s : State} :
    OnlyNext [.regs, .atolls] s (execSetpointReached k s) := by
  unfold execSetpointReached
  repeat' (first
    | with_reducible apply Only.refl
    | with_reducible apply OnlyNext.next
    | (with_reducible apply Only.andThen State.onPwr_only; decide)
    | (with_reducible apply Only.andThen State.showMHz_only; decide))

theorem State.hostBeat_only {s : State} :
    Only [.pwr] s (State.hostBeat s) := by
  unfold State.hostBeat
  repeat' (first
    | with_reducible apply Only.refl
    | (with_reducible apply Only.andThen State.onPower_only; decide))

theorem State.beatFallback_only {s : State} :
    Only [.sent, .regs, .irq, .pwr] s (State.beatFallback s) := by
  unfold State.beatFallback
  repeat' (first
    | with_reducible apply Only.refl
    | (with_reducible apply Only.andThen State.onPower_only; decide)
    | (with_reducible apply Only.andThen State.fell_only; decide)
    | (with_reducible apply Only.ite; rotate_left; intro _))

end Sys2Proof.Machine
end

