-- ==== Sys2Proof/Laws/OnlyModes.lean ====
section
/-! SUPPORT. What the operations of Machine/Modes.lean change (`Only`). -/

namespace Sys2Proof.Machine

theorem State.portSelfRule_only {s : State} {p : PortIx} {what : Nat} {now : Bool} :
    Only [.sent, .regs, .waits, .ports] s (State.portSelfRule s p what now) := by
  unfold State.portSelfRule
  repeat' (first
    | with_reducible apply Only.refl
    | (with_reducible apply Only.andThen State.answered_only; decide)
    | (with_reducible apply Only.andThen State.onLane_only; decide)
    | (with_reducible apply Only.andThen State.emit_only; decide)
    | (with_reducible apply Only.andThen State.onBundle_only; decide)
    | (with_reducible apply Only.andThen State.retrainBundle_only; decide)
    | (with_reducible apply Only.ite; rotate_left; intro _))

theorem State.channelRule_only {s : State} {k : Atoll} {b what : Nat} {now : Bool} :
    Only [.sent, .fresh, .regs, .irq, .memWait, .waits, .selfActs, .atolls, .mem, .ckpt, .rst] s (State.channelRule s k b what now) := by
  unfold State.channelRule
  repeat' (first
    | with_reducible apply Only.refl
    | (with_reducible apply Only.andThen State.answered_only; decide)
    | (with_reducible apply Only.andThen State.onChan_only; decide)
    | (with_reducible apply Only.andThen State.openWindow_only; decide)
    | (with_reducible apply Only.andThen State.queueMapout_only; decide)
    | (with_reducible apply Only.andThen State.ebbSlack_only; decide)
    | (with_reducible apply Only.ite; rotate_left; intro _))

theorem State.qServe_only {s : State} {k : Atoll} {addr : Nat} :
    Only [.fresh, .regs, .waits, .atolls, .mem] s (State.qServe s k addr) := by
  unfold State.qServe
  repeat' (first
    | with_reducible apply Only.refl
    | (with_reducible apply Only.andThen State.qSet_only; decide)
    | (with_reducible apply Only.andThen State.onSeq_only; decide)
    | (with_reducible apply Only.andThen State.answered_only; decide))

theorem State.stepServe_only {s : State} {k : Atoll} {i : Nat} :
    Only [.atolls] s (State.stepServe s k i) := by
  unfold State.stepServe
  repeat' (first
    | with_reducible apply Only.refl
    | (with_reducible apply Only.andThen State.onRed_only; decide))

theorem State.selfRule_only {s : State} {c i b what : Nat} {fell : Bool} :
    Only [.sent, .fresh, .regs, .irq, .memWait, .waits, .selfActs, .atolls, .ports, .sound, .mem, .ckpt, .rst] s (State.selfRule s c i b what fell) := by
  unfold State.selfRule
  dsimp only
  repeat' (first
    | with_reducible apply Only.refl
    | (with_reducible apply Only.andThen State.qFallback_only; decide)
    | (with_reducible apply Only.andThen State.qServe_only; decide)
    | (with_reducible apply Only.andThen State.strmSelfRule_only; decide)
    | (with_reducible apply Only.andThen State.channelRule_only; decide)
    | (with_reducible apply Only.andThen State.answered_only; decide)
    | (with_reducible apply Only.andThen State.portSelfRule_only; decide)
    | (with_reducible apply Only.andThen State.stepFallback_only; decide)
    | (with_reducible apply Only.andThen State.stepServe_only; decide)
    | (with_reducible apply Only.andThen State.ckptFallback_only; decide)
    | (with_reducible apply Only.andThen State.admitFallback_only; decide)
    | (with_reducible apply Only.andThen State.queueReplan_only; decide)
    | split
    | fail_if_no_progress (with_reducible apply Only.andThen Only.selfActs; decide))

theorem State.handOver_only {s : State} :
    Only [.sent, .fresh, .regs, .irq, .memWait, .waits, .selfActs, .atolls, .ports, .sound, .mem, .ckpt, .rst] s (State.handOver s) := by
  unfold State.handOver
  repeat' (first
    | with_reducible apply Only.refl
    | with_reducible assumption
    | (with_reducible apply Only.andThen State.selfRule_only; decide)
    | with_reducible apply Only.each
    | (with_reducible apply Only.ite; rotate_left; intro _)
    | intro _ _ _)

theorem execHostTimeout_only {page : PageIx} {bit : Fin 4} {s : State} :
    OnlyNext [.sent, .fresh, .regs, .irq, .memWait, .waits, .selfActs, .atolls, .ports, .sound, .mem, .ckpt, .pwr, .rst] s (execHostTimeout page bit s) := by
  unfold execHostTimeout
  repeat' (first
    | with_reducible apply Only.refl
    | with_reducible assumption
    | with_reducible apply OnlyNext.next
    | with_reducible apply OnlyNext.ite
    | (with_reducible apply Only.andThen State.beatFallback_only; decide)
    | (with_reducible apply Only.andThen State.selfRule_only; decide)
    | (with_reducible apply Only.andThen State.fell_only; decide)
    | with_reducible apply Only.each
    | intro _ _ _)

end Sys2Proof.Machine
end

