-- ==== Sys2Proof/Laws/OnlyTide.lean ====
section
/-! SUPPORT. What the operations of Machine/Tide.lean change (`Only`). -/

namespace Sys2Proof.Machine

theorem State.onPeer_only {s : State} {slot : Nat} {f : PeerSt → PeerSt} :
    Only [.tide] s (State.onPeer s slot f) := by
  unfold State.onPeer
  repeat' (first
    | with_reducible apply Only.refl
    | (with_reducible apply Only.andThen State.onTide_only; decide))

theorem State.showLead_only {s : State} :
    Only [.regs, .tide] s (State.showLead s) := by
  unfold State.showLead
  repeat' (first
    | with_reducible apply Only.refl
    | (with_reducible apply Only.andThen State.setFld_only; decide)
    | (with_reducible apply Only.andThen State.onTide_only; decide)
    | (with_reducible apply Only.andThen State.wr_only; decide)
    | (with_reducible apply Only.ite; rotate_left; intro _))

theorem State.leadSlack_only {s : State} {was : Option Nat} :
    Only [.sent, .regs, .irq, .tide] s (State.leadSlack s was) := by
  unfold State.leadSlack
  repeat' (first
    | with_reducible apply Only.refl
    | (with_reducible apply Only.andThen State.onTide_only; decide)
    | (with_reducible apply Only.andThen State.setFld_only; decide)
    | (with_reducible apply Only.andThen State.showLead_only; decide)
    | (with_reducible apply Only.andThen State.raise_only; decide)
    | (with_reducible apply Only.andThen State.raiseIf_only; decide)
    | (with_reducible apply Only.ite; rotate_left; intro _))

theorem State.countMark_only {s : State} :
    Only [.regs, .rst] s (State.countMark s) := by
  unfold State.countMark
  repeat' (first
    | with_reducible apply Only.refl
    | (with_reducible apply Only.andThen State.setFld_only; decide)
    | (with_reducible apply Only.ite; rotate_left; intro _)
    | fail_if_no_progress (with_reducible apply Only.andThen Only.rst; decide))

theorem State.sendCopy_only {s : State} {b : MarkBody} {p : PortIx} {x l : Nat} :
    Only [.sent, .fresh, .regs, .irq, .waits, .atolls, .sound, .mem] s (State.sendCopy s b p x l) := by
  unfold State.sendCopy
  repeat' (first
    | with_reducible apply Only.refl
    | (with_reducible apply Only.andThen State.fresh_only; decide)
    | (with_reducible apply Only.andThen State.emit_only; decide)
    | (with_reducible apply Only.andThen State.bump_only; decide))

theorem State.markOut_only {s : State} {b : MarkBody} {p : PortIx} {x : Nat} :
    Only [.sent, .fresh, .regs, .irq, .waits, .atolls, .sound, .mem] s (State.markOut s b p x) := by
  unfold State.markOut
  repeat' (first
    | with_reducible apply Only.refl
    | with_reducible assumption
    | (with_reducible apply Only.andThen State.sendCopy_only; decide)
    | with_reducible apply Only.each
    | intro _ _ _)

theorem State.sendMark_only {s : State} {n : Nat} :
    Only [.sent, .fresh, .now, .regs, .irq, .waits, .tickets, .tide, .atolls, .ports, .sound, .mem, .pwr, .rst] s (State.sendMark s n) := by
  unfold State.sendMark
  repeat' (first
    | with_reducible apply Only.refl
    | with_reducible assumption
    | (with_reducible apply Only.andThen State.passTo_only; decide)
    | (with_reducible apply Only.andThen State.decideDue_only; decide)
    | (with_reducible apply Only.andThen State.countMark_only; decide)
    | (with_reducible apply Only.andThen State.setFld_only; decide)
    | (with_reducible apply Only.andThen State.bump_only; decide)
    | (with_reducible apply Only.andThen State.raiseIf_only; decide)
    | (with_reducible apply Only.andThen State.onTide_only; decide)
    | (with_reducible apply Only.andThen State.markOut_only; decide)
    | with_reducible apply Only.each
    | (with_reducible apply Only.ite; rotate_left; intro _)
    | intro _ _ _)

theorem execMark_only {s : State} :
    OnlyNext [.sent, .fresh, .now, .regs, .irq, .waits, .tickets, .tide, .atolls, .ports, .sound, .mem, .pwr, .rst] s (execMark s) := by
  unfold execMark
  repeat' (first
    | with_reducible apply Only.refl
    | with_reducible apply OnlyNext.next
    | (with_reducible apply Only.andThen State.sendMark_only; decide)
    | (with_reducible apply Only.ite; rotate_left; intro _))

theorem State.correct_only {s : State} {o : Int} :
    Only [.tide] s (State.correct s o) := by
  unfold State.correct
  repeat' (first
    | with_reducible apply Only.refl
    | (with_reducible apply Only.andThen State.onTide_only; decide))

theorem State.measure_only {s : State} {d : Nat} {b : MarkBody} :
    Only [.regs, .tide] s (State.measure s d b) := by
  unfold State.measure
  repeat' (first
    | with_reducible apply Only.refl
    | (with_reducible apply Only.andThen State.onTide_only; decide)
    | (with_reducible apply Only.andThen State.setFld_only; decide)
    | (with_reducible apply Only.andThen State.correct_only; decide)
    | (with_reducible apply Only.ite; rotate_left; intro _))

theorem State.markOnTime_only {s : State} {slot d : Nat} {b : MarkBody} {late : Bool} :
    Only [.sent, .regs, .staged, .irq, .selfActs, .tickets, .tide] s (State.markOnTime s slot d b late) := by
  unfold State.markOnTime
  repeat' (first
    | with_reducible apply Only.refl
    | (with_reducible apply Only.andThen State.onPeer_only; decide)
    | (with_reducible apply Only.andThen State.onTide_only; decide)
    | (with_reducible apply Only.andThen State.measure_only; decide)
    | (with_reducible apply Only.andThen State.decisionIn_only; decide)
    | (with_reducible apply Only.andThen State.heardInit_only; decide)
    | (with_reducible apply Only.ite; rotate_left; intro _))

theorem execMarkFlit_only {port : BPort} {peer : Word64} {b : MarkBody} {s : State} :
    OnlyNext [.sent, .fresh, .regs, .staged, .irq, .waits, .selfActs, .tickets, .tide, .atolls, .ports, .sound, .mem] s (execMarkFlit port peer b s) := by
  unfold execMarkFlit
  repeat' (first
    | with_reducible apply Only.refl
    | with_reducible apply OnlyNext.next
    | with_reducible apply OnlyNext.ite
    | (with_reducible apply Only.andThen State.bump_only; decide)
    | (with_reducible apply Only.andThen State.tellSlot_only; decide)
    | (with_reducible apply Only.andThen State.markOnTime_only; decide)
    | (with_reducible apply Only.andThen State.onBundle_only; decide)
    | (with_reducible apply Only.andThen State.onPeer_only; decide))

theorem State.turnLate_only {s : State} {p : PortIx} {x : Nat} {late : Bool} :
    Only [.sent, .fresh, .regs, .irq, .waits, .tide, .atolls, .ports, .sound, .mem] s (State.turnLate s p x late) := by
  unfold State.turnLate
  repeat' (first
    | with_reducible apply Only.refl
    | (with_reducible apply Only.andThen State.onBundle_only; decide)
    | (with_reducible apply Only.andThen State.onTide_only; decide)
    | (with_reducible apply Only.andThen State.raise_only; decide)
    | (with_reducible apply Only.ite; rotate_left; intro _))

theorem execPeerLate_only {port : BPort} {peer : Word64} {s : State} :
    OnlyNext [.sent, .fresh, .regs, .irq, .waits, .tide, .atolls, .ports, .sound, .mem] s (execPeerLate port peer s) := by
  unfold execPeerLate
  repeat' (first
    | with_reducible apply Only.refl
    | with_reducible apply OnlyNext.next
    | with_reducible apply OnlyNext.ite
    | (with_reducible apply Only.andThen State.turnLate_only; decide))

theorem execMarkLoss_only {s : State} :
    OnlyNext [.sent, .regs, .irq, .tide] s (execMarkLoss s) := by
  unfold execMarkLoss
  repeat' (first
    | with_reducible apply Only.refl
    | with_reducible apply OnlyNext.next
    | with_reducible apply OnlyNext.ite
    | (with_reducible apply Only.andThen State.onTide_only; decide)
    | (with_reducible apply Only.andThen State.raise_only; decide))

theorem State.saveArea_only {s : State} {k : Atoll} {idle : Bool} :
    Only [.atolls] s (State.saveArea s k idle) := by
  unfold State.saveArea
  repeat' (first
    | with_reducible apply Only.refl
    | with_reducible assumption
    | (with_reducible apply Only.andThen State.onArr_only; decide)
    | (with_reducible apply Only.onStrm; decide)
    | with_reducible apply SMap.wf_paste
    | intro _ _
    | split)

theorem State.loadArea_only {s : State} {k : Atoll} {idle : Bool} :
    Only [.atolls] s (State.loadArea s k idle) := by
  unfold State.loadArea
  repeat' (first
    | with_reducible apply Only.refl
    | (with_reducible apply Only.andThen State.onArr_only; decide)
    | (with_reducible apply Only.andThen State.onVec_only; decide))

theorem State.cutSlice_only {s : State} {k : Atoll} :
    Only [.sent, .regs, .irq, .atolls] s (State.cutSlice s k) := by
  unfold State.cutSlice
  dsimp only
  repeat' (first
    | with_reducible apply Only.refl
    | (with_reducible apply Only.andThen State.bump_only; decide)
    | (with_reducible apply Only.andThen State.onSeq_only; decide)
    | (with_reducible apply Only.andThen State.saveArea_only; decide)
    | (with_reducible apply Only.andThen State.raise_only; decide)
    | split)

theorem State.settleOverruns_only {s : State} :
    Only [.sent, .regs, .irq, .waits, .atolls] s (State.settleOverruns s) := by
  unfold State.settleOverruns
  repeat' (first
    | with_reducible apply Only.refl
    | with_reducible assumption
    | (with_reducible apply Only.andThen State.cutSlice_only; decide)
    | (with_reducible apply Only.andThen State.tideFault_only; decide)
    | with_reducible apply Only.each
    | (with_reducible apply Only.ite; rotate_left; intro _)
    | intro _ _ _)

theorem State.resumeCut_only {s : State} {k : Atoll} :
    Only [.sent, .regs, .irq, .atolls] s (State.resumeCut s k) := by
  unfold State.resumeCut
  dsimp only
  repeat' (first
    | with_reducible apply Only.refl
    | (with_reducible apply Only.andThen State.onPwr_only; decide)
    | (with_reducible apply Only.andThen State.onSeq_only; decide)
    | (with_reducible apply Only.andThen State.oversize_only; decide)
    | (with_reducible apply Only.andThen State.fitWait_only; decide)
    | split)

theorem execCutResume_only {k : Atoll} {s : State} :
    OnlyNext [.now, .regs, .tide, .atolls, .ports, .pwr, .rst] s (execCutResume k s) := by
  unfold execCutResume
  repeat' (first
    | with_reducible apply Only.refl
    | with_reducible apply OnlyNext.next
    | (with_reducible apply Only.andThen State.passTo_only; decide)
    | (with_reducible apply Only.andThen State.onSeq_only; decide)
    | (with_reducible apply Only.andThen State.loadArea_only; decide)
    | (with_reducible apply Only.andThen State.onArr_only; decide)
    | split)

theorem State.tideCounts_only {s : State} {k : Atoll} :
    Only [.sent, .regs, .irq, .atolls] s (State.tideCounts s k) := by
  unfold State.tideCounts
  repeat' (first
    | with_reducible apply Only.refl
    | (with_reducible apply Only.andThen State.wr_only; decide)
    | (with_reducible apply Only.andThen State.bump_only; decide)
    | (with_reducible apply Only.andThen State.raiseIf_only; decide)
    | (with_reducible apply Only.andThen State.setFld_only; decide)
    | (with_reducible apply Only.onAtl; decide)
    | (intro _ h; exact h))

theorem State.peersSlack_only {s : State} :
    Only [.regs, .tide] s (State.peersSlack s) := by
  unfold State.peersSlack
  repeat' (first
    | with_reducible apply Only.refl
    | with_reducible assumption
    | (with_reducible apply Only.andThen State.onPeer_only; decide)
    | (with_reducible apply Only.andThen State.setFld_only; decide)
    | with_reducible apply Only.each
    | intro _ _ _)

theorem State.stepIn_only {s : State} {was : Nat} :
    Only [.sent, .regs, .irq, .tide] s (State.stepIn s was) := by
  unfold State.stepIn
  repeat' (first
    | with_reducible apply Only.refl
    | (with_reducible apply Only.andThen State.setFld_only; decide)
    | (with_reducible apply Only.andThen State.onTide_only; decide)
    | (with_reducible apply Only.andThen State.bump_only; decide)
    | (with_reducible apply Only.andThen State.raise_only; decide)
    | split)

theorem State.turnTide_only {s : State} :
    Only [.sent, .regs, .irq, .tide] s (State.turnTide s) := by
  unfold State.turnTide
  repeat' (first
    | with_reducible apply Only.refl
    | (with_reducible apply Only.andThen State.setFld_only; decide)
    | (with_reducible apply Only.andThen State.raiseIf_only; decide)
    | (with_reducible apply Only.andThen State.onTide_only; decide)
    | (with_reducible apply Only.andThen State.stepIn_only; decide)
    | (with_reducible apply Only.andThen State.peersSlack_only; decide)
    | (with_reducible apply Only.ite; rotate_left; intro _))

theorem State.relock_only {s : State} :
    Only [.regs] s (State.relock s) := by
  unfold State.relock
  repeat' (first
    | with_reducible apply Only.refl
    | with_reducible assumption
    | (with_reducible apply Only.andThen State.setFld_only; decide)
    | with_reducible apply Only.each
    | (with_reducible apply Only.ite; rotate_left; intro _)
    | intro _ _ _)

theorem State.fitSlack_only {s : State} {k : Atoll} :
    Only [.sent, .regs, .irq, .atolls] s (State.fitSlack s k) := by
  unfold State.fitSlack
  dsimp only
  repeat' (first
    | with_reducible apply Only.refl
    | (with_reducible apply Only.andThen State.testBegin_only; decide)
    | (with_reducible apply Only.andThen State.reissue_only; decide)
    | (with_reducible apply Only.andThen State.voidSlack_only; decide)
    | (with_reducible apply Only.andThen State.resumeCut_only; decide)
    | (with_reducible apply Only.andThen State.retest_only; decide)
    | split)

theorem State.takeSlack_only {s : State} {m : TideMeasure} :
    Only [.sent, .fresh, .regs, .staged, .irq, .memWait, .waits, .selfActs, .tickets, .tide, .atolls, .ports, .sound, .mem, .ckpt, .pwr, .age, .rst] s (State.takeSlack s m) := by
  unfold State.takeSlack
  repeat' (first
    | with_reducible apply Only.refl
    | with_reducible assumption
    | (with_reducible apply Only.andThen State.lagFlip_only; decide)
    | (with_reducible apply Only.andThen State.tideCounts_only; decide)
    | (with_reducible apply Only.andThen State.turnTide_only; decide)
    | (with_reducible apply Only.andThen State.settleOverruns_only; decide)
    | (with_reducible apply Only.andThen State.ticketsSlack_only; decide)
    | (with_reducible apply Only.andThen State.leadSlack_only; decide)
    | (with_reducible apply Only.andThen State.powerSlack_only; decide)
    | (with_reducible apply Only.andThen State.renewQuotas_only; decide)
    | (with_reducible apply Only.andThen State.soundSlack_only; decide)
    | (with_reducible apply Only.andThen State.groupsSlack_only; decide)
    | (with_reducible apply Only.andThen State.overloadSlack_only; decide)
    | (with_reducible apply Only.andThen State.openWindow_only; decide)
    | (with_reducible apply Only.andThen State.straitSlack_only; decide)
    | (with_reducible apply Only.andThen State.fabricSlack_only; decide)
    | (with_reducible apply Only.andThen State.stopEnd_only; decide)
    | (with_reducible apply Only.andThen State.partnerSlack_only; decide)
    | (with_reducible apply Only.andThen State.snapArm_only; decide)
    | (with_reducible apply Only.andThen State.relock_only; decide)
    | (with_reducible apply Only.onAtl; decide)
    | (with_reducible apply Only.andThen State.reduceWaiting_only; decide)
    | (with_reducible apply Only.andThen State.handOver_only; decide)
    | (with_reducible apply Only.andThen State.ebbSlack_only; decide)
    | (with_reducible apply Only.andThen State.fitSlack_only; decide)
    | (with_reducible apply Only.andThen State.startStreams_only; decide)
    | with_reducible apply Only.each
    | (intro _ h; dsimp only; (repeat' split) <;> exact h)
    | (with_reducible apply Only.ite; rotate_left; intro _)
    | intro _ _ _)

theorem execSlack_only {m : TideMeasure} {s : State} :
    OnlyNext [.sent, .fresh, .now, .regs, .staged, .irq, .memWait, .waits, .selfActs, .tickets, .tide, .atolls, .ports, .sound, .mem, .ckpt, .pwr, .age, .rst] s (execSlack m s) := by
  unfold execSlack
  repeat' (first
    | with_reducible apply Only.refl
    | with_reducible apply OnlyNext.next
    | with_reducible apply OnlyNext.ite
    | (with_reducible apply Only.andThen State.sendMark_only; decide)
    | (with_reducible apply Only.andThen State.passTo_only; decide)
    | (with_reducible apply Only.andThen State.takeSlack_only; decide)
    | (with_reducible apply Only.ite; rotate_left; intro _))

theorem State.marksUp_only {s : State} {n : Nat} :
    Only [.sent, .fresh, .now, .regs, .irq, .waits, .tickets, .tide, .atolls, .ports, .sound, .mem, .pwr, .rst] s (State.marksUp n s) := by
  induction n generalizing s with
  | zero => exact Only.refl
  | succ n ih =>
    unfold State.marksUp
    repeat' (first
      | with_reducible apply Only.refl
      | (with_reducible apply Only.andThen ih; decide)
      | (with_reducible apply Only.andThen State.sendMark_only; decide)
      | (with_reducible apply Only.ite; rotate_left; intro _))

theorem execGraceExpiry_only {m : TideMeasure} {s : State} :
    OnlyNext [.sent, .fresh, .now, .regs, .staged, .irq, .memWait, .waits, .selfActs, .tickets, .tide, .atolls, .ports, .sound, .mem, .ckpt, .pwr, .age, .rst] s (execGraceExpiry m s) := by
  unfold execGraceExpiry
  repeat' (first
    | with_reducible apply Only.refl
    | with_reducible apply OnlyNext.next
    | with_reducible apply OnlyNext.ite
    | (with_reducible apply Only.andThen State.marksUp_only; decide)
    | (with_reducible apply Only.andThen State.passTo_only; decide)
    | (with_reducible apply Only.andThen State.takeSlack_only; decide))

end Sys2Proof.Machine
end

