-- ==== Sys2Proof/Laws/OnlyBringup.lean ====
section
/-! SUPPORT. What the operations of Machine/Bringup.lean change (`Only`). -/

namespace Sys2Proof.Machine

theorem State.onRst_only {s : State} {f : RstSt → RstSt} :
    Only [.rst] s (State.onRst s f) := by
  unfold State.onRst
  repeat' (first
    | with_reducible apply Only.refl
    | fail_if_no_progress (with_reducible apply Only.andThen Only.rst; decide))

theorem State.showAtolls_only {s : State} :
    Only [.regs] s (State.showAtolls s) := by
  unfold State.showAtolls
  repeat' (first
    | with_reducible apply Only.refl
    | with_reducible assumption
    | (with_reducible apply Only.andThen State.setFld_only; decide)
    | (with_reducible apply Only.andThen State.wr_only; decide)
    | with_reducible apply Only.each
    | (with_reducible apply Only.ite; rotate_left; intro _)
    | intro _ _ _)

theorem State.loseAtoll_only {s : State} {k cause : Nat} :
    Only [.sent, .regs, .irq, .rst] s (State.loseAtoll s k cause) := by
  unfold State.loseAtoll
  repeat' (first
    | with_reducible apply Only.refl
    | (with_reducible apply Only.andThen State.setBit_only; decide)
    | (with_reducible apply Only.andThen State.emit_only; decide)
    | (with_reducible apply Only.andThen State.setFld_only; decide)
    | (with_reducible apply Only.andThen State.showAtolls_only; decide)
    | (with_reducible apply Only.andThen State.raise_only; decide)
    | (with_reducible apply Only.andThen State.alertCause_only; decide)
    | (with_reducible apply Only.ite; rotate_left; intro _))

theorem State.wiped_only {s : State} {power : Bool} :
    Only [.regs, .staged, .edges, .irq, .memWait, .waits, .selfActs, .tickets, .tide, .atolls, .ports, .sound, .mem, .ckpt, .pwr, .age, .rst] s (s.wiped power) := by
  refine ⟨rfl, fun h => ⟨SMap.wf_filter _ h.1, rfl, ?_, ?_, fun j => ?_⟩, fun p hp => ?_⟩
  · simp only [State.wiped]
    split
    · rfl
    · exact h.2.2.1
  · simp only [State.wiped]
    split
    · rfl
    · exact h.2.2.2.1
  · simp only [State.wiped, State.atl, Fin.getElem_fin, Vector.getElem_ofFn]
    rfl
  · cases p <;> first | rfl | exact absurd hp (by decide)

theorem State.keepBits_only {s : State} {a mask : Nat} :
    Only [.regs] s (State.keepBits s a mask) := by
  unfold State.keepBits
  repeat' (first
    | with_reducible apply Only.refl
    | (with_reducible apply Only.andThen State.wr_only; decide))

theorem State.settleKept_only {s : State} {power : Bool} :
    Only [.sent, .regs, .staged, .irq] s (State.settleKept s power) := by
  unfold State.settleKept
  repeat' (first
    | with_reducible apply Only.refl
    | with_reducible assumption
    | (with_reducible apply Only.andThen State.keepBits_only; decide)
    | (with_reducible apply Only.andThen State.unbindPage_only; decide)
    | (with_reducible apply Only.andThen State.setFld_only; decide)
    | (with_reducible apply Only.andThen State.safety_only; decide)
    | with_reducible apply Only.each
    | (with_reducible apply Only.ite; rotate_left; intro _)
    | intro _ _ _)

theorem State.restart_only {s : State} {power : Bool} :
    Only [.sent, .regs, .staged, .edges, .irq, .memWait, .waits, .selfActs, .tickets, .tide, .atolls, .ports, .sound, .mem, .ckpt, .pwr, .age, .rst] s (State.restart s power) := by
  unfold State.restart
  repeat' (first
    | with_reducible apply Only.refl
    | (with_reducible apply Only.andThen State.wiped_only; decide)
    | (with_reducible apply Only.andThen State.emit_only; decide)
    | (with_reducible apply Only.andThen State.setFld_only; decide)
    | (with_reducible apply Only.andThen State.settleKept_only; decide)
    | (with_reducible apply Only.andThen State.showAtolls_only; decide)
    | (with_reducible apply Only.ite; rotate_left; intro _))

theorem State.moduleReset_only {s : State} {cause : Nat} :
    Only [.sent, .regs, .staged, .edges, .irq, .memWait, .waits, .selfActs, .tickets, .tide, .atolls, .ports, .sound, .mem, .ckpt, .pwr, .age, .rst] s (State.moduleReset s cause) := by
  unfold State.moduleReset
  repeat' (first
    | with_reducible apply Only.refl
    | (with_reducible apply Only.andThen State.restart_only; decide)
    | (with_reducible apply Only.andThen State.setFld_only; decide)
    | (with_reducible apply Only.andThen State.bump_only; decide)
    | (with_reducible apply Only.ite; rotate_left; intro _))

theorem State.halted_only {s : State} :
    Only [.sent, .regs, .irq, .rst] s (State.halted s) := by
  unfold State.halted
  repeat' (first
    | with_reducible apply Only.refl
    | (with_reducible apply Only.andThen State.setFld_only; decide)
    | (with_reducible apply Only.andThen State.holmState_only; decide))

theorem State.waitFirmware_only {s : State} {c : Nat} :
    Only [.sent, .regs, .irq, .rst] s (State.waitFirmware s c) := by
  unfold State.waitFirmware
  repeat' (first
    | with_reducible apply Only.refl
    | (with_reducible apply Only.andThen State.onRst_only; decide)
    | (with_reducible apply Only.andThen State.holmState_only; decide)
    | (with_reducible apply Only.andThen State.setFld_only; decide))

theorem State.loadImages_only {s : State} {cs : List Nat} :
    Only [.rst] s (State.loadImages s cs) := by
  unfold State.loadImages
  repeat' (first
    | with_reducible apply Only.refl
    | with_reducible assumption
    | (with_reducible apply Only.andThen State.onRst_only; decide)
    | with_reducible apply Only.each
    | intro _ _ _)

theorem State.readStrap_only {s : State} {r : Nat} :
    Only [.regs] s (State.readStrap s r) := by
  unfold State.readStrap
  repeat' (first
    | with_reducible apply Only.refl
    | (with_reducible apply Only.andThen State.setFld_only; decide))

theorem State.startHolm_only {s : State} {idOk : Bool} :
    Only [.sent, .regs, .irq, .rst] s (State.startHolm s idOk) := by
  unfold State.startHolm
  repeat' (first
    | with_reducible apply Only.refl
    | (with_reducible apply Only.andThen State.loadImages_only; decide)
    | (with_reducible apply Only.andThen State.setFld_only; decide)
    | (with_reducible apply Only.andThen State.raise_only; decide)
    | (with_reducible apply Only.andThen State.onRst_only; decide)
    | (with_reducible apply Only.andThen State.alertCause_only; decide)
    | (with_reducible apply Only.ite; rotate_left; intro _))

theorem State.repairColumns_only {s : State} {found : List (Atoll × Nat)} :
    Only [.regs, .atolls] s (State.repairColumns s found) := by
  unfold State.repairColumns
  repeat' (first
    | with_reducible apply Only.refl
    | with_reducible assumption
    | (with_reducible apply Only.andThen State.setFld_only; decide)
    | (with_reducible apply Only.andThen State.onArr_only; decide)
    | with_reducible apply Only.each
    | intro _ _ _)

theorem State.readGauges_only {s : State} {drifts : List Nat} :
    Only [.sent, .regs, .irq, .waits, .atolls, .age, .rst] s (State.readGauges s drifts) := by
  unfold State.readGauges
  repeat' (first
    | with_reducible apply Only.refl
    | with_reducible assumption
    | (with_reducible apply Only.andThen State.setFld_only; decide)
    | (with_reducible apply Only.andThen State.putDrifts_only; decide)
    | (with_reducible apply Only.andThen State.loseAtoll_only; decide)
    | (with_reducible apply Only.andThen State.onAge_only; decide)
    | (with_reducible apply Only.andThen State.onPwr_only; decide)
    | (with_reducible apply Only.andThen State.raise_only; decide)
    | (with_reducible apply Only.andThen State.replan_only; decide)
    | (with_reducible apply Only.andThen State.showMHz_only; decide)
    | with_reducible apply Only.each
    | (with_reducible apply Only.ite; rotate_left; intro _)
    | intro _ _ _)

theorem State.agreeLeader_only {s : State} :
    Only [.regs] s (State.agreeLeader s) := by
  unfold State.agreeLeader
  repeat' (first
    | with_reducible apply Only.refl
    | (with_reducible apply Only.andThen State.setFld_only; decide))

theorem State.beginTide_only {s : State} :
    Only [.regs, .tide] s (State.beginTide s) := by
  unfold State.beginTide
  repeat' (first
    | with_reducible apply Only.refl
    | (with_reducible apply Only.andThen State.onTide_only; decide)
    | (with_reducible apply Only.andThen State.showLead_only; decide))

theorem State.becomeReady_only {s : State} :
    Only [.sent, .fresh, .regs, .irq, .atolls, .sound, .mem, .rst] s (State.becomeReady s) := by
  unfold State.becomeReady
  repeat' (first
    | with_reducible apply Only.refl
    | (with_reducible apply Only.andThen State.setFld_only; decide)
    | (with_reducible apply Only.andThen State.holmState_only; decide)
    | (with_reducible apply Only.andThen State.soundReady_only; decide)
    | (with_reducible apply Only.andThen State.safety_only; decide)
    | (with_reducible apply Only.ite; rotate_left; intro _))

theorem State.stageEnd_only {s : State} {n : Nat} :
    Only [.regs] s (State.stageEnd s n) := by
  unfold State.stageEnd
  repeat' (first
    | with_reducible apply Only.refl
    | (with_reducible apply Only.andThen State.wr_only; decide)
    | (with_reducible apply Only.andThen State.setFld_only; decide))

theorem State.stageWork_only {s : State} {n : Nat} {o : StageOutcome} :
    Only [.sent, .fresh, .regs, .irq, .waits, .tide, .atolls, .sound, .mem, .age, .rst] s (State.stageWork s n o) := by
  unfold State.stageWork
  repeat' (first
    | with_reducible apply Only.refl
    | with_reducible assumption
    | (with_reducible apply Only.andThen State.readStrap_only; decide)
    | (with_reducible apply Only.andThen State.startHolm_only; decide)
    | (with_reducible apply Only.andThen State.loadImages_only; decide)
    | (with_reducible apply Only.andThen State.onRst_only; decide)
    | (with_reducible apply Only.andThen State.repairColumns_only; decide)
    | (with_reducible apply Only.andThen State.sendTrain_only; decide)
    | (with_reducible apply Only.andThen State.beginTide_only; decide)
    | (with_reducible apply Only.andThen State.becomeReady_only; decide)
    | (with_reducible apply Only.andThen State.loseAtoll_only; decide)
    | (with_reducible apply Only.andThen State.readGauges_only; decide)
    | (with_reducible apply Only.andThen State.setFld_only; decide)
    | (with_reducible apply Only.andThen State.agreeLeader_only; decide)
    | with_reducible apply Only.each
    | intro _ _ _
    | split)

theorem execBringupStage_only {o : StageOutcome} {s : State} :
    OnlyNext [.sent, .fresh, .regs, .irq, .waits, .tide, .atolls, .sound, .mem, .age, .rst] s (execBringupStage o s) := by
  unfold execBringupStage
  dsimp only
  repeat' (first
    | with_reducible apply Only.refl
    | with_reducible apply OnlyNext.next
    | (with_reducible apply Only.andThen State.halted_only; decide)
    | (with_reducible apply Only.andThen State.waitFirmware_only; decide)
    | (with_reducible apply Only.andThen State.stageWork_only; decide)
    | (with_reducible apply Only.andThen State.loseAtoll_only; decide)
    | (with_reducible apply Only.andThen State.setFld_only; decide)
    | (with_reducible apply Only.andThen State.stageEnd_only; decide)
    | with_reducible apply Only.each
    | intro _ _
    | split)

theorem execPowerOn_only {s : State} :
    OnlyNext [.sent, .regs, .staged, .edges, .irq, .memWait, .waits, .selfActs, .tickets, .tide, .atolls, .ports, .sound, .mem, .ckpt, .pwr, .age, .rst] s (execPowerOn s) := by
  unfold execPowerOn
  repeat' (first
    | with_reducible apply Only.refl
    | with_reducible apply OnlyNext.next
    | with_reducible apply OnlyNext.ite
    | (with_reducible apply Only.andThen State.restart_only; decide)
    | (with_reducible apply Only.andThen State.setFld_only; decide)
    | (with_reducible apply Only.andThen State.onRst_only; decide))

theorem execBrdResetN_only {low : Bool} {samples : Nat} {s : State} :
    OnlyNext [.sent, .regs, .staged, .edges, .irq, .memWait, .waits, .selfActs, .tickets, .tide, .atolls, .ports, .sound, .mem, .ckpt, .pwr, .age, .rst] s (execBrdResetN low samples s) := by
  unfold execBrdResetN
  repeat' (first
    | with_reducible apply Only.refl
    | with_reducible apply OnlyNext.next
    | with_reducible apply OnlyNext.ite
    | (with_reducible apply Only.andThen State.onRst_only; decide)
    | (with_reducible apply Only.andThen State.moduleReset_only; decide)
    | (with_reducible apply Only.andThen State.bump_only; decide)
    | (with_reducible apply Only.andThen State.raise_only; decide))

theorem execWatchdog_only {s : State} :
    OnlyNext [.sent, .now, .regs, .staged, .edges, .irq, .memWait, .waits, .selfActs, .tickets, .tide, .atolls, .ports, .sound, .mem, .ckpt, .pwr, .age, .rst] s (execWatchdog s) := by
  unfold execWatchdog
  repeat' (first
    | with_reducible apply Only.refl
    | with_reducible apply OnlyNext.next
    | with_reducible apply OnlyNext.ite
    | (with_reducible apply Only.andThen State.moduleReset_only; decide)
    | fail_if_no_progress (with_reducible apply Only.andThen Only.now; decide))

theorem State.wdogKick_only {s : State} {by' : Requester} :
    Only [.rst] s (State.wdogKick s by') := by
  unfold State.wdogKick
  repeat' (first
    | with_reducible apply Only.refl
    | (with_reducible apply Only.andThen State.onRst_only; decide)
    | (with_reducible apply Only.ite; rotate_left; intro _))

theorem execRailFault_only {k : Atoll} {s : State} :
    OnlyNext [.sent, .regs, .staged, .edges, .irq, .memWait, .waits, .selfActs, .tickets, .tide, .atolls, .ports, .sound, .mem, .ckpt, .pwr, .age, .rst] s (execRailFault k s) := by
  unfold execRailFault
  repeat' (first
    | with_reducible apply Only.refl
    | with_reducible apply OnlyNext.next
    | with_reducible apply OnlyNext.ite
    | (with_reducible apply Only.andThen State.onRst_only; decide)
    | (with_reducible apply Only.andThen State.emit_only; decide)
    | (with_reducible apply Only.andThen State.moduleReset_only; decide)
    | (with_reducible apply Only.andThen State.raise_only; decide)
    | (with_reducible apply Only.andThen State.alertCause_only; decide))

theorem execLinkRetrain_only {k : Atoll} {link : Fin 4} {passed : Bool} {s : State} :
    OnlyNext [.sent, .regs, .staged, .edges, .irq, .memWait, .waits, .selfActs, .tickets, .tide, .atolls, .ports, .sound, .mem, .ckpt, .pwr, .age, .rst] s (execLinkRetrain k link passed s) := by
  unfold execLinkRetrain
  repeat' (first
    | with_reducible apply Only.refl
    | with_reducible apply OnlyNext.next
    | with_reducible apply OnlyNext.ite
    | (with_reducible apply Only.andThen State.bump_only; decide)
    | (with_reducible apply Only.andThen State.raise_only; decide)
    | (with_reducible apply Only.onAtl; decide)
    | (with_reducible apply Only.andThen State.moduleReset_only; decide)
    | (intro _ h; exact h))

theorem execResetReq_only {port : BPort} {peer : Word64} {s : State} :
    OnlyNext [.sent, .fresh, .regs, .irq, .waits, .tide, .atolls, .ports, .sound, .mem] s (execResetReq port peer s) := by
  unfold execResetReq
  repeat' (first
    | with_reducible apply Only.refl
    | with_reducible assumption
    | with_reducible apply OnlyNext.next
    | (with_reducible apply Only.andThen State.bump_only; decide)
    | (with_reducible apply Only.andThen State.onLane_only; decide)
    | (with_reducible apply Only.andThen State.bundleDown_only; decide)
    | with_reducible apply Only.each
    | (with_reducible apply Only.ite; rotate_left; intro _)
    | intro _ _ _)

theorem execPeerDown_only {port : BPort} {peer : Word64} {s : State} :
    OnlyNext [.sent, .fresh, .regs, .irq, .waits, .tide, .atolls, .ports, .sound, .mem] s (execPeerDown port peer s) := by
  unfold execPeerDown
  repeat' (first
    | with_reducible apply Only.refl
    | with_reducible apply OnlyNext.next
    | (with_reducible apply Only.andThen State.bundleDown_only; decide))

theorem State.coolantStop_only {s : State} {other : Bool} :
    Only [.sent, .regs, .irq, .waits, .tide, .atolls, .ports, .sound, .ckpt, .rst] s (State.coolantStop s other) := by
  unfold State.coolantStop
  repeat' (first
    | with_reducible apply Only.refl
    | with_reducible assumption
    | (with_reducible apply Only.andThen State.setFld_only; decide)
    | (with_reducible apply Only.andThen State.raise_only; decide)
    | (with_reducible apply Only.andThen State.dropUnits_only; decide)
    | (with_reducible apply Only.andThen State.setPt_only; decide)
    | (with_reducible apply Only.andThen State.onPort_only; decide)
    | (with_reducible apply Only.andThen State.holmState_only; decide)
    | (with_reducible apply Only.andThen State.bump_only; decide)
    | (with_reducible apply Only.andThen State.alertCause_only; decide)
    | (with_reducible apply Only.andThen State.dropLayers_only; decide)
    | (with_reducible apply Only.onAtl; decide)
    | (with_reducible apply Only.andThen State.emit_only; decide)
    | (with_reducible apply Only.andThen State.onTide_only; decide)
    | (intro _ _; rfl)
    | with_reducible apply Only.each
    | intro _ _ _
    | fail_if_no_progress (with_reducible apply Only.andThen Only.sound; decide))

theorem execCoolant_only {s : State} :
    OnlyNext [.sent, .regs, .irq, .waits, .tide, .atolls, .ports, .sound, .ckpt, .rst] s (execCoolant s) := by
  unfold execCoolant
  repeat' (first
    | with_reducible apply Only.refl
    | with_reducible apply OnlyNext.next
    | with_reducible apply OnlyNext.ite
    | (with_reducible apply Only.andThen State.setFld_only; decide)
    | (with_reducible apply Only.andThen State.coolantStop_only; decide))

theorem execCoolRestored_only {s : State} :
    OnlyNext [.sent, .regs, .irq] s (execCoolRestored s) := by
  unfold execCoolRestored
  repeat' (first
    | with_reducible apply Only.refl
    | with_reducible apply OnlyNext.next
    | (with_reducible apply Only.andThen State.setFld_only; decide)
    | (with_reducible apply Only.andThen State.raise_only; decide))

theorem execOtherTrip_only {d : OtherDie} {s : State} :
    OnlyNext [.sent, .regs, .irq, .waits, .tide, .atolls, .ports, .sound, .ckpt, .rst] s (execOtherTrip d s) := by
  unfold execOtherTrip
  dsimp only
  repeat' (first
    | with_reducible apply Only.refl
    | with_reducible apply OnlyNext.next
    | (with_reducible apply Only.andThen State.bump_only; decide)
    | (with_reducible apply Only.andThen State.coolantStop_only; decide)
    | split)

theorem State.clearStack_only {s : State} {st : Nat} : Only [.mem] s (s.clearStack st) :=
  ⟨rfl, fun h => ⟨h.1, h.2.1, SMap.wf_filter _ h.2.2.1, SMap.wf_filter _ h.2.2.2.1, h.2.2.2.2⟩, fun p hp => by
    cases p <;> first | rfl | exact absurd hp (by decide)⟩

theorem State.powerOff_only {s : State} :
    Only [.sent, .regs, .staged, .edges, .irq, .memWait, .waits, .selfActs, .tickets, .tide, .atolls, .ports, .sound, .mem, .ckpt, .pwr, .age, .rst] s (State.powerOff s) := by
  unfold State.powerOff
  repeat' (first
    | with_reducible apply Only.refl
    | (with_reducible apply Only.andThen State.wiped_only; decide)
    | (with_reducible apply Only.andThen State.onRst_only; decide)
    | (with_reducible apply Only.andThen State.settleKept_only; decide)
    | (with_reducible apply Only.andThen State.emit_only; decide))

theorem execStackLost_only {l : LostInStop} {s : State} :
    OnlyNext [.sent, .regs, .staged, .edges, .irq, .memWait, .waits, .selfActs, .tickets, .tide, .atolls, .ports, .sound, .mem, .ckpt, .pwr, .age, .rst] s (execStackLost l s) := by
  unfold execStackLost
  repeat' (first
    | with_reducible apply Only.refl
    | with_reducible apply OnlyNext.next
    | (with_reducible apply Only.andThen State.setFld_only; decide)
    | (with_reducible apply Only.andThen State.emit_only; decide)
    | (with_reducible apply Only.andThen State.powerOff_only; decide)
    | (with_reducible apply Only.andThen State.clearStack_only; decide)
    | split)

theorem execShutdown_only {c : ShutdownCause} {s : State} :
    OnlyNext [.sent, .regs, .staged, .edges, .irq, .memWait, .waits, .selfActs, .tickets, .tide, .atolls, .ports, .sound, .mem, .ckpt, .pwr, .age, .rst] s (execShutdown c s) := by
  unfold execShutdown
  repeat' (first
    | with_reducible apply Only.refl
    | with_reducible apply OnlyNext.next
    | (with_reducible apply Only.andThen State.holmState_only; decide)
    | (with_reducible apply Only.andThen State.powerOff_only; decide)
    | split)

end Sys2Proof.Machine
end

