-- ==== Sys2Proof/Laws/OnlyUpdate.lean ====
section
/-! SUPPORT. What the operations of Machine/Update.lean change (`Only`). -/

namespace Sys2Proof.Machine

theorem State.putRec_only {s : State} {k : Atoll} {a w : Nat} :
    Only [.sent, .regs, .irq, .atolls] s (State.putRec s k a w) := by
  unfold State.putRec
  repeat' (first
    | with_reducible apply Only.refl
    | (with_reducible apply Only.andThen State.lagWrite_only; decide))

theorem State.updOne_only {k : Atoll} {o : VOp} {r : SeqRegs} {v : VecSt} {s : State} {w e : Nat} :
    Only [.sent, .regs, .irq, .atolls] s (State.updOne k o r v (s, w) e).1 := by
  unfold State.updOne
  repeat' (first
    | with_reducible apply Only.refl
    | (with_reducible apply Only.andThen State.onVec_only; decide)
    | (with_reducible apply Only.andThen State.lagWrite_only; decide)
    | (with_reducible apply Only.andThen State.xaAdd_only; decide)
    | (with_reducible apply Only.ite; rotate_left; intro _)
    | (with_reducible apply Only.ite_fst; rotate_left; intro _))

theorem State.updWords_only {s : State} {k : Atoll} {r : SeqRegs} {o : VOp} :
    Only [.regs, .atolls] s (State.updWords s k r o) := by
  unfold State.updWords
  repeat' (first
    | with_reducible apply Only.refl
    | (with_reducible apply Only.andThen State.lagSeen_only; decide)
    | (with_reducible apply Only.andThen State.lagCover_only; decide)
    | (with_reducible apply Only.ite; rotate_left; intro _))

theorem State.vUpdate_only {s : State} {k : Atoll} {r : SeqRegs} {o : VOp} {v : VecSt} :
    Only [.sent, .regs, .irq, .waits, .atolls] s (State.vUpdate s k r o v) := by
  unfold State.vUpdate
  repeat' (first
    | with_reducible apply Only.refl
    | with_reducible assumption
    | (with_reducible apply Only.andThen State.lagFault_only; decide)
    | (with_reducible apply Only.andThen State.updWords_only; decide)
    | (with_reducible apply Only.andThen State.setXa_only; decide)
    | (with_reducible apply Only.andThen State.updOne_only; decide)
    | (with_reducible apply Only.andThen State.putRec_only; decide)
    | with_reducible apply Only.foldl_fst
    | (with_reducible apply Only.ite; rotate_left; intro _)
    | intro _ _ _ _)

theorem State.vFinish_only {s : State} {k : Atoll} {r : SeqRegs} {o : VOp} :
    Only [.sent, .regs, .irq, .waits, .atolls] s (State.vFinish s k r o) := by
  unfold State.vFinish
  repeat' (first
    | with_reducible apply Only.refl
    | (with_reducible apply Only.andThen State.lagFault_only; decide)
    | (with_reducible apply Only.andThen State.lagSeen_only; decide)
    | (with_reducible apply Only.andThen State.setS_only; decide)
    | (with_reducible apply Only.andThen State.onSeq_only; decide)
    | (with_reducible apply Only.ite; rotate_left; intro _))

theorem State.finishApply_only {s : State} {k : Atoll} {f : FinishHeld} :
    Only [.sent, .regs, .irq, .atolls] s (State.finishApply s k f) := by
  unfold State.finishApply
  repeat' (first
    | with_reducible apply Only.refl
    | (with_reducible apply Only.andThen State.putRec_only; decide)
    | (with_reducible apply Only.andThen State.setXa_only; decide)
    | (with_reducible apply Only.andThen State.setFld_only; decide)
    | (with_reducible apply Only.andThen State.bump_only; decide)
    | (with_reducible apply Only.andThen State.raiseIf_only; decide)
    | (with_reducible apply Only.andThen State.raise_only; decide)
    | (with_reducible apply Only.ite; rotate_left; intro _))

end Sys2Proof.Machine
end

