-- ==== Sys2Proof/Laws/OnlyVectorOps.lean ====
section
/-! SUPPORT. What the operations of Machine/VectorOps.lean change (`Only`). -/

namespace Sys2Proof.Machine

theorem State.vecEffect_only {s : State} {k : Atoll} {r : SeqRegs} {op : Nat} {o : VOp} {v : VecSt} :
    Only [.sent, .fresh, .regs, .irq, .waits, .atolls, .mem] s (State.vecEffect s k r op o v) := by
  unfold State.vecEffect
  repeat' (first
    | with_reducible apply Only.refl
    | (with_reducible apply Only.andThen State.vElem_only; decide)
    | (with_reducible apply Only.andThen State.vCmp_only; decide)
    | (with_reducible apply Only.andThen State.vSel_only; decide)
    | (with_reducible apply Only.andThen State.vPlog_only; decide)
    | (with_reducible apply Only.andThen State.vCvtw_only; decide)
    | (with_reducible apply Only.andThen State.vIota_only; decide)
    | (with_reducible apply Only.andThen State.vLoad_only; decide)
    | (with_reducible apply Only.andThen State.vConvert_only; decide)
    | (with_reducible apply Only.andThen State.vStore_only; decide)
    | (with_reducible apply Only.andThen State.vRed_only; decide)
    | (with_reducible apply Only.andThen State.vXfin_only; decide)
    | (with_reducible apply Only.andThen State.vNorm_only; decide)
    | (with_reducible apply Only.andThen State.vScan_only; decide)
    | (with_reducible apply Only.andThen State.vGather_only; decide)
    | (with_reducible apply Only.andThen State.vScatter_only; decide)
    | (with_reducible apply Only.andThen State.vSoft_only; decide)
    | (with_reducible apply Only.andThen State.vTload_only; decide)
    | (with_reducible apply Only.andThen State.vTab_only; decide)
    | (with_reducible apply Only.andThen State.vRand_only; decide)
    | (with_reducible apply Only.andThen State.vDigest_only; decide)
    | (with_reducible apply Only.andThen State.vLsq_only; decide)
    | (with_reducible apply Only.andThen State.vLsqf_only; decide)
    | (with_reducible apply Only.andThen State.vUpdate_only; decide)
    | (with_reducible apply Only.andThen State.vFinish_only; decide)
    | (with_reducible apply Only.ite; rotate_left; intro _))

theorem State.vecAct_only {s : State} {k : Atoll} {r : SeqRegs} {op : Nat} {o : VOp} {v : VecSt} :
    Only [.sent, .fresh, .regs, .irq, .waits, .atolls, .mem] s (State.vecAct s k r op o v) := by
  unfold State.vecAct
  repeat' (first
    | with_reducible apply Only.refl
    | (with_reducible apply Only.andThen State.onVec_only; decide)
    | (with_reducible apply Only.andThen State.vecEffect_only; decide))

theorem State.vecIssue_only {s : State} {k : Atoll} {op : Nat} {o : VOp} :
    Only [.sent, .fresh, .regs, .irq, .waits, .atolls, .mem] s (State.vecIssue s k op o) := by
  unfold State.vecIssue
  repeat' (first
    | with_reducible apply Only.refl
    | with_reducible assumption
    | (with_reducible apply Only.andThen State.flowNote_only; decide)
    | (with_reducible apply Only.optThen State.vecBad_only; decide; with_reducible assumption)
    | (with_reducible apply Only.andThen State.vecAct_only; decide)
    | (with_reducible apply State.slotIssue_only; decide)
    | intro _ _)

theorem State.drainIssue_only {s : State} {k : Atoll} {d : DrainOp} :
    Only [.sent, .regs, .irq, .waits, .atolls] s (State.drainIssue s k d) := by
  unfold State.drainIssue
  repeat' (first
    | with_reducible apply Only.refl
    | with_reducible assumption
    | (with_reducible apply Only.optThen State.drainBad_only; decide; with_reducible assumption)
    | (with_reducible apply Only.andThen State.drain_only; decide)
    | (with_reducible apply Only.andThen State.drainPart_only; decide)
    | (with_reducible apply State.slotIssue_only; decide)
    | (with_reducible apply Only.ite; rotate_left; intro _)
    | intro _ _)

theorem execVadd_only {k : Atoll} {v : VOp} {s : State} :
    OnlyNext [.sent, .fresh, .regs, .irq, .waits, .atolls, .mem] s (execVadd k v s) := by
  unfold execVadd
  repeat' (first
    | with_reducible apply Only.refl
    | with_reducible apply OnlyNext.next
    | (with_reducible apply Only.andThen State.vecIssue_only; decide))

theorem execVsub_only {k : Atoll} {v : VOp} {s : State} :
    OnlyNext [.sent, .fresh, .regs, .irq, .waits, .atolls, .mem] s (execVsub k v s) := by
  unfold execVsub
  repeat' (first
    | with_reducible apply Only.refl
    | with_reducible apply OnlyNext.next
    | (with_reducible apply Only.andThen State.vecIssue_only; decide))

theorem execVmul_only {k : Atoll} {v : VOp} {s : State} :
    OnlyNext [.sent, .fresh, .regs, .irq, .waits, .atolls, .mem] s (execVmul k v s) := by
  unfold execVmul
  repeat' (first
    | with_reducible apply Only.refl
    | with_reducible apply OnlyNext.next
    | (with_reducible apply Only.andThen State.vecIssue_only; decide))

theorem execVfma_only {k : Atoll} {v : VOp} {s : State} :
    OnlyNext [.sent, .fresh, .regs, .irq, .waits, .atolls, .mem] s (execVfma k v s) := by
  unfold execVfma
  repeat' (first
    | with_reducible apply Only.refl
    | with_reducible apply OnlyNext.next
    | (with_reducible apply Only.andThen State.vecIssue_only; decide))

theorem execVdiv_only {k : Atoll} {v : VOp} {s : State} :
    OnlyNext [.sent, .fresh, .regs, .irq, .waits, .atolls, .mem] s (execVdiv k v s) := by
  unfold execVdiv
  repeat' (first
    | with_reducible apply Only.refl
    | with_reducible apply OnlyNext.next
    | (with_reducible apply Only.andThen State.vecIssue_only; decide))

theorem execVsqrt_only {k : Atoll} {v : VOp} {s : State} :
    OnlyNext [.sent, .fresh, .regs, .irq, .waits, .atolls, .mem] s (execVsqrt k v s) := by
  unfold execVsqrt
  repeat' (first
    | with_reducible apply Only.refl
    | with_reducible apply OnlyNext.next
    | (with_reducible apply Only.andThen State.vecIssue_only; decide))

theorem execVrsqrt_only {k : Atoll} {v : VOp} {s : State} :
    OnlyNext [.sent, .fresh, .regs, .irq, .waits, .atolls, .mem] s (execVrsqrt k v s) := by
  unfold execVrsqrt
  repeat' (first
    | with_reducible apply Only.refl
    | with_reducible apply OnlyNext.next
    | (with_reducible apply Only.andThen State.vecIssue_only; decide))

theorem execVexp_only {k : Atoll} {v : VOp} {s : State} :
    OnlyNext [.sent, .fresh, .regs, .irq, .waits, .atolls, .mem] s (execVexp k v s) := by
  unfold execVexp
  repeat' (first
    | with_reducible apply Only.refl
    | with_reducible apply OnlyNext.next
    | (with_reducible apply Only.andThen State.vecIssue_only; decide))

theorem execVlog_only {k : Atoll} {v : VOp} {s : State} :
    OnlyNext [.sent, .fresh, .regs, .irq, .waits, .atolls, .mem] s (execVlog k v s) := by
  unfold execVlog
  repeat' (first
    | with_reducible apply Only.refl
    | with_reducible apply OnlyNext.next
    | (with_reducible apply Only.andThen State.vecIssue_only; decide))

theorem execVmax_only {k : Atoll} {v : VOp} {s : State} :
    OnlyNext [.sent, .fresh, .regs, .irq, .waits, .atolls, .mem] s (execVmax k v s) := by
  unfold execVmax
  repeat' (first
    | with_reducible apply Only.refl
    | with_reducible apply OnlyNext.next
    | (with_reducible apply Only.andThen State.vecIssue_only; decide))

theorem execVmin_only {k : Atoll} {v : VOp} {s : State} :
    OnlyNext [.sent, .fresh, .regs, .irq, .waits, .atolls, .mem] s (execVmin k v s) := by
  unfold execVmin
  repeat' (first
    | with_reducible apply Only.refl
    | with_reducible apply OnlyNext.next
    | (with_reducible apply Only.andThen State.vecIssue_only; decide))

theorem execVabs_only {k : Atoll} {v : VOp} {s : State} :
    OnlyNext [.sent, .fresh, .regs, .irq, .waits, .atolls, .mem] s (execVabs k v s) := by
  unfold execVabs
  repeat' (first
    | with_reducible apply Only.refl
    | with_reducible apply OnlyNext.next
    | (with_reducible apply Only.andThen State.vecIssue_only; decide))

theorem execVneg_only {k : Atoll} {v : VOp} {s : State} :
    OnlyNext [.sent, .fresh, .regs, .irq, .waits, .atolls, .mem] s (execVneg k v s) := by
  unfold execVneg
  repeat' (first
    | with_reducible apply Only.refl
    | with_reducible apply OnlyNext.next
    | (with_reducible apply Only.andThen State.vecIssue_only; decide))

theorem execVscalb_only {k : Atoll} {v : VOp} {s : State} :
    OnlyNext [.sent, .fresh, .regs, .irq, .waits, .atolls, .mem] s (execVscalb k v s) := by
  unfold execVscalb
  repeat' (first
    | with_reducible apply Only.refl
    | with_reducible apply OnlyNext.next
    | (with_reducible apply Only.andThen State.vecIssue_only; decide))

theorem execVcmp_only {k : Atoll} {v : VOp} {s : State} :
    OnlyNext [.sent, .fresh, .regs, .irq, .waits, .atolls, .mem] s (execVcmp k v s) := by
  unfold execVcmp
  repeat' (first
    | with_reducible apply Only.refl
    | with_reducible apply OnlyNext.next
    | (with_reducible apply Only.andThen State.vecIssue_only; decide))

theorem execVsel_only {k : Atoll} {v : VOp} {s : State} :
    OnlyNext [.sent, .fresh, .regs, .irq, .waits, .atolls, .mem] s (execVsel k v s) := by
  unfold execVsel
  repeat' (first
    | with_reducible apply Only.refl
    | with_reducible apply OnlyNext.next
    | (with_reducible apply Only.andThen State.vecIssue_only; decide))

theorem execVplog_only {k : Atoll} {v : VOp} {s : State} :
    OnlyNext [.sent, .fresh, .regs, .irq, .waits, .atolls, .mem] s (execVplog k v s) := by
  unfold execVplog
  repeat' (first
    | with_reducible apply Only.refl
    | with_reducible apply OnlyNext.next
    | (with_reducible apply Only.andThen State.vecIssue_only; decide))

theorem execVcvtw_only {k : Atoll} {v : VOp} {s : State} :
    OnlyNext [.sent, .fresh, .regs, .irq, .waits, .atolls, .mem] s (execVcvtw k v s) := by
  unfold execVcvtw
  repeat' (first
    | with_reducible apply Only.refl
    | with_reducible apply OnlyNext.next
    | (with_reducible apply Only.andThen State.vecIssue_only; decide))

theorem execViota_only {k : Atoll} {v : VOp} {s : State} :
    OnlyNext [.sent, .fresh, .regs, .irq, .waits, .atolls, .mem] s (execViota k v s) := by
  unfold execViota
  repeat' (first
    | with_reducible apply Only.refl
    | with_reducible apply OnlyNext.next
    | (with_reducible apply Only.andThen State.vecIssue_only; decide))

theorem execVld_only {k : Atoll} {v : VOp} {s : State} :
    OnlyNext [.sent, .fresh, .regs, .irq, .waits, .atolls, .mem] s (execVld k v s) := by
  unfold execVld
  repeat' (first
    | with_reducible apply Only.refl
    | with_reducible apply OnlyNext.next
    | (with_reducible apply Only.andThen State.vecIssue_only; decide))

theorem execVst_only {k : Atoll} {v : VOp} {s : State} :
    OnlyNext [.sent, .fresh, .regs, .irq, .waits, .atolls, .mem] s (execVst k v s) := by
  unfold execVst
  repeat' (first
    | with_reducible apply Only.refl
    | with_reducible apply OnlyNext.next
    | (with_reducible apply Only.andThen State.vecIssue_only; decide))

theorem execVred_only {k : Atoll} {v : VOp} {s : State} :
    OnlyNext [.sent, .fresh, .regs, .irq, .waits, .atolls, .mem] s (execVred k v s) := by
  unfold execVred
  repeat' (first
    | with_reducible apply Only.refl
    | with_reducible apply OnlyNext.next
    | (with_reducible apply Only.andThen State.vecIssue_only; decide))

theorem execVxfin_only {k : Atoll} {v : VOp} {s : State} :
    OnlyNext [.sent, .fresh, .regs, .irq, .waits, .atolls, .mem] s (execVxfin k v s) := by
  unfold execVxfin
  repeat' (first
    | with_reducible apply Only.refl
    | with_reducible apply OnlyNext.next
    | (with_reducible apply Only.andThen State.vecIssue_only; decide))

theorem execVnorm_only {k : Atoll} {v : VOp} {s : State} :
    OnlyNext [.sent, .fresh, .regs, .irq, .waits, .atolls, .mem] s (execVnorm k v s) := by
  unfold execVnorm
  repeat' (first
    | with_reducible apply Only.refl
    | with_reducible apply OnlyNext.next
    | (with_reducible apply Only.andThen State.vecIssue_only; decide))

theorem execVscan_only {k : Atoll} {v : VOp} {s : State} :
    OnlyNext [.sent, .fresh, .regs, .irq, .waits, .atolls, .mem] s (execVscan k v s) := by
  unfold execVscan
  repeat' (first
    | with_reducible apply Only.refl
    | with_reducible apply OnlyNext.next
    | (with_reducible apply Only.andThen State.vecIssue_only; decide))

theorem execVgather_only {k : Atoll} {v : VOp} {s : State} :
    OnlyNext [.sent, .fresh, .regs, .irq, .waits, .atolls, .mem] s (execVgather k v s) := by
  unfold execVgather
  repeat' (first
    | with_reducible apply Only.refl
    | with_reducible apply OnlyNext.next
    | (with_reducible apply Only.andThen State.vecIssue_only; decide))

theorem execVscatter_only {k : Atoll} {v : VOp} {s : State} :
    OnlyNext [.sent, .fresh, .regs, .irq, .waits, .atolls, .mem] s (execVscatter k v s) := by
  unfold execVscatter
  repeat' (first
    | with_reducible apply Only.refl
    | with_reducible apply OnlyNext.next
    | (with_reducible apply Only.andThen State.vecIssue_only; decide))

theorem execVsoftmax_only {k : Atoll} {v : VOp} {s : State} :
    OnlyNext [.sent, .fresh, .regs, .irq, .waits, .atolls, .mem] s (execVsoftmax k v s) := by
  unfold execVsoftmax
  repeat' (first
    | with_reducible apply Only.refl
    | with_reducible apply OnlyNext.next
    | (with_reducible apply Only.andThen State.vecIssue_only; decide))

theorem execVlse_only {k : Atoll} {v : VOp} {s : State} :
    OnlyNext [.sent, .fresh, .regs, .irq, .waits, .atolls, .mem] s (execVlse k v s) := by
  unfold execVlse
  repeat' (first
    | with_reducible apply Only.refl
    | with_reducible apply OnlyNext.next
    | (with_reducible apply Only.andThen State.vecIssue_only; decide))

theorem execVtload_only {k : Atoll} {v : VOp} {s : State} :
    OnlyNext [.sent, .fresh, .regs, .irq, .waits, .atolls, .mem] s (execVtload k v s) := by
  unfold execVtload
  repeat' (first
    | with_reducible apply Only.refl
    | with_reducible apply OnlyNext.next
    | (with_reducible apply Only.andThen State.vecIssue_only; decide))

theorem execVfun_only {k : Atoll} {v : VOp} {s : State} :
    OnlyNext [.sent, .fresh, .regs, .irq, .waits, .atolls, .mem] s (execVfun k v s) := by
  unfold execVfun
  repeat' (first
    | with_reducible apply Only.refl
    | with_reducible apply OnlyNext.next
    | (with_reducible apply Only.andThen State.vecIssue_only; decide))

theorem execVdfun_only {k : Atoll} {v : VOp} {s : State} :
    OnlyNext [.sent, .fresh, .regs, .irq, .waits, .atolls, .mem] s (execVdfun k v s) := by
  unfold execVdfun
  repeat' (first
    | with_reducible apply Only.refl
    | with_reducible apply OnlyNext.next
    | (with_reducible apply Only.andThen State.vecIssue_only; decide))

theorem execVrand_only {k : Atoll} {v : VOp} {s : State} :
    OnlyNext [.sent, .fresh, .regs, .irq, .waits, .atolls, .mem] s (execVrand k v s) := by
  unfold execVrand
  repeat' (first
    | with_reducible apply Only.refl
    | with_reducible apply OnlyNext.next
    | (with_reducible apply Only.andThen State.vecIssue_only; decide))

theorem execVdigest_only {k : Atoll} {v : VOp} {s : State} :
    OnlyNext [.sent, .fresh, .regs, .irq, .waits, .atolls, .mem] s (execVdigest k v s) := by
  unfold execVdigest
  repeat' (first
    | with_reducible apply Only.refl
    | with_reducible apply OnlyNext.next
    | (with_reducible apply Only.andThen State.vecIssue_only; decide))

theorem execVlsq_only {k : Atoll} {v : VOp} {s : State} :
    OnlyNext [.sent, .fresh, .regs, .irq, .waits, .atolls, .mem] s (execVlsq k v s) := by
  unfold execVlsq
  repeat' (first
    | with_reducible apply Only.refl
    | with_reducible apply OnlyNext.next
    | (with_reducible apply Only.andThen State.vecIssue_only; decide))

theorem execVlsqf_only {k : Atoll} {v : VOp} {s : State} :
    OnlyNext [.sent, .fresh, .regs, .irq, .waits, .atolls, .mem] s (execVlsqf k v s) := by
  unfold execVlsqf
  repeat' (first
    | with_reducible apply Only.refl
    | with_reducible apply OnlyNext.next
    | (with_reducible apply Only.andThen State.vecIssue_only; decide))

theorem execVupdUpdate_only {k : Atoll} {v : VOp} {s : State} :
    OnlyNext [.sent, .fresh, .regs, .irq, .waits, .atolls, .mem] s (execVupdUpdate k v s) := by
  unfold execVupdUpdate
  repeat' (first
    | with_reducible apply Only.refl
    | with_reducible apply OnlyNext.next
    | (with_reducible apply Only.andThen State.vecIssue_only; decide))

theorem execVupdFinish_only {k : Atoll} {v : VOp} {s : State} :
    OnlyNext [.sent, .fresh, .regs, .irq, .waits, .atolls, .mem] s (execVupdFinish k v s) := by
  unfold execVupdFinish
  repeat' (first
    | with_reducible apply Only.refl
    | with_reducible apply OnlyNext.next
    | (with_reducible apply Only.andThen State.vecIssue_only; decide))

theorem execVdrain_only {k : Atoll} {d : DrainOp} {s : State} :
    OnlyNext [.sent, .regs, .irq, .waits, .atolls] s (execVdrain k d s) := by
  unfold execVdrain
  repeat' (first
    | with_reducible apply Only.refl
    | with_reducible apply OnlyNext.next
    | (with_reducible apply Only.andThen State.drainIssue_only; decide))

end Sys2Proof.Machine
end

