-- ==== Sys2Proof/Laws/OnlySeq.lean ====
section
/-! SUPPORT. What the operations of Machine/Seq.lean change (`Only`). -/

namespace Sys2Proof.Machine

theorem State.scalarPut_only {s : State} {k : Atoll} {o : ScalarOut} :
    Only [.sent, .regs, .irq, .waits, .atolls] s (State.scalarPut s k o) := by
  cases o <;> unfold State.scalarPut <;> try dsimp only
  all_goals
    repeat' (first
      | with_reducible apply Only.refl
      | (with_reducible apply Only.andThen State.setS_only; decide)
      | (with_reducible apply Only.andThen State.onSeq_only; decide)
      | (with_reducible apply Only.andThen State.lagWrite_only; decide)
      | (with_reducible apply Only.andThen State.lagFault_only; decide))

theorem State.scalarIssue_only {s : State} {k : Atoll} {op : Nat} {rd rs1 : SReg} {b : SOperand} :
    Only [.sent, .regs, .irq, .waits, .atolls] s (State.scalarIssue s k op rd rs1 b) := by
  unfold State.scalarIssue
  repeat' (first
    | with_reducible apply Only.refl
    | (with_reducible apply Only.andThen State.refuse_only; decide)
    | (with_reducible apply Only.andThen State.flowNote_only; decide)
    | (with_reducible apply Only.andThen State.lagSeen_only; decide)
    | (with_reducible apply Only.andThen State.scalarPut_only; decide)
    | (with_reducible apply Only.andThen State.onSeq_only; decide)
    | (with_reducible apply Only.ite; rotate_left; intro _))

theorem State.swell_only {s : State} {k : Atoll} {phase : BitVec 12} {n : BitVec 8} {level : BitVec 4} :
    Only [.atolls] s (State.swell s k phase n level) := by
  unfold State.swell
  repeat' (first
    | with_reducible apply Only.refl
    | (with_reducible apply Only.andThen State.onPwr_only; decide))

theorem State.qclose_only {s : State} {k : Atoll} {addr : Nat} :
    Only [.atolls] s (State.qclose s k addr) := by
  unfold State.qclose
  repeat' (first
    | with_reducible apply Only.refl
    | (with_reducible apply Only.andThen State.onSeq_only; decide))

theorem State.msgIssue_only {s : State} {k : Atoll} {reduce : Bool} {ctr addr : Nat} {now : Bool} :
    Only [.sent, .fresh, .regs, .irq, .atolls, .sound, .mem] s (State.msgIssue s k reduce ctr addr now) := by
  unfold State.msgIssue
  dsimp only
  repeat' (first
    | with_reducible apply Only.refl
    | (with_reducible apply Only.andThen State.vFree_only; decide)
    | (with_reducible apply Only.andThen State.reduceNow_only; decide)
    | (with_reducible apply Only.andThen State.sendMsg_only; decide)
    | (with_reducible apply Only.andThen State.onSeq_only; decide)
    | split)

theorem State.msgAlone_only {s : State} {k : Atoll} {reduce : Bool} {ctr : BitVec 4} {r : SReg} {now : Bool} :
    Only [.sent, .fresh, .regs, .irq, .waits, .atolls, .sound, .mem] s (State.msgAlone s k reduce ctr r now) := by
  unfold State.msgAlone
  repeat' (first
    | with_reducible apply Only.refl
    | with_reducible assumption
    | (with_reducible apply Only.andThen State.refuse_only; decide)
    | (with_reducible apply Only.andThen State.msgIssue_only; decide)
    | (with_reducible apply State.slotIssue_only; decide)
    | (intro _ ht; (try dsimp only at ht); split at ht <;> cases ht)
    | intro _ _)

theorem State.publishNow_only {s : State} {k : Atoll} {p : Publish} :
    Only [.sent, .fresh, .regs, .irq, .waits, .atolls, .sound, .mem] s (State.publishNow s k p) := by
  unfold State.publishNow
  repeat' (first
    | with_reducible apply Only.refl
    | (with_reducible apply Only.andThen State.sample_only; decide)
    | (with_reducible apply Only.andThen State.qFold_only; decide)
    | (with_reducible apply Only.andThen State.finishApply_only; decide)
    | (with_reducible apply Only.andThen State.qClose_only; decide)
    | (with_reducible apply Only.andThen State.gcgWriteBack_only; decide)
    | (with_reducible apply Only.andThen State.reduceNow_only; decide)
    | (with_reducible apply Only.andThen State.sendMsg_only; decide)
    | (with_reducible apply Only.andThen State.setFld_only; decide)
    | (with_reducible apply Only.andThen State.record_only; decide)
    | (with_reducible apply Only.andThen State.bump_only; decide)
    | (with_reducible apply Only.andThen State.onSeq_only; decide)
    | with_reducible apply Only.each
    | intro _ _
    | split)

theorem State.publish_only {s : State} {k : Atoll} {p : Publish} :
    Only [.sent, .fresh, .regs, .irq, .waits, .atolls, .sound, .mem] s (State.publish s k p) := by
  unfold State.publish
  repeat' (first
    | with_reducible apply Only.refl
    | (with_reducible apply Only.andThen State.publishNow_only; decide)
    | (with_reducible apply Only.andThen State.onSeq_only; decide)
    | (with_reducible apply Only.ite; rotate_left; intro _))

theorem State.unitsBad_only {s t : State} {k : Atoll} {r : SeqRegs} {b : Bundle} (h : s.unitsBad k r b = some t) :
    Only [.sent, .fresh, .regs, .irq, .waits, .atolls, .mem] s t := by
  unfold State.unitsBad at h
  refine Only.optOr h (fun ha => ?_) fun hb => Only.optOr hb (fun ha => ?_) fun ha => ?_
  all_goals
    split at ha
    · first
        | exact Only.mono (State.arrBad_only ha) (by decide)
        | exact Only.mono (State.vecBad_only ha) (by decide)
        | exact Only.mono (State.drainBad_only ha) (by decide)
    · cases ha

theorem State.unitsAct_only {s : State} {k : Atoll} {r : SeqRegs} {b : Bundle} :
    Only [.sent, .fresh, .regs, .irq, .waits, .atolls, .sound, .mem] s (State.unitsAct s k r b) := by
  unfold State.unitsAct
  repeat' (first
    | with_reducible apply Only.refl
    | (with_reducible apply Only.andThen State.arrEnter_only; decide)
    | (with_reducible apply Only.andThen State.drain_only; decide)
    | (with_reducible apply Only.andThen State.vecAct_only; decide)
    | (with_reducible apply Only.andThen State.issueStream_only; decide)
    | (with_reducible apply Only.andThen State.msgIssue_only; decide)
    | split)

theorem State.bundleEnd_only {s : State} {k : Atoll} {r : SeqRegs} {c : Ctl} {out : List ScalarOut} :
    Only [.sent, .regs, .irq, .waits, .atolls] s (State.bundleEnd s k r c out) := by
  unfold State.bundleEnd
  repeat' (first
    | with_reducible apply Only.refl
    | (with_reducible apply Only.andThen State.scalarPut_only; decide)
    | (with_reducible apply Only.andThen State.swell_only; decide)
    | (with_reducible apply Only.andThen State.qclose_only; decide)
    | (with_reducible apply Only.andThen State.onSeq_only; decide)
    | with_reducible apply Only.each
    | intro _ _
    | split)

theorem State.bundleStall_only {s : State} {k : Atoll} {r : SeqRegs} {b : Bundle} :
    Only [.sent, .regs, .irq, .atolls] s (State.bundleStall s k r b) := by
  unfold State.bundleStall
  dsimp only
  repeat' (first
    | with_reducible apply Only.refl
    | (with_reducible apply Only.andThen State.flowNote_only; decide)
    | (with_reducible apply Only.andThen State.drainPart_only; decide)
    | (with_reducible apply Only.andThen State.onSeq_only; decide)
    | split)

theorem State.bundleAct_only {s : State} {k : Atoll} {r : SeqRegs} {b : Bundle} :
    Only [.sent, .fresh, .regs, .irq, .waits, .atolls, .sound, .mem] s (State.bundleAct s k r b) := by
  unfold State.bundleAct
  dsimp only
  repeat' (first
    | with_reducible apply Only.refl
    | (with_reducible apply Only.andThen State.bundleStall_only; decide)
    | (with_reducible apply Only.optThen State.unitsBad_only; decide; with_reducible assumption)
    | (with_reducible apply Only.andThen State.lagFault_only; decide)
    | (with_reducible apply Only.andThen State.lagSeen_only; decide)
    | (with_reducible apply Only.andThen State.publishNow_only; decide)
    | (with_reducible apply Only.andThen State.onSeq_only; decide)
    | (with_reducible apply Only.andThen State.bundleEnd_only; decide)
    | (with_reducible apply Only.andThen State.unitsAct_only; decide)
    | with_reducible apply Only.each
    | intro _ _
    | split)

theorem State.bundleLate_only {s : State} {k : Atoll} {out : List ScalarOut} :
    Only [.sent, .fresh, .regs, .irq, .waits, .atolls, .sound, .mem] s (State.bundleLate s k out) := by
  unfold State.bundleLate
  repeat' (first
    | with_reducible apply Only.refl
    | (with_reducible apply Only.andThen State.publishNow_only; decide)
    | (with_reducible apply Only.andThen State.bundleEnd_only; decide)
    | split)

theorem State.bundle_only {s : State} {k : Atoll} :
    Only [.sent, .fresh, .regs, .irq, .waits, .atolls, .sound, .mem] s (State.bundle s k) := by
  unfold State.bundle
  dsimp only
  repeat' (first
    | with_reducible apply Only.refl
    | (with_reducible apply Only.andThen State.bundleLate_only; decide)
    | (with_reducible apply Only.andThen State.refuse_only; decide)
    | (with_reducible apply Only.andThen State.bundleAct_only; decide)
    | (with_reducible apply Only.andThen State.enterSlice_only; decide)
    | (with_reducible apply Only.andThen State.tryOpen_only; decide)
    | (with_reducible apply Only.andThen State.onSeq_only; decide)
    | split)

theorem State.iloadArm_only {s : State} {k : Atoll} :
    Only [.sent, .regs, .irq, .atolls] s (State.iloadArm s k) := by
  unfold State.iloadArm
  repeat' (first
    | with_reducible apply Only.refl
    | (with_reducible apply Only.andThen State.setFld_only; decide)
    | (with_reducible apply Only.andThen State.onSeq_only; decide)
    | (with_reducible apply Only.andThen State.raise_only; decide)
    | (with_reducible apply Only.ite; rotate_left; intro _))

theorem State.iloadRun_only {s : State} {k : Atoll} {src first n : Nat} :
    Only [.regs, .atolls] s (State.iloadRun s k src first n).1 := by
  induction n generalizing s src first with
  | zero => exact Only.refl
  | succ n ih =>
    unfold State.iloadRun
    repeat' (first
      | with_reducible apply Only.refl
      | (with_reducible apply Only.andThen ih; decide)
      | (with_reducible apply Only.andThen State.vRead_only; decide)
      | (with_reducible apply Only.andThen State.onSeq_only; decide)
      | (with_reducible apply Only.snd; assumption)
      | split)

theorem State.iloadEnd_only {s : State} {k : Atoll} :
    Only [.sent, .regs, .irq, .atolls] s (State.iloadEnd s k) := by
  unfold State.iloadEnd
  dsimp only
  repeat' (first
    | with_reducible apply Only.refl
    | (with_reducible apply Only.andThen State.iloadRun_only; decide)
    | (with_reducible apply Only.andThen State.onSeq_only; decide)
    | (with_reducible apply Only.andThen State.setFld_only; decide)
    | (with_reducible apply Only.andThen State.raise_only; decide)
    | split)

theorem State.sliceAlone_only {s : State} {k : Atoll} {phase : BitVec 12} {budget : CountOf 26} :
    Only [.sent, .regs, .irq, .waits, .atolls] s (State.sliceAlone s k phase budget) := by
  unfold State.sliceAlone
  repeat' (first
    | with_reducible apply Only.refl
    | (with_reducible apply Only.andThen State.refuse_only; decide)
    | (with_reducible apply Only.andThen State.enterSlice_only; decide)
    | (with_reducible apply Only.andThen State.tryOpen_only; decide)
    | (with_reducible apply Only.andThen State.onSeq_only; decide)
    | (with_reducible apply Only.ite; rotate_left; intro _))

theorem State.ctlAlone_only {s : State} {k : Atoll} {c : Ctl} :
    Only [.sent, .regs, .irq, .waits, .atolls] s (State.ctlAlone s k c) := by
  unfold State.ctlAlone
  dsimp only
  repeat' (first
    | with_reducible apply Only.refl
    | (with_reducible apply Only.andThen State.refuse_only; decide)
    | (with_reducible apply Only.andThen State.onSeq_only; decide)
    | split)

theorem execSlice_only {k : Atoll} {phase : BitVec 12} {budget : CountOf 26} {s : State} :
    OnlyNext [.sent, .regs, .irq, .waits, .atolls] s (execSlice k phase budget s) := by
  unfold execSlice
  repeat' (first
    | with_reducible apply Only.refl
    | with_reducible apply OnlyNext.next
    | (with_reducible apply Only.andThen State.sliceAlone_only; decide))

theorem execPublish_only {k : Atoll} {rec' rs : Bool} {rslot : BitVec 4} {vreg treg : SReg} {s : State} :
    OnlyNext [.sent, .fresh, .regs, .irq, .waits, .atolls, .sound, .mem] s (execPublish k rec' rs rslot vreg treg s) := by
  unfold execPublish
  repeat' (first
    | with_reducible apply Only.refl
    | with_reducible apply OnlyNext.next
    | with_reducible apply OnlyNext.ite
    | (with_reducible apply Only.andThen State.publish_only; decide)
    | (with_reducible apply Only.andThen State.refuse_only; decide))

theorem execSliceClose_only {k : Atoll} {s : State} :
    OnlyNext [.sent, .fresh, .regs, .irq, .waits, .atolls, .sound, .mem] s (execSliceClose k s) := by
  unfold execSliceClose
  repeat' (first
    | with_reducible apply Only.refl
    | with_reducible apply OnlyNext.next
    | (with_reducible apply Only.andThen State.bundle_only; decide)
    | (with_reducible apply Only.andThen State.publishNow_only; decide)
    | split)

theorem execBundle_only {k : Atoll} {s : State} :
    OnlyNext [.sent, .fresh, .regs, .irq, .waits, .atolls, .sound, .mem] s (execBundle k s) := by
  unfold execBundle
  repeat' (first
    | with_reducible apply Only.refl
    | with_reducible apply OnlyNext.next
    | (with_reducible apply Only.andThen State.bundle_only; decide))

theorem execNop_only {k : Atoll} {s : State} :
    OnlyNext [.sent, .regs, .irq, .waits, .atolls] s (execNop k s) := by
  unfold execNop
  repeat' (first
    | with_reducible apply Only.refl
    | with_reducible apply OnlyNext.next
    | (with_reducible apply Only.andThen State.ctlAlone_only; decide))

theorem execJmp_only {k : Atoll} {tgt : BitVec 15} {s : State} :
    OnlyNext [.sent, .regs, .irq, .waits, .atolls] s (execJmp k tgt s) := by
  unfold execJmp
  repeat' (first
    | with_reducible apply Only.refl
    | with_reducible apply OnlyNext.next
    | (with_reducible apply Only.andThen State.ctlAlone_only; decide))

theorem execBr_only {k : Atoll} {tgt : BitVec 15} {p : BitVec 3} {pn : Bool} {s : State} :
    OnlyNext [.sent, .regs, .irq, .waits, .atolls] s (execBr k tgt p pn s) := by
  unfold execBr
  repeat' (first
    | with_reducible apply Only.refl
    | with_reducible apply OnlyNext.next
    | (with_reducible apply Only.andThen State.ctlAlone_only; decide))

theorem execJmpr_only {k : Atoll} {r : SReg} {s : State} :
    OnlyNext [.sent, .regs, .irq, .waits, .atolls] s (execJmpr k r s) := by
  unfold execJmpr
  repeat' (first
    | with_reducible apply Only.refl
    | with_reducible apply OnlyNext.next
    | (with_reducible apply Only.andThen State.ctlAlone_only; decide))

theorem execCall_only {k : Atoll} {tgt : BitVec 15} {s : State} :
    OnlyNext [.sent, .regs, .irq, .waits, .atolls] s (execCall k tgt s) := by
  unfold execCall
  repeat' (first
    | with_reducible apply Only.refl
    | with_reducible apply OnlyNext.next
    | (with_reducible apply Only.andThen State.ctlAlone_only; decide))

theorem execRet_only {k : Atoll} {s : State} :
    OnlyNext [.sent, .regs, .irq, .waits, .atolls] s (execRet k s) := by
  unfold execRet
  repeat' (first
    | with_reducible apply Only.refl
    | with_reducible apply OnlyNext.next
    | with_reducible apply OnlyNext.ite
    | (with_reducible apply Only.andThen State.onSeq_only; decide)
    | (with_reducible apply Only.andThen State.ctlAlone_only; decide))

theorem execLoop_only {k : Atoll} {count : CountOf 24} {fin : BitVec 15} {s : State} :
    OnlyNext [.sent, .regs, .irq, .waits, .atolls] s (execLoop k count fin s) := by
  unfold execLoop
  repeat' (first
    | with_reducible apply Only.refl
    | with_reducible apply OnlyNext.next
    | (with_reducible apply Only.andThen State.ctlAlone_only; decide))

theorem execSwell_only {k : Atoll} {phase : BitVec 12} {n : BitVec 8} {level : BitVec 4} {s : State} :
    OnlyNext [.sent, .regs, .irq, .waits, .atolls] s (execSwell k phase n level s) := by
  unfold execSwell
  repeat' (first
    | with_reducible apply Only.refl
    | with_reducible apply OnlyNext.next
    | with_reducible apply OnlyNext.ite
    | (with_reducible apply Only.andThen State.refuse_only; decide)
    | (with_reducible apply Only.andThen State.swell_only; decide))

theorem execQclose_only {k : Atoll} {qreg : SReg} {s : State} :
    OnlyNext [.sent, .regs, .irq, .waits, .atolls] s (execQclose k qreg s) := by
  unfold execQclose
  repeat' (first
    | with_reducible apply Only.refl
    | with_reducible apply OnlyNext.next
    | with_reducible apply OnlyNext.ite
    | (with_reducible apply Only.andThen State.refuse_only; decide)
    | (with_reducible apply Only.andThen State.qclose_only; decide))

theorem execFence_only {k : Atoll} {mask : BitVec 4} {s : State} :
    OnlyNext [.atolls] s (execFence k mask s) := by
  unfold execFence
  repeat' (first
    | with_reducible apply Only.refl
    | with_reducible apply OnlyNext.next
    | (with_reducible apply Only.andThen State.onSeq_only; decide))

theorem execAdd_only {k : Atoll} {rd rs1 : SReg} {b : SOperand} {s : State} :
    OnlyNext [.sent, .regs, .irq, .waits, .atolls] s (execAdd k rd rs1 b s) := by
  unfold execAdd
  repeat' (first
    | with_reducible apply Only.refl
    | with_reducible apply OnlyNext.next
    | (with_reducible apply Only.andThen State.scalarIssue_only; decide))

theorem execSub_only {k : Atoll} {rd rs1 : SReg} {b : SOperand} {s : State} :
    OnlyNext [.sent, .regs, .irq, .waits, .atolls] s (execSub k rd rs1 b s) := by
  unfold execSub
  repeat' (first
    | with_reducible apply Only.refl
    | with_reducible apply OnlyNext.next
    | (with_reducible apply Only.andThen State.scalarIssue_only; decide))

theorem execAnd_only {k : Atoll} {rd rs1 : SReg} {b : SOperand} {s : State} :
    OnlyNext [.sent, .regs, .irq, .waits, .atolls] s (execAnd k rd rs1 b s) := by
  unfold execAnd
  repeat' (first
    | with_reducible apply Only.refl
    | with_reducible apply OnlyNext.next
    | (with_reducible apply Only.andThen State.scalarIssue_only; decide))

theorem execOr_only {k : Atoll} {rd rs1 : SReg} {b : SOperand} {s : State} :
    OnlyNext [.sent, .regs, .irq, .waits, .atolls] s (execOr k rd rs1 b s) := by
  unfold execOr
  repeat' (first
    | with_reducible apply Only.refl
    | with_reducible apply OnlyNext.next
    | (with_reducible apply Only.andThen State.scalarIssue_only; decide))

theorem execXor_only {k : Atoll} {rd rs1 : SReg} {b : SOperand} {s : State} :
    OnlyNext [.sent, .regs, .irq, .waits, .atolls] s (execXor k rd rs1 b s) := by
  unfold execXor
  repeat' (first
    | with_reducible apply Only.refl
    | with_reducible apply OnlyNext.next
    | (with_reducible apply Only.andThen State.scalarIssue_only; decide))

theorem execShl_only {k : Atoll} {rd rs1 : SReg} {b : SOperand} {s : State} :
    OnlyNext [.sent, .regs, .irq, .waits, .atolls] s (execShl k rd rs1 b s) := by
  unfold execShl
  repeat' (first
    | with_reducible apply Only.refl
    | with_reducible apply OnlyNext.next
    | (with_reducible apply Only.andThen State.scalarIssue_only; decide))

theorem execShr_only {k : Atoll} {rd rs1 : SReg} {b : SOperand} {s : State} :
    OnlyNext [.sent, .regs, .irq, .waits, .atolls] s (execShr k rd rs1 b s) := by
  unfold execShr
  repeat' (first
    | with_reducible apply Only.refl
    | with_reducible apply OnlyNext.next
    | (with_reducible apply Only.andThen State.scalarIssue_only; decide))

theorem execSar_only {k : Atoll} {rd rs1 : SReg} {b : SOperand} {s : State} :
    OnlyNext [.sent, .regs, .irq, .waits, .atolls] s (execSar k rd rs1 b s) := by
  unfold execSar
  repeat' (first
    | with_reducible apply Only.refl
    | with_reducible apply OnlyNext.next
    | (with_reducible apply Only.andThen State.scalarIssue_only; decide))

theorem execMul_only {k : Atoll} {rd rs1 : SReg} {b : SOperand} {s : State} :
    OnlyNext [.sent, .regs, .irq, .waits, .atolls] s (execMul k rd rs1 b s) := by
  unfold execMul
  repeat' (first
    | with_reducible apply Only.refl
    | with_reducible apply OnlyNext.next
    | (with_reducible apply Only.andThen State.scalarIssue_only; decide))

theorem execMulhu_only {k : Atoll} {rd rs1 : SReg} {b : SOperand} {s : State} :
    OnlyNext [.sent, .regs, .irq, .waits, .atolls] s (execMulhu k rd rs1 b s) := by
  unfold execMulhu
  repeat' (first
    | with_reducible apply Only.refl
    | with_reducible apply OnlyNext.next
    | (with_reducible apply Only.andThen State.scalarIssue_only; decide))

theorem execMin_only {k : Atoll} {rd rs1 : SReg} {b : SOperand} {s : State} :
    OnlyNext [.sent, .regs, .irq, .waits, .atolls] s (execMin k rd rs1 b s) := by
  unfold execMin
  repeat' (first
    | with_reducible apply Only.refl
    | with_reducible apply OnlyNext.next
    | (with_reducible apply Only.andThen State.scalarIssue_only; decide))

theorem execMax_only {k : Atoll} {rd rs1 : SReg} {b : SOperand} {s : State} :
    OnlyNext [.sent, .regs, .irq, .waits, .atolls] s (execMax k rd rs1 b s) := by
  unfold execMax
  repeat' (first
    | with_reducible apply Only.refl
    | with_reducible apply OnlyNext.next
    | (with_reducible apply Only.andThen State.scalarIssue_only; decide))

theorem execMinu_only {k : Atoll} {rd rs1 : SReg} {b : SOperand} {s : State} :
    OnlyNext [.sent, .regs, .irq, .waits, .atolls] s (execMinu k rd rs1 b s) := by
  unfold execMinu
  repeat' (first
    | with_reducible apply Only.refl
    | with_reducible apply OnlyNext.next
    | (with_reducible apply Only.andThen State.scalarIssue_only; decide))

theorem execMaxu_only {k : Atoll} {rd rs1 : SReg} {b : SOperand} {s : State} :
    OnlyNext [.sent, .regs, .irq, .waits, .atolls] s (execMaxu k rd rs1 b s) := by
  unfold execMaxu
  repeat' (first
    | with_reducible apply Only.refl
    | with_reducible apply OnlyNext.next
    | (with_reducible apply Only.andThen State.scalarIssue_only; decide))

theorem execLi_only {k : Atoll} {rd : SReg} {b : SOperand} {s : State} :
    OnlyNext [.sent, .regs, .irq, .waits, .atolls] s (execLi k rd b s) := by
  unfold execLi
  repeat' (first
    | with_reducible apply Only.refl
    | with_reducible apply OnlyNext.next
    | (with_reducible apply Only.andThen State.scalarIssue_only; decide))

theorem execOrh_only {k : Atoll} {rd rs1 : SReg} {b : SOperand} {s : State} :
    OnlyNext [.sent, .regs, .irq, .waits, .atolls] s (execOrh k rd rs1 b s) := by
  unfold execOrh
  repeat' (first
    | with_reducible apply Only.refl
    | with_reducible apply OnlyNext.next
    | (with_reducible apply Only.andThen State.scalarIssue_only; decide))

theorem execCmp_only {k : Atoll} {pred : BitVec 3} {cond : BitVec 3} {rs1 : SReg} {b : SOperand} {s : State} :
    OnlyNext [.sent, .regs, .irq, .waits, .atolls] s (execCmp k pred cond rs1 b s) := by
  unfold execCmp
  repeat' (first
    | with_reducible apply Only.refl
    | with_reducible apply OnlyNext.next
    | (with_reducible apply Only.andThen State.scalarIssue_only; decide))

theorem execPget_only {k : Atoll} {rd : SReg} {b : SOperand} {s : State} :
    OnlyNext [.sent, .regs, .irq, .waits, .atolls] s (execPget k rd b s) := by
  unfold execPget
  repeat' (first
    | with_reducible apply Only.refl
    | with_reducible apply OnlyNext.next
    | (with_reducible apply Only.andThen State.scalarIssue_only; decide))

theorem execLdl_only {k : Atoll} {rd rs1 : SReg} {b : SOperand} {s : State} :
    OnlyNext [.sent, .regs, .irq, .waits, .atolls] s (execLdl k rd rs1 b s) := by
  unfold execLdl
  repeat' (first
    | with_reducible apply Only.refl
    | with_reducible apply OnlyNext.next
    | (with_reducible apply Only.andThen State.scalarIssue_only; decide))

theorem execStl_only {k : Atoll} {rd rs1 : SReg} {b : SOperand} {s : State} :
    OnlyNext [.sent, .regs, .irq, .waits, .atolls] s (execStl k rd rs1 b s) := by
  unfold execStl
  repeat' (first
    | with_reducible apply Only.refl
    | with_reducible apply OnlyNext.next
    | (with_reducible apply Only.andThen State.scalarIssue_only; decide))

theorem execRds_only {k : Atoll} {rd : SReg} {b : SOperand} {s : State} :
    OnlyNext [.sent, .regs, .irq, .waits, .atolls] s (execRds k rd b s) := by
  unfold execRds
  repeat' (first
    | with_reducible apply Only.refl
    | with_reducible apply OnlyNext.next
    | (with_reducible apply Only.andThen State.scalarIssue_only; decide))

theorem execHint_only {x_k : Atoll} {x_ramp : BitVec 3} {s : State} :
    OnlyNext [] s (execHint x_k x_ramp s) := by
  unfold execHint
  repeat' (first
    | with_reducible apply Only.refl
    | with_reducible apply OnlyNext.next)

theorem execSend_only {k : Atoll} {ctr : BitVec 4} {r : SReg} {now : Bool} {s : State} :
    OnlyNext [.sent, .fresh, .regs, .irq, .waits, .atolls, .sound, .mem] s (execSend k ctr r now s) := by
  unfold execSend
  repeat' (first
    | with_reducible apply Only.refl
    | with_reducible apply OnlyNext.next
    | (with_reducible apply Only.andThen State.msgAlone_only; decide))

theorem execReduce_only {k : Atoll} {ctr : BitVec 4} {r : SReg} {now : Bool} {s : State} :
    OnlyNext [.sent, .fresh, .regs, .irq, .waits, .atolls, .sound, .mem] s (execReduce k ctr r now s) := by
  unfold execReduce
  repeat' (first
    | with_reducible apply Only.refl
    | with_reducible apply OnlyNext.next
    | (with_reducible apply Only.andThen State.msgAlone_only; decide))

theorem execMsgWait_only {k : Atoll} {ctr : BitVec 4} {r : SReg} {s : State} :
    OnlyNext [.sent, .regs, .irq, .waits, .atolls] s (execMsgWait k ctr r s) := by
  unfold execMsgWait
  repeat' (first
    | with_reducible apply Only.refl
    | with_reducible apply OnlyNext.next
    | (intro _ h; exact h)
    | (with_reducible apply State.slotIssue_only; decide)
    | (intro _ ht; contradiction))

theorem execIloadDone_only {k : Atoll} {s : State} :
    OnlyNext [.sent, .regs, .irq, .atolls] s (execIloadDone k s) := by
  unfold execIloadDone
  repeat' (first
    | with_reducible apply Only.refl
    | with_reducible apply OnlyNext.next
    | (with_reducible apply Only.andThen State.iloadEnd_only; decide))

theorem execDescriptorReread_only {k : Atoll} {desc : Word64} {s : State} :
    OnlyNext [.fresh, .regs, .waits, .atolls, .mem] s (execDescriptorReread k desc s) := by
  unfold execDescriptorReread
  repeat' (first
    | with_reducible apply Only.refl
    | with_reducible apply OnlyNext.next
    | (with_reducible apply Only.andThen State.qReread_only; decide))

theorem execCrRecordWrite_only {k : Atoll} {s : State} :
    OnlyNext [.regs, .atolls] s (execCrRecordWrite k s) := by
  unfold execCrRecordWrite
  repeat' (first
    | with_reducible apply Only.refl
    | with_reducible apply OnlyNext.next
    | (with_reducible apply Only.onAtl; decide)
    | (with_reducible apply Only.andThen State.bump_only; decide)
    | (with_reducible apply Only.andThen State.putRecord_only; decide)
    | (intro _ h; exact h)
    | split)

end Sys2Proof.Machine
end

