-- ==== Sys2Proof/Laws/OnlyTrust.lean ====
section
/-! SUPPORT. What the operations of Machine/Trust.lean change (`Only`). -/

namespace Sys2Proof.Machine

theorem State.deliverImage_only {s : State} {b : Image} :
    Only [.sent, .regs, .staged, .edges, .irq, .memWait, .waits, .selfActs, .tickets, .tide, .atolls, .ports, .sound, .mem, .ckpt, .pwr, .age, .rst] s (State.deliverImage s b) := by
  unfold State.deliverImage
  repeat' (first
    | with_reducible apply Only.refl
    | (with_reducible apply Only.andThen State.onRst_only; decide)
    | (with_reducible apply Only.andThen State.setFld_only; decide)
    | (with_reducible apply Only.andThen State.moduleReset_only; decide)
    | (with_reducible apply Only.andThen State.raise_only; decide)
    | (with_reducible apply Only.ite; rotate_left; intro _))

theorem State.recBegin_only {s : State} :
    Only [.regs, .rst] s (State.recBegin s) := by
  unfold State.recBegin
  repeat' (first
    | with_reducible apply Only.refl
    | (with_reducible apply Only.andThen State.onRst_only; decide)
    | (with_reducible apply Only.andThen State.setFld_only; decide))

theorem State.recEnd_only {s : State} :
    Only [.sent, .regs, .staged, .edges, .irq, .memWait, .waits, .selfActs, .tickets, .tide, .atolls, .ports, .sound, .mem, .ckpt, .pwr, .age, .rst] s (State.recEnd s) := by
  unfold State.recEnd
  repeat' (first
    | with_reducible apply Only.refl
    | (with_reducible apply Only.andThen State.deliverImage_only; decide)
    | split)

theorem State.recStop_only {s : State} :
    Only [.regs, .rst] s (State.recStop s) := by
  unfold State.recStop
  repeat' (first
    | with_reducible apply Only.refl
    | (with_reducible apply Only.andThen State.onRst_only; decide)
    | (with_reducible apply Only.andThen State.setFld_only; decide)
    | split)

theorem State.recCtl_only {s : State} {cmd : Nat} :
    Only [.sent, .regs, .staged, .edges, .irq, .memWait, .waits, .selfActs, .tickets, .tide, .atolls, .ports, .sound, .mem, .ckpt, .pwr, .age, .rst] s (State.recCtl s cmd) := by
  unfold State.recCtl
  repeat' (first
    | with_reducible apply Only.refl
    | (with_reducible apply Only.andThen State.recBegin_only; decide)
    | (with_reducible apply Only.andThen State.recEnd_only; decide)
    | (with_reducible apply Only.andThen State.recStop_only; decide)
    | (with_reducible apply Only.ite; rotate_left; intro _))

theorem State.recData_only {s : State} {v : Nat} :
    Only [.rst] s (State.recData s v) := by
  unfold State.recData
  repeat' (first
    | with_reducible apply Only.refl
    | (with_reducible apply Only.andThen State.onRst_only; decide))

theorem execRecLoad_only {src : Word64} {len : Word32} {image : Image} {s : State} :
    OnlyNext [.sent, .regs, .staged, .edges, .irq, .memWait, .waits, .selfActs, .tickets, .tide, .atolls, .ports, .sound, .mem, .ckpt, .pwr, .age, .rst] s (execRecLoad src len image s) := by
  unfold execRecLoad
  repeat' (first
    | with_reducible apply Only.refl
    | with_reducible apply OnlyNext.next
    | with_reducible apply OnlyNext.ite
    | (with_reducible apply Only.andThen State.onRst_only; decide)
    | (with_reducible apply Only.andThen State.emit_only; decide)
    | (with_reducible apply Only.andThen State.deliverImage_only; decide))

theorem execRecAbort_only {s : State} :
    OnlyNext [.regs, .rst] s (execRecAbort s) := by
  unfold execRecAbort
  repeat' (first
    | with_reducible apply Only.refl
    | with_reducible apply OnlyNext.next
    | (with_reducible apply Only.andThen State.recStop_only; decide)
    | (with_reducible apply Only.ite; rotate_left; intro _))

theorem State.secCmd_only {s : State} {cmd : Nat} :
    Only [.regs, .rst] s (State.secCmd s cmd) := by
  unfold State.secCmd
  repeat' (first
    | with_reducible apply Only.refl
    | (with_reducible apply Only.andThen State.setFld_only; decide)
    | (with_reducible apply Only.andThen State.onRst_only; decide)
    | (with_reducible apply Only.andThen State.wr_only; decide)
    | (with_reducible apply Only.ite; rotate_left; intro _))

theorem execQuoteDone_only {s : State} :
    OnlyNext [.sent, .regs, .irq, .rst] s (execQuoteDone s) := by
  unfold execQuoteDone
  repeat' (first
    | with_reducible apply Only.refl
    | with_reducible apply OnlyNext.next
    | with_reducible apply OnlyNext.ite
    | (with_reducible apply Only.andThen State.setFld_only; decide)
    | (with_reducible apply Only.andThen State.onRst_only; decide)
    | (with_reducible apply Only.andThen State.wr_only; decide)
    | (with_reducible apply Only.andThen State.raise_only; decide))

theorem State.winRead_only {s : State} :
    Only [.regs] s (State.winRead s) := by
  unfold State.winRead
  repeat' (first
    | with_reducible apply Only.refl
    | (with_reducible apply Only.andThen State.setFld_only; decide))

theorem State.dynAddr_only {s : State} {a : Nat} :
    Only [.regs] s (State.dynAddr s a) := by
  unfold State.dynAddr
  repeat' (first
    | with_reducible apply Only.refl
    | (with_reducible apply Only.andThen State.setFld_only; decide))

theorem execEntdaa_only {addr : BitVec 7} {s : State} :
    OnlyNext [.regs] s (execEntdaa addr s) := by
  unfold execEntdaa
  repeat' (first
    | with_reducible apply Only.refl
    | with_reducible apply OnlyNext.next
    | (with_reducible apply Only.andThen State.dynAddr_only; decide))

theorem execSetdasa_only {static addr : BitVec 7} {s : State} :
    OnlyNext [.regs] s (execSetdasa static addr s) := by
  unfold execSetdasa
  repeat' (first
    | with_reducible apply Only.refl
    | with_reducible apply OnlyNext.next
    | (with_reducible apply Only.andThen State.dynAddr_only; decide)
    | (with_reducible apply Only.ite; rotate_left; intro _))

theorem State.tempCopy_only {s : State} {a edge : Nat} {t : BitVec 16} :
    Only [.regs] s (State.tempCopy s a edge t) := by
  unfold State.tempCopy
  repeat' (first
    | with_reducible apply Only.refl
    | (with_reducible apply Only.andThen State.wr_only; decide))

theorem execSlowClockEdge_only {x : SlowSensors} {s : State} :
    OnlyNext [.regs, .edges] s (execSlowClockEdge x s) := by
  unfold execSlowClockEdge
  repeat' (first
    | with_reducible apply Only.refl
    | with_reducible assumption
    | with_reducible apply OnlyNext.next
    | (with_reducible apply Only.andThen State.wr_only; decide)
    | (with_reducible apply Only.andThen State.tempCopy_only; decide)
    | with_reducible apply Only.each
    | (with_reducible apply Only.ite; rotate_left; intro _)
    | intro _ _ _
    | fail_if_no_progress (with_reducible apply Only.andThen Only.slowEdges; decide))

end Sys2Proof.Machine
end

