-- ==== Sys2Proof/Laws/OnlyViews.lean ====
section
/-! SUPPORT. What the operations of Machine/Views.lean change (`Only`). -/

namespace Sys2Proof.Machine

theorem State.readEffect_only {s : State} {a : Nat} :
    Only [.regs] s (State.readEffect s a) := by
  unfold State.readEffect
  repeat' (first
    | with_reducible apply Only.refl
    | (with_reducible apply Only.andThen State.ruleRead_only; decide)
    | (with_reducible apply Only.andThen State.winRead_only; decide)
    | (with_reducible apply Only.ite; rotate_left; intro _))

theorem State.accessErr_only {s : State} {a : Nat} {size write : Bool} :
    Only [.sent, .regs, .irq] s (State.accessErr s a size write) := by
  unfold State.accessErr
  repeat' (first
    | with_reducible apply Only.refl
    | (with_reducible apply Only.andThen State.wr_only; decide)
    | (with_reducible apply Only.andThen State.raise_only; decide))

theorem State.regRead_only {s : State} {a len : Nat} :
    Only [.sent, .regs, .irq] s (State.regRead s a len).2 := by
  unfold State.regRead
  repeat' (first
    | with_reducible apply Only.refl
    | (with_reducible apply Only.andThen State.accessErr_only; decide)
    | (with_reducible apply Only.andThen State.readEffect_only; decide)
    | (with_reducible apply Only.ite_snd; rotate_left; intro _))

end Sys2Proof.Machine
end

