-- ==== Sys2Proof/Laws/OnlyWindow.lean ====
section
/-! SUPPORT. What the operations of Machine/Window.lean change (`Only`). -/

namespace Sys2Proof.Machine

theorem State.badKey_only {s : State} {a n : Nat} :
    Only [.sent, .regs, .irq] s (State.badKey s a n) := by
  unfold State.badKey
  repeat' (first
    | with_reducible apply Only.refl
    | (with_reducible apply Only.andThen State.setFld_only; decide)
    | (with_reducible apply Only.andThen State.raiseHdr_only; decide)
    | (with_reducible apply Only.andThen State.bump_only; decide))

theorem State.unlock_only {s : State} {a key : Nat} :
    Only [.sent, .regs, .irq] s (State.unlock s a key) := by
  unfold State.unlock
  repeat' (first
    | with_reducible apply Only.refl
    | (with_reducible apply Only.andThen State.setFld_only; decide)
    | (with_reducible apply Only.andThen State.badKey_only; decide)
    | (with_reducible apply Only.ite; rotate_left; intro _))

theorem State.clearSticky_only {s : State} {c i : Nat} :
    Only [.regs] s (State.clearSticky s c i) := by
  unfold State.clearSticky
  repeat' (first
    | with_reducible apply Only.refl
    | with_reducible assumption
    | (with_reducible apply Only.andThen State.setFld_only; decide)
    | with_reducible apply Only.each
    | (with_reducible apply Only.ite; rotate_left; intro _)
    | intro _ _ _)

theorem State.evtAck_only {s : State} {a v : Nat} :
    Only [.regs, .irq] s (State.evtAck s a v) := by
  unfold State.evtAck
  repeat' (first
    | with_reducible apply Only.refl
    | (with_reducible apply Only.andThen State.setFld_only; decide)
    | (with_reducible apply Only.andThen State.clearSticky_only; decide)
    | (with_reducible apply Only.ite; rotate_left; intro _)
    | fail_if_no_progress (with_reducible apply Only.andThen Only.irqPend; decide))

theorem State.evtMask_only {s : State} {a v : Nat} :
    Only [.sent, .regs, .irq] s (State.evtMask s a v) := by
  unfold State.evtMask
  repeat' (first
    | with_reducible apply Only.refl
    | (with_reducible apply Only.andThen State.setFld_only; decide)
    | (with_reducible apply Only.andThen State.deliver_only; decide)
    | (with_reducible apply Only.ite; rotate_left; intro _))

theorem State.srstStart_only {s : State} {c i : Nat} :
    Only [.sent, .regs, .irq, .rst] s (State.srstStart s c i) := by
  unfold State.srstStart
  repeat' (first
    | with_reducible apply Only.refl
    | (with_reducible apply Only.andThen State.onRst_only; decide)
    | (with_reducible apply Only.andThen State.raiseHdr_only; decide)
    | (with_reducible apply Only.ite; rotate_left; intro _))

theorem State.resetLive_only {s : State} {c i : Nat} : Only [.regs] s (s.resetLive c i) :=
  Only.setRegs fun h => SMap.wf_filter _ h

theorem State.resetUnit_only {s : State} {c i : Nat} :
    Only [.sent, .regs, .atolls, .ports, .sound] s (State.resetUnit s c i) := by
  unfold State.resetUnit
  repeat' (first
    | with_reducible apply Only.refl
    | with_reducible assumption
    | (with_reducible apply Only.andThen State.onArr_only; decide)
    | (with_reducible apply Only.andThen State.onVec_only; decide)
    | (with_reducible apply Only.andThen State.onSeq_only; decide)
    | (with_reducible apply Only.onStrm; decide)
    | (with_reducible apply Only.andThen State.onStep_only; decide)
    | (with_reducible apply Only.andThen State.onPort_only; decide)
    | (with_reducible apply Only.andThen State.setFld_only; decide)
    | (with_reducible apply Only.andThen State.sendTrain_only; decide)
    | (with_reducible apply Only.andThen State.emit_only; decide)
    | with_reducible apply Only.each
    | intro _ _
    | split
    | fail_if_no_progress (with_reducible apply Only.andThen Only.sound; decide))

theorem State.srstEnd_only {s : State} {c i : Nat} :
    Only [.sent, .regs, .staged, .irq, .atolls, .ports, .sound, .rst] s (State.srstEnd s c i) := by
  unfold State.srstEnd
  repeat' (first
    | with_reducible apply Only.refl
    | (with_reducible apply Only.andThen State.onRst_only; decide)
    | (with_reducible apply Only.andThen State.resetLive_only; decide)
    | (with_reducible apply Only.andThen State.bump_only; decide)
    | (with_reducible apply Only.andThen State.unstage_only; decide)
    | (with_reducible apply Only.andThen State.resetUnit_only; decide)
    | (with_reducible apply Only.andThen State.raise_only; decide))

theorem State.crHead_only {s : State} {k v : Nat} :
    Only [.sent, .regs, .irq] s (State.crHead s k v) := by
  unfold State.crHead
  repeat' (first
    | with_reducible apply Only.refl
    | (with_reducible apply Only.andThen State.raise_only; decide)
    | (with_reducible apply Only.andThen State.setFld_only; decide)
    | (with_reducible apply Only.ite; rotate_left; intro _))

theorem State.queueCmd_only {s : State} {n cmd : Nat} :
    Only [.sent, .regs, .irq] s (State.queueCmd s n cmd) := by
  unfold State.queueCmd
  repeat' (first
    | with_reducible apply Only.refl
    | (with_reducible apply Only.andThen State.setFld_only; decide)
    | (with_reducible apply Only.andThen State.haltQueue_only; decide)
    | (with_reducible apply Only.ite; rotate_left; intro _))

theorem State.rstCmd_only {s : State} {cmd : Nat} :
    Only [.sent, .regs, .staged, .edges, .irq, .memWait, .waits, .selfActs, .tickets, .tide, .atolls, .ports, .sound, .mem, .ckpt, .pwr, .age, .rst] s (State.rstCmd s cmd) := by
  unfold State.rstCmd
  repeat' (first
    | with_reducible apply Only.refl
    | (with_reducible apply Only.andThen State.moduleReset_only; decide)
    | (with_reducible apply Only.ite; rotate_left; intro _))

theorem State.command_only {s : State} {by' : Requester} {c i off m v : Nat} :
    Only [.sent, .fresh, .regs, .staged, .edges, .irq, .memWait, .waits, .selfActs, .tickets, .tide, .atolls, .ports, .sound, .mem, .ckpt, .pwr, .age, .rst] s (State.command s by' c i off m v) := by
  unfold State.command
  repeat' (first
    | with_reducible apply Only.refl
    | (with_reducible apply Only.andThen State.stageCtl_only; decide)
    | (with_reducible apply Only.andThen State.srstStart_only; decide)
    | (with_reducible apply Only.andThen State.unlock_only; decide)
    | (with_reducible apply Only.andThen State.evtAck_only; decide)
    | (with_reducible apply Only.andThen State.commitCmd_only; decide)
    | (with_reducible apply Only.andThen State.queueCmd_only; decide)
    | (with_reducible apply Only.andThen State.iloadArm_only; decide)
    | (with_reducible apply Only.andThen State.testArm_only; decide)
    | (with_reducible apply Only.andThen State.fltCmd_only; decide)
    | (with_reducible apply Only.andThen State.xlatCmd_only; decide)
    | (with_reducible apply Only.andThen State.stepCmd_only; decide)
    | (with_reducible apply Only.andThen State.mcCmd_only; decide)
    | (with_reducible apply Only.andThen State.portCmd_only; decide)
    | (with_reducible apply Only.andThen State.admitCmd_only; decide)
    | (with_reducible apply Only.andThen State.ctxCmd_only; decide)
    | (with_reducible apply Only.andThen State.hostBeat_only; decide)
    | (with_reducible apply Only.andThen State.ageCmd_only; decide)
    | (with_reducible apply Only.andThen State.rstCmd_only; decide)
    | (with_reducible apply Only.andThen State.wdogKick_only; decide)
    | (with_reducible apply Only.andThen State.secCmd_only; decide)
    | (with_reducible apply Only.andThen State.ckptCmd_only; decide)
    | (with_reducible apply Only.andThen State.alertPin_only; decide)
    | (with_reducible apply Only.andThen State.alertAck_only; decide)
    | (with_reducible apply Only.andThen State.recCtl_only; decide)
    | (with_reducible apply Only.andThen State.recData_only; decide)
    | split)

theorem State.putBits_only {s : State} {a m v : Nat} :
    Only [.regs] s (State.putBits s a m v) := by
  unfold State.putBits
  repeat' (first
    | with_reducible apply Only.refl
    | (with_reducible apply Only.andThen State.wr_only; decide))

theorem State.writeRw_only {s : State} {c off a m v : Nat} :
    Only [.sent, .regs, .irq] s (State.writeRw s c off a m v) := by
  unfold State.writeRw
  repeat' (first
    | with_reducible apply Only.refl
    | (with_reducible apply Only.andThen State.evtMask_only; decide)
    | (with_reducible apply Only.andThen State.crHead_only; decide)
    | (with_reducible apply Only.andThen State.putBits_only; decide)
    | (with_reducible apply Only.ite; rotate_left; intro _))

theorem State.guard_only {s : State} {a gu : Nat} :
    Only [.sent, .regs, .irq] s (State.guard s a gu).2 := by
  unfold State.guard
  repeat' (first
    | with_reducible apply Only.refl
    | (with_reducible apply Only.andThen State.setFld_only; decide)
    | (with_reducible apply Only.andThen State.badKey_only; decide)
    | (with_reducible apply Only.ite_snd; rotate_left; intro _))

theorem State.writeLive_only {s : State} {by' : Requester} {d : RegDesc} {b m v : Nat} :
    Only [.sent, .fresh, .regs, .staged, .edges, .irq, .memWait, .waits, .selfActs, .tickets, .tide, .atolls, .ports, .sound, .mem, .ckpt, .pwr, .age, .rst] s (State.writeLive s by' d b m v) := by
  unfold State.writeLive
  repeat' (first
    | with_reducible apply Only.refl
    | (with_reducible apply Only.andThen State.guard_only; decide)
    | (with_reducible apply Only.andThen State.writeRw_only; decide)
    | (with_reducible apply Only.andThen State.command_only; decide)
    | split)

theorem State.stageBits_only {s : State} {d : RegDesc} {b m v : Nat} :
    Only [.regs, .staged] s (State.stageBits s d b m v) := by
  unfold State.stageBits
  repeat' (first
    | with_reducible apply Only.refl
    | (with_reducible apply Only.andThen State.setFld_only; decide)
    | (with_reducible apply Only.andThen State.bump_only; decide)
    | fail_if_no_progress (with_reducible apply Only.andThen (Only.setStaged fun h => SMap.rising_ins _ (Nat.zero_le _) h); decide))

theorem State.writeStaged_only {s : State} {d : RegDesc} {b m v : Nat} :
    Only [.sent, .regs, .staged, .irq] s (State.writeStaged s d b m v) := by
  unfold State.writeStaged
  dsimp only
  repeat' (first
    | with_reducible apply Only.refl
    | (with_reducible apply Only.andThen State.guard_only; decide)
    | (with_reducible apply Only.andThen State.stageBits_only; decide)
    | (with_reducible apply Only.andThen State.stageRefused_only; decide)
    | (with_reducible apply Only.andThen State.reopen_only; decide)
    | split)

theorem State.writeUnit_only {s : State} {by' : Requester} {a n v : Nat} :
    Only [.sent, .fresh, .regs, .staged, .edges, .irq, .memWait, .waits, .selfActs, .tickets, .tide, .atolls, .ports, .sound, .mem, .ckpt, .pwr, .age, .rst] s (State.writeUnit s by' a n v) := by
  unfold State.writeUnit
  dsimp only
  repeat' (first
    | with_reducible apply Only.refl
    | (with_reducible apply Only.andThen State.writeStaged_only; decide)
    | (with_reducible apply Only.andThen State.writeLive_only; decide)
    | split)

theorem State.regWrite_only {s : State} {by' : Requester} {a len v : Nat} :
    Only [.sent, .fresh, .regs, .staged, .edges, .irq, .memWait, .waits, .selfActs, .tickets, .tide, .atolls, .ports, .sound, .mem, .ckpt, .pwr, .age, .rst] s (State.regWrite s by' a len v) := by
  unfold State.regWrite
  repeat' (first
    | with_reducible apply Only.refl
    | (with_reducible apply Only.andThen State.accessErr_only; decide)
    | (with_reducible apply Only.andThen State.writeUnit_only; decide)
    | (with_reducible apply Only.ite; rotate_left; intro _))

theorem State.request_only {s : State} {by' : Requester} {a len v : Nat} :
    Only [.sent, .fresh, .regs, .staged, .edges, .irq, .memWait, .waits, .selfActs, .tickets, .tide, .atolls, .ports, .sound, .mem, .ckpt, .pwr, .age, .rst] s (State.request s by' a len v) := by
  unfold State.request
  repeat' (first
    | with_reducible apply Only.refl
    | (with_reducible apply Only.andThen State.bump_only; decide)
    | (with_reducible apply Only.andThen State.regWrite_only; decide)
    | (with_reducible apply Only.ite; rotate_left; intro _))

theorem State.requestRead_only {s : State} {by' : Requester} {a len : Nat} :
    Only [.sent, .regs, .irq] s (State.requestRead s by' a len).2 := by
  unfold State.requestRead
  repeat' (first
    | with_reducible apply Only.refl
    | (with_reducible apply Only.andThen State.regRead_only; decide)
    | (with_reducible apply Only.ite_snd; rotate_left; intro _))

theorem State.harbourWrites_only {s : State} {a v : Nat} :
    OnlyNext [.sent, .fresh, .regs, .staged, .edges, .irq, .memWait, .waits, .selfActs, .tickets, .tide, .atolls, .ports, .sound, .mem, .ckpt, .pwr, .age, .rst] s (State.harbourWrites s a v) := by
  unfold State.harbourWrites
  repeat' (first
    | with_reducible apply Only.refl
    | with_reducible apply OnlyNext.next
    | (with_reducible apply Only.andThen State.request_only; decide))

theorem execAccessErr_only {off : BitVec 26} {wrongSize write : Bool} {s : State} :
    OnlyNext [.sent, .regs, .irq] s (execAccessErr off wrongSize write s) := by
  unfold execAccessErr
  repeat' (first
    | with_reducible apply Only.refl
    | with_reducible apply OnlyNext.next
    | (with_reducible apply Only.andThen State.accessErr_only; decide))

theorem execRegisterWrite_only {by' : Requester} {off : BitVec 26} {wide : Bool} {value : Word64} {s : State} :
    OnlyNext [.sent, .fresh, .regs, .staged, .edges, .irq, .memWait, .waits, .selfActs, .tickets, .tide, .atolls, .ports, .sound, .mem, .ckpt, .pwr, .age, .rst] s (execRegisterWrite by' off wide value s) := by
  unfold execRegisterWrite
  repeat' (first
    | with_reducible apply Only.refl
    | with_reducible apply OnlyNext.next
    | (with_reducible apply Only.andThen State.request_only; decide))

theorem execStagedWrite_only {by' : Requester} {page : PageIx} {off : BitVec 11} {wide : Bool} {value : Word64} {s : State} :
    OnlyNext [.sent, .fresh, .regs, .staged, .edges, .irq, .memWait, .waits, .selfActs, .tickets, .tide, .atolls, .ports, .sound, .mem, .ckpt, .pwr, .age, .rst] s (execStagedWrite by' page off wide value s) := by
  unfold execStagedWrite
  repeat' (first
    | with_reducible apply Only.refl
    | with_reducible apply OnlyNext.next
    | (with_reducible apply Only.andThen State.request_only; decide))

theorem execUnlock_only {page : PageIx} {key : Word32} {s : State} :
    OnlyNext [.sent, .fresh, .regs, .staged, .edges, .irq, .memWait, .waits, .selfActs, .tickets, .tide, .atolls, .ports, .sound, .mem, .ckpt, .pwr, .age, .rst] s (execUnlock page key s) := by
  unfold execUnlock
  repeat' (first
    | (with_reducible apply OnlyNext.mono State.harbourWrites_only; decide))

theorem execEvtAck_only {page : PageIx} {seq : Word32} {s : State} :
    OnlyNext [.sent, .fresh, .regs, .staged, .edges, .irq, .memWait, .waits, .selfActs, .tickets, .tide, .atolls, .ports, .sound, .mem, .ckpt, .pwr, .age, .rst] s (execEvtAck page seq s) := by
  unfold execEvtAck
  repeat' (first
    | (with_reducible apply OnlyNext.mono State.harbourWrites_only; decide))

theorem execEvtMaskWrite_only {page : PageIx} {mask : Word32} {s : State} :
    OnlyNext [.sent, .fresh, .regs, .staged, .edges, .irq, .memWait, .waits, .selfActs, .tickets, .tide, .atolls, .ports, .sound, .mem, .ckpt, .pwr, .age, .rst] s (execEvtMaskWrite page mask s) := by
  unfold execEvtMaskWrite
  repeat' (first
    | (with_reducible apply OnlyNext.mono State.harbourWrites_only; decide))

theorem execSrst_only {page : PageIx} {s : State} :
    OnlyNext [.sent, .fresh, .regs, .staged, .edges, .irq, .memWait, .waits, .selfActs, .tickets, .tide, .atolls, .ports, .sound, .mem, .ckpt, .pwr, .age, .rst] s (execSrst page s) := by
  unfold execSrst
  repeat' (first
    | (with_reducible apply OnlyNext.mono State.harbourWrites_only; decide))

theorem execSrstDone_only {page : PageIx} {s : State} :
    OnlyNext [.sent, .regs, .staged, .irq, .atolls, .ports, .sound, .rst] s (execSrstDone page s) := by
  unfold execSrstDone
  repeat' (first
    | with_reducible apply Only.refl
    | with_reducible apply OnlyNext.next
    | with_reducible apply OnlyNext.ite
    | (with_reducible apply Only.andThen State.srstEnd_only; decide))

theorem execQueueResume_only {n : QueueIx} {s : State} :
    OnlyNext [.sent, .fresh, .regs, .staged, .edges, .irq, .memWait, .waits, .selfActs, .tickets, .tide, .atolls, .ports, .sound, .mem, .ckpt, .pwr, .age, .rst] s (execQueueResume n s) := by
  unfold execQueueResume
  repeat' (first
    | (with_reducible apply OnlyNext.mono State.harbourWrites_only; decide))

theorem execQueueFlush_only {n : QueueIx} {s : State} :
    OnlyNext [.sent, .fresh, .regs, .staged, .edges, .irq, .memWait, .waits, .selfActs, .tickets, .tide, .atolls, .ports, .sound, .mem, .ckpt, .pwr, .age, .rst] s (execQueueFlush n s) := by
  unfold execQueueFlush
  repeat' (first
    | (with_reducible apply OnlyNext.mono State.harbourWrites_only; decide))

theorem execQueueHalt_only {n : QueueIx} {s : State} :
    OnlyNext [.sent, .fresh, .regs, .staged, .edges, .irq, .memWait, .waits, .selfActs, .tickets, .tide, .atolls, .ports, .sound, .mem, .ckpt, .pwr, .age, .rst] s (execQueueHalt n s) := by
  unfold execQueueHalt
  repeat' (first
    | (with_reducible apply OnlyNext.mono State.harbourWrites_only; decide))

theorem execCrHeadWrite_only {k : Atoll} {head : Word32} {s : State} :
    OnlyNext [.sent, .fresh, .regs, .staged, .edges, .irq, .memWait, .waits, .selfActs, .tickets, .tide, .atolls, .ports, .sound, .mem, .ckpt, .pwr, .age, .rst] s (execCrHeadWrite k head s) := by
  unfold execCrHeadWrite
  repeat' (first
    | (with_reducible apply OnlyNext.mono State.harbourWrites_only; decide))

theorem execFieldTest_only {k : Atoll} {s : State} :
    OnlyNext [.sent, .fresh, .regs, .staged, .edges, .irq, .memWait, .waits, .selfActs, .tickets, .tide, .atolls, .ports, .sound, .mem, .ckpt, .pwr, .age, .rst] s (execFieldTest k s) := by
  unfold execFieldTest
  repeat' (first
    | (with_reducible apply OnlyNext.mono State.harbourWrites_only; decide))

theorem execIload_only {k : Atoll} {s : State} :
    OnlyNext [.sent, .fresh, .regs, .staged, .edges, .irq, .memWait, .waits, .selfActs, .tickets, .tide, .atolls, .ports, .sound, .mem, .ckpt, .pwr, .age, .rst] s (execIload k s) := by
  unfold execIload
  repeat' (first
    | (with_reducible apply OnlyNext.mono State.harbourWrites_only; decide))

theorem execFltResume_only {k : Atoll} {r : FaultIx} {s : State} :
    OnlyNext [.sent, .fresh, .regs, .staged, .edges, .irq, .memWait, .waits, .selfActs, .tickets, .tide, .atolls, .ports, .sound, .mem, .ckpt, .pwr, .age, .rst] s (execFltResume k r s) := by
  unfold execFltResume
  repeat' (first
    | (with_reducible apply OnlyNext.mono State.harbourWrites_only; decide))

theorem execFltAbort_only {k : Atoll} {r : FaultIx} {s : State} :
    OnlyNext [.sent, .fresh, .regs, .staged, .edges, .irq, .memWait, .waits, .selfActs, .tickets, .tide, .atolls, .ports, .sound, .mem, .ckpt, .pwr, .age, .rst] s (execFltAbort k r s) := by
  unfold execFltAbort
  repeat' (first
    | (with_reducible apply OnlyNext.mono State.harbourWrites_only; decide))

theorem execFltReissue_only {k : Atoll} {r : FaultIx} {s : State} :
    OnlyNext [.sent, .fresh, .regs, .staged, .edges, .irq, .memWait, .waits, .selfActs, .tickets, .tide, .atolls, .ports, .sound, .mem, .ckpt, .pwr, .age, .rst] s (execFltReissue k r s) := by
  unfold execFltReissue
  repeat' (first
    | (with_reducible apply OnlyNext.mono State.harbourWrites_only; decide))

theorem execFltAbandon_only {k : Atoll} {r : FaultIx} {s : State} :
    OnlyNext [.sent, .fresh, .regs, .staged, .edges, .irq, .memWait, .waits, .selfActs, .tickets, .tide, .atolls, .ports, .sound, .mem, .ckpt, .pwr, .age, .rst] s (execFltAbandon k r s) := by
  unfold execFltAbandon
  repeat' (first
    | (with_reducible apply OnlyNext.mono State.harbourWrites_only; decide))

theorem execInvVa_only {k : Atoll} {va : BitVec 52} {s : State} :
    OnlyNext [.sent, .fresh, .regs, .staged, .edges, .irq, .memWait, .waits, .selfActs, .tickets, .tide, .atolls, .ports, .sound, .mem, .ckpt, .pwr, .age, .rst] s (execInvVa k va s) := by
  unfold execInvVa
  repeat' (first
    | with_reducible apply Only.refl
    | with_reducible apply OnlyNext.next
    | (with_reducible apply Only.andThen State.request_only; decide))

theorem execInvAll_only {k : Atoll} {s : State} :
    OnlyNext [.sent, .fresh, .regs, .staged, .edges, .irq, .memWait, .waits, .selfActs, .tickets, .tide, .atolls, .ports, .sound, .mem, .ckpt, .pwr, .age, .rst] s (execInvAll k s) := by
  unfold execInvAll
  repeat' (first
    | with_reducible apply Only.refl
    | with_reducible apply OnlyNext.next
    | (with_reducible apply Only.andThen State.request_only; decide))

theorem execRetrain_only {k : Atoll} {c : BitVec 10} {s : State} :
    OnlyNext [.sent, .fresh, .regs, .staged, .edges, .irq, .memWait, .waits, .selfActs, .tickets, .tide, .atolls, .ports, .sound, .mem, .ckpt, .pwr, .age, .rst] s (execRetrain k c s) := by
  unfold execRetrain
  repeat' (first
    | (with_reducible apply OnlyNext.mono State.harbourWrites_only; decide))

theorem execMapout_only {k : Atoll} {c : BitVec 10} {s : State} :
    OnlyNext [.sent, .fresh, .regs, .staged, .edges, .irq, .memWait, .waits, .selfActs, .tickets, .tide, .atolls, .ports, .sound, .mem, .ckpt, .pwr, .age, .rst] s (execMapout k c s) := by
  unfold execMapout
  repeat' (first
    | (with_reducible apply OnlyNext.mono State.harbourWrites_only; decide))

theorem execRetire_only {k : Atoll} {s : State} :
    OnlyNext [.sent, .fresh, .regs, .staged, .edges, .irq, .memWait, .waits, .selfActs, .tickets, .tide, .atolls, .ports, .sound, .mem, .ckpt, .pwr, .age, .rst] s (execRetire k s) := by
  unfold execRetire
  repeat' (first
    | (with_reducible apply OnlyNext.mono State.harbourWrites_only; decide))

theorem execMigrated_only {k : Atoll} {s : State} :
    OnlyNext [.sent, .fresh, .regs, .staged, .edges, .irq, .memWait, .waits, .selfActs, .tickets, .tide, .atolls, .ports, .sound, .mem, .ckpt, .pwr, .age, .rst] s (execMigrated k s) := by
  unfold execMigrated
  repeat' (first
    | (with_reducible apply OnlyNext.mono State.harbourWrites_only; decide))

theorem execRetrainLane_only {port : PortIx} {lane : LaneIx} {s : State} :
    OnlyNext [.sent, .fresh, .regs, .staged, .edges, .irq, .memWait, .waits, .selfActs, .tickets, .tide, .atolls, .ports, .sound, .mem, .ckpt, .pwr, .age, .rst] s (execRetrainLane port lane s) := by
  unfold execRetrainLane
  repeat' (first
    | (with_reducible apply OnlyNext.mono State.harbourWrites_only; decide))

theorem execExcludeLane_only {port : PortIx} {lane : LaneIx} {s : State} :
    OnlyNext [.sent, .fresh, .regs, .staged, .edges, .irq, .memWait, .waits, .selfActs, .tickets, .tide, .atolls, .ports, .sound, .mem, .ckpt, .pwr, .age, .rst] s (execExcludeLane port lane s) := by
  unfold execExcludeLane
  repeat' (first
    | (with_reducible apply OnlyNext.mono State.harbourWrites_only; decide))

theorem execRestoreLane_only {port : PortIx} {lane : LaneIx} {s : State} :
    OnlyNext [.sent, .fresh, .regs, .staged, .edges, .irq, .memWait, .waits, .selfActs, .tickets, .tide, .atolls, .ports, .sound, .mem, .ckpt, .pwr, .age, .rst] s (execRestoreLane port lane s) := by
  unfold execRestoreLane
  repeat' (first
    | (with_reducible apply OnlyNext.mono State.harbourWrites_only; decide))

theorem execLinkRestart_only {port : PortIx} {peer : Slot} {s : State} :
    OnlyNext [.sent, .fresh, .regs, .staged, .edges, .irq, .memWait, .waits, .selfActs, .tickets, .tide, .atolls, .ports, .sound, .mem, .ckpt, .pwr, .age, .rst] s (execLinkRestart port peer s) := by
  unfold execLinkRestart
  repeat' (first
    | (with_reducible apply OnlyNext.mono State.harbourWrites_only; decide))

theorem execCtxConnect_only {c : CtxNo} {s : State} :
    OnlyNext [.sent, .fresh, .regs, .staged, .edges, .irq, .memWait, .waits, .selfActs, .tickets, .tide, .atolls, .ports, .sound, .mem, .ckpt, .pwr, .age, .rst] s (execCtxConnect c s) := by
  unfold execCtxConnect
  repeat' (first
    | (with_reducible apply OnlyNext.mono State.harbourWrites_only; decide))

theorem execCtxListen_only {c : CtxNo} {s : State} :
    OnlyNext [.sent, .fresh, .regs, .staged, .edges, .irq, .memWait, .waits, .selfActs, .tickets, .tide, .atolls, .ports, .sound, .mem, .ckpt, .pwr, .age, .rst] s (execCtxListen c s) := by
  unfold execCtxListen
  repeat' (first
    | (with_reducible apply OnlyNext.mono State.harbourWrites_only; decide))

theorem execCtxClose_only {c : CtxNo} {s : State} :
    OnlyNext [.sent, .fresh, .regs, .staged, .edges, .irq, .memWait, .waits, .selfActs, .tickets, .tide, .atolls, .ports, .sound, .mem, .ckpt, .pwr, .age, .rst] s (execCtxClose c s) := by
  unfold execCtxClose
  repeat' (first
    | (with_reducible apply OnlyNext.mono State.harbourWrites_only; decide))

theorem execAdmitAccept_only {s : State} :
    OnlyNext [.sent, .fresh, .regs, .staged, .edges, .irq, .memWait, .waits, .selfActs, .tickets, .tide, .atolls, .ports, .sound, .mem, .ckpt, .pwr, .age, .rst] s (execAdmitAccept s) := by
  unfold execAdmitAccept
  repeat' (first
    | (with_reducible apply OnlyNext.mono State.harbourWrites_only; decide))

theorem execAdmitRefuse_only {s : State} :
    OnlyNext [.sent, .fresh, .regs, .staged, .edges, .irq, .memWait, .waits, .selfActs, .tickets, .tide, .atolls, .ports, .sound, .mem, .ckpt, .pwr, .age, .rst] s (execAdmitRefuse s) := by
  unfold execAdmitRefuse
  repeat' (first
    | (with_reducible apply OnlyNext.mono State.harbourWrites_only; decide))

theorem execAdmitDefer_only {s : State} :
    OnlyNext [.sent, .fresh, .regs, .staged, .edges, .irq, .memWait, .waits, .selfActs, .tickets, .tide, .atolls, .ports, .sound, .mem, .ckpt, .pwr, .age, .rst] s (execAdmitDefer s) := by
  unfold execAdmitDefer
  repeat' (first
    | (with_reducible apply OnlyNext.mono State.harbourWrites_only; decide))

theorem execStepCmdClose_only {k : Atoll} {slot : Fin 64} {s : State} :
    OnlyNext [.sent, .fresh, .regs, .staged, .edges, .irq, .memWait, .waits, .selfActs, .tickets, .tide, .atolls, .ports, .sound, .mem, .ckpt, .pwr, .age, .rst] s (execStepCmdClose k slot s) := by
  unfold execStepCmdClose
  repeat' (first
    | (with_reducible apply OnlyNext.mono State.harbourWrites_only; decide))

theorem execStepCmdExtend_only {k : Atoll} {slot : Fin 64} {s : State} :
    OnlyNext [.sent, .fresh, .regs, .staged, .edges, .irq, .memWait, .waits, .selfActs, .tickets, .tide, .atolls, .ports, .sound, .mem, .ckpt, .pwr, .age, .rst] s (execStepCmdExtend k slot s) := by
  unfold execStepCmdExtend
  repeat' (first
    | (with_reducible apply OnlyNext.mono State.harbourWrites_only; decide))

theorem execLayerPartner_only {s : State} :
    OnlyNext [.sent, .fresh, .regs, .staged, .edges, .irq, .memWait, .waits, .selfActs, .tickets, .tide, .atolls, .ports, .sound, .mem, .ckpt, .pwr, .age, .rst] s (execLayerPartner s) := by
  unfold execLayerPartner
  repeat' (first
    | (with_reducible apply OnlyNext.mono State.harbourWrites_only; decide))

theorem execLayerFlash_only {s : State} :
    OnlyNext [.sent, .fresh, .regs, .staged, .edges, .irq, .memWait, .waits, .selfActs, .tickets, .tide, .atolls, .ports, .sound, .mem, .ckpt, .pwr, .age, .rst] s (execLayerFlash s) := by
  unfold execLayerFlash
  repeat' (first
    | (with_reducible apply OnlyNext.mono State.harbourWrites_only; decide))

theorem execLayerStore_only {s : State} :
    OnlyNext [.sent, .fresh, .regs, .staged, .edges, .irq, .memWait, .waits, .selfActs, .tickets, .tide, .atolls, .ports, .sound, .mem, .ckpt, .pwr, .age, .rst] s (execLayerStore s) := by
  unfold execLayerStore
  repeat' (first
    | (with_reducible apply OnlyNext.mono State.harbourWrites_only; decide))

theorem execStoreDurable_only {s : State} :
    OnlyNext [.sent, .fresh, .regs, .staged, .edges, .irq, .memWait, .waits, .selfActs, .tickets, .tide, .atolls, .ports, .sound, .mem, .ckpt, .pwr, .age, .rst] s (execStoreDurable s) := by
  unfold execStoreDurable
  repeat' (first
    | (with_reducible apply OnlyNext.mono State.harbourWrites_only; decide))

theorem execRestore_only {src : BitVec 4} {slot : BitVec 16} {s : State} :
    OnlyNext [.sent, .fresh, .regs, .staged, .edges, .irq, .memWait, .waits, .selfActs, .tickets, .tide, .atolls, .ports, .sound, .mem, .ckpt, .pwr, .age, .rst] s (execRestore src slot s) := by
  unfold execRestore
  repeat' (first
    | (with_reducible apply OnlyNext.mono State.harbourWrites_only; decide))

theorem execRealign_only {s : State} :
    OnlyNext [.sent, .fresh, .regs, .staged, .edges, .irq, .memWait, .waits, .selfActs, .tickets, .tide, .atolls, .ports, .sound, .mem, .ckpt, .pwr, .age, .rst] s (execRealign s) := by
  unfold execRealign
  repeat' (first
    | (with_reducible apply OnlyNext.mono State.harbourWrites_only; decide))

theorem execKeep_only {s : State} :
    OnlyNext [.sent, .fresh, .regs, .staged, .edges, .irq, .memWait, .waits, .selfActs, .tickets, .tide, .atolls, .ports, .sound, .mem, .ckpt, .pwr, .age, .rst] s (execKeep s) := by
  unfold execKeep
  repeat' (first
    | (with_reducible apply OnlyNext.mono State.harbourWrites_only; decide))

theorem execCkptAbort_only {s : State} :
    OnlyNext [.sent, .fresh, .regs, .staged, .edges, .irq, .memWait, .waits, .selfActs, .tickets, .tide, .atolls, .ports, .sound, .mem, .ckpt, .pwr, .age, .rst] s (execCkptAbort s) := by
  unfold execCkptAbort
  repeat' (first
    | (with_reducible apply OnlyNext.mono State.harbourWrites_only; decide))

theorem execFetch_only {s : State} :
    OnlyNext [.sent, .fresh, .regs, .staged, .edges, .irq, .memWait, .waits, .selfActs, .tickets, .tide, .atolls, .ports, .sound, .mem, .ckpt, .pwr, .age, .rst] s (execFetch s) := by
  unfold execFetch
  repeat' (first
    | (with_reducible apply OnlyNext.mono State.harbourWrites_only; decide))

theorem execNext_only {s : State} :
    OnlyNext [.sent, .fresh, .regs, .staged, .edges, .irq, .memWait, .waits, .selfActs, .tickets, .tide, .atolls, .ports, .sound, .mem, .ckpt, .pwr, .age, .rst] s (execNext s) := by
  unfold execNext
  repeat' (first
    | (with_reducible apply OnlyNext.mono State.harbourWrites_only; decide))

theorem execCkptAccept_only {s : State} :
    OnlyNext [.sent, .fresh, .regs, .staged, .edges, .irq, .memWait, .waits, .selfActs, .tickets, .tide, .atolls, .ports, .sound, .mem, .ckpt, .pwr, .age, .rst] s (execCkptAccept s) := by
  unfold execCkptAccept
  repeat' (first
    | (with_reducible apply OnlyNext.mono State.harbourWrites_only; decide))

theorem execAgeRead_only {s : State} :
    OnlyNext [.sent, .fresh, .regs, .staged, .edges, .irq, .memWait, .waits, .selfActs, .tickets, .tide, .atolls, .ports, .sound, .mem, .ckpt, .pwr, .age, .rst] s (execAgeRead s) := by
  unfold execAgeRead
  repeat' (first
    | (with_reducible apply OnlyNext.mono State.harbourWrites_only; decide))

theorem execAgeApply_only {s : State} :
    OnlyNext [.sent, .fresh, .regs, .staged, .edges, .irq, .memWait, .waits, .selfActs, .tickets, .tide, .atolls, .ports, .sound, .mem, .ckpt, .pwr, .age, .rst] s (execAgeApply s) := by
  unfold execAgeApply
  repeat' (first
    | (with_reducible apply OnlyNext.mono State.harbourWrites_only; decide))

theorem execAgeDefer_only {s : State} :
    OnlyNext [.sent, .fresh, .regs, .staged, .edges, .irq, .memWait, .waits, .selfActs, .tickets, .tide, .atolls, .ports, .sound, .mem, .ckpt, .pwr, .age, .rst] s (execAgeDefer s) := by
  unfold execAgeDefer
  repeat' (first
    | (with_reducible apply OnlyNext.mono State.harbourWrites_only; decide))

theorem execPwrHostBeat_only {s : State} :
    OnlyNext [.sent, .fresh, .regs, .staged, .edges, .irq, .memWait, .waits, .selfActs, .tickets, .tide, .atolls, .ports, .sound, .mem, .ckpt, .pwr, .age, .rst] s (execPwrHostBeat s) := by
  unfold execPwrHostBeat
  repeat' (first
    | (with_reducible apply OnlyNext.mono State.harbourWrites_only; decide))

theorem execModuleReset_only {s : State} :
    OnlyNext [.sent, .fresh, .regs, .staged, .edges, .irq, .memWait, .waits, .selfActs, .tickets, .tide, .atolls, .ports, .sound, .mem, .ckpt, .pwr, .age, .rst] s (execModuleReset s) := by
  unfold execModuleReset
  repeat' (first
    | (with_reducible apply OnlyNext.mono State.harbourWrites_only; decide))

theorem execRstWdogKick_only {by' : Requester} {s : State} :
    OnlyNext [.sent, .fresh, .regs, .staged, .edges, .irq, .memWait, .waits, .selfActs, .tickets, .tide, .atolls, .ports, .sound, .mem, .ckpt, .pwr, .age, .rst] s (execRstWdogKick by' s) := by
  unfold execRstWdogKick
  repeat' (first
    | with_reducible apply Only.refl
    | with_reducible apply OnlyNext.next
    | (with_reducible apply Only.andThen State.request_only; decide))

theorem execRecBegin_only {s : State} :
    OnlyNext [.sent, .fresh, .regs, .staged, .edges, .irq, .memWait, .waits, .selfActs, .tickets, .tide, .atolls, .ports, .sound, .mem, .ckpt, .pwr, .age, .rst] s (execRecBegin s) := by
  unfold execRecBegin
  repeat' (first
    | with_reducible apply Only.refl
    | with_reducible apply OnlyNext.next
    | (with_reducible apply Only.andThen State.request_only; decide))

theorem execMgmtRecData_only {word : Word32} {s : State} :
    OnlyNext [.sent, .fresh, .regs, .staged, .edges, .irq, .memWait, .waits, .selfActs, .tickets, .tide, .atolls, .ports, .sound, .mem, .ckpt, .pwr, .age, .rst] s (execMgmtRecData word s) := by
  unfold execMgmtRecData
  repeat' (first
    | with_reducible apply Only.refl
    | with_reducible apply OnlyNext.next
    | (with_reducible apply Only.andThen State.request_only; decide))

theorem execRecEnd_only {s : State} :
    OnlyNext [.sent, .fresh, .regs, .staged, .edges, .irq, .memWait, .waits, .selfActs, .tickets, .tide, .atolls, .ports, .sound, .mem, .ckpt, .pwr, .age, .rst] s (execRecEnd s) := by
  unfold execRecEnd
  repeat' (first
    | with_reducible apply Only.refl
    | with_reducible apply OnlyNext.next
    | (with_reducible apply Only.andThen State.request_only; decide))

theorem execRecCtlAbort_only {s : State} :
    OnlyNext [.sent, .fresh, .regs, .staged, .edges, .irq, .memWait, .waits, .selfActs, .tickets, .tide, .atolls, .ports, .sound, .mem, .ckpt, .pwr, .age, .rst] s (execRecCtlAbort s) := by
  unfold execRecCtlAbort
  repeat' (first
    | with_reducible apply Only.refl
    | with_reducible apply OnlyNext.next
    | (with_reducible apply Only.andThen State.request_only; decide))

theorem execQuote_only {s : State} :
    OnlyNext [.sent, .fresh, .regs, .staged, .edges, .irq, .memWait, .waits, .selfActs, .tickets, .tide, .atolls, .ports, .sound, .mem, .ckpt, .pwr, .age, .rst] s (execQuote s) := by
  unfold execQuote
  repeat' (first
    | (with_reducible apply OnlyNext.mono State.harbourWrites_only; decide))

theorem execCert_only {s : State} :
    OnlyNext [.sent, .fresh, .regs, .staged, .edges, .irq, .memWait, .waits, .selfActs, .tickets, .tide, .atolls, .ports, .sound, .mem, .ckpt, .pwr, .age, .rst] s (execCert s) := by
  unfold execCert
  repeat' (first
    | (with_reducible apply OnlyNext.mono State.harbourWrites_only; decide))

theorem execSecWinDataRead_only {s : State} :
    OnlyNext [.sent, .regs, .irq] s (execSecWinDataRead s) := by
  unfold execSecWinDataRead
  repeat' (first
    | with_reducible apply Only.refl
    | with_reducible apply OnlyNext.next
    | (with_reducible apply Only.andThen State.requestRead_only; decide)
    | (with_reducible apply Only.andThen State.emit_only; decide))

theorem execI3cPrivateWrite_only {bytes : List Byte} {s : State} :
    OnlyNext [.sent, .fresh, .regs, .staged, .edges, .irq, .memWait, .waits, .selfActs, .tickets, .tide, .atolls, .ports, .sound, .mem, .ckpt, .pwr, .age, .rst] s (execI3cPrivateWrite bytes s) := by
  unfold execI3cPrivateWrite
  repeat' (first
    | with_reducible apply Only.refl
    | with_reducible apply OnlyNext.next
    | with_reducible apply OnlyNext.ite
    | (with_reducible apply Only.andThen State.onRst_only; decide)
    | (with_reducible apply Only.andThen State.request_only; decide))

theorem execI3cPrivateRead_only {s : State} :
    OnlyNext [.sent, .regs, .irq, .rst] s (execI3cPrivateRead s) := by
  unfold execI3cPrivateRead
  repeat' (first
    | with_reducible apply Only.refl
    | with_reducible apply OnlyNext.next
    | (with_reducible apply Only.andThen State.requestRead_only; decide)
    | (with_reducible apply Only.andThen State.emit_only; decide)
    | (with_reducible apply Only.andThen State.onRst_only; decide))

theorem execMgmtAlertAck_only {ack : Word32} {s : State} :
    OnlyNext [.sent, .fresh, .regs, .staged, .edges, .irq, .memWait, .waits, .selfActs, .tickets, .tide, .atolls, .ports, .sound, .mem, .ckpt, .pwr, .age, .rst] s (execMgmtAlertAck ack s) := by
  unfold execMgmtAlertAck
  repeat' (first
    | with_reducible apply Only.refl
    | with_reducible apply OnlyNext.next
    | (with_reducible apply Only.andThen State.request_only; decide))

end Sys2Proof.Machine
end

