-- ==== Sys2Proof/Laws/OnlyHarbour.lean ====
section
/-! SUPPORT. What the operations of Machine/Harbour.lean change (`Only`). -/

namespace Sys2Proof.Machine

theorem State.regAccess_only {s : State} {by' : Requester} {tag : Nat} {write : Bool} {a len value : Nat} :
    Only [.sent, .fresh, .regs, .staged, .edges, .irq, .memWait, .waits, .selfActs, .tickets, .tide, .atolls, .ports, .sound, .mem, .ckpt, .pwr, .age, .rst] s (State.regAccess s by' tag write a len value) := by
  unfold State.regAccess
  repeat' (first
    | with_reducible apply Only.refl
    | (with_reducible apply Only.andThen State.request_only; decide)
    | (with_reducible apply Only.andThen State.requestRead_only; decide)
    | (with_reducible apply Only.andThen State.complete_only; decide)
    | (with_reducible apply Only.ite; rotate_left; intro _))

theorem execRegisterRequest_only {server : Bool} {tag : BitVec 12} {write : Bool} {len : Nat} {addr value : Word64} {s : State} :
    OnlyNext [.sent, .fresh, .regs, .staged, .edges, .irq, .memWait, .waits, .selfActs, .tickets, .tide, .atolls, .ports, .sound, .mem, .ckpt, .pwr, .age, .rst] s (execRegisterRequest server tag write len addr value s) := by
  unfold execRegisterRequest
  repeat' (first
    | with_reducible apply Only.refl
    | with_reducible apply OnlyNext.next
    | with_reducible apply OnlyNext.ite
    | (with_reducible apply Only.andThen State.regAccess_only; decide))

theorem State.bellAccess_only {s : State} {core a len : Nat} {write : Bool} {tail : Nat} :
    Only [.sent, .fresh, .regs, .irq, .memWait, .atolls, .mem, .ckpt] s (State.bellAccess s core a len write tail) := by
  unfold State.bellAccess
  repeat' (first
    | with_reducible apply Only.refl
    | (with_reducible apply Only.andThen State.memRequest_only; decide)
    | (with_reducible apply Only.andThen State.raise_only; decide)
    | (with_reducible apply Only.ite; rotate_left; intro _))

theorem execDoorbell_only {core : BitVec 5} {word : Fin 1024} {write aligned : Bool} {tail : Word32} {s : State} :
    OnlyNext [.sent, .fresh, .regs, .irq, .memWait, .atolls, .mem, .ckpt] s (execDoorbell core word write aligned tail s) := by
  unfold execDoorbell
  repeat' (first
    | with_reducible apply Only.refl
    | with_reducible apply OnlyNext.next
    | with_reducible apply OnlyNext.ite
    | (with_reducible apply Only.andThen State.complete_only; decide)
    | (with_reducible apply Only.andThen State.bellAccess_only; decide))

theorem execMemoryRequest_only {core : BitVec 5} {tag : BitVec 12} {write : Bool} {addr : Word64} {len : Nat} {data : List Byte} {s : State} :
    OnlyNext [.sent, .fresh, .regs, .staged, .edges, .irq, .memWait, .waits, .selfActs, .tickets, .tide, .atolls, .ports, .sound, .mem, .ckpt, .pwr, .age, .rst] s (execMemoryRequest core tag write addr len data s) := by
  unfold execMemoryRequest
  repeat' (first
    | with_reducible apply Only.refl
    | with_reducible apply OnlyNext.next
    | with_reducible apply OnlyNext.ite
    | (with_reducible apply Only.andThen State.emit_only; decide)
    | (with_reducible apply Only.andThen State.regAccess_only; decide)
    | (with_reducible apply Only.andThen State.bellAccess_only; decide)
    | (with_reducible apply Only.andThen State.complete_only; decide)
    | (with_reducible apply Only.andThen State.memRequest_only; decide)
    | (with_reducible apply Only.andThen State.fresh_only; decide))

theorem execAttachErr_only {k : Atoll} {retrained : Bool} {s : State} :
    OnlyNext [.sent, .regs, .irq, .atolls] s (execAttachErr k retrained s) := by
  unfold execAttachErr
  repeat' (first
    | with_reducible apply Only.refl
    | with_reducible apply OnlyNext.next
    | with_reducible apply OnlyNext.ite
    | (with_reducible apply Only.onAtl; decide)
    | (with_reducible apply Only.andThen State.setFld_only; decide)
    | (with_reducible apply Only.andThen State.setBit_only; decide)
    | (with_reducible apply Only.andThen State.raise_only; decide)
    | (intro _ h; exact h)
    | (with_reducible apply Only.ite; rotate_left; intro _))

theorem execPcieLink_only {up : Bool} {width : BitVec 5} {s : State} :
    OnlyNext [.sent, .regs, .irq] s (execPcieLink up width s) := by
  unfold execPcieLink
  repeat' (first
    | with_reducible apply Only.refl
    | with_reducible apply OnlyNext.next
    | with_reducible apply OnlyNext.ite
    | (with_reducible apply Only.andThen State.setFld_only; decide)
    | (with_reducible apply Only.andThen State.raiseIf_only; decide)
    | (with_reducible apply Only.andThen State.layerEnd_only; decide)
    | (with_reducible apply Only.ite; rotate_left; intro _))

theorem State.entryWord_only {s : State} {a : Nat} :
    Only [.fresh] s (State.entryWord s a).2 := by
  unfold State.entryWord
  repeat' (first
    | with_reducible apply Only.refl
    | (with_reducible apply Only.andThen State.fresh_only; decide)
    | split)

theorem State.entryStart_only {s : State} {k : Atoll} {q : Nat} :
    Only [.fresh, .regs, .atolls] s (State.entryStart s k q) := by
  unfold State.entryStart
  repeat' (first
    | with_reducible apply Only.refl
    | (with_reducible apply Only.andThen State.entryWord_only; decide)
    | (with_reducible apply Only.andThen State.setFld_only; decide)
    | (with_reducible apply Only.andThen State.onSeq_only; decide))

theorem execPlanEntryStart_only {k : Atoll} {s : State} :
    OnlyNext [.fresh, .regs, .atolls] s (execPlanEntryStart k s) := by
  unfold execPlanEntryStart
  repeat' (first
    | with_reducible apply Only.refl
    | with_reducible apply OnlyNext.next
    | (with_reducible apply Only.andThen State.entryStart_only; decide)
    | split)

end Sys2Proof.Machine
end

