-- ==== Sys2Proof/Laws/Regs.lean ====
section
/-! SUPPORT. Laws of the register operations of Machine/Ops.lean: a register read after a write, a field read after a
field was set. -/

namespace Sys2Proof.Machine

variable {s : State}

theorem State.rd_lt (s : State) (a : Nat) : s.rd a < 2 ^ 64 := (SMap.get resetWord s.regs a).isLt

@[simp] theorem State.rd_wr_self (a v : Nat) : (s.wr a v).rd a = v % 2 ^ 64 := by
  simp [State.wr, State.rd]

theorem State.rd_wr_ne {a b : Nat} (v : Nat) (h : b ≠ a) : (s.wr a v).rd b = s.rd b := by
  simp [State.wr, State.rd, SMap.get_put_ne _ _ _ h]

theorem State.rd_wr (a b v : Nat) : (s.wr a v).rd b = if b = a then v % 2 ^ 64 else s.rd b := by
  split
  · next h => subst h; exact State.rd_wr_self b v
  · next h => exact State.rd_wr_ne v h

/-- A field reads as what it was set to, cut to its width. -/
theorem State.fld_setFld_self (f : Fld) (v : Nat) (h : f.lo ≤ f.hi) (w : f.hi < 64) :
    (s.setFld f v).fld f = v % 2 ^ (f.hi + 1 - f.lo) := by
  rw [State.fld, State.setFld, State.rd_wr_self, bits_mod _ _ _ _ w, bits_withBits_self _ _ _ _ (by omega)]

/-- A field of another register reads as before. -/
theorem State.fld_setFld_ne {f g : Fld} (v : Nat) (h : g.reg ≠ f.reg) : (s.setFld f v).fld g = s.fld g := by
  rw [State.fld, State.setFld, State.rd_wr_ne _ h, State.fld]

/-- A field of the same register that shares no bit reads as before. -/
theorem State.fld_setFld_apart {f g : Fld} (v : Nat) (hr : g.reg = f.reg) (h : f.lo ≤ f.hi) (w : g.hi < 64)
    (hd : g.hi < f.lo ∨ f.hi < g.lo) : (s.setFld f v).fld g = s.fld g := by
  rw [State.fld, State.setFld, hr, State.rd_wr_self, bits_mod _ _ _ _ w, bits_withBits_ne _ _ _ _ _ _ (by omega) hd,
    State.fld, hr]

/-- A register other than the field's reads as before. -/
theorem State.rd_setFld_ne {f : Fld} {b : Nat} (v : Nat) (h : b ≠ f.reg) : (s.setFld f v).rd b = s.rd b :=
  State.rd_wr_ne _ h

theorem State.rd_bump_ne {f : Fld} {b : Nat} (n : Nat) (h : b ≠ f.reg) : (s.bump f n).rd b = s.rd b :=
  State.rd_wr_ne _ h

theorem State.fld_bump_ne {f g : Fld} (n : Nat) (h : g.reg ≠ f.reg) : (s.bump f n).fld g = s.fld g :=
  State.fld_setFld_ne _ h

/-- A field is below what its width holds. -/
theorem State.fld_lt (f : Fld) : s.fld f < 2 ^ (f.hi + 1 - f.lo) := bits_lt _ _ _

/-- A counter rises by `n`, or stays at its greatest value. -/
theorem State.fld_bump_self (f : Fld) (n : Nat) (h : f.lo ≤ f.hi) (w : f.hi < 64) :
    (s.bump f n).fld f = min (s.fld f + n) (2 ^ (f.hi + 1 - f.lo) - 1) := by
  rw [State.bump, State.fld_setFld_self _ _ h w, satAdd, Nat.mod_eq_of_lt]
  have : 0 < 2 ^ (f.hi + 1 - f.lo) := Nat.two_pow_pos _
  omega

/-- Registers depend on the register map alone. -/
theorem State.rd_congr {t : State} (h : t.regs = s.regs) (a : Nat) : t.rd a = s.rd a := by simp [State.rd, h]

theorem State.fld_congr {t : State} (h : t.regs = s.regs) (f : Fld) : t.fld f = s.fld f := by
  simp [State.fld, State.rd, h]

end Sys2Proof.Machine
end

