-- ==== Sys2Proof/Laws/State.lean ====
section
/-! SUPPORT. What each named update of Machine/Ops.lean leaves, field by field, and what an atoll, a port die and a
register read as after it. -/

namespace Sys2Proof.Machine

variable (s : State)

/-! ### wr -/

@[simp] theorem State.wr_pending (a v : Nat) : (s.wr a v).pending = s.pending := rfl
@[simp] theorem State.wr_sent (a v : Nat) : (s.wr a v).sent = s.sent := rfl
@[simp] theorem State.wr_freshCount (a v : Nat) : (s.wr a v).freshCount = s.freshCount := rfl
@[simp] theorem State.wr_now (a v : Nat) : (s.wr a v).now = s.now := rfl
@[simp] theorem State.wr_staged (a v : Nat) : (s.wr a v).staged = s.staged := rfl
@[simp] theorem State.wr_slowEdges (a v : Nat) : (s.wr a v).slowEdges = s.slowEdges := rfl
@[simp] theorem State.wr_irqPend (a v : Nat) : (s.wr a v).irqPend = s.irqPend := rfl
@[simp] theorem State.wr_memWait (a v : Nat) : (s.wr a v).memWait = s.memWait := rfl
@[simp] theorem State.wr_waits (a v : Nat) : (s.wr a v).waits = s.waits := rfl
@[simp] theorem State.wr_selfActs (a v : Nat) : (s.wr a v).selfActs = s.selfActs := rfl
@[simp] theorem State.wr_tickets (a v : Nat) : (s.wr a v).tickets = s.tickets := rfl
@[simp] theorem State.wr_tide (a v : Nat) : (s.wr a v).tide = s.tide := rfl
@[simp] theorem State.wr_atolls (a v : Nat) : (s.wr a v).atolls = s.atolls := rfl
@[simp] theorem State.wr_ports (a v : Nat) : (s.wr a v).ports = s.ports := rfl
@[simp] theorem State.wr_sound (a v : Nat) : (s.wr a v).sound = s.sound := rfl
@[simp] theorem State.wr_mem (a v : Nat) : (s.wr a v).mem = s.mem := rfl
@[simp] theorem State.wr_poison (a v : Nat) : (s.wr a v).poison = s.poison := rfl
@[simp] theorem State.wr_ckpt (a v : Nat) : (s.wr a v).ckpt = s.ckpt := rfl
@[simp] theorem State.wr_pwr (a v : Nat) : (s.wr a v).pwr = s.pwr := rfl
@[simp] theorem State.wr_age (a v : Nat) : (s.wr a v).age = s.age := rfl
@[simp] theorem State.wr_rst (a v : Nat) : (s.wr a v).rst = s.rst := rfl
@[simp] theorem State.wr_atl (a v : Nat) (j : Atoll) : (s.wr a v).atl j = s.atl j := rfl
@[simp] theorem State.wr_port (a v : Nat) (q : PortIx) : (s.wr a v).port q = s.port q := rfl

/-! ### setFld -/

@[simp] theorem State.setFld_pending (f : Fld) (v : Nat) : (s.setFld f v).pending = s.pending := rfl
@[simp] theorem State.setFld_sent (f : Fld) (v : Nat) : (s.setFld f v).sent = s.sent := rfl
@[simp] theorem State.setFld_freshCount (f : Fld) (v : Nat) : (s.setFld f v).freshCount = s.freshCount := rfl
@[simp] theorem State.setFld_now (f : Fld) (v : Nat) : (s.setFld f v).now = s.now := rfl
@[simp] theorem State.setFld_staged (f : Fld) (v : Nat) : (s.setFld f v).staged = s.staged := rfl
@[simp] theorem State.setFld_slowEdges (f : Fld) (v : Nat) : (s.setFld f v).slowEdges = s.slowEdges := rfl
@[simp] theorem State.setFld_irqPend (f : Fld) (v : Nat) : (s.setFld f v).irqPend = s.irqPend := rfl
@[simp] theorem State.setFld_memWait (f : Fld) (v : Nat) : (s.setFld f v).memWait = s.memWait := rfl
@[simp] theorem State.setFld_waits (f : Fld) (v : Nat) : (s.setFld f v).waits = s.waits := rfl
@[simp] theorem State.setFld_selfActs (f : Fld) (v : Nat) : (s.setFld f v).selfActs = s.selfActs := rfl
@[simp] theorem State.setFld_tickets (f : Fld) (v : Nat) : (s.setFld f v).tickets = s.tickets := rfl
@[simp] theorem State.setFld_tide (f : Fld) (v : Nat) : (s.setFld f v).tide = s.tide := rfl
@[simp] theorem State.setFld_atolls (f : Fld) (v : Nat) : (s.setFld f v).atolls = s.atolls := rfl
@[simp] theorem State.setFld_ports (f : Fld) (v : Nat) : (s.setFld f v).ports = s.ports := rfl
@[simp] theorem State.setFld_sound (f : Fld) (v : Nat) : (s.setFld f v).sound = s.sound := rfl
@[simp] theorem State.setFld_mem (f : Fld) (v : Nat) : (s.setFld f v).mem = s.mem := rfl
@[simp] theorem State.setFld_poison (f : Fld) (v : Nat) : (s.setFld f v).poison = s.poison := rfl
@[simp] theorem State.setFld_ckpt (f : Fld) (v : Nat) : (s.setFld f v).ckpt = s.ckpt := rfl
@[simp] theorem State.setFld_pwr (f : Fld) (v : Nat) : (s.setFld f v).pwr = s.pwr := rfl
@[simp] theorem State.setFld_age (f : Fld) (v : Nat) : (s.setFld f v).age = s.age := rfl
@[simp] theorem State.setFld_rst (f : Fld) (v : Nat) : (s.setFld f v).rst = s.rst := rfl
@[simp] theorem State.setFld_atl (f : Fld) (v : Nat) (j : Atoll) : (s.setFld f v).atl j = s.atl j := rfl
@[simp] theorem State.setFld_port (f : Fld) (v : Nat) (q : PortIx) : (s.setFld f v).port q = s.port q := rfl

/-! ### bump -/

@[simp] theorem State.bump_pending (f : Fld) (n : Nat) : (s.bump f n).pending = s.pending := rfl
@[simp] theorem State.bump_sent (f : Fld) (n : Nat) : (s.bump f n).sent = s.sent := rfl
@[simp] theorem State.bump_freshCount (f : Fld) (n : Nat) : (s.bump f n).freshCount = s.freshCount := rfl
@[simp] theorem State.bump_now (f : Fld) (n : Nat) : (s.bump f n).now = s.now := rfl
@[simp] theorem State.bump_staged (f : Fld) (n : Nat) : (s.bump f n).staged = s.staged := rfl
@[simp] theorem State.bump_slowEdges (f : Fld) (n : Nat) : (s.bump f n).slowEdges = s.slowEdges := rfl
@[simp] theorem State.bump_irqPend (f : Fld) (n : Nat) : (s.bump f n).irqPend = s.irqPend := rfl
@[simp] theorem State.bump_memWait (f : Fld) (n : Nat) : (s.bump f n).memWait = s.memWait := rfl
@[simp] theorem State.bump_waits (f : Fld) (n : Nat) : (s.bump f n).waits = s.waits := rfl
@[simp] theorem State.bump_selfActs (f : Fld) (n : Nat) : (s.bump f n).selfActs = s.selfActs := rfl
@[simp] theorem State.bump_tickets (f : Fld) (n : Nat) : (s.bump f n).tickets = s.tickets := rfl
@[simp] theorem State.bump_tide (f : Fld) (n : Nat) : (s.bump f n).tide = s.tide := rfl
@[simp] theorem State.bump_atolls (f : Fld) (n : Nat) : (s.bump f n).atolls = s.atolls := rfl
@[simp] theorem State.bump_ports (f : Fld) (n : Nat) : (s.bump f n).ports = s.ports := rfl
@[simp] theorem State.bump_sound (f : Fld) (n : Nat) : (s.bump f n).sound = s.sound := rfl
@[simp] theorem State.bump_mem (f : Fld) (n : Nat) : (s.bump f n).mem = s.mem := rfl
@[simp] theorem State.bump_poison (f : Fld) (n : Nat) : (s.bump f n).poison = s.poison := rfl
@[simp] theorem State.bump_ckpt (f : Fld) (n : Nat) : (s.bump f n).ckpt = s.ckpt := rfl
@[simp] theorem State.bump_pwr (f : Fld) (n : Nat) : (s.bump f n).pwr = s.pwr := rfl
@[simp] theorem State.bump_age (f : Fld) (n : Nat) : (s.bump f n).age = s.age := rfl
@[simp] theorem State.bump_rst (f : Fld) (n : Nat) : (s.bump f n).rst = s.rst := rfl
@[simp] theorem State.bump_atl (f : Fld) (n : Nat) (j : Atoll) : (s.bump f n).atl j = s.atl j := rfl
@[simp] theorem State.bump_port (f : Fld) (n : Nat) (q : PortIx) : (s.bump f n).port q = s.port q := rfl

/-! ### emit -/

@[simp] theorem State.emit_pending (m : Msg) : (s.emit m).pending = s.pending := rfl
@[simp] theorem State.emit_freshCount (m : Msg) : (s.emit m).freshCount = s.freshCount := rfl
@[simp] theorem State.emit_now (m : Msg) : (s.emit m).now = s.now := rfl
@[simp] theorem State.emit_regs (m : Msg) : (s.emit m).regs = s.regs := rfl
@[simp] theorem State.emit_staged (m : Msg) : (s.emit m).staged = s.staged := rfl
@[simp] theorem State.emit_slowEdges (m : Msg) : (s.emit m).slowEdges = s.slowEdges := rfl
@[simp] theorem State.emit_irqPend (m : Msg) : (s.emit m).irqPend = s.irqPend := rfl
@[simp] theorem State.emit_memWait (m : Msg) : (s.emit m).memWait = s.memWait := rfl
@[simp] theorem State.emit_waits (m : Msg) : (s.emit m).waits = s.waits := rfl
@[simp] theorem State.emit_selfActs (m : Msg) : (s.emit m).selfActs = s.selfActs := rfl
@[simp] theorem State.emit_tickets (m : Msg) : (s.emit m).tickets = s.tickets := rfl
@[simp] theorem State.emit_tide (m : Msg) : (s.emit m).tide = s.tide := rfl
@[simp] theorem State.emit_atolls (m : Msg) : (s.emit m).atolls = s.atolls := rfl
@[simp] theorem State.emit_ports (m : Msg) : (s.emit m).ports = s.ports := rfl
@[simp] theorem State.emit_sound (m : Msg) : (s.emit m).sound = s.sound := rfl
@[simp] theorem State.emit_mem (m : Msg) : (s.emit m).mem = s.mem := rfl
@[simp] theorem State.emit_poison (m : Msg) : (s.emit m).poison = s.poison := rfl
@[simp] theorem State.emit_ckpt (m : Msg) : (s.emit m).ckpt = s.ckpt := rfl
@[simp] theorem State.emit_pwr (m : Msg) : (s.emit m).pwr = s.pwr := rfl
@[simp] theorem State.emit_age (m : Msg) : (s.emit m).age = s.age := rfl
@[simp] theorem State.emit_rst (m : Msg) : (s.emit m).rst = s.rst := rfl
@[simp] theorem State.emit_rd (m : Msg) (x' : Nat) : (s.emit m).rd x' = s.rd x' := rfl
@[simp] theorem State.emit_fld (m : Msg) (x' : Fld) : (s.emit m).fld x' = s.fld x' := rfl
@[simp] theorem State.emit_flag (m : Msg) (x' : Fld) : (s.emit m).flag x' = s.flag x' := rfl
@[simp] theorem State.emit_atl (m : Msg) (j : Atoll) : (s.emit m).atl j = s.atl j := rfl
@[simp] theorem State.emit_port (m : Msg) (q : PortIx) : (s.emit m).port q = s.port q := rfl

/-! ### emits -/

@[simp] theorem State.emits_pending (l : List Msg) : (s.emits l).pending = s.pending := rfl
@[simp] theorem State.emits_freshCount (l : List Msg) : (s.emits l).freshCount = s.freshCount := rfl
@[simp] theorem State.emits_now (l : List Msg) : (s.emits l).now = s.now := rfl
@[simp] theorem State.emits_regs (l : List Msg) : (s.emits l).regs = s.regs := rfl
@[simp] theorem State.emits_staged (l : List Msg) : (s.emits l).staged = s.staged := rfl
@[simp] theorem State.emits_slowEdges (l : List Msg) : (s.emits l).slowEdges = s.slowEdges := rfl
@[simp] theorem State.emits_irqPend (l : List Msg) : (s.emits l).irqPend = s.irqPend := rfl
@[simp] theorem State.emits_memWait (l : List Msg) : (s.emits l).memWait = s.memWait := rfl
@[simp] theorem State.emits_waits (l : List Msg) : (s.emits l).waits = s.waits := rfl
@[simp] theorem State.emits_selfActs (l : List Msg) : (s.emits l).selfActs = s.selfActs := rfl
@[simp] theorem State.emits_tickets (l : List Msg) : (s.emits l).tickets = s.tickets := rfl
@[simp] theorem State.emits_tide (l : List Msg) : (s.emits l).tide = s.tide := rfl
@[simp] theorem State.emits_atolls (l : List Msg) : (s.emits l).atolls = s.atolls := rfl
@[simp] theorem State.emits_ports (l : List Msg) : (s.emits l).ports = s.ports := rfl
@[simp] theorem State.emits_sound (l : List Msg) : (s.emits l).sound = s.sound := rfl
@[simp] theorem State.emits_mem (l : List Msg) : (s.emits l).mem = s.mem := rfl
@[simp] theorem State.emits_poison (l : List Msg) : (s.emits l).poison = s.poison := rfl
@[simp] theorem State.emits_ckpt (l : List Msg) : (s.emits l).ckpt = s.ckpt := rfl
@[simp] theorem State.emits_pwr (l : List Msg) : (s.emits l).pwr = s.pwr := rfl
@[simp] theorem State.emits_age (l : List Msg) : (s.emits l).age = s.age := rfl
@[simp] theorem State.emits_rst (l : List Msg) : (s.emits l).rst = s.rst := rfl
@[simp] theorem State.emits_rd (l : List Msg) (x' : Nat) : (s.emits l).rd x' = s.rd x' := rfl
@[simp] theorem State.emits_fld (l : List Msg) (x' : Fld) : (s.emits l).fld x' = s.fld x' := rfl
@[simp] theorem State.emits_flag (l : List Msg) (x' : Fld) : (s.emits l).flag x' = s.flag x' := rfl
@[simp] theorem State.emits_atl (l : List Msg) (j : Atoll) : (s.emits l).atl j = s.atl j := rfl
@[simp] theorem State.emits_port (l : List Msg) (q : PortIx) : (s.emits l).port q = s.port q := rfl

/-! ### onAtl -/

@[simp] theorem State.onAtl_pending (k : Atoll) (f : AtollSt → AtollSt) : (s.onAtl k f).pending = s.pending := rfl
@[simp] theorem State.onAtl_sent (k : Atoll) (f : AtollSt → AtollSt) : (s.onAtl k f).sent = s.sent := rfl
@[simp] theorem State.onAtl_freshCount (k : Atoll) (f : AtollSt → AtollSt) : (s.onAtl k f).freshCount = s.freshCount := rfl
@[simp] theorem State.onAtl_now (k : Atoll) (f : AtollSt → AtollSt) : (s.onAtl k f).now = s.now := rfl
@[simp] theorem State.onAtl_regs (k : Atoll) (f : AtollSt → AtollSt) : (s.onAtl k f).regs = s.regs := rfl
@[simp] theorem State.onAtl_staged (k : Atoll) (f : AtollSt → AtollSt) : (s.onAtl k f).staged = s.staged := rfl
@[simp] theorem State.onAtl_slowEdges (k : Atoll) (f : AtollSt → AtollSt) : (s.onAtl k f).slowEdges = s.slowEdges := rfl
@[simp] theorem State.onAtl_irqPend (k : Atoll) (f : AtollSt → AtollSt) : (s.onAtl k f).irqPend = s.irqPend := rfl
@[simp] theorem State.onAtl_memWait (k : Atoll) (f : AtollSt → AtollSt) : (s.onAtl k f).memWait = s.memWait := rfl
@[simp] theorem State.onAtl_waits (k : Atoll) (f : AtollSt → AtollSt) : (s.onAtl k f).waits = s.waits := rfl
@[simp] theorem State.onAtl_selfActs (k : Atoll) (f : AtollSt → AtollSt) : (s.onAtl k f).selfActs = s.selfActs := rfl
@[simp] theorem State.onAtl_tickets (k : Atoll) (f : AtollSt → AtollSt) : (s.onAtl k f).tickets = s.tickets := rfl
@[simp] theorem State.onAtl_tide (k : Atoll) (f : AtollSt → AtollSt) : (s.onAtl k f).tide = s.tide := rfl
@[simp] theorem State.onAtl_ports (k : Atoll) (f : AtollSt → AtollSt) : (s.onAtl k f).ports = s.ports := rfl
@[simp] theorem State.onAtl_sound (k : Atoll) (f : AtollSt → AtollSt) : (s.onAtl k f).sound = s.sound := rfl
@[simp] theorem State.onAtl_mem (k : Atoll) (f : AtollSt → AtollSt) : (s.onAtl k f).mem = s.mem := rfl
@[simp] theorem State.onAtl_poison (k : Atoll) (f : AtollSt → AtollSt) : (s.onAtl k f).poison = s.poison := rfl
@[simp] theorem State.onAtl_ckpt (k : Atoll) (f : AtollSt → AtollSt) : (s.onAtl k f).ckpt = s.ckpt := rfl
@[simp] theorem State.onAtl_pwr (k : Atoll) (f : AtollSt → AtollSt) : (s.onAtl k f).pwr = s.pwr := rfl
@[simp] theorem State.onAtl_age (k : Atoll) (f : AtollSt → AtollSt) : (s.onAtl k f).age = s.age := rfl
@[simp] theorem State.onAtl_rst (k : Atoll) (f : AtollSt → AtollSt) : (s.onAtl k f).rst = s.rst := rfl
@[simp] theorem State.onAtl_rd (k : Atoll) (f : AtollSt → AtollSt) (x' : Nat) : (s.onAtl k f).rd x' = s.rd x' := rfl
@[simp] theorem State.onAtl_fld (k : Atoll) (f : AtollSt → AtollSt) (x' : Fld) : (s.onAtl k f).fld x' = s.fld x' := rfl
@[simp] theorem State.onAtl_flag (k : Atoll) (f : AtollSt → AtollSt) (x' : Fld) : (s.onAtl k f).flag x' = s.flag x' := rfl
@[simp] theorem State.onAtl_port (k : Atoll) (f : AtollSt → AtollSt) (q : PortIx) : (s.onAtl k f).port q = s.port q := rfl

/-! ### onSeq -/

@[simp] theorem State.onSeq_pending (k : Atoll) (f : SeqSt → SeqSt) : (s.onSeq k f).pending = s.pending := rfl
@[simp] theorem State.onSeq_sent (k : Atoll) (f : SeqSt → SeqSt) : (s.onSeq k f).sent = s.sent := rfl
@[simp] theorem State.onSeq_freshCount (k : Atoll) (f : SeqSt → SeqSt) : (s.onSeq k f).freshCount = s.freshCount := rfl
@[simp] theorem State.onSeq_now (k : Atoll) (f : SeqSt → SeqSt) : (s.onSeq k f).now = s.now := rfl
@[simp] theorem State.onSeq_regs (k : Atoll) (f : SeqSt → SeqSt) : (s.onSeq k f).regs = s.regs := rfl
@[simp] theorem State.onSeq_staged (k : Atoll) (f : SeqSt → SeqSt) : (s.onSeq k f).staged = s.staged := rfl
@[simp] theorem State.onSeq_slowEdges (k : Atoll) (f : SeqSt → SeqSt) : (s.onSeq k f).slowEdges = s.slowEdges := rfl
@[simp] theorem State.onSeq_irqPend (k : Atoll) (f : SeqSt → SeqSt) : (s.onSeq k f).irqPend = s.irqPend := rfl
@[simp] theorem State.onSeq_memWait (k : Atoll) (f : SeqSt → SeqSt) : (s.onSeq k f).memWait = s.memWait := rfl
@[simp] theorem State.onSeq_waits (k : Atoll) (f : SeqSt → SeqSt) : (s.onSeq k f).waits = s.waits := rfl
@[simp] theorem State.onSeq_selfActs (k : Atoll) (f : SeqSt → SeqSt) : (s.onSeq k f).selfActs = s.selfActs := rfl
@[simp] theorem State.onSeq_tickets (k : Atoll) (f : SeqSt → SeqSt) : (s.onSeq k f).tickets = s.tickets := rfl
@[simp] theorem State.onSeq_tide (k : Atoll) (f : SeqSt → SeqSt) : (s.onSeq k f).tide = s.tide := rfl
@[simp] theorem State.onSeq_ports (k : Atoll) (f : SeqSt → SeqSt) : (s.onSeq k f).ports = s.ports := rfl
@[simp] theorem State.onSeq_sound (k : Atoll) (f : SeqSt → SeqSt) : (s.onSeq k f).sound = s.sound := rfl
@[simp] theorem State.onSeq_mem (k : Atoll) (f : SeqSt → SeqSt) : (s.onSeq k f).mem = s.mem := rfl
@[simp] theorem State.onSeq_poison (k : Atoll) (f : SeqSt → SeqSt) : (s.onSeq k f).poison = s.poison := rfl
@[simp] theorem State.onSeq_ckpt (k : Atoll) (f : SeqSt → SeqSt) : (s.onSeq k f).ckpt = s.ckpt := rfl
@[simp] theorem State.onSeq_pwr (k : Atoll) (f : SeqSt → SeqSt) : (s.onSeq k f).pwr = s.pwr := rfl
@[simp] theorem State.onSeq_age (k : Atoll) (f : SeqSt → SeqSt) : (s.onSeq k f).age = s.age := rfl
@[simp] theorem State.onSeq_rst (k : Atoll) (f : SeqSt → SeqSt) : (s.onSeq k f).rst = s.rst := rfl
@[simp] theorem State.onSeq_rd (k : Atoll) (f : SeqSt → SeqSt) (x' : Nat) : (s.onSeq k f).rd x' = s.rd x' := rfl
@[simp] theorem State.onSeq_fld (k : Atoll) (f : SeqSt → SeqSt) (x' : Fld) : (s.onSeq k f).fld x' = s.fld x' := rfl
@[simp] theorem State.onSeq_flag (k : Atoll) (f : SeqSt → SeqSt) (x' : Fld) : (s.onSeq k f).flag x' = s.flag x' := rfl
@[simp] theorem State.onSeq_port (k : Atoll) (f : SeqSt → SeqSt) (q : PortIx) : (s.onSeq k f).port q = s.port q := rfl

/-! ### onArr -/

@[simp] theorem State.onArr_pending (k : Atoll) (f : ArrSt → ArrSt) : (s.onArr k f).pending = s.pending := rfl
@[simp] theorem State.onArr_sent (k : Atoll) (f : ArrSt → ArrSt) : (s.onArr k f).sent = s.sent := rfl
@[simp] theorem State.onArr_freshCount (k : Atoll) (f : ArrSt → ArrSt) : (s.onArr k f).freshCount = s.freshCount := rfl
@[simp] theorem State.onArr_now (k : Atoll) (f : ArrSt → ArrSt) : (s.onArr k f).now = s.now := rfl
@[simp] theorem State.onArr_regs (k : Atoll) (f : ArrSt → ArrSt) : (s.onArr k f).regs = s.regs := rfl
@[simp] theorem State.onArr_staged (k : Atoll) (f : ArrSt → ArrSt) : (s.onArr k f).staged = s.staged := rfl
@[simp] theorem State.onArr_slowEdges (k : Atoll) (f : ArrSt → ArrSt) : (s.onArr k f).slowEdges = s.slowEdges := rfl
@[simp] theorem State.onArr_irqPend (k : Atoll) (f : ArrSt → ArrSt) : (s.onArr k f).irqPend = s.irqPend := rfl
@[simp] theorem State.onArr_memWait (k : Atoll) (f : ArrSt → ArrSt) : (s.onArr k f).memWait = s.memWait := rfl
@[simp] theorem State.onArr_waits (k : Atoll) (f : ArrSt → ArrSt) : (s.onArr k f).waits = s.waits := rfl
@[simp] theorem State.onArr_selfActs (k : Atoll) (f : ArrSt → ArrSt) : (s.onArr k f).selfActs = s.selfActs := rfl
@[simp] theorem State.onArr_tickets (k : Atoll) (f : ArrSt → ArrSt) : (s.onArr k f).tickets = s.tickets := rfl
@[simp] theorem State.onArr_tide (k : Atoll) (f : ArrSt → ArrSt) : (s.onArr k f).tide = s.tide := rfl
@[simp] theorem State.onArr_ports (k : Atoll) (f : ArrSt → ArrSt) : (s.onArr k f).ports = s.ports := rfl
@[simp] theorem State.onArr_sound (k : Atoll) (f : ArrSt → ArrSt) : (s.onArr k f).sound = s.sound := rfl
@[simp] theorem State.onArr_mem (k : Atoll) (f : ArrSt → ArrSt) : (s.onArr k f).mem = s.mem := rfl
@[simp] theorem State.onArr_poison (k : Atoll) (f : ArrSt → ArrSt) : (s.onArr k f).poison = s.poison := rfl
@[simp] theorem State.onArr_ckpt (k : Atoll) (f : ArrSt → ArrSt) : (s.onArr k f).ckpt = s.ckpt := rfl
@[simp] theorem State.onArr_pwr (k : Atoll) (f : ArrSt → ArrSt) : (s.onArr k f).pwr = s.pwr := rfl
@[simp] theorem State.onArr_age (k : Atoll) (f : ArrSt → ArrSt) : (s.onArr k f).age = s.age := rfl
@[simp] theorem State.onArr_rst (k : Atoll) (f : ArrSt → ArrSt) : (s.onArr k f).rst = s.rst := rfl
@[simp] theorem State.onArr_rd (k : Atoll) (f : ArrSt → ArrSt) (x' : Nat) : (s.onArr k f).rd x' = s.rd x' := rfl
@[simp] theorem State.onArr_fld (k : Atoll) (f : ArrSt → ArrSt) (x' : Fld) : (s.onArr k f).fld x' = s.fld x' := rfl
@[simp] theorem State.onArr_flag (k : Atoll) (f : ArrSt → ArrSt) (x' : Fld) : (s.onArr k f).flag x' = s.flag x' := rfl
@[simp] theorem State.onArr_port (k : Atoll) (f : ArrSt → ArrSt) (q : PortIx) : (s.onArr k f).port q = s.port q := rfl

/-! ### onVec -/

@[simp] theorem State.onVec_pending (k : Atoll) (f : VecSt → VecSt) : (s.onVec k f).pending = s.pending := rfl
@[simp] theorem State.onVec_sent (k : Atoll) (f : VecSt → VecSt) : (s.onVec k f).sent = s.sent := rfl
@[simp] theorem State.onVec_freshCount (k : Atoll) (f : VecSt → VecSt) : (s.onVec k f).freshCount = s.freshCount := rfl
@[simp] theorem State.onVec_now (k : Atoll) (f : VecSt → VecSt) : (s.onVec k f).now = s.now := rfl
@[simp] theorem State.onVec_regs (k : Atoll) (f : VecSt → VecSt) : (s.onVec k f).regs = s.regs := rfl
@[simp] theorem State.onVec_staged (k : Atoll) (f : VecSt → VecSt) : (s.onVec k f).staged = s.staged := rfl
@[simp] theorem State.onVec_slowEdges (k : Atoll) (f : VecSt → VecSt) : (s.onVec k f).slowEdges = s.slowEdges := rfl
@[simp] theorem State.onVec_irqPend (k : Atoll) (f : VecSt → VecSt) : (s.onVec k f).irqPend = s.irqPend := rfl
@[simp] theorem State.onVec_memWait (k : Atoll) (f : VecSt → VecSt) : (s.onVec k f).memWait = s.memWait := rfl
@[simp] theorem State.onVec_waits (k : Atoll) (f : VecSt → VecSt) : (s.onVec k f).waits = s.waits := rfl
@[simp] theorem State.onVec_selfActs (k : Atoll) (f : VecSt → VecSt) : (s.onVec k f).selfActs = s.selfActs := rfl
@[simp] theorem State.onVec_tickets (k : Atoll) (f : VecSt → VecSt) : (s.onVec k f).tickets = s.tickets := rfl
@[simp] theorem State.onVec_tide (k : Atoll) (f : VecSt → VecSt) : (s.onVec k f).tide = s.tide := rfl
@[simp] theorem State.onVec_ports (k : Atoll) (f : VecSt → VecSt) : (s.onVec k f).ports = s.ports := rfl
@[simp] theorem State.onVec_sound (k : Atoll) (f : VecSt → VecSt) : (s.onVec k f).sound = s.sound := rfl
@[simp] theorem State.onVec_mem (k : Atoll) (f : VecSt → VecSt) : (s.onVec k f).mem = s.mem := rfl
@[simp] theorem State.onVec_poison (k : Atoll) (f : VecSt → VecSt) : (s.onVec k f).poison = s.poison := rfl
@[simp] theorem State.onVec_ckpt (k : Atoll) (f : VecSt → VecSt) : (s.onVec k f).ckpt = s.ckpt := rfl
@[simp] theorem State.onVec_pwr (k : Atoll) (f : VecSt → VecSt) : (s.onVec k f).pwr = s.pwr := rfl
@[simp] theorem State.onVec_age (k : Atoll) (f : VecSt → VecSt) : (s.onVec k f).age = s.age := rfl
@[simp] theorem State.onVec_rst (k : Atoll) (f : VecSt → VecSt) : (s.onVec k f).rst = s.rst := rfl
@[simp] theorem State.onVec_rd (k : Atoll) (f : VecSt → VecSt) (x' : Nat) : (s.onVec k f).rd x' = s.rd x' := rfl
@[simp] theorem State.onVec_fld (k : Atoll) (f : VecSt → VecSt) (x' : Fld) : (s.onVec k f).fld x' = s.fld x' := rfl
@[simp] theorem State.onVec_flag (k : Atoll) (f : VecSt → VecSt) (x' : Fld) : (s.onVec k f).flag x' = s.flag x' := rfl
@[simp] theorem State.onVec_port (k : Atoll) (f : VecSt → VecSt) (q : PortIx) : (s.onVec k f).port q = s.port q := rfl

/-! ### onStrm -/

@[simp] theorem State.onStrm_pending (k : Atoll) (f : StrmSt → StrmSt) : (s.onStrm k f).pending = s.pending := rfl
@[simp] theorem State.onStrm_sent (k : Atoll) (f : StrmSt → StrmSt) : (s.onStrm k f).sent = s.sent := rfl
@[simp] theorem State.onStrm_freshCount (k : Atoll) (f : StrmSt → StrmSt) : (s.onStrm k f).freshCount = s.freshCount := rfl
@[simp] theorem State.onStrm_now (k : Atoll) (f : StrmSt → StrmSt) : (s.onStrm k f).now = s.now := rfl
@[simp] theorem State.onStrm_regs (k : Atoll) (f : StrmSt → StrmSt) : (s.onStrm k f).regs = s.regs := rfl
@[simp] theorem State.onStrm_staged (k : Atoll) (f : StrmSt → StrmSt) : (s.onStrm k f).staged = s.staged := rfl
@[simp] theorem State.onStrm_slowEdges (k : Atoll) (f : StrmSt → StrmSt) : (s.onStrm k f).slowEdges = s.slowEdges := rfl
@[simp] theorem State.onStrm_irqPend (k : Atoll) (f : StrmSt → StrmSt) : (s.onStrm k f).irqPend = s.irqPend := rfl
@[simp] theorem State.onStrm_memWait (k : Atoll) (f : StrmSt → StrmSt) : (s.onStrm k f).memWait = s.memWait := rfl
@[simp] theorem State.onStrm_waits (k : Atoll) (f : StrmSt → StrmSt) : (s.onStrm k f).waits = s.waits := rfl
@[simp] theorem State.onStrm_selfActs (k : Atoll) (f : StrmSt → StrmSt) : (s.onStrm k f).selfActs = s.selfActs := rfl
@[simp] theorem State.onStrm_tickets (k : Atoll) (f : StrmSt → StrmSt) : (s.onStrm k f).tickets = s.tickets := rfl
@[simp] theorem State.onStrm_tide (k : Atoll) (f : StrmSt → StrmSt) : (s.onStrm k f).tide = s.tide := rfl
@[simp] theorem State.onStrm_ports (k : Atoll) (f : StrmSt → StrmSt) : (s.onStrm k f).ports = s.ports := rfl
@[simp] theorem State.onStrm_sound (k : Atoll) (f : StrmSt → StrmSt) : (s.onStrm k f).sound = s.sound := rfl
@[simp] theorem State.onStrm_mem (k : Atoll) (f : StrmSt → StrmSt) : (s.onStrm k f).mem = s.mem := rfl
@[simp] theorem State.onStrm_poison (k : Atoll) (f : StrmSt → StrmSt) : (s.onStrm k f).poison = s.poison := rfl
@[simp] theorem State.onStrm_ckpt (k : Atoll) (f : StrmSt → StrmSt) : (s.onStrm k f).ckpt = s.ckpt := rfl
@[simp] theorem State.onStrm_pwr (k : Atoll) (f : StrmSt → StrmSt) : (s.onStrm k f).pwr = s.pwr := rfl
@[simp] theorem State.onStrm_age (k : Atoll) (f : StrmSt → StrmSt) : (s.onStrm k f).age = s.age := rfl
@[simp] theorem State.onStrm_rst (k : Atoll) (f : StrmSt → StrmSt) : (s.onStrm k f).rst = s.rst := rfl
@[simp] theorem State.onStrm_rd (k : Atoll) (f : StrmSt → StrmSt) (x' : Nat) : (s.onStrm k f).rd x' = s.rd x' := rfl
@[simp] theorem State.onStrm_fld (k : Atoll) (f : StrmSt → StrmSt) (x' : Fld) : (s.onStrm k f).fld x' = s.fld x' := rfl
@[simp] theorem State.onStrm_flag (k : Atoll) (f : StrmSt → StrmSt) (x' : Fld) : (s.onStrm k f).flag x' = s.flag x' := rfl
@[simp] theorem State.onStrm_port (k : Atoll) (f : StrmSt → StrmSt) (q : PortIx) : (s.onStrm k f).port q = s.port q := rfl

/-! ### onMc -/

@[simp] theorem State.onMc_pending (k : Atoll) (f : McSt → McSt) : (s.onMc k f).pending = s.pending := rfl
@[simp] theorem State.onMc_sent (k : Atoll) (f : McSt → McSt) : (s.onMc k f).sent = s.sent := rfl
@[simp] theorem State.onMc_freshCount (k : Atoll) (f : McSt → McSt) : (s.onMc k f).freshCount = s.freshCount := rfl
@[simp] theorem State.onMc_now (k : Atoll) (f : McSt → McSt) : (s.onMc k f).now = s.now := rfl
@[simp] theorem State.onMc_regs (k : Atoll) (f : McSt → McSt) : (s.onMc k f).regs = s.regs := rfl
@[simp] theorem State.onMc_staged (k : Atoll) (f : McSt → McSt) : (s.onMc k f).staged = s.staged := rfl
@[simp] theorem State.onMc_slowEdges (k : Atoll) (f : McSt → McSt) : (s.onMc k f).slowEdges = s.slowEdges := rfl
@[simp] theorem State.onMc_irqPend (k : Atoll) (f : McSt → McSt) : (s.onMc k f).irqPend = s.irqPend := rfl
@[simp] theorem State.onMc_memWait (k : Atoll) (f : McSt → McSt) : (s.onMc k f).memWait = s.memWait := rfl
@[simp] theorem State.onMc_waits (k : Atoll) (f : McSt → McSt) : (s.onMc k f).waits = s.waits := rfl
@[simp] theorem State.onMc_selfActs (k : Atoll) (f : McSt → McSt) : (s.onMc k f).selfActs = s.selfActs := rfl
@[simp] theorem State.onMc_tickets (k : Atoll) (f : McSt → McSt) : (s.onMc k f).tickets = s.tickets := rfl
@[simp] theorem State.onMc_tide (k : Atoll) (f : McSt → McSt) : (s.onMc k f).tide = s.tide := rfl
@[simp] theorem State.onMc_ports (k : Atoll) (f : McSt → McSt) : (s.onMc k f).ports = s.ports := rfl
@[simp] theorem State.onMc_sound (k : Atoll) (f : McSt → McSt) : (s.onMc k f).sound = s.sound := rfl
@[simp] theorem State.onMc_mem (k : Atoll) (f : McSt → McSt) : (s.onMc k f).mem = s.mem := rfl
@[simp] theorem State.onMc_poison (k : Atoll) (f : McSt → McSt) : (s.onMc k f).poison = s.poison := rfl
@[simp] theorem State.onMc_ckpt (k : Atoll) (f : McSt → McSt) : (s.onMc k f).ckpt = s.ckpt := rfl
@[simp] theorem State.onMc_pwr (k : Atoll) (f : McSt → McSt) : (s.onMc k f).pwr = s.pwr := rfl
@[simp] theorem State.onMc_age (k : Atoll) (f : McSt → McSt) : (s.onMc k f).age = s.age := rfl
@[simp] theorem State.onMc_rst (k : Atoll) (f : McSt → McSt) : (s.onMc k f).rst = s.rst := rfl
@[simp] theorem State.onMc_rd (k : Atoll) (f : McSt → McSt) (x' : Nat) : (s.onMc k f).rd x' = s.rd x' := rfl
@[simp] theorem State.onMc_fld (k : Atoll) (f : McSt → McSt) (x' : Fld) : (s.onMc k f).fld x' = s.fld x' := rfl
@[simp] theorem State.onMc_flag (k : Atoll) (f : McSt → McSt) (x' : Fld) : (s.onMc k f).flag x' = s.flag x' := rfl
@[simp] theorem State.onMc_port (k : Atoll) (f : McSt → McSt) (q : PortIx) : (s.onMc k f).port q = s.port q := rfl

/-! ### onStep -/

@[simp] theorem State.onStep_pending (k : Atoll) (f : StepSt → StepSt) : (s.onStep k f).pending = s.pending := rfl
@[simp] theorem State.onStep_sent (k : Atoll) (f : StepSt → StepSt) : (s.onStep k f).sent = s.sent := rfl
@[simp] theorem State.onStep_freshCount (k : Atoll) (f : StepSt → StepSt) : (s.onStep k f).freshCount = s.freshCount := rfl
@[simp] theorem State.onStep_now (k : Atoll) (f : StepSt → StepSt) : (s.onStep k f).now = s.now := rfl
@[simp] theorem State.onStep_regs (k : Atoll) (f : StepSt → StepSt) : (s.onStep k f).regs = s.regs := rfl
@[simp] theorem State.onStep_staged (k : Atoll) (f : StepSt → StepSt) : (s.onStep k f).staged = s.staged := rfl
@[simp] theorem State.onStep_slowEdges (k : Atoll) (f : StepSt → StepSt) : (s.onStep k f).slowEdges = s.slowEdges := rfl
@[simp] theorem State.onStep_irqPend (k : Atoll) (f : StepSt → StepSt) : (s.onStep k f).irqPend = s.irqPend := rfl
@[simp] theorem State.onStep_memWait (k : Atoll) (f : StepSt → StepSt) : (s.onStep k f).memWait = s.memWait := rfl
@[simp] theorem State.onStep_waits (k : Atoll) (f : StepSt → StepSt) : (s.onStep k f).waits = s.waits := rfl
@[simp] theorem State.onStep_selfActs (k : Atoll) (f : StepSt → StepSt) : (s.onStep k f).selfActs = s.selfActs := rfl
@[simp] theorem State.onStep_tickets (k : Atoll) (f : StepSt → StepSt) : (s.onStep k f).tickets = s.tickets := rfl
@[simp] theorem State.onStep_tide (k : Atoll) (f : StepSt → StepSt) : (s.onStep k f).tide = s.tide := rfl
@[simp] theorem State.onStep_ports (k : Atoll) (f : StepSt → StepSt) : (s.onStep k f).ports = s.ports := rfl
@[simp] theorem State.onStep_sound (k : Atoll) (f : StepSt → StepSt) : (s.onStep k f).sound = s.sound := rfl
@[simp] theorem State.onStep_mem (k : Atoll) (f : StepSt → StepSt) : (s.onStep k f).mem = s.mem := rfl
@[simp] theorem State.onStep_poison (k : Atoll) (f : StepSt → StepSt) : (s.onStep k f).poison = s.poison := rfl
@[simp] theorem State.onStep_ckpt (k : Atoll) (f : StepSt → StepSt) : (s.onStep k f).ckpt = s.ckpt := rfl
@[simp] theorem State.onStep_pwr (k : Atoll) (f : StepSt → StepSt) : (s.onStep k f).pwr = s.pwr := rfl
@[simp] theorem State.onStep_age (k : Atoll) (f : StepSt → StepSt) : (s.onStep k f).age = s.age := rfl
@[simp] theorem State.onStep_rst (k : Atoll) (f : StepSt → StepSt) : (s.onStep k f).rst = s.rst := rfl
@[simp] theorem State.onStep_rd (k : Atoll) (f : StepSt → StepSt) (x' : Nat) : (s.onStep k f).rd x' = s.rd x' := rfl
@[simp] theorem State.onStep_fld (k : Atoll) (f : StepSt → StepSt) (x' : Fld) : (s.onStep k f).fld x' = s.fld x' := rfl
@[simp] theorem State.onStep_flag (k : Atoll) (f : StepSt → StepSt) (x' : Fld) : (s.onStep k f).flag x' = s.flag x' := rfl
@[simp] theorem State.onStep_port (k : Atoll) (f : StepSt → StepSt) (q : PortIx) : (s.onStep k f).port q = s.port q := rfl

/-! ### onPwr -/

@[simp] theorem State.onPwr_pending (k : Atoll) (f : AtlPwr → AtlPwr) : (s.onPwr k f).pending = s.pending := rfl
@[simp] theorem State.onPwr_sent (k : Atoll) (f : AtlPwr → AtlPwr) : (s.onPwr k f).sent = s.sent := rfl
@[simp] theorem State.onPwr_freshCount (k : Atoll) (f : AtlPwr → AtlPwr) : (s.onPwr k f).freshCount = s.freshCount := rfl
@[simp] theorem State.onPwr_now (k : Atoll) (f : AtlPwr → AtlPwr) : (s.onPwr k f).now = s.now := rfl
@[simp] theorem State.onPwr_regs (k : Atoll) (f : AtlPwr → AtlPwr) : (s.onPwr k f).regs = s.regs := rfl
@[simp] theorem State.onPwr_staged (k : Atoll) (f : AtlPwr → AtlPwr) : (s.onPwr k f).staged = s.staged := rfl
@[simp] theorem State.onPwr_slowEdges (k : Atoll) (f : AtlPwr → AtlPwr) : (s.onPwr k f).slowEdges = s.slowEdges := rfl
@[simp] theorem State.onPwr_irqPend (k : Atoll) (f : AtlPwr → AtlPwr) : (s.onPwr k f).irqPend = s.irqPend := rfl
@[simp] theorem State.onPwr_memWait (k : Atoll) (f : AtlPwr → AtlPwr) : (s.onPwr k f).memWait = s.memWait := rfl
@[simp] theorem State.onPwr_waits (k : Atoll) (f : AtlPwr → AtlPwr) : (s.onPwr k f).waits = s.waits := rfl
@[simp] theorem State.onPwr_selfActs (k : Atoll) (f : AtlPwr → AtlPwr) : (s.onPwr k f).selfActs = s.selfActs := rfl
@[simp] theorem State.onPwr_tickets (k : Atoll) (f : AtlPwr → AtlPwr) : (s.onPwr k f).tickets = s.tickets := rfl
@[simp] theorem State.onPwr_tide (k : Atoll) (f : AtlPwr → AtlPwr) : (s.onPwr k f).tide = s.tide := rfl
@[simp] theorem State.onPwr_ports (k : Atoll) (f : AtlPwr → AtlPwr) : (s.onPwr k f).ports = s.ports := rfl
@[simp] theorem State.onPwr_sound (k : Atoll) (f : AtlPwr → AtlPwr) : (s.onPwr k f).sound = s.sound := rfl
@[simp] theorem State.onPwr_mem (k : Atoll) (f : AtlPwr → AtlPwr) : (s.onPwr k f).mem = s.mem := rfl
@[simp] theorem State.onPwr_poison (k : Atoll) (f : AtlPwr → AtlPwr) : (s.onPwr k f).poison = s.poison := rfl
@[simp] theorem State.onPwr_ckpt (k : Atoll) (f : AtlPwr → AtlPwr) : (s.onPwr k f).ckpt = s.ckpt := rfl
@[simp] theorem State.onPwr_pwr (k : Atoll) (f : AtlPwr → AtlPwr) : (s.onPwr k f).pwr = s.pwr := rfl
@[simp] theorem State.onPwr_age (k : Atoll) (f : AtlPwr → AtlPwr) : (s.onPwr k f).age = s.age := rfl
@[simp] theorem State.onPwr_rst (k : Atoll) (f : AtlPwr → AtlPwr) : (s.onPwr k f).rst = s.rst := rfl
@[simp] theorem State.onPwr_rd (k : Atoll) (f : AtlPwr → AtlPwr) (x' : Nat) : (s.onPwr k f).rd x' = s.rd x' := rfl
@[simp] theorem State.onPwr_fld (k : Atoll) (f : AtlPwr → AtlPwr) (x' : Fld) : (s.onPwr k f).fld x' = s.fld x' := rfl
@[simp] theorem State.onPwr_flag (k : Atoll) (f : AtlPwr → AtlPwr) (x' : Fld) : (s.onPwr k f).flag x' = s.flag x' := rfl
@[simp] theorem State.onPwr_port (k : Atoll) (f : AtlPwr → AtlPwr) (q : PortIx) : (s.onPwr k f).port q = s.port q := rfl

/-! ### onPort -/

@[simp] theorem State.onPort_pending (p : PortIx) (f : PortSt → PortSt) : (s.onPort p f).pending = s.pending := rfl
@[simp] theorem State.onPort_sent (p : PortIx) (f : PortSt → PortSt) : (s.onPort p f).sent = s.sent := rfl
@[simp] theorem State.onPort_freshCount (p : PortIx) (f : PortSt → PortSt) : (s.onPort p f).freshCount = s.freshCount := rfl
@[simp] theorem State.onPort_now (p : PortIx) (f : PortSt → PortSt) : (s.onPort p f).now = s.now := rfl
@[simp] theorem State.onPort_regs (p : PortIx) (f : PortSt → PortSt) : (s.onPort p f).regs = s.regs := rfl
@[simp] theorem State.onPort_staged (p : PortIx) (f : PortSt → PortSt) : (s.onPort p f).staged = s.staged := rfl
@[simp] theorem State.onPort_slowEdges (p : PortIx) (f : PortSt → PortSt) : (s.onPort p f).slowEdges = s.slowEdges := rfl
@[simp] theorem State.onPort_irqPend (p : PortIx) (f : PortSt → PortSt) : (s.onPort p f).irqPend = s.irqPend := rfl
@[simp] theorem State.onPort_memWait (p : PortIx) (f : PortSt → PortSt) : (s.onPort p f).memWait = s.memWait := rfl
@[simp] theorem State.onPort_waits (p : PortIx) (f : PortSt → PortSt) : (s.onPort p f).waits = s.waits := rfl
@[simp] theorem State.onPort_selfActs (p : PortIx) (f : PortSt → PortSt) : (s.onPort p f).selfActs = s.selfActs := rfl
@[simp] theorem State.onPort_tickets (p : PortIx) (f : PortSt → PortSt) : (s.onPort p f).tickets = s.tickets := rfl
@[simp] theorem State.onPort_tide (p : PortIx) (f : PortSt → PortSt) : (s.onPort p f).tide = s.tide := rfl
@[simp] theorem State.onPort_atolls (p : PortIx) (f : PortSt → PortSt) : (s.onPort p f).atolls = s.atolls := rfl
@[simp] theorem State.onPort_sound (p : PortIx) (f : PortSt → PortSt) : (s.onPort p f).sound = s.sound := rfl
@[simp] theorem State.onPort_mem (p : PortIx) (f : PortSt → PortSt) : (s.onPort p f).mem = s.mem := rfl
@[simp] theorem State.onPort_poison (p : PortIx) (f : PortSt → PortSt) : (s.onPort p f).poison = s.poison := rfl
@[simp] theorem State.onPort_ckpt (p : PortIx) (f : PortSt → PortSt) : (s.onPort p f).ckpt = s.ckpt := rfl
@[simp] theorem State.onPort_pwr (p : PortIx) (f : PortSt → PortSt) : (s.onPort p f).pwr = s.pwr := rfl
@[simp] theorem State.onPort_age (p : PortIx) (f : PortSt → PortSt) : (s.onPort p f).age = s.age := rfl
@[simp] theorem State.onPort_rst (p : PortIx) (f : PortSt → PortSt) : (s.onPort p f).rst = s.rst := rfl
@[simp] theorem State.onPort_rd (p : PortIx) (f : PortSt → PortSt) (x' : Nat) : (s.onPort p f).rd x' = s.rd x' := rfl
@[simp] theorem State.onPort_fld (p : PortIx) (f : PortSt → PortSt) (x' : Fld) : (s.onPort p f).fld x' = s.fld x' := rfl
@[simp] theorem State.onPort_flag (p : PortIx) (f : PortSt → PortSt) (x' : Fld) : (s.onPort p f).flag x' = s.flag x' := rfl
@[simp] theorem State.onPort_atl (p : PortIx) (f : PortSt → PortSt) (j : Atoll) : (s.onPort p f).atl j = s.atl j := rfl

/-! ### onTicket -/

@[simp] theorem State.onTicket_pending (x : Ticket) (f : TicketSt → TicketSt) : (s.onTicket x f).pending = s.pending := rfl
@[simp] theorem State.onTicket_sent (x : Ticket) (f : TicketSt → TicketSt) : (s.onTicket x f).sent = s.sent := rfl
@[simp] theorem State.onTicket_freshCount (x : Ticket) (f : TicketSt → TicketSt) : (s.onTicket x f).freshCount = s.freshCount := rfl
@[simp] theorem State.onTicket_now (x : Ticket) (f : TicketSt → TicketSt) : (s.onTicket x f).now = s.now := rfl
@[simp] theorem State.onTicket_regs (x : Ticket) (f : TicketSt → TicketSt) : (s.onTicket x f).regs = s.regs := rfl
@[simp] theorem State.onTicket_staged (x : Ticket) (f : TicketSt → TicketSt) : (s.onTicket x f).staged = s.staged := rfl
@[simp] theorem State.onTicket_slowEdges (x : Ticket) (f : TicketSt → TicketSt) : (s.onTicket x f).slowEdges = s.slowEdges := rfl
@[simp] theorem State.onTicket_irqPend (x : Ticket) (f : TicketSt → TicketSt) : (s.onTicket x f).irqPend = s.irqPend := rfl
@[simp] theorem State.onTicket_memWait (x : Ticket) (f : TicketSt → TicketSt) : (s.onTicket x f).memWait = s.memWait := rfl
@[simp] theorem State.onTicket_waits (x : Ticket) (f : TicketSt → TicketSt) : (s.onTicket x f).waits = s.waits := rfl
@[simp] theorem State.onTicket_selfActs (x : Ticket) (f : TicketSt → TicketSt) : (s.onTicket x f).selfActs = s.selfActs := rfl
@[simp] theorem State.onTicket_tide (x : Ticket) (f : TicketSt → TicketSt) : (s.onTicket x f).tide = s.tide := rfl
@[simp] theorem State.onTicket_atolls (x : Ticket) (f : TicketSt → TicketSt) : (s.onTicket x f).atolls = s.atolls := rfl
@[simp] theorem State.onTicket_ports (x : Ticket) (f : TicketSt → TicketSt) : (s.onTicket x f).ports = s.ports := rfl
@[simp] theorem State.onTicket_sound (x : Ticket) (f : TicketSt → TicketSt) : (s.onTicket x f).sound = s.sound := rfl
@[simp] theorem State.onTicket_mem (x : Ticket) (f : TicketSt → TicketSt) : (s.onTicket x f).mem = s.mem := rfl
@[simp] theorem State.onTicket_poison (x : Ticket) (f : TicketSt → TicketSt) : (s.onTicket x f).poison = s.poison := rfl
@[simp] theorem State.onTicket_ckpt (x : Ticket) (f : TicketSt → TicketSt) : (s.onTicket x f).ckpt = s.ckpt := rfl
@[simp] theorem State.onTicket_pwr (x : Ticket) (f : TicketSt → TicketSt) : (s.onTicket x f).pwr = s.pwr := rfl
@[simp] theorem State.onTicket_age (x : Ticket) (f : TicketSt → TicketSt) : (s.onTicket x f).age = s.age := rfl
@[simp] theorem State.onTicket_rst (x : Ticket) (f : TicketSt → TicketSt) : (s.onTicket x f).rst = s.rst := rfl
@[simp] theorem State.onTicket_rd (x : Ticket) (f : TicketSt → TicketSt) (x' : Nat) : (s.onTicket x f).rd x' = s.rd x' := rfl
@[simp] theorem State.onTicket_fld (x : Ticket) (f : TicketSt → TicketSt) (x' : Fld) : (s.onTicket x f).fld x' = s.fld x' := rfl
@[simp] theorem State.onTicket_flag (x : Ticket) (f : TicketSt → TicketSt) (x' : Fld) : (s.onTicket x f).flag x' = s.flag x' := rfl
@[simp] theorem State.onTicket_atl (x : Ticket) (f : TicketSt → TicketSt) (j : Atoll) : (s.onTicket x f).atl j = s.atl j := rfl
@[simp] theorem State.onTicket_port (x : Ticket) (f : TicketSt → TicketSt) (q : PortIx) : (s.onTicket x f).port q = s.port q := rfl

/-! ### onTide -/

@[simp] theorem State.onTide_pending (f : TideSt → TideSt) : (s.onTide f).pending = s.pending := rfl
@[simp] theorem State.onTide_sent (f : TideSt → TideSt) : (s.onTide f).sent = s.sent := rfl
@[simp] theorem State.onTide_freshCount (f : TideSt → TideSt) : (s.onTide f).freshCount = s.freshCount := rfl
@[simp] theorem State.onTide_now (f : TideSt → TideSt) : (s.onTide f).now = s.now := rfl
@[simp] theorem State.onTide_regs (f : TideSt → TideSt) : (s.onTide f).regs = s.regs := rfl
@[simp] theorem State.onTide_staged (f : TideSt → TideSt) : (s.onTide f).staged = s.staged := rfl
@[simp] theorem State.onTide_slowEdges (f : TideSt → TideSt) : (s.onTide f).slowEdges = s.slowEdges := rfl
@[simp] theorem State.onTide_irqPend (f : TideSt → TideSt) : (s.onTide f).irqPend = s.irqPend := rfl
@[simp] theorem State.onTide_memWait (f : TideSt → TideSt) : (s.onTide f).memWait = s.memWait := rfl
@[simp] theorem State.onTide_waits (f : TideSt → TideSt) : (s.onTide f).waits = s.waits := rfl
@[simp] theorem State.onTide_selfActs (f : TideSt → TideSt) : (s.onTide f).selfActs = s.selfActs := rfl
@[simp] theorem State.onTide_tickets (f : TideSt → TideSt) : (s.onTide f).tickets = s.tickets := rfl
@[simp] theorem State.onTide_atolls (f : TideSt → TideSt) : (s.onTide f).atolls = s.atolls := rfl
@[simp] theorem State.onTide_ports (f : TideSt → TideSt) : (s.onTide f).ports = s.ports := rfl
@[simp] theorem State.onTide_sound (f : TideSt → TideSt) : (s.onTide f).sound = s.sound := rfl
@[simp] theorem State.onTide_mem (f : TideSt → TideSt) : (s.onTide f).mem = s.mem := rfl
@[simp] theorem State.onTide_poison (f : TideSt → TideSt) : (s.onTide f).poison = s.poison := rfl
@[simp] theorem State.onTide_ckpt (f : TideSt → TideSt) : (s.onTide f).ckpt = s.ckpt := rfl
@[simp] theorem State.onTide_pwr (f : TideSt → TideSt) : (s.onTide f).pwr = s.pwr := rfl
@[simp] theorem State.onTide_age (f : TideSt → TideSt) : (s.onTide f).age = s.age := rfl
@[simp] theorem State.onTide_rst (f : TideSt → TideSt) : (s.onTide f).rst = s.rst := rfl
@[simp] theorem State.onTide_rd (f : TideSt → TideSt) (x' : Nat) : (s.onTide f).rd x' = s.rd x' := rfl
@[simp] theorem State.onTide_fld (f : TideSt → TideSt) (x' : Fld) : (s.onTide f).fld x' = s.fld x' := rfl
@[simp] theorem State.onTide_flag (f : TideSt → TideSt) (x' : Fld) : (s.onTide f).flag x' = s.flag x' := rfl
@[simp] theorem State.onTide_atl (f : TideSt → TideSt) (j : Atoll) : (s.onTide f).atl j = s.atl j := rfl
@[simp] theorem State.onTide_port (f : TideSt → TideSt) (q : PortIx) : (s.onTide f).port q = s.port q := rfl

/-! ### What was changed -/

@[simp] theorem State.emit_sent (m : Msg) : (s.emit m).sent = s.sent ++ [m] := rfl
@[simp] theorem State.emits_sent (l : List Msg) : (s.emits l).sent = s.sent ++ l := rfl
@[simp] theorem State.onTide_tide (f : TideSt → TideSt) : (s.onTide f).tide = f s.tide := rfl

@[simp] theorem State.onAtl_atl (k : Atoll) (f : AtollSt → AtollSt) : (s.onAtl k f).atl k = f (s.atl k) := by
  simp [State.onAtl, State.atl]

theorem State.onAtl_atl_ne {k j : Atoll} (f : AtollSt → AtollSt) (h : j ≠ k) : (s.onAtl k f).atl j = s.atl j := by
  have : k.val ≠ j.val := fun e => h (Fin.ext e.symm)
  simp [State.onAtl, State.atl, this]

@[simp] theorem State.onPort_port (p : PortIx) (f : PortSt → PortSt) : (s.onPort p f).port p = f (s.port p) := by
  simp [State.onPort, State.port]

theorem State.onPort_port_ne {p q : PortIx} (f : PortSt → PortSt) (h : q ≠ p) : (s.onPort p f).port q = s.port q := by
  have : p.val ≠ q.val := fun e => h (Fin.ext e.symm)
  simp [State.onPort, State.port, this]

@[simp] theorem State.onTicket_self (x : Ticket) (f : TicketSt → TicketSt) :
    (s.onTicket x f).tickets[x] = f s.tickets[x] := by
  simp [State.onTicket]

@[simp] theorem State.onSeq_atl (k : Atoll) (f : SeqSt → SeqSt) :
    (s.onSeq k f).atl k = { s.atl k with seq := f (s.atl k).seq } := by
  simp [State.onSeq]

theorem State.onSeq_atl_ne {k j : Atoll} (f : SeqSt → SeqSt) (h : j ≠ k) : (s.onSeq k f).atl j = s.atl j :=
  State.onAtl_atl_ne s _ h

@[simp] theorem State.onArr_atl (k : Atoll) (f : ArrSt → ArrSt) :
    (s.onArr k f).atl k = { s.atl k with arr := f (s.atl k).arr } := by
  simp [State.onArr]

theorem State.onArr_atl_ne {k j : Atoll} (f : ArrSt → ArrSt) (h : j ≠ k) : (s.onArr k f).atl j = s.atl j :=
  State.onAtl_atl_ne s _ h

@[simp] theorem State.onVec_atl (k : Atoll) (f : VecSt → VecSt) :
    (s.onVec k f).atl k = { s.atl k with vec := f (s.atl k).vec } := by
  simp [State.onVec]

theorem State.onVec_atl_ne {k j : Atoll} (f : VecSt → VecSt) (h : j ≠ k) : (s.onVec k f).atl j = s.atl j :=
  State.onAtl_atl_ne s _ h

@[simp] theorem State.onStrm_atl (k : Atoll) (f : StrmSt → StrmSt) :
    (s.onStrm k f).atl k = { s.atl k with strm := f (s.atl k).strm } := by
  simp [State.onStrm]

theorem State.onStrm_atl_ne {k j : Atoll} (f : StrmSt → StrmSt) (h : j ≠ k) : (s.onStrm k f).atl j = s.atl j :=
  State.onAtl_atl_ne s _ h

@[simp] theorem State.onMc_atl (k : Atoll) (f : McSt → McSt) :
    (s.onMc k f).atl k = { s.atl k with mc := f (s.atl k).mc } := by
  simp [State.onMc]

theorem State.onMc_atl_ne {k j : Atoll} (f : McSt → McSt) (h : j ≠ k) : (s.onMc k f).atl j = s.atl j :=
  State.onAtl_atl_ne s _ h

@[simp] theorem State.onStep_atl (k : Atoll) (f : StepSt → StepSt) :
    (s.onStep k f).atl k = { s.atl k with step := f (s.atl k).step } := by
  simp [State.onStep]

theorem State.onStep_atl_ne {k j : Atoll} (f : StepSt → StepSt) (h : j ≠ k) : (s.onStep k f).atl j = s.atl j :=
  State.onAtl_atl_ne s _ h

@[simp] theorem State.onPwr_atl (k : Atoll) (f : AtlPwr → AtlPwr) :
    (s.onPwr k f).atl k = { s.atl k with pwr := f (s.atl k).pwr } := by
  simp [State.onPwr]

theorem State.onPwr_atl_ne {k j : Atoll} (f : AtlPwr → AtlPwr) (h : j ≠ k) : (s.onPwr k f).atl j = s.atl j :=
  State.onAtl_atl_ne s _ h

end Sys2Proof.Machine
end

