-- ==== Sys2Proof/Laws/Seq.lean ====
section
/-! SUPPORT. Laws of the sequencer's slots issued alone (Machine/Seq.lean, Machine/Array.lean, Machine/VectorOps.lean):
what each answers once its checks are passed. -/

namespace Sys2Proof.Machine

theorem State.onAtl_id (s : State) (k : Atoll) : (s.onAtl k fun a => a) = s := by simp [State.onAtl]

/-- A control operation that jumps. -/
theorem State.ctlAlone_flow {s : State} {k : Atoll} {c : Ctl} {t : SeqRegs} (h : s.ctlCode k (s.atl k).seq.r c = 0)
    (g : (s.atl k).seq.r.flow c = some t) : s.ctlAlone k c = s.onSeq k fun q => { q with r := t } := by
  unfold State.ctlAlone
  dsimp only
  rw [h, g, if_neg (fun h : (0 : Nat) ≠ 0 => h rfl)]

/-- A control operation that does not jump. -/
theorem State.ctlAlone_push {s : State} {k : Atoll} {c : Ctl} (h : s.ctlCode k (s.atl k).seq.r c = 0)
    (g : (s.atl k).seq.r.flow c = none) :
    s.ctlAlone k c = s.onSeq k fun q => { q with r := (s.atl k).seq.r.push c } := by
  unfold State.ctlAlone
  dsimp only
  rw [h, g, if_neg (fun h : (0 : Nat) ≠ 0 => h rfl)]

/-- The registers put back as they are. -/
theorem State.onSeq_same {s : State} {k : Atoll} : (s.onSeq k fun q => { q with r := (s.atl k).seq.r }) = s := by
  show { s with atolls := s.atolls.set k s.atolls[k] } = s
  simp

theorem jumpLevels_eq (t : Nat) (l : List LoopLevel) :
    jumpLevels t l = l.dropWhile fun l => !decide (l.start < t ∧ t ≤ l.fin) := by
  induction l with
  | nil => rfl
  | cons a l ih =>
    simp only [jumpLevels, List.dropWhile]
    split
    · next h => simp [h]
    · next h => simp [h, ih]

theorem SeqRegs.flow_ret (r : SeqRegs) {x : Nat} {l : List Nat} (h : r.rstack = x :: l) :
    r.flow .ret =
      some { r with pc := 128 * x, rstack := l, lstack := r.lstack.filter fun v => decide (v.depth ≤ l.length) } := by
  obtain ⟨pc, s, p, rs, ls, sc, mc⟩ := r
  subst h
  rfl

/-- A scalar slot that is refused. -/
theorem State.scalarIssue_bad {s : State} {k : Atoll} {op : Nat} {rd rs1 : SReg} {b : SOperand}
    (h : s.scalarCode k (s.atl k).seq.r ⟨BitVec.ofNat 8 op, rd, rs1, b⟩ ≠ 0) :
    s.scalarIssue k op rd rs1 b = s.refuse k (s.scalarCode k (s.atl k).seq.r ⟨BitVec.ofNat 8 op, rd, rs1, b⟩) := by
  unfold State.scalarIssue
  exact if_pos h

/-- A scalar slot beside LDL that is not refused. -/
theorem State.scalarIssue_ok {s : State} {k : Atoll} {op : Nat} {rd rs1 : SReg} {b : SOperand}
    (h : s.scalarCode k (s.atl k).seq.r ⟨BitVec.ofNat 8 op, rd, rs1, b⟩ = 0) (l : op ≠ Sop.ldl) :
    s.scalarIssue k op rd rs1 b = s.scalarPut k (s.scalarOut k (s.atl k).seq.r ⟨BitVec.ofNat 8 op, rd, rs1, b⟩) := by
  unfold State.scalarIssue
  dsimp only
  rw [if_neg (by rw [h]; exact fun h : (0 : Nat) ≠ 0 => h rfl), if_neg l]

/-- LDL, not refused, of a line still to come. -/
theorem State.scalarIssue_pends {s : State} {k : Atoll} {rd rs1 : SReg} {b : SOperand}
    (h : s.scalarCode k (s.atl k).seq.r ⟨BitVec.ofNat 8 Sop.ldl, rd, rs1, b⟩ = 0)
    (p : (s.atl k).strm.pends (ScalarSlot.addr ⟨BitVec.ofNat 8 Sop.ldl, rd, rs1, b⟩ (s.atl k).seq.r) 8 = true) :
    s.scalarIssue k Sop.ldl rd rs1 b =
      (s.flowNote k [(ScalarSlot.addr ⟨BitVec.ofNat 8 Sop.ldl, rd, rs1, b⟩ (s.atl k).seq.r, 8)]).onSeq k
        fun q => { q with stalled := true } := by
  unfold State.scalarIssue
  dsimp only
  rw [if_neg (by rw [h]; exact fun h : (0 : Nat) ≠ 0 => h rfl), if_pos rfl, if_pos p]

/-- LDL, not refused, of lines that are there. -/
theorem State.scalarIssue_ldl {s : State} {k : Atoll} {rd rs1 : SReg} {b : SOperand}
    (h : s.scalarCode k (s.atl k).seq.r ⟨BitVec.ofNat 8 Sop.ldl, rd, rs1, b⟩ = 0)
    (p : (s.atl k).strm.pends (ScalarSlot.addr ⟨BitVec.ofNat 8 Sop.ldl, rd, rs1, b⟩ (s.atl k).seq.r) 8 = false) :
    s.scalarIssue k Sop.ldl rd rs1 b =
      ((s.lagSeen k (ScalarSlot.addr ⟨BitVec.ofNat 8 Sop.ldl, rd, rs1, b⟩ (s.atl k).seq.r) 8).onSeq k
        fun q => { q with stalled := false }).scalarPut k
          (s.scalarOut k (s.atl k).seq.r ⟨BitVec.ofNat 8 Sop.ldl, rd, rs1, b⟩) := by
  unfold State.scalarIssue
  dsimp only
  rw [if_neg (by rw [h]; exact fun h : (0 : Nat) ≠ 0 => h rfl), if_pos rfl, if_neg (by rw [p]; decide)]

/-- A unit slot in a running slice, accepted: neither refused nor stalled. -/
theorem State.slotIssue_ok {s : State} {k : Atoll} {bad : State → Option State} {stalls : State → Bool}
    {act : State → State} (hr : s.running k = true) (hb : bad s = none) (hs : stalls s = false) :
    s.slotIssue k bad stalls act = act (s.onSeq k fun q => { q with stalled := false }) := by
  unfold State.slotIssue
  simp [hr, hb, hs]

/-- A unit slot in a running slice that must wait. -/
theorem State.slotIssue_stall {s : State} {k : Atoll} {bad : State → Option State} {stalls : State → Bool}
    {act : State → State} (hr : s.running k = true) (hb : bad s = none) (hs : stalls s = true) :
    s.slotIssue k bad stalls act = s.onSeq k fun q => { q with stalled := true } := by
  unfold State.slotIssue
  simp [hr, hb, hs]

end Sys2Proof.Machine
end

