-- ==== Sys2Proof/Laws/Window.lean ====
section
/-! SUPPORT. Laws of the register window (Machine/Window.lean): what a harbour's 32-bit write to a live register comes
to, and what the guard leaves of it. -/

namespace Sys2Proof.Machine

/-- A write that the window takes comes to the register. -/
theorem State.request_live {s : State} {a v : Nat} {d : RegDesc} (hk : accessOk a 4 = true)
    (hl : pageListed a = true) (ho : a % 0x1000 < 0x800) (ht : s.takesWrites (classOf a) (instOf a))
    (hh : regHit a = some (d, a)) :
    s.request .harbour a 4 v = s.writeLive .harbour d a (2 ^ 32 - 1) (v % 2 ^ 32) := by
  obtain ⟨h1, h2, h3, h4⟩ := ht
  have e : a - a % 0x1000 + a % 0x800 = a := by omega
  have hr : s.resetting a = false := by simp [State.resetting, h3]
  simp [State.request, h1, h2, State.regWrite, hk, hl, State.writeUnit, hr, h4, e, hh, show ¬ 0x800 ≤ a % 0x1000 by omega]

/-- A guarded write to an unlocked page uses the lock up and acts whole. -/
theorem State.writeLive_unlocked {s : State} {by' : Requester} {d : RegDesc} {b m v : Nat}
    (hg : guarded d m v = true) (hu : s.flag (F.PG_LOCK_STAT_OPEN (pageOf b)) = true) (hm : m < 2 ^ 64) :
    s.writeLive by' d b m v =
      ((s.setFld (F.PG_LOCK_STAT_OPEN (pageOf b)) 0).writeRw (classOf b) (b % 0x1000) b (m &&& d.rw) v).command by'
        (classOf b) (instOf b) (b % 0x1000) (m &&& d.rw) (v &&& m &&& d.wo) := by
  have : m &&& 0xFFFFFFFFFFFFFFFF = m := by
    rw [show (0xFFFFFFFFFFFFFFFF : Nat) = 2 ^ 64 - 1 by rfl, Nat.and_two_pow_sub_one_eq_mod, Nat.mod_eq_of_lt hm]
  simp [State.writeLive, hg, State.guard, hu, this]

/-- A write that reaches no guarded field acts whole. -/
theorem State.writeLive_free {s : State} {by' : Requester} {d : RegDesc} {b m v : Nat} (hg : guarded d m v = false)
    (hm : m < 2 ^ 64) :
    s.writeLive by' d b m v =
      (s.writeRw (classOf b) (b % 0x1000) b (m &&& d.rw) v).command by'
        (classOf b) (instOf b) (b % 0x1000) (m &&& d.rw) (v &&& m &&& d.wo) := by
  have : m &&& 0xFFFFFFFFFFFFFFFF = m := by
    rw [show (0xFFFFFFFFFFFFFFFF : Nat) = 2 ^ 64 - 1 by rfl, Nat.and_two_pow_sub_one_eq_mod, Nat.mod_eq_of_lt hm]
  simp [State.writeLive, hg, this]

end Sys2Proof.Machine
end

