-- ==== Sys2Proof/WellFormed.lean ====
section
/-! DEFINITION. Which commands an agent can send: bounds on operands that their types do not already give. -/

namespace Sys2Proof

/-- A codeword's error pattern names symbols of the 136-symbol codeword (R257). -/
def BurstNoise.wf (n : BurstNoise) : Bool :=
  n.errors.all (fun e => decide (e.1 < 136)) &&
  n.tries.all fun t => t.flips.all fun e => decide (e.1 < 64 ∧ e.2 < 17)

/-- A register access begins at a word (R59); a 64-bit access at an 8-byte boundary is asked by the window itself. -/
def accessWf (off : BitVec 26) : Bool := off.toNat % 4 == 0

/-- The operands of a command are ones its sender can give. -/
def Instr.wf : Instr → Bool
  | .registerWrite _ off _ _ => accessWf off
  | .stagedWrite _ _ off _ _ => off.toNat % 4 == 0
  | .atomRead addr _ noise => addr.toNat % 128 == 0 && noise.wf
  | .atomWrite addr _ noise data => addr.toNat % 128 + data.length ≤ 128 && !data.isEmpty && noise.wf
  | .scrubRead _ _ noise => noise.wf
  | .ebbCopy _ noise => noise.all BurstNoise.wf
  | .ferryPiece _ _ _ _ _ _ data => data.length ≤ 4096
  | .prepare _ _ total first records => first + records.length ≤ total
  | .dataFlit _ _ _ body => body.length ≤ 256
  | .soundData _ _ payload _ => payload.length ≤ 4096
  | _ => true

end Sys2Proof
end

