-- ==== Sys2Proof/Tests/Slice0.lean ====
section
/-! SUPPORT. The model's own tests: states that meet the hypotheses of each statement, the checks of well-formedness, and
the spec's worked examples. -/

open Sys2Proof Sys2Proof.Machine

set_option Elab.async false

namespace Sys2Proof.Tests

/-! ### Small states -/

def s0 : State := State.reset

/-- The page of instance `i` of class `c` unlocked. -/
def openPage (c i : Nat) (s : State := s0) : State := s.setFld (F.PG_LOCK_STAT_OPEN (pageBase c i)) 1

/-- HOST bit `b` of that page set. -/
def hosting (c i b : Nat) (s : State := s0) : State := s.setFld (F.PG_MODE_SPLIT_HOST (pageBase c i)) (2 ^ b)

def readyState : State := s0.setFld F.HOLM_STATE_STATE 1

/-- The tide runs. -/
def tides (s : State) : State := s.onTide fun t => { t with running := true }

def slice0 : SliceSt := { phase := 0, budget := 0, snap := {} }

/-- Atoll 0 runs slice `x` of an entry of queue 0. -/
def runs (x : SliceSt := slice0) (s : State := s0) : State :=
  s.onSeq 0 fun q => { q with entry := some (0, 0), slice := some x, run := some .running }

/-- Sequencer registers of atoll 0. -/
def regs0 (r : SeqRegs) (s : State := s0) : State := s.onSeq 0 fun q => { q with r := r }

/-- A command has a next state. -/
def goesOn (o : Host.Outcome State Fault Refusal) : Bool :=
  match o with
  | .next _ => true
  | _ => false

/-! ### Witnesses: states and operands that meet a statement's hypotheses, one for each of its clauses -/

theorem witness_IdleCycleRuns : s0.pending = [] := by decide +kernel

theorem witness_StepKeepsForm :
    s0.Inv ∧ goesOn (step s0) = true ∧ goesOn (step { s0 with pending := [.li 7 63 (.imm 1)] }) = true := by
  unfold State.Inv; decide +kernel

theorem witness_ScalarRegisterWrite : (1 : Atoll) ≠ 0 := by decide

/-- CMP with the last condition; LDL and STL at both ends of program space; each selector of RDS at its edge. -/
theorem witness_ScalarOthers :
    (5 : BitVec 3).toNat ≤ 5 ∧
    (∀ a ∈ [0, s0.lagTop 0 - 8], a % 8 = 0 ∧ s0.inProgram 0 a 8 = true ∧ s0.lagErr 0 a 8 = false ∧
      (((s0.atl 0).seq.r.operand (.imm (BitVec.ofNat 43 a))).toNat = a)) ∧
    (∀ n ∈ [0, 1, 2, 11, 255], ((s0.atl 0).seq.r.operand (.imm (BitVec.ofNat 43 n))).toNat % 256 = n) := by
  decide +kernel

theorem witness_ControlFlow :
    (s0.atl 0).seq.r.pred 0 0 = false ∧
    (let r : SeqRegs := { rstack := List.replicate 31 0, lstack := List.replicate 3 ⟨0, 9, 2, 0, 0⟩ }
     r.rstack.length < 32 ∧ r.pc / 128 < (1 : BitVec 15).toNat ∧ 0 < r.count 32 (CountOf.lit (w := 24) 1) ∧
       r.lstack.length < 4 ∧ r.count 32 (CountOf.lit (w := 24) 0) = 0) ∧
    (s0.atl 0).seq.r.rstack = [] ∧ s0.running 0 = false := by decide +kernel

def stream0 : StreamSt := ⟨0, 0, false, 0, 0, none, false, 0, none, false, [], false, [], none⟩

theorem witness_SliceSlots :
    (255 : BitVec 8) ≠ 0 ∧ (1 : BitVec 8) ≠ 0 ∧
    (let x := { slice0 with qcloses := (List.range 15).map fun i => 128 * (i + 1) }
     let s := runs x
     s.running 0 = true ∧ (s.atl 0).seq.slice = some x ∧ x.qcloses.length < 16 ∧ (s.atl 0).seq.r.sv 0 ∉ x.qcloses) ∧
    (let p : Publish := ⟨false, false, 0, 0, 0, false⟩
     let x := { slice0 with publish := some p }
     let s := (runs x).onAtl 0 fun a => { a with
       hold := List.replicate 15 []
       strm := { a.strm with streams := [{ stream0 with detach := true }, { stream0 with slot := 1, done := true }] } }
     s.running 0 = true ∧ (s.atl 0).seq.slice = some x ∧ (s.atl 0).arr.queue = [] ∧
       (∀ y ∈ (s.atl 0).strm.streams, y.detach = true ∨ y.done = true) ∧ (s.atl 0).hold.length < 16 ∧
       x.publish = some p ∧ p.whole = false) := by decide +kernel

theorem witness_SliceOpens :
    let s := tides readyState
    (s.atl 0).seq.run = none ∧ (s.atl 0).seq.passed = false ∧ s.noStart 0 = false ∧
      ∀ n ∈ [0, s.clocksLeft 0], (BitVec.ofNat 26 n).toNat = n ∧ n ≤ s.clocksLeft 0 := by decide +kernel

theorem witness_EventAcknowledged :
    s0.rst.power = true ∧ s0.rst.asserted = false ∧
    (∀ p ∈ [(0 : PageIx), 168], p.val ∉ s0.rst.srst ∧ (0 : Word32).toNat = s0.fld (F.PG_EVT_SEQ_SEQ (pageAt p)) ∧
      (1 : Word32).toNat ≠ s0.fld (F.PG_EVT_SEQ_SEQ (pageAt p))) ∧
    (∃ p : PageIx, (pageOfIx p).1 = 0x0B) ∧ (∃ p : PageIx, (pageOfIx p).1 = 0x10) ∧
    pageBase 0x32 0 = pageAt 168 := by
  refine ⟨rfl, rfl, by decide +kernel, ⟨⟨pageIx 0x0B 0, by decide⟩, by decide +kernel⟩,
    ⟨⟨pageIx 0x10 0, by decide⟩, by decide +kernel⟩, by decide +kernel⟩

/-- Quiet for its mask, quiet for an interrupt that waits, and not quiet. -/
theorem witness_EventRaised :
    31 < 32 ∧ ((s0.setFld (F.PG_EVT_MASK_MASK (pageBase 6 0)) (2 ^ 31)).fld (F.PG_EVT_MASK_MASK (pageBase 6 0))).testBit 31
      = true ∧
    (let s := s0.setFld (F.PG_EVT_MASK_MASK (pageBase 6 0)) 0
     pageIx 6 0 ∈ ({ s with irqPend := [pageIx 6 0] }).irqPend ∧
     ¬ ((s.fld (F.PG_EVT_MASK_MASK (pageBase 6 0))).testBit 31 = true ∨ pageIx 6 0 ∈ s.irqPend)) := by decide +kernel

theorem witness_HeaderWrites :
    let b := pageAt 6
    let s := openPage 6 0
    let u := (s0.setFld (F.PG_EVT_CAUSE_CAUSE b) 1).setFld (F.PG_EVT_MASK_MASK b) 1
    (6 : PageIx).val ∉ s0.rst.srst ∧ (0 : Word32) ≠ 0x7D1E ∧
    (s0.fld (F.PG_EVT_MASK_MASK b) &&& (0xFFFFFFFF ^^^ 0) &&& s0.fld (F.PG_EVT_CAUSE_CAUSE b) = 0) ∧
    (u.fld (F.PG_EVT_MASK_MASK b) &&& (0xFFFFFFFF ^^^ 0) &&& u.fld (F.PG_EVT_CAUSE_CAUSE b) ≠ 0) ∧
    (openPage 0x10 7).unlocked 0x10 7 ∧ (openPage 0x10 7).blockIdle 0x10 7 = true ∧
    (openPage 0x10 7).boundTo (pageIx 0x10 7) = none ∧
    (6 : PageIx).val ∈ ({ s with rst := { s.rst with srst := [6] } }).rst.srst := by
  unfold State.unlocked; decide +kernel

theorem witness_GuardedWrites :
    ∀ c ∈ [(0x06, 0), (0x1A, 0), (0x1A, 7), (0x17, 7), (0x09, 0), (0x05, 0), (0x07, 0)],
      s0.takesWrites c.1 c.2 ∧ ¬ s0.unlocked c.1 c.2 := by
  unfold State.takesWrites State.unlocked; decide +kernel

theorem witness_QueueCommands :
    let s := s0.setFld (F.HBR_QSTAT_HALTED 127) 1
    s0.takesWrites 0x0B 0 ∧ s.takesWrites 0x0B 0 ∧ s.flag (F.HBR_QSTAT_HALTED 127) = true ∧
    s0.flag (F.HBR_QSTAT_HALTED 127) = false ∧
    (let t := s0.setFld (F.HBR_CR_TAIL_TAIL 7) 5
     let used (x : Nat) : Nat := (x + 2 ^ 32 - t.fld (F.HBR_CR_HEAD_HEAD 7)) % 2 ^ 32
     t.takesWrites 0x0B 0 ∧ used (5 : Word32).toNat ≤ used (t.fld (F.HBR_CR_TAIL_TAIL 7)) ∧
       used (t.fld (F.HBR_CR_TAIL_TAIL 7)) < used (6 : Word32).toNat) := by
  unfold State.takesWrites; decide +kernel

/-- Atoll 7's fault record 15 in state `f`, for `va`, of the stream in its engine slot 0. -/
def faulted (f : FltState) (va : Nat) (x : StreamSt) (s : State := s0) : State :=
  s.onStrm 7 fun m => { m with flt := [(15, { FltRec.none with state := f, va := va })], streams := [x] }

/-- A page that atoll 7's cache maps, readable and writable, to the bottom of its own stacks. -/
def mapped (va : Nat) (s : State := s0) : State :=
  s.onStrm 7 fun m => { m with tlb := [(3, vaTag 3 va, (7 * atollSpan / 65536 * 65536) + 13)] }

theorem witness_AtollWindowCommands :
    (∀ n ∈ [0x11, 0x10, 0x18, 0x1A, 0x17], (openPage n 7).takesWrites n 7 ∧ (openPage n 7).unlocked n 7) ∧
    (let s := openPage 0x10 7 ((s0.setFld (F.ATL_ILOAD_FIRST 7) 32767).setFld (F.ATL_ILOAD_COUNT 7) 0)
     s.takesWrites 0x10 7 ∧ s.unlocked 0x10 7 ∧ s.flag (F.ATL_ILOAD_STAT_BUSY 7) = false ∧
       s.fld (F.ATL_ILOAD_FIRST 7) + (s.fld (F.ATL_ILOAD_COUNT 7) + 1) ≤ 32768) ∧
    (let s := openPage 0x1A 7
     (767 : BitVec 10).toNat < 768 ∧ (s.chan 7 767).state ≠ .ebb ∧ (s.chan 7 767).state ≠ .mapped ∧
       (s.hostsFor 7 767).isSome = true) ∧
    ((openPage 0x1A 7 (s0.onAtl 7 fun a => { a with mc := { a.mc with pend := [(3, 0)] } })).atl 7).mc.pend = [(3, 0)] ∧
    (let x := { stream0 with fault := some (fkPoison, 0, false), recorded := true }
     let s := openPage 0x17 7 (faulted .waitHost 0 x)
     ((s.atl 7).strm.fltAt 15).state = .waitHost ∧ s.fltStream 7 15 = some x) ∧
    (let s := openPage 0x17 7 ((faulted .aborted 65536 stream0 (mapped 65536)).onSeq 7 fun q =>
        { q with run := some (.voided 65536 true 0) })
     let t := openPage 0x17 7 (s.onStrm 7 fun m => { m with tlb := [] })
     s.heldFor 7 15 = some (65536, true) ∧ t.heldFor 7 15 = some (65536, true) ∧
     ((s.relocked 0x17 7).rewalk 7 65536 true).1 = true ∧ ((t.relocked 0x17 7).rewalk 7 65536 true).1 = false) := by
  unfold State.takesWrites State.unlocked; decide +kernel

def piece0 : Piece := ⟨0, 0, 32, 0, 7, true, 1⟩
def replica0 : ReplicaInfo := ⟨7, 32, 1, true, List.replicate 32 0⟩
def restoring (r : RestoreSt) (s : State := s0) : State := s.onCkpt fun m => { m with restore := some r }
def restore0 : RestoreSt := ⟨1, 0, 0, [], [], [], false⟩

theorem witness_CheckpointCommands :
    (let s := hosting 9 0 0 (openPage 9 0 ((s0.setFld (layerFld 1) 2).setFld F.CKPT_STAT_STATE 2))
     s.takesWrites 0x09 0 ∧ s.unlocked 0x09 0 ∧ s.hosted 0x09 0 0 = true ∧ s.layer 1 = 2 ∧ s.fld F.CKPT_STAT_STATE ≤ 2 ∧
       ∀ l ∈ [2, 3, 4], s.layer l = 0) ∧
    (let s := openPage 9 0 ((s0.setFld (layerFld 4) 1).onCkpt fun m => { m with stored := true })
     s.unlocked 0x09 0 ∧ s.layer 4 = 1 ∧ s.ckpt.stored = true) ∧
    (let r := { restore0 with realign := true, held := [(piece0, replica0)] }
     let s := openPage 9 0 (restoring r)
     s.takesWrites 0x09 0 ∧ s.unlocked 0x09 0 ∧ s.ckpt.restore = some r ∧ r.realign = true ∧
       r.held = (piece0, replica0) :: []) := by
  unfold State.takesWrites State.unlocked; decide +kernel

theorem witness_RestoreBegins :
    (let s := openPage 9 0 (readyState.onCkpt fun m => { m with storeId := some 5 })
     s.takesWrites 0x09 0 ∧ s.unlocked 0x09 0 ∧ s.ready = true ∧ s.ckpt.stop = none ∧ s.ckpt.restore = none ∧
       (∀ k : Atoll, (s.atl k).seq.entry = none) ∧ (s.relocked 0x09 0).sourceId 4 0 = some 5 ∧
       ∀ i ∈ [0, 1, 3, 5, 15], (s.relocked 0x09 0).sourceId i 65535 = none) ∧
    (∀ l ∈ [Layer.partner, .flash, .store], s0.layer (layerCode l) ≠ 1) ∧
    (∀ n ∈ [2, 3, 4], let s := (s0.setFld (layerFld n) 1).onCkpt fun m => { m with fslot := some 3 }
      s.layer n = 1 ∧ s.ckpt.fslot = some 3) ∧ s0.ckpt.restore = none ∧
    (let p : RestoreSt → Option Piece := fun r =>
       r.waiting.find? fun p => p.tensor == replica0.tensor.toNat && p.len == replica0.len
     let q := { piece0 with digest := 0 }
     p restore0 = none ∧ p { restore0 with waiting := [piece0] } = some piece0 ∧ p { restore0 with waiting := [q] } = some q ∧
       piece0.digest = replica0.digest.toNat ∧ q.digest ≠ replica0.digest.toNat ∧
       (restoring { restore0 with waiting := [q] }).hosted 0x09 0 2 = false ∧
       (hosting 9 0 2 (restoring { restore0 with waiting := [q] })).hosted 0x09 0 2 = true ∧
       (hosting 9 0 2 (restoring { restore0 with waiting := [q] })).ckpt.restore = some { restore0 with waiting := [q] }) ∧
    ({ restore0 with held := [(piece0, replica0)] }).held ≠ [] ∧ restore0.held = [] ∧ restore0.realign = false ∧
    ¬ ((restoring restore0).fld F.CKPT_STAT_STATE ≠ 5 ∧ (restoring restore0).misaligned [] ≠ [] ∧ s0.hosted 9 0 3 = true) := by
  unfold State.takesWrites State.unlocked; decide +kernel

/-- A loaded stream record of atoll 7, its counter 5, where the checkpoint's cursor gives 0. -/
def misplaced : State :=
  let s := (mapped 65536).onStrm 0 fun m => { m with tlb := [(3, vaTag 3 589824, 13)] }
  let s := s.setFld F.CKPT_CURSOR_BASE_ADDR 131072
  let s := (s.devWrite (7 * atollSpan) (bytesOf 32 (5 * 2 ^ 128 + 2 ^ 192))).1
  hosting 9 0 3 (restoring { restore0 with streams := [⟨7, 65536, 32, 0, 0xFFFFFFF7, false, 0⟩] } s)

theorem witness_RestoreBegins_realign :
    let r := { restore0 with streams := [⟨7, 65536, 32, 0, 0xFFFFFFF7, false, 0⟩] }
    misplaced.ckpt.restore = some r ∧ r.held = [] ∧ r.realign = false ∧
    (let u := (misplaced.bump F.CKPT_CNT_UNCHECKED r.waiting.length).onRestore fun r => { r with waiting := [] }
     misplaced.fld F.CKPT_STAT_STATE ≠ 5 ∧ u.misaligned r.streams ≠ [] ∧ misplaced.hosted 0x09 0 3 = true) := by
  decide +kernel

theorem witness_PowerWindowCommands :
    (let s := { openPage 5 0 with waits := [⟨pageIx 5 0, 0, 0, 0⟩] }
     s.takesWrites 0x05 0 ∧ s.unlocked 0x05 0 ∧ s.awaits 0x05 0 0 0 = true) ∧ s0.takesWrites 0x03 0 ∧
    s0.age.reading = false ∧
    (let s := s0.onAge fun a => { a with reading := true }
     let u (d : Nat) : State := s.putDrifts (List.replicate 8 d) []
     s.age.reading = true ∧ s.inService 7 = true ∧ (u 5).drifted = false ∧ (u 6).drifted = true ∧
       s.hosted 0x05 0 0 = false ∧ (hosting 5 0 0 s).hosted 0x05 0 0 = true ∧
       ((hosting 5 0 0 s).putDrifts (List.replicate 8 6) []).drifted = true) := by
  unfold State.takesWrites State.unlocked; decide +kernel

theorem witness_ResetWindowCommands :
    (openPage 6 0).takesWrites 0x06 0 ∧ (openPage 6 0).unlocked 0x06 0 ∧
    (let s (f : RstSt → RstSt) : State := { s0 with rst := f s0.rst }
     (s fun r => { r with power := false }).rst.power = false ∧ s0.rst.power = true ∧ s0.rst.wdog = false ∧
     (s fun r => { r with wdog := true }).rst.wdog = true ∧ s0.rst.asserted = false ∧ (1000 : Nat) ≤ 1000 ∧
     (s fun r => { r with asserted := true }).rst.asserted = true ∧ (999 : Nat) < 1000 ∧
     (s fun r => { r with brdLow := true }).rst.brdLow = true ∧ s0.ready = false ∧ readyState.ready = true) := by
  unfold State.takesWrites State.unlocked; decide +kernel

theorem witness_TrustWindowCommands :
    let got (s : State) : State := { s with rst := { s.rst with recv := some [1] } }
    s0.takesWrites 0x0A 0 ∧ (openPage 10 0).takesWrites 0x0A 0 ∧ (openPage 10 0).unlocked 0x0A 0 ∧
    (got (openPage 10 0)).takesWrites 0x0A 0 ∧ (got (openPage 10 0)).unlocked 0x0A 0 ∧
    (got (openPage 10 0)).rst.recv = some [1] ∧
    (∀ n ∈ [0, 31], (BitVec.allOnes 32).getLsbD n = true ∧ n ∉ s0.alertHeld) ∧
    (let s := openPage 7 0 (s0.setFld F.SEC_STAT_ID_OK 1)
     s.takesWrites 0x07 0 ∧ s.unlocked 0x07 0 ∧ s.flag F.SEC_STAT_QUOTE_BUSY = false ∧ s.flag F.SEC_STAT_ID_OK = true) ∧
    ({ s0 with rst := { s0.rst with power := false } }).rst.power = false ∧ s0.rst.power = true ∧
    verifyImage [] 0 ≠ 1 ∧ s0.rst.asserted = false ∧ (s0.setFld F.SEC_STAT_QUOTE_BUSY 1).flag F.SEC_STAT_QUOTE_BUSY = true ∧
    s0.flag F.SEC_STAT_QUOTE_BUSY = false := by
  unfold State.takesWrites State.unlocked; decide +kernel

/-- The first 1,024 bytes of an image of component 1 without payload, under a key whose exponent is 1. -/
def imageHead : List Byte :=
  bytesOf 4 0x47544657 ++ bytesOf 8 0x00000009_00000001 ++ bytesOf 8 0 ++ sha512 [] ++ List.replicate 44 0 ++
  List.replicate 512 0xFF ++ bytesOf 4 1 ++ List.replicate 380 0

def image0 : Image := imageHead ++ pkcs1 (sha512 imageHead)

/-- What the ROM holds of keys and areas is open (log 88): where its key 0 is this image's and the area has room, the image
verifies, for its own component too. -/
theorem witness_TrustWindowCommands_image (hk : (Config.romKey 0).toNat = ofBig (sha512 (imgBytes image0 128 516)))
    (ha : 1536 ≤ (Config.areaSize 1).toNat) : verifyImage image0 0 = 1 ∧ verifyImage image0 1 = 1 := by
  have c : imgFld image0 4 2 = 1 := by decide +kernel
  have k : imgFld image0 6 1 = 0 := by decide +kernel
  have n : imgFld image0 12 8 = 0 := by decide +kernel
  have l : image0.length = 1536 := by decide +kernel
  have m : imgFld image0 0 4 = 0x47544657 := by decide +kernel
  have r : rsaVerify (imgFld image0 128 512) (imgFld image0 640 4) (imgBytes image0 1024 512) (imgBytes image0 0 1024) = true := by
    decide +kernel
  have p : sha512 (imgBytes image0 1536 0) = imgBytes image0 20 64 := by decide +kernel
  have a : ¬ (Config.areaSize 1).toNat < 1536 := by omega
  simp only [verifyImage, c, k, n, l, m, r, p, ← hk]
  simp [a]

/-- Bundle `b` to the module of serial number 15 on strait port `p`. -/
def bundled (b : BundleSt) (s : State := s0) (p : PortIx := 0) : State := s.onBundle p 15 fun _ => b

/-- A bundle to slot 15, that is up. -/
def up : BundleSt := { BundleSt.none with state := .up, slot := 15 }

def peer15 (f : PeerSt → PeerSt) (s : State) : State := s.onPeer 15 f

/-- A mark of `d` cycles of deferral. -/
def mark15 (d : BitVec 16) : MarkBody := ⟨15, false, false, true, false, 0, d, 12500, 0, 0, 0, 0, 0, 5⟩

theorem witness_TideMarks :
    let s := bundled { up with delay := some 100 }
    let late := bundled { up with state := .late, delay := some 100 }
    let met (n : Nat) (b : MarkBody) (s : State) : State :=
      ((s.bump (F.PORT_CNT_RX 0)).tellSlot 0 15 n).onBundle 0 15 fun y => { y with marked := some (b.count.toNat, b.n) }
    let state (s : State) : BundleState := ((s.port 0).bundle 15).state
    (tides s0).markDue = true ∧ s0.markDue = false ∧ (0, 15) ∈ (bundled up).bundled ∧
    (s0.port 0).carries 15 = false ∧ (s.port 0).carries 15 = true ∧
    (((bundled { up with marked := some (0, 0) }).port 0).bundle 15).marked = some ((mark15 0).count.toNat, (mark15 0).n) ∧
    ((s.port 0).bundle 15).marked ≠ some ((mark15 0).count.toNat, (mark15 0).n) ∧
    (met 16 (mark15 0) s).takesPart 0 15 = false ∧ (met 15 (mark15 0) s).takesPart 0 15 = true ∧
    100 < (((met 15 (mark15 1) s).port 0).bundle 15).delay.getD 0 + (mark15 1).defer.toNat ∧
    (((met 15 (mark15 0) s).port 0).bundle 15).delay.getD 0 + (mark15 0).defer.toNat ≤ 100 ∧
    (state s = .up ∧ 8 ≤ ((peer15 (fun q => { q with lateRun := 8 }) s).peer 15).lateRun) ∧
    (state (bundled { up with delay := some 101 }) = .up ∧
      100 < (((bundled { up with delay := some 101 }).port 0).bundle 15).delay.getD 0) ∧
    (state late = .late ∧ 8 ≤ ((peer15 (fun q => { q with onTimeRun := 8 }) late).peer 15).onTimeRun ∧
      ¬ 100 < ((late.port 0).bundle 15).delay.getD 0) ∧
    ¬ (state s0 = .up ∨ state s0 = .late) ∧
    (let s := ((s0.setFld F.HOLM_SLOT_READING 0).setFld F.HOLM_SLOT_SLOT 1).setFld F.HOLM_BOARD_PRESENT 3
     let s := (s.onPeer 0 fun q => { q with inLine := true, heard := 8 }).onTide fun t => { t with lost := 2 }
     s.leads = false ∧ s.tide.lost = 2 ∧ s0.tide.lost ≠ 2) := by decide +kernel

theorem witness_SlackComes :
    let s (n : Nat) (l : List Bool) : State := (tides s0).onTide fun t => { t with sent := n, own := l }
    let g := s0.graceQuanta
    s0.tide.running = false ∧ (s 1 [true]).tide.running = true ∧ 0 < (s 1 [true]).tide.sent ∧
    (s 1 [true]).refused 0 = true ∧ 0 < (s 1 [true]).graceQuanta ∧ (s 1 [false]).refused 0 = false ∧
    (s (g + 1) (List.replicate (g + 1) true)).graceQuanta ≤ g ∧
    (s (g + 1) (List.replicate (g + 1) true)).tide.sent = (s (g + 1) (List.replicate (g + 1) true)).graceQuanta + 1 ∧
    (s (g + 1) (List.replicate (g + 1) true)).refused (s (g + 1) (List.replicate (g + 1) true)).graceQuanta = true ∧
    s0.tide.unaligned = false ∧ (s0.setFld F.TIDE_COUNT_COUNT (2 ^ 48 - 1)).tideNo + 1 = 2 ^ 48 ∧
    (s0.setFld F.TIDE_COUNT_COUNT (2 ^ 48 - 1)).tide.unaligned = false := by decide +kernel

/-- The register at `a` is one that `f` takes. -/
def hits (a : Nat) (f : RegDesc → Bool) : Bool :=
  match regHit a with
  | some (d, b) => b == a && !d.wide && f d
  | none => false

/-- Page `p` bound to ticket `t`, which stands at `st`. -/
def boundAt (p : PageIx) (t : Ticket) (st : Nat) (s : State := s0) : State :=
  let b := pageAt p
  ((s.setFld (F.PG_STAGE_STAT_BOUND b) 1).setFld (F.PG_STAGE_STAT_TICKET b) t).setTk t st

theorem witness_WindowAccesses :
    ({ s0 with rst := { s0.rst with power := false } }).rst.power = false ∧
    ({ s0 with rst := { s0.rst with asserted := true } }).rst.asserted = true ∧
    s0.rst.power = true ∧ s0.rst.asserted = false ∧ i3cWrites 0 = false ∧
    (∀ x ∈ [(0x20, 47, 132), (0x30, 5, 136), (0x03, 0, 168)], let a := pageBase x.1 x.2.1 + x.2.2
      a % 4 = 0 ∧ pageListed a = true ∧ a % 0x1000 < 0x800 ∧ s0.takesWrites (classOf a) (instOf a) ∧
      a % 0x1000 ≠ 0x30 ∧ classOf a ∉ [0x02, 0x0A, 0x0B] ∧ a < 2 ^ 26 ∧
      hits a (fun d => d.wo == 0 && d.gu == 0 && d.rw != 0) = true) := by
  unfold State.takesWrites; decide +kernel

theorem witness_WindowAccesses_staged :
    (∀ p ∈ [(1 : PageIx), 168], ∀ o ∈ [0x10, 0x14], let b := pageAt p + o
      o % 4 = 0 ∧ pageListed (b + 0x800) = true ∧ hits b (fun d => d.st != 0 && (d.gu &&& d.st) == 0) = true ∧
      s0.takesWrites (pageOfIx p).1 (pageOfIx p).2 ∧ s0.boundTo p = none ∧
      ∀ st ∈ [tkOpen, tkPassed, tkFailed], (boundAt p 3 st).boundTo p = some 3 ∧ (boundAt p 3 st).takes 3 = true ∧
        (boundAt p 3 st).takesWrites (pageOfIx p).1 (pageOfIx p).2) := by
  unfold State.takesWrites; decide +kernel

theorem witness_TicketPages :
    s0.boundTo 168 = none ∧ (s0.setTk 3 tkOpen).tk 3 = tkOpen ∧ (s0.setTk 3 tkOpen).boundTo 168 = none ∧ s0.tk 3 ≠ tkOpen ∧
    (boundAt 168 3 tkOpen).boundTo 168 ≠ none ∧ (boundAt 168 3 tkPassed).boundTo 168 = some 3 ∧
    (boundAt 168 3 tkPassed).takes 3 = true ∧ (boundAt 168 3 tkArmed).takes 3 = false := by decide +kernel

/-- A ticket without pages passes; TIDE_LEN staged at 0 fails. -/
theorem witness_TicketOpensAndChecks :
    (3 : Ticket) ≠ 2 ∧ s0.tk 3 = tkIdle ∧ s0.tk 0 = tkIdle ∧ (s0.setTk 0 tkOpen).tk 0 ≠ tkIdle ∧
    (s0.setTk 0 tkOpen).tk 0 = tkOpen ∧ (s0.setTk 0 tkFailed).tk 0 = tkFailed ∧ s0.tk 0 ≠ tkOpen ∧ s0.tk 0 ≠ tkFailed ∧
    (s0.setTk 0 tkChecking).tk 0 = tkChecking ∧ (s0.setTk 0 tkChecking).firstFailure 0 = none ∧
    (let s := { boundAt (1 : PageIx) 2 tkChecking with staged := [(R.TIDE_LEN, 0)] }
     let t := s.onTicket 2 fun x => { x with board := true }
     t.tk 2 = tkChecking ∧ (t.firstFailure 2).isSome = true ∧ t.tickets[(2 : Ticket)].board = true) := by decide +kernel

theorem witness_TicketArmsAndEnds :
    let s (t : Ticket) (x : Nat) : State := s0.setTk t x
    let at' (n : Nat) : State := ((s 0 tkPassed).setFld (F.COMMIT_OPT_AT_TIDE 0) 1).setFld (F.COMMIT_TIDE_TIDE 0) n
    let onBoard (u : State) : State :=
      (((u.setFld (F.COMMIT_OPT_SCOPE 0) 1).setFld F.HOLM_SLOT_READING 0).setFld F.HOLM_SLOT_SLOT 1).setFld
        F.HOLM_BOARD_PRESENT 3
    s0.tk 0 ≠ tkPassed ∧ (s 0 tkPassed).tk 0 = tkPassed ∧
    (∀ n ∈ [0, 1, 3, 4], (at' n).flag (F.COMMIT_OPT_AT_TIDE 0) = true ∧ (at' n).fld (F.COMMIT_TIDE_TIDE 0) = n ∧
      (at' n).tideNo = 0 ∧ ((at' n).flag (F.COMMIT_OPT_SCOPE 0) && !(at' n).boardPeers.isEmpty) = false ∧
      ((onBoard (at' n)).flag (F.COMMIT_OPT_SCOPE 0) && !(onBoard (at' n)).boardPeers.isEmpty) = true ∧
      (onBoard (at' n)).tk 0 = tkPassed) ∧
    (∀ x ∈ [tkOpen, tkPassed, tkFailed, tkArmed, tkIdle, tkChecking], (s 3 x).tk 3 = x ∧
      (s 3 x).tickets[(3 : Ticket)].board = false) ∧
    ((s 2 tkArmed).onTicket 2 fun x => { x with board := true }).tk 2 = tkArmed ∧
    (s 2 tkDiverged).tk 2 = tkDiverged ∧ (3 : Ticket) ≠ 2 := by decide +kernel

/-- A COMMIT message of `n` flits from the module of serial number 15, whose bundle is up, comes at the state `s`. -/
def came (n : Nat) (s : State) : Bool × State := (bundled up s).seqIn (bport 0) 15 ⟨true, true, false, 0, 0, 0⟩ n

/-- It is taken, and then `p` holds. -/
def cameTo (n : Nat) (s : State) (p : State → Prop) : Prop :=
  (came n s).1 = true ∧ (came n s).2.takesPart (bport 0) 15 = true ∧ p (came n s).2

/-- Ticket 2 at `st`, with the board tag of initiator 0, generation 1, target 4. -/
def boardTicket (st : Nat) (f : TicketSt → TicketSt) : State :=
  (s0.setTk 2 st).onTicket 2 fun x => f { x with board := true, init := 0, gen := 1, target := 4 }

theorem witness_BoardProtocol :
    let r : CommitRecord := ⟨0x32, 0, 0x10, 0⟩
    (s0.seqIn (bport 0) 15 ⟨true, true, false, 0, 0, 0⟩ 1).1 = false ∧
    (let x := (bundled { up with slot := 16 }).seqIn (bport 0) 15 ⟨true, true, false, 0, 0, 0⟩ 1
     x.1 = true ∧ x.2.takesPart (bport 0) 15 = false) ∧
    cameTo 1 (s0.setFld F.HOLM_SLOT_READING 1) (fun u => u.hasSlot = false) ∧ cameTo 1 (s0.setTk 2 tkOpen) (fun u => u.hasSlot = true ∧ u.tk 2 ≠ tkIdle) ∧
    ([r].length < 2 ∧ 1 ≤ [r].length ∧ recordPage r = some 168) ∧
    cameTo 1 s0 (fun u => u.hasSlot = true ∧ u.tk 2 = tkIdle ∧ u.boundTo 168 = none) ∧
    cameTo 1 (boundAt 168 0 tkOpen) (fun u => u.hasSlot = true ∧ u.tk 2 = tkIdle ∧ u.boundTo 168 ≠ none) ∧
    (let v : VoteGot := ⟨15, true, 0, 0, 0, 0⟩
     let t (l : List VoteGot) : State := (s0.setTk 1 tkVoting).onTicket 1 fun x => { x with target := 4, gen := 1, votes := l }
     let awaits (u : State) : Prop := u.tk 1 = tkVoting ∧ u.tickets[(1 : Ticket)].decided = none ∧
       u.tickets[(1 : Ticket)].init = (0 : Slot).val ∧ u.tickets[(1 : Ticket)].gen = (1 : BitVec 16).toNat ∧
       u.tickets[(1 : Ticket)].target = (4 : BitVec 48).toNat
     cameTo 1 (t []) (fun u => awaits u ∧ ∀ v ∈ u.tickets[(1 : Ticket)].votes, v.slot ≠ 15) ∧
       cameTo 1 (t [v]) (fun u => awaits u ∧ ∃ w ∈ u.tickets[(1 : Ticket)].votes, w.slot = (15 : Slot).val)) ∧
    (∀ x ∈ [tkPassed, tkDiverged, tkChecking], cameTo 1 (boardTicket x id) fun b =>
      b.tk 2 = x ∧ b.onBoard (0 : Slot) (1 : BitVec 16).toNat (4 : BitVec 48).toNat = true ∧
      b.tickets[(2 : Ticket)].discarded = false ∧ b.tickets[(2 : Ticket)].decided = none) ∧
    (let b := boardTicket tkDiverged fun x => { x with silent := 16 }
     b.tk 2 = tkDiverged ∧ b.tickets[(2 : Ticket)].discarded = false ∧ 16 ≤ b.tickets[(2 : Ticket)].silent) := by
  unfold cameTo; decide +kernel

theorem witness_WaitsEnd :
    (∀ x ∈ [tkOpen, tkChecking, tkPassed, tkFailed], ∀ t ∈ [(0 : Ticket), 1],
      let s := { (boundAt 5 t x).setFld F.TIDE_COUNT_COUNT 64 with selfActs := [⟨.replan, some 0, false⟩] }
      s.boundTo (SelfAct.replan).page = some t.val ∧ 0 + 64 ≤ s.tideNo ∧ t.val < 2 ∧ s.tk (ticketOf t) = x) ∧
    (∀ a ∈ ({ s0 with selfActs := [⟨.replan, none, false⟩] }).selfActs, a.since = none) ∧
    (pageOfIx 5).1 ≠ 0x03 ∧ s0.timedOut 5 0 = [] ∧
    (let s := (s0.setFld (F.PG_HOST_TIMEOUT_TIDES (pageBase 5 0)) 1).setFld F.TIDE_COUNT_COUNT 1
     ({ s with waits := [⟨5, 0, 0, 0⟩] }).timedOut 5 0 ≠ []) ∧
    (let s := hosting 3 0 0 ((s0.setFld (F.PG_HOST_TIMEOUT_TIDES (pageBase 3 0)) 1).setFld F.TIDE_COUNT_COUNT 1)
     (pageOfIx 3).1 = 0x03 ∧ s.hosted 0x03 0 0 = true ∧ s.pwr.expired = false ∧
       s.fld (F.PG_HOST_TIMEOUT_TIDES (pageBase 0x03 0)) ≠ 0 ∧
       s.pwr.beat + s.fld (F.PG_HOST_TIMEOUT_TIDES (pageBase 0x03 0)) ≤ s.tideNo) := by decide +kernel

/-- Requests to each region of the map and to none, at each edge of their length; one to memory while requests are held;
doorbells that fit, that do not, and one behind a write of its core; a link that is up, down, and tried again. -/
theorem witness_HarbourRequests :
    let win (a n : Nat) : Prop := windowBase ≤ a ∧ a + n ≤ bellBase
    let bell (a n : Nat) : Prop := bellBase ≤ a ∧ a + n ≤ bellBase + 4096
    let out (a n : Nat) : Prop := outboundBase ≤ a ∧ a + n ≤ outboundBase + 2 ^ 40
    ({ s0 with rst := { s0.rst with power := false } }).rst.power = false ∧ s0.rst.power = true ∧ s0.rst.asserted = false ∧
    accessOk 2 4 = false ∧ pageListed 0x3F00000 = false ∧ s0.flag F.HBR_PCIE_WINDOW = false ∧
    (∀ n ∈ [1, 4096], win windowBase n ∧ win (bellBase - n) n ∧ bell bellBase n ∧ out outboundBase n ∧
      out (outboundBase + 2 ^ 40 - n) n ∧ ¬ win 0 n ∧ ¬ bell 0 n ∧ ¬ out 0 n ∧ s0.memPlaces 0 n = none) ∧
    s0.flag F.HBR_PCIE_UP = false ∧ (s0.setFld F.HBR_PCIE_UP 1).flag F.HBR_PCIE_UP = true ∧
    (∀ a ∈ [carveBase, apertureBase, apertureBase + 1], ∀ n ∈ [1, 4096],
      ¬ win a n ∧ ¬ bell a n ∧ ¬ out a n ∧ s0.waitingMem = [] ∧ (match s0.memPlaces a n with
        | some q => (s0.heldPlace { core := 0, tag := 0, write := true, addr := a, len := n, data := [] } q).isNone &&
          ((s0.onMc 0 fun m => { m with chans := [(0, { ChSt.ok with state := .retrain })] }).heldPlace
            { core := 0, tag := 0, write := true, addr := a, len := n, data := [] } [(0, 1)]).isSome
        | none => false) = true) := by
  decide +kernel

theorem witness_HarbourRequests_bells :
    s0.ckpt.stop = none ∧ ({ s0 with ckpt := { s0.ckpt with stop := some ⟨0, 0, 0⟩ } }).ckpt.stop ≠ none ∧
    (∀ d ∈ [0, 127], s0.inService (d / 16) = true ∧ (4096 + 8192 - s0.fld (F.HBR_QSTAT_HEAD d)) % 8192 ≤ 4096 ∧
      ¬ ((4097 + 8192 - s0.fld (F.HBR_QSTAT_HEAD d)) % 8192 ≤ 4096)) ∧
    (s0.waitingMem.any (fun q => q.core == 31 && q.write && q.bell.isNone)) = false ∧
    (({ s0 with memWait := [⟨31, 0, true, apertureBase, 1, [0], none⟩] }).waitingMem.any
      fun q => q.core == 31 && q.write && q.bell.isNone) = true ∧
    (s0.fld F.HBR_ATTACH_DOWN).testBit 7 = false ∧
    (∀ z ∈ [false, true], let s := (s0.setFld F.HBR_ATTACH_DOWN 128).onAtl 7 fun a => { a with retry := z }
      (s.fld F.HBR_ATTACH_DOWN).testBit 7 = true ∧ (s.atl 7).retry = z) ∧
    (2 ≤ ((s0.onAtl 7 fun a => { a with attach := 2 }).atl 7).attach) ∧
    s0.layer 4 ≠ 1 ∧ (s0.setFld (layerFld 4) 1).layer 4 = 1 ∧
    (∀ w ∈ [(1 : BitVec 5), 16], w.toNat ∈ [1, 2, 4, 8, 16]) ∧ (0 : BitVec 5).toNat ∉ [1, 2, 4, 8, 16] := by
  decide +kernel

theorem witness_AtomReadsBack :
    s0.stacked (8 * atollSpan) = false ∧ 8 * atollSpan < 2 ^ 41 ∧
    ∀ a ∈ [0, 8 * atollSpan - 128], s0.stacked a = true ∧ a % 128 = 0 ∧ s0.ckpt.stop = none ∧
      (s0.atl (atollOf (a / atollSpan))).mc.ebb = none ∧ s0.holds (s0.place a) true = false ∧
      s0.lostPlace (s0.place a) = false := by decide +kernel

def merging (l : List (Nat × List (Nat × Byte))) : State := s0.onStrm 7 fun m => { m with merge := l }

theorem witness_SkiffHolds :
    (∀ x ∈ [(0, 128), (127, 1)], s0.stacked x.1 = true ∧ x.1 % 128 + x.2 ≤ 128 ∧ x.2 ≠ 0) ∧
    (∀ e ∈ (merging [(5, [(0, 1)])]).atl 7 |>.strm.merge, e.2 ≠ []) ∧ (s0.atl 7).strm.merge = [] ∧
    (let x := 7 * atollSpan / 128
     let s := merging [(x, [(127, 1)])]
     (s.atl 7).strm.merge = (x, [(127, 1)]) :: [] ∧ atollOf (x * 128 / atollSpan) = 7 ∧ (s.atl 7).mc.ebb = none ∧
       s.poisoned (s.place (x * 128)) = false) := by decide +kernel

def ebb0 : EbbSt := ⟨767, false, 0, List.range 63, [], 1, false⟩

theorem witness_StackUpkeep :
    s0.fld (F.MC_SCRUB_PERIOD 7) ≠ 0 ∧ s0.inService 7 = true ∧ (s0.chan 7 767).state ≠ .mapped ∧
    s0.holds (placeOf 7 767 0) false = false ∧
    (let s := s0.onMc 7 fun m => { m with ebb := some ebb0 }
     (s.atl 7).mc.ebb = some ebb0 ∧ ebb0.left ≠ 0 ∧ s.ckpt.stop = none) ∧ (s0.atl 7).mc.ebb = none ∧
    (let c := { ChSt.ok with copying := [31 * 4096 + 4095] }
     let s := s0.onMc 7 fun m => { m with chans := [(767, c)] }
     ((s.chan 7 767).copying.find? fun x => x / 4096 == (31 : Fin 32).val) = some (31 * 4096 + 4095) ∧
     ((s.chan 7 767).copying.find? fun x => x / 4096 == (0 : Fin 32).val) = none) ∧
    ((s0.onSeq 0 fun q => { q with run := some (.resuming true) }).atl 0).seq.run = some (.resuming true) ∧
    (s0.atl 0).seq.run ≠ some (.resuming true) ∧
    ((s0.onMc 7 fun m => { m with window := some 767 }).atl 7).mc.window = some 767 ∧ (s0.atl 7).mc.window = none := by
  decide +kernel

/-- A stream of one FP32 element from atoll 7's stacks into its lagoon. -/
def loading (bad : Option (Nat × Nat)) : State :=
  (mapped 65536).onStrm 7 fun m => { m with
    streams := [{ stream0 with ctr := 15, desc := 2 ^ 10 + 2 ^ 4 + 65536 * 2 ^ 64, bad := bad }] }

theorem witness_StreamsMove :
    (match (loading none).runStream 7 0 with
     | some (x, _, none, t) => Sd.kind x.desc true != 3 && match (t.atl 7).strm.streams.filter fun z => z.ctr == x.ctr with
       | [y] => y.slot == x.slot && !y.done && (((t.atl 7).strm.inSlot x.slot).bind StreamSt.delta).isNone
       | _ => false
     | _ => false) = true ∧
    (loading none).runStream 7 63 = none ∧
    (match (loading (some (fkBadDesc, 0))).runStream 7 0 with
     | some (_, _, some st, _) => st.1 != 0
     | _ => false) = true ∧
    (let x := { stream0 with fault := some (fkDemand, 65536, false), recorded := true }
     let s := (mapped 65536).onStrm 7 fun m => { m with
       flt := [(15, { FltRec.none with state := .waitSelf, kind := fkDemand, va := 65536 })], streams := [x] }
     let t := (s.setFld (F.XLAT_POOL_COUNT_COUNT 7) 1).setFld (F.XLAT_POOL_BASE_ADDR 7) 65536
     s.fltStream 7 15 = some x ∧ ((s.atl 7).strm.fltAt 15).state = .waitSelf ∧ ((s.atl 7).strm.fltAt 15).kind = fkDemand ∧
     (s.poolFrame 7).1 = none ∧ t.fltStream 7 15 = some x ∧ (t.poolFrame 7).1.isSome = true) ∧
    (let s := (s0.setFld (F.STRM_VOIDWAIT_TIDES 7) 5).onSeq 7 fun q =>
       { q with run := some (.voided 0 false 5), entry := some (0, 0) }
     let t := s.onSeq 7 fun q => { q with run := some (.voided 0 false 4) }
     (s.atl 7).seq.run = some (.voided 0 false 5) ∧ (s.atl 7).seq.entry = some (0, 0) ∧ s.fld (F.STRM_VOIDWAIT_TIDES 7) ≤ 5 ∧
       (t.atl 7).seq.run = some (.voided 0 false 4) ∧ (t.atl 7).seq.entry = some (0, 0) ∧ 4 < t.fld (F.STRM_VOIDWAIT_TIDES 7)) ∧
    (s0.setFld (F.XLAT_STAT_INV_DONE 7) 0).flag (F.XLAT_STAT_INV_DONE 7) = false ∧
    (s0.setFld (F.XLAT_STAT_EDITING 7) 1).flag (F.XLAT_STAT_EDITING 7) = true ∧
    s0.flag (F.XLAT_STAT_EDITING 7) = false := by decide +kernel

def trailer (start fin : Bool) (seq : BitVec 12) : Trailer := ⟨start, fin, false, seq, 0, 0⟩

theorem witness_FlitReplay :
    let f : Flit := ⟨2, true, true, 0, []⟩
    let s (n : Nat) (z : Bool) : State := bundled { up with unacked := [(1, f)], resends := n, retrain := z } s0 1
    let b (s : State) : BundleSt := (s.port 1).bundle 15
    (s0.port 1).carries 15 = false ∧ ((s 6 false).port 1).carries 15 = true ∧ (trailer true false 0).nak = false ∧
    (trailer true false 1).seq.toNat ≠ (b (s 6 false)).seqRx ∧ (trailer true true 0).fin = true ∧
    (trailer true false 0).seq.toNat = (b (s 6 false)).seqRx ∧ (trailer true false 0).fin = false ∧
    (b (bundled up s0 1)).unacked = [] ∧
    (let u := (tides (s 6 false)).onTide fun t => { t with phase := 12500 }
     (b u).unacked ≠ [] ∧ u.runTo ((b u).ackAt + 200) = none) ∧
    (∀ x ∈ [(6, false), (7, false), (8, true)], (b (s x.1 x.2)).unacked ≠ [] ∧
      (match (s x.1 x.2).runTo ((b (s x.1 x.2)).ackAt + 200) with
       | some v => (b v).unacked.length == 1 && (b v).resends == x.1 && (b v).retrain == x.2
       | none => false) = true) ∧
    (b (s 6 false)).queue = [] ∧ (b (s 8 true)).queue = [] ∧
    ((b (s 7 false)).unacked.filter fun e => !seqLe e.1 (1 : BitVec 12).toNat).length < (b (s 7 false)).unacked.length ∧
    flitDiscarded [] = true := by decide +kernel

/-- Port `p` with the lanes `l`. -/
def lanes (p : PortIx) (l : List (Nat × LaneSt)) (s : State := s0) : State := s.onPort p fun m => { m with lanes := l }

theorem crc32_lt (l : List Byte) : crc32 l < 2 ^ 32 := by
  have bit : ∀ (n : List Nat) (c : Nat), c < 2 ^ 32 →
      n.foldl (fun c _ => if c % 2 = 1 then (c / 2) ^^^ 0xEDB88320 else c / 2) c < 2 ^ 32 := by
    intro n
    induction n with
    | nil => exact fun _ h => h
    | cons _ n ih =>
      intro c h
      refine ih _ ?_
      show (if c % 2 = 1 then (c / 2) ^^^ 0xEDB88320 else c / 2) < 2 ^ 32
      split
      · exact Nat.xor_lt_two_pow (by omega) (by decide)
      · omega
  have byte : ∀ (l : List Byte) (c : Nat), c < 2 ^ 32 →
      l.foldl (fun (c : Nat) (b : Byte) => (List.range 8).foldl
        (fun c _ => if c % 2 = 1 then (c / 2) ^^^ 0xEDB88320 else c / 2) (c ^^^ b.toNat)) c < 2 ^ 32 := by
    intro l
    induction l with
    | nil => exact fun _ h => h
    | cons b l ih => exact fun c h => ih _ (bit _ _ (Nat.xor_lt_two_pow h (by omega)))
  exact Nat.xor_lt_two_pow (byte l _ (by decide)) (by decide)

/-- A flit that is not discarded: 268 bytes of type IDLE under their CRC. -/
theorem flit_kept (l : List Byte) (hl : l.length = 268) (h0 : l.getD 256 0 = 0) :
    flitDiscarded (l ++ bytesOf 4 (crc32 l)) = false := by
  have h := crc32_lt l
  have ht : (l ++ bytesOf 4 (crc32 l)).take 268 = l := List.take_left' hl
  have hd : (l ++ bytesOf 4 (crc32 l)).drop 268 = bytesOf 4 (crc32 l) := List.drop_left' hl
  have hg : (l ++ bytesOf 4 (crc32 l)).getD 256 0 = 0 := by
    rw [List.getD_eq_getElem?_getD, List.getElem?_append_left (by omega), ← List.getD_eq_getElem?_getD, h0]
  have hb : ofBytes (bytesOf 4 (crc32 l)) = crc32 l := by simp [bytesOf, ofBytes]; omega
  have hn : (l ++ bytesOf 4 (crc32 l)).length = 272 := by
    rw [List.length_append, hl]
    rfl
  unfold flitDiscarded
  rw [ht, hd, hg, hb, hn]
  simp

theorem witness_FlitReplay_kept : ∃ raw, flitDiscarded raw = false :=
  ⟨_, flit_kept (List.replicate 268 0) List.length_replicate (by decide)⟩

/-- An active lane to and from lane 0 of the module of serial number 15. -/
def lane15 : LaneSt :=
  { LaneSt.off with rx := .active, tx := .active, rxFrom := some ⟨15, 0, 0⟩, txTo := some ⟨15, 0, 0⟩ }

theorem witness_StraitDiscovery :
    let both (a b : List (Nat × LaneSt)) (s : State) : State := lanes 1 b (lanes 0 a s)
    let mine (s : State) : Nat := ((s.port 0).lanesTo 15 false).length
    let other (s : State) : Nat := ((s.port 1).lanesTo 15 false).length
    (let h : TrainInfo := ⟨16, some 15, 0, 0, false, [⟨0, 0, 15, 0, 31⟩]⟩
     (∀ g ∈ h.hears, g.atPort = 0 → g.atLane = 31 → g = ⟨0, 0, 15, 0, 31⟩) ∧ (bundled up).conflicted 15 = false ∧
       (match exec (.train 0 31 h) (bundled up) with | .next u => u.conflicted 15 | _ => false) = true) ∧
    ((s0.port 0).bundle 15).delay = none ∧
    (∀ d ∈ [100, 101],
      let s := bundled { BundleSt.none with delay := some d } s0
      let here (s : State) : Prop := 0 < mine s ∧ (s.port 0).lanesTo 15 true ≠ [] ∧ other s ≤ mine s
      ((s.port 0).bundle 15).delay = some d ∧ (s.port 0).carries 15 = false ∧ mine s = 0 ∧
        here (both [(0, lane15)] [] s) ∧ here (both [(0, lane15)] [(31, lane15)] s) ∧
        mine (both [(0, lane15)] [(0, lane15), (1, lane15)] s) < other (both [(0, lane15)] [(0, lane15), (1, lane15)] s)) ∧
    (∀ z ∈ [false, true], let s := bundled { up with delay := some 100, retrain := z }
      (s.port 0).carries 15 = true ∧ ((s.port 0).bundle 15).retrain = z ∧ ((s.port 0).bundle 15).delay = some 100) ∧
    (let s := s0.setFld F.HOLM_ATOLLS_IN_SERVICE 0x7F
     s.inService 7 = false ∧ s.inService 3 = true ∧ s0.inService 7 = true ∧ s0.inService 3 = true) ∧
    (let s := (readyState).onAtl 7 fun a => { a with links := [1, 2, 2, 2] }
     (s.atl 7).links.getD 0 0 + 1 < 3 ∧ s.ready = true ∧ 3 ≤ (s.atl 7).links.getD 3 0 + 1 ∧ s.inService 7 = true) := by
  decide +kernel

theorem witness_LanesFail :
    let s := lanes 1 [(31, { lane15 with crc := 2, bad := 3 })] ((s0.setFld (F.PORT_LANE_THR_ERRS 1) 1).setFld
      (F.PORT_LANE_THR_TIDES 1) 4)
    let lane (s : State) : LaneSt := (s.port 1).lane 31
    let x := { lane15 with rx := .excluded, tx := .excluded }
    let wide : List (Nat × LaneSt) := (List.range 8).map fun n => (n, lane15)
    ((lane s).tx ≠ .excluded ∧ (lane s).tx ≠ .off) ∧ (lane s0).tx = .off ∧ (lane s).rx ≠ .excluded ∧
    (s.fld (F.PORT_LANE_THR_ERRS 1) < (lane s).crc ∧ s.fld (F.PORT_LANE_THR_TIDES 1) ≤ (lane s).bad + 1) ∧
    (let t := lanes 1 [(31, { lane15 with crc := 1, bad := 3 })] s
     ¬ t.fld (F.PORT_LANE_THR_ERRS 1) < (lane t).crc) ∧
    (lane (lanes 1 [(31, x)])).rx = .excluded ∧ ((lane s0).rx ≠ .excluded ∧ (lane s0).rxFrom = none) ∧ (lane s).rxFrom ≠ none ∧
    ((lane s).rxFrom = some ⟨15, 0, 0⟩ ∧ ((bundled up s 1).port 1).carries 15 = true) ∧
    (let due (s : State) : Prop := s.hosted 0x30 1 0 = false ∧ s.fld (F.PORT_RETRAIN_PERIOD 1) ≠ 0 ∧
       (lane s).since + s.fld (F.PORT_RETRAIN_PERIOD 1) ≤ s.tideNo
     due ((lanes 1 [(31, x)]).setFld F.TIDE_COUNT_COUNT 0x10000) ∧ ¬ due (lanes 1 [(31, x)]) ∧
       (lane (lanes 1 [(31, x)])).asked = false ∧ (lane (lanes 1 [(31, { x with asked := true })])).asked = true) ∧
    (∀ tx ∈ [false, true], (lanes 1 [(31, x)]).atWidth 1 x tx = false ∧ (lanes 1 ((31, x) :: wide)).atWidth 1 x tx = true) ∧
    (lane (lanes 1 [(31, { x with rx := .active })])).rx ≠ .excluded := by
  decide +kernel

theorem witness_LanesFail_commands :
    let lane (s : State) : LaneSt := (s.port 1).lane 31
    let x := { lane15 with rx := .excluded, tx := .excluded }
    (∀ p ∈ [(0 : PortIx), 1, 2, 5], (openPage 0x30 p).takesWrites 0x30 p ∧ (openPage 0x30 p).unlocked 0x30 p) ∧
    ((lane (lanes 1 [(31, x)] (openPage 0x30 1))).rx = .excluded ∧
     (lane (lanes 1 [(31, lane15)] (openPage 0x30 1))).rx ≠ .excluded) ∧
    (((bundled up (openPage 0x30 1) 1).port 1).named 15 = some 15 ∧ ((openPage 0x30 1).port 1).named 15 = none) := by
  unfold State.takesWrites State.unlocked; decide +kernel

def frame0 (n : Nat) (k : FrameKind) (ok : Bool) : Frame := ⟨n, ok, 0, 0, 0, 19776, true, k⟩

/-- One member group whose address is 5. -/
def grouped : State :=
  let s := (s0.setFld (F.PORT_STAT_UP 5) 1).onStrm 0 fun m => { m with tlb := [(3, vaTag 3 65536, 13)] }
  let s := (s.setFld F.SNDCTX_GRP_BASE_ADDR 65536).setFld F.SNDCTX_GRP_COUNT_COUNT 2
  (s.devWrite 64 (bytesOf 64 (2 ^ 31 + 5 * 2 ^ 64))).1

/-- A frame of each kind, taken and dropped; Sound frames for the port, for a group and for neither; an LLDP frame due and
not; the link as it is and changed. -/
theorem witness_FabricPorts :
    let s := (s0.setFld (F.PORT_STAT_UP 5) 1).setFld (F.PORT_EXPECT_VALID 5) 1
    let solicits (f : Frame) : Bool := match f.kind with | .neighborSolicitation _ => true | _ => false
    (1 : PortIx).val < 2 ∧ 2 ≤ (2 : PortIx).val ∧ 4 ≤ (5 : PortIx).val ∧ s0.flag (F.PORT_STAT_UP 5) = false ∧
    s.flag (F.PORT_STAT_UP 5) = true ∧ (frame0 64 .other false).fcsOk = false ∧ (frame0 64 .other true).fcsOk = true ∧
    s.fld (F.PORT_MTU_BYTES 5) < (frame0 9217 .pause true).bytes ∧
    (frame0 9216 .pause true).bytes ≤ s.fld (F.PORT_MTU_BYTES 5) ∧
    solicits (frame0 64 (.neighborSolicitation 0) true) = true ∧
    (0 : BitVec 128).toNat = s.portIp 5 ∧ (1 : BitVec 128).toNat ≠ s.portIp 5 ∧ s.fld (F.PORT_EXPECT_VALID 5) ≠ 0 ∧
    ({ frame0 64 (.lldp [] []) true with dstMac := 0x0180C200000E }).dstMac.toNat = 0x0180C200000E ∧
    (frame0 64 (.lldp [] []) true).dstMac.toNat ≠ 0x0180C200000E ∧
    (let own (f : Frame) : Bool := decide (f.dstMac.toNat = s.fld (F.PORT_MAC_MAC 5)) && decide (f.dstIp.toNat = s.portIp 5)
     let good (f : Frame) : Bool := f.checksumOk && decide (f.udpPort.toNat = s.fld (F.SND_UDP_PORT 5))
     own (frame0 64 (.sound []) true) = true ∧ good (frame0 64 (.sound []) true) = true ∧
       good { frame0 64 (.sound []) true with udpPort := 4791 } = false ∧
       own { frame0 64 (.sound []) true with dstMac := 1 } = false ∧ s.fld F.SNDCTX_GRP_COUNT_COUNT ≤ 1) ∧
    (1 < grouped.fld F.SNDCTX_GRP_COUNT_COUNT ∧ (grouped.bump (F.PORT_CNT_RX 5)).groupIp 1 = (5 : BitVec 128).toNat) ∧
    (s.port 5).lldpAt ≤ s.tideNo ∧
    (let t := s.onPort 5 fun m => { m with lldpAt := 1 }
     t.flag (F.PORT_STAT_UP 5) = true ∧ t.tideNo < (t.port 5).lldpAt) := by decide +kernel

/-- The last context, its 128 bytes `w`, with `r` kept of it; the table holds 2^20 contexts. -/
def ctx (w : Nat) (r : CtxRun := {}) (s : State := s0) (c : Nat := 0xFFFFF) : State :=
  let s := s.setFld F.SNDCTX_COUNT_COUNT (2 ^ 20)
  { s with sound := { s.sound with cache := [(c, w)], run := [(c, r)] } }

def hdr0 : SoundHdr := ⟨1, 0, 0, 0xFFFFF, 0, 15, false, 0, 0, 0, 0, 0, 0⟩

/-- Strait traffic to slot 15 on B1. -/
def linked : State := bundled up s0 1

theorem witness_SoundDataArrives :
    s0.hears 1 hdr0 = false ∧ linked.hears 1 hdr0 = true ∧ ({ hdr0 with ver := 2 }).ver ≠ 1 ∧
    ([] : List Byte).length < ({ hdr0 with len := 1 }).len.toNat ∧ linked.ctxExists 0xFFFFF = false ∧
    (∀ w ∈ [Cx.closed, Cx.opened + 100 * 2 ^ (8 * 76)], let s := ctx w {} linked
      s.hears 1 hdr0 = true ∧ hdr0.ver = 1 ∧ s.ctxExists 0xFFFFF = true ∧ s.ctxPeek 0xFFFFF = w ∧
        s.isPartner 0xFFFFF = false) ∧
    (let w := Cx.opened + 100 * 2 ^ (8 * 76)
     let h := { hdr0 with len := 100 }
     Cx.isOpen Cx.closed = false ∧ Cx.state w = Cx.opened ∧ h.flags.getLsbD 3 = false ∧ h.flags.getLsbD 1 = false ∧
       h.psn.toNat = Cx.rxPsn w ∧ ({ h with psn := 1 }).psn.toNat ≠ Cx.rxPsn w ∧
       h.roff.toNat + h.len.toNat ≤ Cx.rxLen w ∧ h.len.toNat ≤ (List.replicate 100 (0 : Byte)).length) := by
  decide +kernel

/-- Context 0, open, with a group of one member and an arrival ring of one message in a page that atoll 0 maps. -/
def serving0 : State :=
  let s := linked.onStrm 0 fun m => { m with tlb := [(3, vaTag 3 65536, 13)] }
  let s := s.setFld F.SNDCTX_GRP_BASE_ADDR 65536
  let s := (s.devWrite 0 (bytesOf 64 (2 ^ 31 + 2 ^ (8 * 24) + (65536 + 64) * 2 ^ (8 * 32)))).1
  let s := (s.devWrite 64 (bytesOf 32 (5 + 2 ^ 20))).1
  let s := (s.devWrite 4096 (bytesOf 32 (5 * 2 ^ 32 + 2 ^ (8 * 28)))).1
  ctx (Cx.opened + (65536 + 4096) * 2 ^ (8 * 80)) {} s 0

theorem witness_SoundControlArrives :
    (∀ w ∈ [Cx.closed, Cx.opened, Cx.connecting, Cx.catchup, Cx.listen], let s := ctx w {} linked
      s.hears 1 hdr0 = true ∧ hdr0.ver = 1 ∧ s.ctxExists 0xFFFFF = true ∧ s.ctxPeek 0xFFFFF = w ∧ Cx.kind w ≠ 1 ∧
        ∀ e ∈ (s.sound.of 0xFFFFF).catchup, e.key ≠ memberKey 0 15) ∧
    Cx.isOpen Cx.closed = false ∧ Cx.isOpen Cx.opened = true ∧ hdr0.roff ≠ 1 ∧ Cx.state Cx.opened = Cx.opened ∧
    (∀ w ∈ [Cx.connecting, Cx.catchup], 2 ≤ Cx.state w ∧ Cx.state w ≤ 4) ∧ Cx.state Cx.listen ≠ Cx.opened ∧
    (let w := serving0.ctxPeek 0
     let u := (serving0.ctxGet 0).2
     let h := { hdr0 with dst := 0, roff := 5, msg := 6 }
     serving0.hears 1 h = true ∧ serving0.ctxExists 0 = true ∧ Cx.state w = Cx.opened ∧
       ((u.members w).find? fun z => z.1 == (5 : CtxNo).toNat) = some (5, 1, true) ∧
       ∀ i : Nat, i < h.msg.toNat - h.roff.toNat → (u.ringEntry 0 w (h.roff.toNat + i)).isSome = true) := by
  decide +kernel

theorem witness_SoundAdmission :
    s0.fld F.SNDCTX_STAT_PHASE = 0 ∧
    (∀ n ∈ [1, 2], let s := ctx Cx.listen {} (linked.setFld F.SNDCTX_STAT_PHASE n)
      s.fld F.SNDCTX_STAT_PHASE ≠ 0 ∧ s.hears 1 hdr0 = true ∧ s.ctxExists 0xFFFFF = true ∧
      (linked.setFld F.SNDCTX_STAT_PHASE n).ctxExists 0xFFFFF = false ∧
      Cx.state (s.ctxPeek 0xFFFFF) = Cx.listen ∧ peerMatches (s.ctxPeek 0xFFFFF) hdr0 false 0 = true ∧
      s.rampFull = false ∧ s.hosted 0x32 0 0 = false ∧ (hosting 0x32 0 0 s).hosted 0x32 0 0 = true ∧
      (hosting 0x32 0 0 s).rampFull = false ∧ (hosting 0x32 0 0 s).sound.admissions.length < 256 ∧
      Cx.state ((ctx Cx.closed {} s).ctxPeek 0xFFFFF) ≠ Cx.listen ∧
      peerMatches (Cx.listen + 2 ^ 32) hdr0 false 0 = false) ∧
    Cx.state ((ctx Cx.connecting {} linked).ctxPeek 0xFFFFF) = Cx.connecting ∧
    (let s := (s0.setFld F.SNDCTX_STAT_PHASE 1).setFld F.SNDCTX_RAMP_LEFT 0
     s.fld F.SNDCTX_STAT_PHASE = 1 ∧ s.fld F.SNDCTX_RAMP_LEFT = 0 ∧
       (s.setFld F.SNDCTX_RAMP_LEFT 1).fld F.SNDCTX_RAMP_LEFT ≠ 0) ∧
    (let s := ctx Cx.opened {} (openPage 0x32 0)
     s.takesWrites 0x32 0 ∧ s.unlocked 0x32 0 ∧ s.ctxExists 0xFFFFF = true ∧
       Cx.live ((s.relocked 0x32 0).ctxPeek 0xFFFFF) = true ∧
       ({ s with sound := { s.sound with admissions := [⟨1, hdr0, false, 0, 0⟩] } }).sound.admissions = ⟨1, hdr0, false, 0, 0⟩ :: []) := by
  unfold State.takesWrites State.unlocked; decide +kernel

def message : SoundMsg :=
  { msg := 0, atoll := 0, ctr := 0, counted := false, lag := false, src := 0, body := some [1, 2], len := 2, roff := 0, user := 0,
    sent := 0, dst := none, entry := some 0, ended := none }

theorem witness_SoundMoves :
    (let w := Cx.opened + 15 * 2 ^ (4 + 32 + 16) + 2 ^ (8 * 52)
     let s := ctx w { queue := [message], staged := [1] } linked
     let u := (s.ctxGet 0xFFFFF).2
     s.ctxExists 0xFFFFF = true ∧ (s.mayDepart 0xFFFFF).isSome = true ∧ s.nextPacket 0xFFFFF w = some (message, 2) ∧
       message.dst = none ∧ message.body = some [1, 2] ∧ Cx.kind w ≠ 1 ∧
       (drrTurn (u.waitingTx (u.ctxPort w)) (u.port (u.ctxPort w)).drr (u.port (u.ctxPort w)).shareTx
         (u.fld (F.SND_RESV_SHARE (u.ctxPort w))) 0xFFFFF).isSome = true ∧
       s.ckpt.stop = none ∧ (s.sound.of 0xFFFFF).staged = 1 :: [] ∧
       (drrTurn (s.waitingRx 1) (s.port 1).drrIn (s.port 1).shareRx (s.fld (F.SND_RESV_SHARE 1)) 0xFFFFF).isSome = true ∧
       Cx.isOpen w = true ∧ Cx.credit w ≠ 0) ∧
    (∀ n ∈ [13, 14], let w := Cx.opened + n * 2 ^ (8 * 90)
      let s := ctx w { unacked := [⟨0, 0, 0, 1, 0⟩], idle := 16 } linked
      s.ctxPeek 0xFFFFF = w ∧ Cx.isOpen w = true ∧ (s.sound.of 0xFFFFF).unacked ≠ [] ∧
      (n = 13 → Cx.retries w + 1 < s.fld (F.SND_RETRY_MAX (s.ctxPort w))) ∧
      (n = 14 → s.fld (F.SND_RETRY_MAX (s.ctxPort w)) ≤ Cx.retries w + 1)) ∧
    (let s := ctx (Cx.opened + 2 ^ (8 * 52)) { idle := s0.fld (F.SND_GRANT_IDLE_TIDES 0) }
     s.fld (F.SND_GRANT_IDLE_TIDES (s.ctxPort (s.ctxPeek 0xFFFFF))) ≤ (s.sound.of 0xFFFFF).idle) := by
  decide +kernel

/-- Atoll 0 runs, and s1 names a message descriptor of one byte for the last context. -/
def sending : State :=
  let s := linked.onStrm 0 fun m => { m with tlb := [(3, vaTag 3 65536, 13)] }
  let s := (s.devWrite 0 (bytesOf 32 (0xFFFFF + 2 ^ 32))).1
  regs0 { s := [(1, 65536)] } (runs slice0 (ctx Cx.opened {} s))

theorem witness_MessageSlots :
    s0.running 0 = false ∧
    (let x := { slice0 with defers := List.replicate 255 ⟨true, 0, 0⟩ }
     (runs x).running 0 = true ∧ ((runs x).atl 0).seq.slice = some x ∧ x.defers.length < 256) ∧
    (let v := (sending.atl 0).seq.r.sv 1
     let goes := sending.onSeq 0 fun q => { q with stalled := false }
     let d := (goes.vFree 0 v 32).1
     let u := (goes.vFree 0 v 32).2
     let w := u.ctxPeek (bits d 19 0)
     sending.running 0 = true ∧ bits d 31 20 = 0 ∧ byteFld d 24 8 = 0 ∧ 0 < byteFld d 4 4 ∧ byteFld d 4 4 ≤ 2 ^ 31 ∧
       u.ctxExists (bits d 19 0) = true ∧ Cx.state w = Cx.opened ∧ Cx.via w ≠ 1 ∧ Cx.via w ≤ 5 ∧
       ∀ m ∈ (sending.sound.of (bits d 19 0)).queue, m.ended = none) ∧
    (let s := runs slice0 (s0.setFld (F.XLAT_STAT_EDITING 0) 1)
     s.running 0 = true ∧ s.issueStalls 0 = true) ∧ (runs).issueStalls 0 = false := by decide +kernel

def redStep : RedStep := ⟨0, 0, 5, 0, [], none, none, false, []⟩
/-- A reduction of two ranks and 64 elements in atoll 7's slot 63, with step `x` open. -/
def reducing (x : RedStep) (w : Nat := 2 * 2 ^ 16 + 64 * 2 ^ (8 * 20)) (s : State := s0) : State :=
  s.onStep 7 fun m => { m with red := [(63, some ⟨0, w, [x], [], [], []⟩)] }

theorem witness_ReductionCloses :
    let at5 (s : State) : State := s.setFld F.TIDE_COUNT_COUNT 5
    let whole (x : RedStep) : RedSt := ⟨0, 0, [x], [], [], []⟩
    let part (x : RedStep) : RedSt := ⟨0, 2 * 2 ^ 16 + 64 * 2 ^ (8 * 20), [x], [], [], []⟩
    let first (r : RedSt) : Option RedStep := r.steps.find? fun x => !x.closed
    let on (x : RedStep) (r : RedStep → RedSt) (s : State) : Prop := (s.atl 7).step.at 63 = some (r x) ∧ first (r x) = some x ∧
      s.ckpt.stop = none
    (s0.atl 7).step.at 63 = none ∧ ({ s0 with ckpt := { s0.ckpt with stop := some ⟨0, 0, 0⟩ } }).ckpt.stop ≠ none ∧
    first (part { redStep with closed := true }) = none ∧
    (∀ n ∈ [0, 1], let x := { redStep with closeAt := some n }
      on x part (reducing x) ∧ ((reducing x).atl 7).step.waiting = []) ∧
    (on redStep part (reducing redStep) ∧ ¬ redStep.anchor + redStep.deadline ≤ (reducing redStep).tideNo) ∧
    (∀ x ∈ [redStep, { redStep with held := some 5 }], redStep.anchor + redStep.deadline ≤ (at5 (reducing x)).tideNo ∧
      on x part (at5 (reducing x)) ∧ (at5 (reducing x)).hosted 0x19 7 0 = false ∧
      on x part (hosting 0x19 7 0 (at5 (reducing x))) ∧ (hosting 0x19 7 0 (at5 (reducing x))).hosted 0x19 7 0 = true ∧
      (part x).complete x.landed = false ∧ (part x).complete (x.onTime false false) = false ∧
      on x whole (hosting 0x19 7 0 (at5 (reducing x 0))) ∧ (whole x).complete x.landed = true ∧
      (whole x).complete (x.onTime false false) = true) ∧
    (let x := { redStep with held := some 5 }
     let s := reducing x (2 * 2 ^ 16 + 64 * 2 ^ (8 * 20)) (openPage 0x19 7)
     s.takesWrites 0x19 7 ∧ s.unlocked 0x19 7 ∧ (s.atl 7).step.at 63 = some (part x) ∧
       (part x).steps.find? (fun x => !x.closed && x.held.isSome && x.closeAt.isNone) = some x ∧
       (part redStep).steps.find? (fun x => !x.closed && x.held.isSome && x.closeAt.isNone) = none) := by
  unfold State.takesWrites State.unlocked; decide +kernel

/-- Each half of the coding: a word that decodes, and a bundle that has a word. -/
theorem witness_BundleCoding :
    (decodeBundle 0).isSome = true ∧ (decodeBundle (2 ^ 1024 - 1)).isSome = false ∧
    (match decodeBundle 0 with
     | some b => b.a.isNone && b.b.isNone && b.main.isNone && b.row == feedFields 0 && b.cove == coveFields 0 && b.word == 0
     | none => false) = true := by decide +kernel

theorem witness_PlanEntries :
    (let s := readyState.setFld (F.HBR_QSTAT_TAIL 127) 1
     s.entryMay 7 = true ∧ s.dueQueue 7 = some 15 ∧
       (s.devRead (s.entryAddr 127 (s.fld (F.HBR_QSTAT_HEAD 127))) 64).isSome = true) ∧
    s0.entryMay 7 = false ∧ readyState.dueQueue 7 = none ∧ (s0.atl 7).seq.entry = none ∧
    (let s (n : Nat) (w : BitVec 1024) : State :=
       s0.onSeq 7 fun q => { q with entry := some (0, 0), r := { pc := 128 * n }, istore := [(32767, w)] }
     let q (n : Nat) (w : BitVec 1024) : SeqSt := ((s n w).atl 7).seq
     (q 32768 0).entry ≠ none ∧ (q 32768 0).run = none ∧ 32768 ≤ (q 32768 0).r.pc / 128 ∧
       (q 32767 0).r.pc / 128 < 32768 ∧
       decodeBundle ((q 32767 (BitVec.allOnes 1024)).bundleAt 32767) = none ∧
       (match decodeBundle ((q 32767 0).bundleAt 32767) with
        | some b => (s 32767 0).bundleCode 7 (q 32767 0).r b == 0 && b.ctl == .nop && b.a.isNone && b.b.isNone && !b.units
        | none => false) = true ∧ (q 32767 0).r.lstack = []) ∧
    (let s := s0.onAtl 7 fun a => { a with hold := [[1]] }
     (s.atl 7).hold = [1] :: [] ∧ s.ringRoom 7 = true ∧
       (s.setFld (F.HBR_CR_TAIL_TAIL 7) (2 ^ s.fld (F.HBR_CR_SIZE_LOG2 7))).ringRoom 7 = false) ∧
    (let q := ((s0.onSeq 7 fun q => { q with iload := some (0, 0, 1) }).atl 7).seq
     q.iload = some (0, 0, 1) ∧ q.entry = none) := by decide +kernel

def feed (en : Bool) : FeedSlot := ⟨en, 0, 2, 0, 0, 0, 0, 0, 0⟩
def noCove : CoveSlot := ⟨false, false, 0, 0, false, 0, 0, 0, 0⟩
def aslot (n : BitVec 10) (ferry : BitVec 2) : ArraySlot := ⟨2, 2, 0, 0, n, false, false, 1, ferry, 0, 0⟩
def args (n : BitVec 10 := 0) (ferry : BitVec 2 := 0) (en : Bool := true) : ArrayArgs := ⟨aslot n ferry, feed en, feed en, noCove⟩

/-- Each operation accepted, made to wait for its ferried region, and refused without feeders. -/
theorem witness_ArrayOperations :
    s0.running 0 = false ∧ (runs).running 0 = true ∧
    ∀ op ∈ [0, 1, 2, 3, 4, 5, 6], let r := ((runs).atl 0).seq.r
      ((runs).arrBad 0 r op (args 1023)).isNone = true ∧ (runs).arrStalls 0 (mkOp op (args 1023) r.sv) = false ∧
      ((runs).arrBad 0 r op (args 0 0 false)).isSome = true ∧
      (let s := (runs).onArr 0 fun m => { m with queue := List.replicate 4 (mkOp 0 (args) r.sv) }
       (s.arrBad 0 r op (args)).isNone = true ∧ s.arrStalls 0 (mkOp op (args) r.sv) = true) := by decide +kernel

/-- An operation of 100 steps at the head of atoll 0's queue, of which its two feeders have had `n`. -/
def feeding (op n : Nat) (c : BitVec 10) : State :=
  let o : ArrOp := mkOp op { args c with a := { aslot c 0 with k := 24 } } fun _ => 0
  let o := { o with len := 100, clk := n - 64, started := true, fed := [(0, n), (1024, n), (2047, n)] }
  s0.onArr 0 fun m => { m with queue := [o] }

theorem witness_ArrayRuns_feeders :
    ([0, 36, 99].all fun n =>
      let s := feeding 0 n 1023
      let m := (s.atl 0).arr
      let key := feederKey true 1023
      match m.queue.zipIdx.find? fun z => z.1.feeders.contains key &&
          decide (SMap.get (fun _ => 0) z.1.fed key < z.1.total) with
      | some (o, i) =>
        let t0 := SMap.get (fun _ => 0) o.fed key
        let t1 := min (t0 + 64) o.total
        let p := o.side true
        let e := o.stepElems o.rate (min t0 o.len) (min t1 o.len)
        let l := p.reads (o.fmt true) 1023 e.1 e.2 (p.slot.kstart.toNat + o.klen) []
        let pends (s : State) : Bool := l.any fun z => (s.atl 0).strm.pends z.1 z.2
        let errs (s : State) : Bool := l.any fun z => s.lagErr 0 z.1 z.2
        let early := s.onStrm 0 fun m => { m with streams := [{ stream0 with lines := l.map fun z => z.1 / 128 }] }
        let bad := s.onStrm 0 fun m => { m with lagBad := l.map fun z => z.1 / 8 }
        i == 0 && t0 == n && m.occupancy key ≤ 64 && !s.sideAwaits 0 p (o.fmt true) && !pends s && !errs s && pends early &&
          !pends bad && errs bad
      | none => false) = true := by decide +kernel

theorem witness_ArrayRuns :
    (∀ op ∈ [0, 6], (match ((feeding op 100 0).atl 0).arr.queue with
      | o :: _ => o.op == op && o.total ≤ o.ready && !((feeding op 100 0).atl 0).arr.owed [] o && !o.filed
      | [] => false) = true) ∧
    (match ((feeding 0 99 0).atl 0).arr.queue with | o :: _ => decide (o.ready < o.total) | [] => false) = true ∧
    (∀ n ∈ [0, 1, 2], let s := (s0.setFld (F.FEED_FERRY_ROLE 7) n).setFld (F.FEED_FERRY_SRC_PEER 7) 0
      s.fld (F.FEED_FERRY_ROLE 7) = n ∧ s.flag (F.FEED_FERRY_SRC_PEER 7) = false ∧ (s.atl 7).strm.lagBad = [] ∧
      (s.setFld (F.FEED_FERRY_SRC_PEER 7) 1).flag (F.FEED_FERRY_SRC_PEER 7) = true ∧
      ∀ x ∈ [4096, 4097], let r : FerryOut := ⟨[(0, x), (8192, 1)], 0, 0⟩
        ((s.onArr 7 fun m => { m with ferryOut := [r] }).atl 7).arr.ferryOut = r :: [] ∧ r.ranges = (0, x) :: [(8192, 1)]) ∧
    (let v : StraitIn := ⟨0, 15, ⟨true, true, false, 0, 0, 0⟩⟩
     let n := max 1 (((List.replicate 4096 (0 : Byte)).length + 255) / 256)
     (s0.seqIn (bport v.port) v.peer.toNat v.t n).1 = false ∧
       ((bundled up).seqIn (bport v.port) v.peer.toNat v.t n).1 = true) ∧
    ((s0.onArr 7 fun m => { m with testRun := true }).atl 7).arr.testRun = true ∧ (s0.atl 7).arr.testRun = false ∧
    s0.qAwaits 7 65536 = false ∧
    (let q : State := (s0.onStrm 7 fun m => { m with tlb := [(3, vaTag 3 65536, (7 * atollSpan / 65536 * 65536) + 13)] }).onVec 7
       fun v => { v with qcache := [⟨65536, Qd.setAwait 0 true, false, 0⟩] }
     ∀ w ∈ [0, 2 ^ 22], let s := (q.devWrite (7 * atollSpan) (bytesOf 8 w)).1
       s.qAwaits 7 65536 = true ∧ Qd.await (s.vFree 7 65536 8).1 = decide (w ≠ 0)) := by decide +kernel

/-- An operation whose steps are all in holds back while it meets a group that another has still to read (R116). -/
theorem witness_ArrayRuns_owed :
    (let s := (feeding 0 100 0).onArr 0 fun m => { m with
       bank0 := ⟨.released, 1, 1, [], some 0⟩, queue := m.queue.map fun o => { o with clk := 0 } }
     let m := (s.atl 0).arr
     match m.queue with
     | o :: _ => o.total ≤ o.ready && !m.gone o && m.owed [] o
     | [] => false) = true := by decide +kernel

def vop0 : VOp :=
  ⟨0, 0, false, 0, 0, 0, 0, 0, 0, 0, 0, 0, 0, 0, 0, 0, 0, false, false, false, false, false, false, false, false, 0⟩

theorem witness_VectorArithmetic :
    let o := { vop0 with fmt := 2, hi := true, cnt := 4095 }
    (runs).running 0 = true ∧ o.fmt = 2 ∧ vop0.fmt = 0 ∧ o.ext = 0 ∧ vop0.hi = false := by decide +kernel

theorem witness_VectorWrites :
    let o := { vop0 with fmt := 2, hi := true, cnt := 4095 }
    4095 < 4096 ∧ o.bf = true ∧ 31 ≠ o.vd.toNat ∧ (1 : Atoll) ≠ 0 := by decide

/-- Atoll 0 runs; s1 names a Q-descriptor of format `q`, in a page that its cache maps; a table pair is held and there is a
stream record. -/
def vectors (q : Nat) : State :=
  let s := s0.onStrm 0 fun m => { m with tlb := [(3, vaTag 3 65536, 13)] }
  let s := (s.devWrite 0 (bytesOf 128 q)).1
  let s := s.setFld (F.VEC_GCG_COUNT 0) 1
  let s := s.onVec 0 fun v => { v with tab := [(0, some ⟨0, 0, 0, [], [], [], []⟩)] }
  regs0 { s := [(1, 65536)] } (runs slice0 s)

/-- The operation is accepted on atoll 0. -/
def taken (op : Nat) (o : VOp) (s : State := vectors 0) : Bool :=
  s.running 0 && (s.vecBad 0 (s.atl 0).seq.r op o).isNone && !s.vecStalls 0 (s.atl 0).seq.r op o

theorem witness_VectorMoves :
    ((∀ n ∈ [0, 1, 2, 3, 4, 5, 6], taken 0x10 { vop0 with sub := BitVec.ofNat 4 n } = true) ∧
     (∀ n ∈ [0, 1, 2, 3, 4, 5], taken 0x12 { vop0 with sub := BitVec.ofNat 4 n } = true) ∧
     (∀ op ∈ [0x18, 0x19, 0x34, 0x35, 0x40, 0x41, 0x42], taken op { vop0 with cnt := 4095 } = true)) ∧
    (∀ n ∈ [0, 1, 2, 3], let o := { vop0 with sub := BitVec.ofNat 4 n, cnt := 4095 }
      taken 0x20 o = true ∧ taken 0x21 o = true ∧ o.sb = 0 ∧ (vectors 0).lagErr 0 0 o.lagSize = false ∧
        ((vectors 0).atl 0).strm.lagBad = []) ∧
    (let o := { vop0 with sb := 1 }
     taken 0x21 o = true ∧ o.sb ≠ 0) ∧ (vectors 0).lagErr 0 0 8256 = false := by decide +kernel

theorem witness_AccumulatorFinished :
    (runs).running 0 = true ∧ vop0.hi = false ∧ vop0.ext = 0 ∧ ({ vop0 with sd := 63 }).sd ≠ 0 ∧
    ({ vop0 with clr := true }).clr = true := by decide +kernel

theorem witness_VectorSums :
    (∀ n ∈ [0, 1, 2, 3, 4, 5], taken 0x28 { vop0 with sub := BitVec.ofNat 4 n } = true) ∧
    (∀ op ∈ [0x2A, 0x30, 0x38, 0x39, 0x48, 0x4C], taken op { vop0 with cnt := 4095 } = true) ∧
    (let o := { vop0 with incl := true }
     taken 0x30 o = true ∧ o.sub = 0 ∧ o.rev = false ∧ o.carry = false ∧
       ∀ e : Nat, e < o.n → ((vectors 0).atl 0).seq.r.pred o.ps.toNat e = false) ∧
    ((vectors 0).atl 0).seq.slice = some slice0 ∧
    (∀ op ∈ [0x50, 0x51], (List.range 16).any (fun q => taken op { vop0 with sb := 1 } (vectors q)) = true) ∧
    taken 0x58 vop0 = true ∧ taken 0x58 { vop0 with sub := 1 } = true ∧
    (vectors 0).updErr 0 ((vectors 0).atl 0).seq.r vop0 = false ∧ (vectors 0).lagErr 0 0 128 = false ∧
    (let d : DrainOp := ⟨false, 255, 0, 0, 3, false, false, false, false, 0, false, 0, 0, 0⟩
     let b := ((vectors 0).atl 0).arr.bank false
     ((vectors 0).drainBad 0 d).isNone = true ∧ (vectors 0).drainStalls 0 ((vectors 0).atl 0).seq.r d = false ∧ d.cnt = 255 ∧
       d.interp = 3 ∧ 0 < b.groups) := by decide +kernel

theorem witness_PointsWithinATide :
    let low := s0.setFld F.PWR_STAT_VIN_LOW 1
    let pt (u : State) (j : Atoll) : Nat := u.fld (F.PWR_ATL_SET_PT j)
    s0.flag F.PWR_STAT_VIN_LOW = false ∧ low.flag F.PWR_STAT_VIN_LOW = true ∧ s0.fld F.PWR_CAP_WATTS < 4501 ∧
    4500 ≤ s0.fld F.PWR_CAP_WATTS ∧
    (let s := (s0.setFld (F.PWR_ATL_SET_PT 7) 3).onPwr 7 fun p => { p with base := ⟨1, 1⟩ }
     (s.highest (s.serving.map fun j => (j, (s.atl j).pwr.base, pt s j))).isSome = true ∧
       s.flag F.PWR_STAT_VIN_LOW = false ∧ s.fld F.PWR_CAP_WATTS < 4501) ∧
    low.fld F.PWR_CAP_WATTS < 4501 ∧ (47500 : Nat) ≤ 47500 ∧ (47499 : Nat) < 47500 ∧
    (1599 : Int) < 16 * (s0.fld F.THERM_LIM_THROTTLE : Int) ∧ 16 * (s0.fld F.THERM_LIM_THROTTLE : Int) ≤ (1600 : Int) ∧
    (1839 : Int) < 1840 ∧ (s0.fld F.THERM_STAT_TRIPPED).testBit 7 = false ∧
    ((s0.setFld F.THERM_STAT_TRIPPED 128).fld F.THERM_STAT_TRIPPED).testBit 7 = true := by decide +kernel

theorem witness_CoolantStops :
    let thr : Int := s0.fld F.THERM_LIM_STACK_THR
    let s := s0.setFld F.THERM_STAT_COOLANT_STOP 1
    let h := { s0 with pwr := { s0.pwr with hot := [47] } }
    s0.pwr.hot.contains 47 = false ∧ h.pwr.hot.contains 47 = true ∧ thr * 16 ≤ 1520 ∧ (1519 : Int) < thr * 16 ∧
    (1471 : Int) < (thr - 3) * 16 ∧ (thr - 3) * 16 ≤ 1472 ∧ s.flag F.THERM_STAT_COOLANT_STOP = true ∧
    s0.flag F.THERM_STAT_COOLANT_STOP = false ∧ (s0.setFld F.RST_BRING_STAGE 3).fld F.RST_BRING_STAGE < 4 ∧
    4 ≤ (s0.setFld F.RST_BRING_STAGE 4).fld F.RST_BRING_STAGE ∧
    (s0.setFld F.RST_BRING_STAGE 4).flag F.THERM_STAT_COOLANT_STOP = false := by decide +kernel

theorem witness_ResetDuringBringUp :
    s0.rst.power = true ∧ s0.rst.asserted = false ∧ (1000 : Nat) ≤ 1000 ∧
    ({ s0 with rst := { s0.rst with wdog := true } }).rst.wdog = true ∧ (openPage 6 0).takesWrites 0x06 0 ∧
    (openPage 6 0).unlocked 0x06 0 ∧ (s0.setFld F.THERM_STAT_COOLANT_STOP 1).flag F.THERM_STAT_COOLANT_STOP = true ∧
    (let s := (s0.setFld F.RST_BRING_STAGE 3).setFld F.THERM_STAT_COOL_OK 0
     s.fld F.RST_BRING_STAGE = 3 ∧ s.fld F.HOLM_STATE_STATE = 0 ∧ s.flag F.RST_BRING_FAILED = false ∧
       s.flag F.THERM_STAT_COOL_OK = false) := by
  unfold State.takesWrites State.unlocked; decide +kernel

def stageOk : StageOutcome := ⟨true, [], 0, true, 0, false, [], []⟩

/-- Each stage can complete; stage 9 after eight mark points and not after seven; a strap ratio in slot 0's range. -/
theorem witness_BringUpStages :
    let s (n : Nat) : State :=
      let u := (s0.setFld F.RST_BRING_STAGE n).setFld F.THERM_STAT_COOL_OK 1
      { u with rst := { u.rst with marks := 8 } }
    (∀ n ∈ [1, 2, 3, 4, 5, 6, 7, 8, 9], max 1 ((s n).fld F.RST_BRING_STAGE) = n ∧ (s n).rst.power = true ∧
      (s n).rst.asserted = false ∧ (s n).flag F.RST_BRING_FAILED = false ∧ (s n).fld F.HOLM_STATE_STATE = 0 ∧
      8 ≤ (s n).rst.marks ∧ (s n).flag F.THERM_STAT_COOL_OK = true ∧
      (s n).badImage stageOk.badImage (stageImages n) = none ∧ (s n).beyondRepair = false) ∧
    stageOk.done = true ∧ stageOk.fatal = false ∧ ({ stageOk with done := false }).done = false ∧
    (s 2).badImage 1 (stageImages 2) = some 1 ∧ (s 1).fld F.RST_CAUSE_WDOG_RUN ≠ 3 ∧
    ¬ 8 ≤ ({ s 9 with rst := { (s 9).rst with marks := 7 } }).rst.marks ∧
    (∀ r ∈ [114, 3754], 4096 ≤ 36 * r ∧ 36 * r < 33 * 4096) := by decide +kernel

theorem witness_ManagementTarget :
    (0x3A : BitVec 7).toNat = s0.fld F.MGMT_ADDR_STATIC ∧ (0 : BitVec 7).toNat ≠ s0.fld F.MGMT_ADDR_STATIC ∧
    s0.rst.power = true ∧ s0.rst.asserted = false ∧ accessOk s0.rst.i3cOff 4 = true ∧ pageListed s0.rst.i3cOff = true ∧
    (List.replicate 48 (7 : BitVec 16))[47]? = some 7 := by decide +kernel

/-! ### Witnesses of the remaining clauses -/

/-- An LDL of a pending line, and of a bad word; CMP with a condition that is none. -/
theorem witness_ScalarOthers_waits :
    6 ≤ (6 : BitVec 3).toNat ∧ (8 : Nat) % 8 = 0 ∧ s0.inProgram 0 8 8 = true ∧ (4 : Nat) % 8 ≠ 0 ∧
    ((s0.onStrm 0 fun m => { m with streams := [{ stream0 with lines := [0] }] }).atl 0).strm.pends 8 8 = true ∧
    (s0.onStrm 0 fun m => { m with lagBad := [1] }).lagErr 0 8 8 = true ∧
    ∀ n ∈ [3, 4, 7, 8, 9, 10], (BitVec.ofNat 64 n).toNat % 256 = n := by decide +kernel

theorem witness_ControlFlow_full :
    let r : SeqRegs := { rstack := List.replicate 32 0, lstack := List.replicate 4 ⟨0, 9, 2, 0, 0⟩, p := [(7, 1)] }
    32 ≤ r.rstack.length ∧ r.rstack = 0 :: List.replicate 31 0 ∧ (0 : BitVec 15).toNat ≤ r.pc / 128 ∧
    (0 < r.count 32 (CountOf.lit (w := 24) 1) ∧ 4 ≤ r.lstack.length) ∧ r.pred 7 0 = true ∧ r.pred 0 0 = false ∧
    (runs).running 0 = true ∧ ((runs).atl 0).seq.r.rstack = [] := by decide +kernel

theorem witness_SliceSlots_waits :
    (let x := { slice0 with qcloses := (List.range 16).map fun i => 128 * (i + 1) }
     ((runs x).atl 0).seq.slice = some x ∧ ((runs x).atl 0).seq.r.sv 0 ∉ x.qcloses ∧ 16 ≤ x.qcloses.length) ∧
    (let x := { slice0 with qcloses := [0] }
     ((runs x).atl 0).seq.r.sv 0 ∈ x.qcloses) ∧
    s0.running 0 = false ∧ ((runs).atl 0).arr.busy = false ∧ slice0.publish = none ∧
    (let o : ArrOp := mkOp 0 ⟨⟨2, 2, 0, 0, 0, false, false, 1, 0, 0, 0⟩, ⟨true, 0, 2, 0, 0, 0, 0, 0, 0⟩,
       ⟨true, 0, 2, 0, 0, 0, 0, 0, 0⟩, ⟨false, false, 0, 0, false, 0, 0, 0, 0⟩⟩ fun _ => 0
     let s := (runs).onArr 0 fun m => { m with queue := [o] }
     s.running 0 = true ∧ (s.atl 0).seq.slice = some slice0 ∧ (s.atl 0).arr.busy = true) := by decide +kernel

/-- The fit test fails at the mark point, and past phase 0 for want of clocks; another slice runs. -/
theorem witness_SliceOpens_waits :
    let s (n : Nat) : State := (tides readyState).onTide fun t => { t with phase := n }
    ((s 0).startHeld 0 = false ∧ (s 0).tide.phase < (s 0).markPoint) ∧
    ((s 12375).startHeld 0 = false ∧ (s 12375).markPoint ≤ (s 12375).tide.phase) ∧
    ((s 1).startHeld 0 = false ∧ (s 1).clocksLeft 0 < (BitVec.allOnes 26).toNat ∧ (s 1).tide.phase ≠ 0) ∧
    (runs).running 0 = true ∧ ((runs).atl 0).seq.passed = false := by decide +kernel

theorem witness_HeaderWrites_refused :
    (openPage 0x10 0 (runs)).unlocked 0x10 0 ∧ (openPage 0x10 0 (runs)).blockIdle 0x10 0 = false ∧
    (boundAt 168 3 tkOpen).boundTo 168 ≠ none := by
  unfold State.unlocked; decide +kernel

theorem witness_AtollWindowCommands_refused :
    (let s := openPage 0x10 7 ((s0.setFld (F.ATL_ILOAD_FIRST 7) 32767).setFld (F.ATL_ILOAD_COUNT 7) 1)
     32768 < s.fld (F.ATL_ILOAD_FIRST 7) + (s.fld (F.ATL_ILOAD_COUNT 7) + 1)) ∧
    768 ≤ (768 : BitVec 10).toNat ∧
    ((s0.onMc 7 fun m => { m with chans := [(0, { ChSt.ok with state := .ebb })] }).chan 7 0).state = .ebb ∧
    (s0.atl 7).mc.pend = [] ∧ ((s0.atl 7).strm.fltAt 15).state ≠ .waitHost ∧ s0.heldFor 7 15 = none := by
  decide +kernel

/-- Every channel carries runs of another. -/
theorem witness_AtollWindowCommands_unhosted :
    (s0.onMc 7 fun m => { m with maps := [⟨0, false, List.range 768⟩] }).hostsFor 7 0 = none := by
  have h : ((s0.onMc 7 fun m => { m with maps := [⟨0, false, List.range 768⟩] }).atl 7).mc.hosting = List.range 768 := by
    decide +kernel
  simp only [State.hostsFor, h]
  rw [List.filter_eq_nil_iff.mpr fun c hc => by simp [List.mem_range.mp hc]]
  exact if_neg (by split <;> simp)

theorem witness_CheckpointCommands_idle :
    s0.hosted 0x09 0 0 = false ∧ s0.layer 4 ≠ 1 ∧ s0.ckpt.restore = none ∧ (restoring restore0).ckpt.restore.isSome = true := by
  decide +kernel

/-- A load in operation and in the recovery firmware (R436, R437). -/
theorem witness_TrustWindowCommands_load :
    s0.flag F.HBR_PCIE_UP = false ∧ (s0.setFld F.HBR_PCIE_UP 1).flag F.HBR_PCIE_UP = true ∧
    s0.fld F.HOLM_STATE_STATE ≠ 2 ∧ (s0.setFld F.HOLM_STATE_STATE 2).fld F.HOLM_STATE_STATE = 2 ∧
    s0.rst.recv = none ∧ (s0.setFld F.SEC_STAT_ID_OK 0).flag F.SEC_STAT_ID_OK = false := by decide +kernel

theorem witness_SlackComes_first : (tides s0).tide.running = true ∧ (tides s0).tide.sent = 0 := by decide +kernel

theorem witness_AtomReadsBack_held :
    let s := s0.onMc 0 fun m => { m with chans := [(0, { ChSt.ok with state := .retrain })] }
    s.stacked 0 = true ∧ s.holds (s.place 0) true = true ∧ s.holds (s.place 0) false = true ∧ MemClass.write ≠ .skiff := by
  decide +kernel

theorem witness_SkiffHolds_held :
    let s := (merging [(7 * atollSpan / 128, [(0, 1)])]).onMc 7 fun m => { m with chans := [(0, { ChSt.ok with state := .retrain })] }
    (∀ e ∈ (s.atl 7).strm.merge, s.holds (s.place (e.1 * 128)) true = true) ∧
    (let t := merging [(7 * atollSpan / 128, (List.range 128).map fun i => (i, 1))]
     ∀ e ∈ (t.atl 7).strm.merge, 128 ≤ e.2.length ∧ t.holds (t.place (e.1 * 128)) true = false) := by decide +kernel

theorem witness_StackUpkeep_scrub :
    let due := (SMap.find (s0.atl 7).mc.scrubAt 767).elim s0.now fun t => t + s0.fld (F.MC_SCRUB_PERIOD 7)
    (match s0.runTo due with
     | some u => !u.holds (placeOf 7 767 0) false && decide (crcFails ⟨[], []⟩ [] < 4) && (u.chan 7 767).state == .ok
     | none => false) = true ∧
    ((tides s0).onTide fun t => { t with phase := 12501 }).runTo 0 = none ∧
    ({ ebb0 with left := 0 }).left = 0 ∧ ({ s0 with ckpt := { s0.ckpt with stop := some ⟨0, 0, 0⟩ } }).ckpt.stop ≠ none := by
  decide +kernel

theorem witness_StreamsMove_none :
    (s0.onSeq 0 fun q => { q with run := none }).flag (F.XLAT_STAT_INV_DONE 7) = true ∧ s0.fltStream 7 15 = none ∧
    (s0.atl 7).seq.run = none := by decide +kernel

theorem witness_SoundMoves_none :
    s0.ctxExists 0xFFFFF = false ∧ (ctx Cx.opened {} linked).nextPacket 0xFFFFF Cx.opened = none ∧
    (drrTurn (s0.waitingRx 1) (s0.port 1).drrIn (s0.port 1).shareRx (s0.fld (F.SND_RESV_SHARE 1)) 0xFFFFF) = none ∧
    (let w := Cx.opened + 13 * 2 ^ (8 * 90)
     let s := ctx w { unacked := [⟨0, 0, 0, 1, 0⟩] } linked
     let u := (s.ctxGet 0xFFFFF).2
     let due := (s.sound.of 0xFFFFF).ackAt + s.fld (F.SND_RTO_CYCLES (s.ctxPort w))
     (match u.runTo due with
      | some v => decide (Cx.retries w + 1 < v.fld (F.SND_RETRY_MAX (s.ctxPort w)))
      | none => false) = true ∧
     ((tides u).onTide fun t => { t with phase := 12500 }).runTo due = none) ∧
    Cx.credit Cx.opened = 0 ∧ Cx.isOpen Cx.closed = false := by decide +kernel

theorem witness_MessageSlots_full :
    let x := { slice0 with defers := List.replicate 256 ⟨true, 0, 0⟩ }
    ((runs x).atl 0).seq.slice = some x ∧ 256 ≤ x.defers.length ∧ (runs x).running 0 = true := by decide +kernel

/-- A record that is held after its ring was closed. -/
theorem witness_PlanEntries_records :
    let s (n : Nat) : State := (s0.onAtl 7 fun a => { a with hold := [[1]] }).setFld (F.HBR_CR_SIZE_EN 7) n
    (s 0).fld (F.HBR_CR_SIZE_EN 7) = 0 ∧ (s 1).fld (F.HBR_CR_SIZE_EN 7) ≠ 0 ∧ (s 1).ringRoom 7 = true ∧
    ((s 1).setFld (F.HBR_CR_TAIL_TAIL 7) (2 ^ (s 1).fld (F.HBR_CR_SIZE_LOG2 7))).ringRoom 7 = false ∧
    (s0.atl 7).seq.acted = none ∧ (s0.atl 7).seq.iload = none ∧ (s0.atl 7).hold = [] := by decide +kernel

theorem witness_VectorArithmetic_refused :
    ({ vop0 with ext := 1 }).ext ≠ 0 ∧ ¬ ((vop0.fmt = 0 ∨ vop0.fmt = 2) ∧ ({ vop0 with hi := true }).hi = true → vop0.fmt = 2) ∧
    s0.running 0 = false := by decide +kernel

/-- A bad word in what an operation reads, and a group that a VDRAIN can read in its first cells. -/
theorem witness_VectorSums_reads :
    (let s := (vectors 0).onStrm 0 fun m => { m with lagBad := [8192] }
     s.lagErr 0 (((vectors 0).atl 0).seq.r.sv 1) 128 = true ∧
     s.updErr 0 (s.atl 0).seq.r { vop0 with sa := 1 } = true ∧ s.lagErr 0 65536 { vop0 with sb := 0 }.lagSize = true ∧
     s.lagErr 0 65536 8256 = true) ∧
    (let m := ((vectors 0).atl 0).arr
     0 < (m.region false).groups ∧ ((vectors 0).atl 0).vec.drained = none ∧ m.group false 0 = .readable 0 []) := by
  decide +kernel

theorem witness_PointsWithinATide_lowest :
    (let s := s0.each (List.finRange 8) fun s k => s.setFld (F.PWR_ATL_SET_PT k) 0
     (s.highest (s.serving.map fun j => (j, (s.atl j).pwr.base, s.fld (F.PWR_ATL_SET_PT j)))).isNone = true) ∧
    (let pt (n : Nat) : State := s0.setFld (F.PWR_ATL_SET_PT 7) n
     (pt 3).inService 7 = true ∧ (pt 3).fld (F.PWR_ATL_SET_PT 7) = 3 ∧ (pt 0).fld (F.PWR_ATL_SET_PT 7) = 0 ∧
       (pt 15).fld (F.PWR_ATL_SET_PT 7) = 15 ∧ (s0.setFld F.HOLM_ATOLLS_IN_SERVICE 127).inService 7 = false) ∧
    (s0.setFld F.PWR_STAT_VIN_LOW 1).flag F.PWR_STAT_VIN_LOW = true ∧ 1840 ≤ (1840 : Int) := by decide +kernel

theorem witness_ManagementTarget_refused :
    let at' (n : Nat) : State := { s0 with rst := { s0.rst with i3cOff := n } }
    ({ s0 with rst := { s0.rst with power := false } }).rst.power = false ∧
    accessOk (at' 2).rst.i3cOff 4 = false ∧ accessOk (at' 0x3F00000).rst.i3cOff 4 = true ∧
    pageListed (at' 0x3F00000).rst.i3cOff = false ∧ ([0, 0, 0, 0] : List Byte).length = 4 ∧
    (List.replicate 8 (0 : Byte)).length = 8 ∧ ([] : List Byte).length ≠ 4 := by decide +kernel

/-! ### What a command needs of its operands -/

/-- Each check of well-formedness refuses a term. -/
theorem test_ill_formed :
    ([.registerWrite .harbour 2 false 0, .stagedWrite .harbour 0 0x11 false 0, .atomRead 64 .read ⟨[], []⟩,
      .atomRead 0 .read ⟨[(136, 1)], []⟩, .atomRead 0 .read ⟨[], [⟨[(64, 0)], 0⟩]⟩, .atomRead 0 .read ⟨[], [⟨[(0, 17)], 0⟩]⟩,
      .atomWrite 127 .skiff ⟨[], []⟩ [1, 2], .atomWrite 0 .write ⟨[], []⟩ [],
      .atomWrite 0 .write ⟨[(136, 1)], []⟩ [1], .scrubRead 0 0 ⟨[(136, 1)], []⟩, .ebbCopy 0 [⟨[(136, 1)], []⟩],
      .ferryPiece 0 none 0 0 0 false (List.replicate 4097 0),
      .prepare ⟨0, 0, trailer true true 0⟩ ⟨0, 0, 0⟩ 1 1 [⟨0, 0, 0, 0⟩],
      .dataFlit 0 0 (trailer true true 0) (List.replicate 257 0), .soundData 0 hdr0 (List.replicate 4097 0) 0] :
      List Instr).all (fun i => !i.wf) = true := by decide +kernel

theorem test_well_formed :
    ([.registerWrite .harbour 4 false 0, .stagedWrite .harbour 0 0x10 false 0, .atomRead 128 .read ⟨[(135, 1)], []⟩,
      .atomRead 128 .read ⟨[], [⟨[(63, 16)], 0⟩]⟩, .atomWrite 127 .skiff ⟨[], []⟩ [1],
      .ferryPiece 0 none 0 0 0 false (List.replicate 4096 0),
      .prepare ⟨0, 0, trailer true true 0⟩ ⟨0, 0, 0⟩ 1 0 [⟨0, 0, 0, 0⟩],
      .dataFlit 0 0 (trailer true true 0) (List.replicate 256 0),
      .soundData 0 hdr0 (List.replicate 4096 0) 0, .nop 0] : List Instr).all Instr.wf = true := by decide +kernel

/-! ### The spec's worked examples -/

/-- What `p` finds after command `c`. -/
def after (c : Instr) (s : State) (p : State → Bool) : Bool :=
  match exec c s with
  | .next t => p t
  | _ => false

/-- 04_harbour.md, a doorbell at the edge of a full queue: T = 4,094 is accepted, and then 4,095 is not. -/
theorem test_doorbell :
    let s := (s0.setFld (F.HBR_QSTAT_HEAD 37) 8190).setFld (F.HBR_QSTAT_TAIL 37) 2
    after (.doorbell 0 37 true true 4094) s (fun t => t.fld (F.HBR_QSTAT_TAIL 37) == 4094 && !t.flag (F.HBR_QSTAT_REJ 37)) = true ∧
    after (.doorbell 0 37 true true 4095) (s.setFld (F.HBR_QSTAT_TAIL 37) 4094)
      (fun t => t.fld (F.HBR_QSTAT_TAIL 37) == 4094 && t.flag (F.HBR_QSTAT_REJ 37)) = true := by decide +kernel

/-- 09_reefcode.md, encoding one SLICE: a budget of 259,073 clocks, phase tag 0x123. -/
theorem test_slice_word :
    (decodeBundle 0x4002_4601_FA00_8000).map Bundle.ctl = some (.slice 0x123 (.lit 259073)) := by decide +kernel

/-- 11_shoal_memory.md, one address, and where a map-out of its channel puts it. -/
theorem test_address :
    interleave 1000000000 = (336, 0x13_DE00) ∧
    (let s := s0.onMc 3 fun m => { m with maps := [⟨336, false, List.range 63⟩] }
     s.place (3 * atollSpan + 1000000000) = placeOf 3 0 0xFD3_DE00) := by decide +kernel

/-- 02_tide.md, a stalled slice at the default tide: clocks left at phase 300 with the clock at 2.1 GHz. -/
theorem test_clocks_left : ((s0.setFld (F.PWR_ATL_SET_PT 0) 14).onTide fun t => { t with phase := 300 }).clocksLeft 0 = 253575 := by
  decide +kernel

/-- 18_bringup.md, the strap of slot 9: r = 12,500 / 22,500. -/
theorem test_strap :
    after (.bringupStage { stageOk with strap := 2276 }) s0 (fun t =>
      t.fld F.HOLM_SLOT_READING == 0 && t.fld F.HOLM_SLOT_SLOT == 9) = true := by decide +kernel

/-- A 1 × 1 operation whose feeders have fetched everything, with format `f`, codes `a` and `b`, scales `x`, INIT `c`. -/
def cellOp (f : BitVec 4) (a b : List Nat) (x : Option Nat) (c : Bool) : ArrOp :=
  let z := { (aslot 0 0) with fmtRow := f, fmtCol := f, k := BitVec.ofNat 16 (a.length - 1), cont := c }
  let codes (i : Nat) (l : List Nat) : SMap Nat := l.zipIdx.map fun y => (i * 65536 + y.2, y.1)
  { mkOp 0 { (args 0) with a := z } (fun _ => 0) with
    len := a.length, fed := [(0, a.length), (1024, a.length)], codes := codes 0 a ++ codes 1024 b
    scales := x.elim [] fun v => [(0, v), (1024 * 65536, v)] }

/-- The bank word that operation leaves, begun from word `w`. -/
def cellWord (o : ArrOp) (w : Word32) (n : Nat) : Bool :=
  after (.arrayOpEnd 0) (s0.onArr 0 fun m => { m with queue := [o], acc := [(0, w)] }) fun t =>
    (t.atl 0).arr.word false 0 0 == n && (t.atl 0).arr.queue.isEmpty

/-- 06_formats.md, worked vectors 1, 2, 4 and 5: per tensor, block-scaled, subnormal and NaN. -/
theorem test_cell_vectors :
    cellWord (cellOp 3 [0x7E, 0x18, 0x18, 0x18] [0x7E, 0x18, 0x18, 0x18] none false) 0 0x48440000 = true ∧
    cellWord (cellOp 5 [0x7E, 0x18, 0x18, 0x18] [0x7E, 0x18, 0x18, 0x18] (some 0x7F) false) 0 0x48440001 = true ∧
    cellWord (cellOp 2 [0x0080, 0x1A00] [0x3A80, 0x1A00] none false) 0 0x00002000 = true ∧
    cellWord (cellOp 4 [0x7C, 0x3C] [0, 0x3C] none false) 0 0x7FC00000 = true := by decide +kernel

/-- 06_formats.md, worked vector 3: CONTINUE. -/
theorem test_cell_continue :
    cellWord (cellOp 9 [2, 0, 2, 2] [2, 2, 2, 2] none true) 0x4B800000 0x4B800001 = true := by decide +kernel

/-- 08_vector.md, four segments of four: inputs in v0, mask in p1, segment starts in p2. -/
def segments4 : State :=
  let xs : List Nat := [0, 0, 0, 0, 0x7F800000, 0x40400000, 0x7F800000, 0x7FC00000, 0x3F800000, 0x40000000, 0x7FC00000, 0x40800000,
    0, 0xFF800000, 0, 0xFF800000]
  let s := runs.onVec 0 fun v => { v with v := xs.zipIdx.map fun y => (y.2, BitVec.ofNat 32 y.1) }
  regs0 { p := [(1, 0xF077), (2, 0x1111)] } s

def softOp : VOp := { vop0 with cnt := 15, pm := 1, ps := 2, vd := 1 }

def readsBack (l : List Nat) (t : State) : Bool := ((List.range 16).map fun e => (t.atl 0).vec.word 1 e) == l

theorem test_softmax :
    after (.vsoftmax 0 softOp) segments4 (fun t => t.fld (F.VEC_CNT_FULLMASK 0) == 1 &&
      readsBack [0x3EAAAAAB, 0x3EAAAAAB, 0x3EAAAAAB, 0, 0x3F000000, 0, 0x3F000000, 0, 0, 0, 0, 0, 0x3F000000, 0, 0x3F000000, 0] t)
      = true := by decide +kernel

theorem test_lse :
    after (.vlse 0 softOp) segments4 (readsBack (List.replicate 4 0x3F8C9F54 ++ List.replicate 4 0x7F800000 ++
      List.replicate 4 0xFF800000 ++ List.replicate 4 0x3F317218)) = true := by decide +kernel

/-- 16_checkpoint.md: ORIGIN 1,000 and DPS 3 at CURSOR 4,096 expect 13,288, and REALIGN sets a counter of 13,291 to it. -/
theorem test_realign :
    (let s := (mapped 65536).onStrm 0 fun m => { m with tlb := [(3, vaTag 3 589824, 13)] }
     let s := s.setFld F.CKPT_CURSOR_BASE_ADDR 131072
     let s := (s.devWrite (7 * atollSpan) (bytesOf 32 (13291 * 2 ^ 128 + 3 * 2 ^ 192))).1
     let s := (s.devWrite 0 (bytesOf 16 (4096 + 1000 * 2 ^ 64))).1
     let r := { restore0 with streams := [⟨7, 65536, 32, 0, 0xFFFFFFF7, false, 0⟩], realign := true }
     after .realign (openPage 9 0 (restoring r s)) fun t => t.devBytes (7 * atollSpan + 16) 8 == bytesOf 8 13288) = true := by
  decide +kernel

/-- 03_control_pages.md, a longer tide across a board: 25,000 cycles and 4 % give 8 quanta of grace. -/
theorem test_grace : ((s0.setFld F.TIDE_LEN_LEN 25000).setFld F.TIDE_GRACE_PCT 4).graceQuanta = 8 := by decide +kernel

/-- R72's catalogue has 56 rules, as COMMIT_RULE_COUNT says. -/
theorem test_catalogue : catalogue.length = s0.fld F.COMMIT_RULE_COUNT_COUNT := by decide +kernel

end Sys2Proof.Tests
end

section
/-! SUPPORT. Acknowledging the events of a page (03_control_pages.md R63, R64): where the addresses of the page header
lie in the window, what a harbour's write to a header register comes to, which sticky bits PG_EVT_ACK clears and what it
leaves, and how an event moves PG_EVT_SEQ on. -/

namespace Sys2Proof.Machine

/-! ### The addresses of a page (R58, R60, R98) -/

/-- The directory lists the instance it gives for an index. -/
theorem pageOfIx_listed : ∀ p : PageIx, (pageOfIx p).2 < classCount (pageOfIx p).1 := by decide +kernel

/-- An index of the directory is that of the class and instance it gives. -/
theorem pageIx_pageOfIx : ∀ p : PageIx, pageIx (pageOfIx p).1 (pageOfIx p).2 = p := by decide +kernel

/-- The HBR page is a single one. -/
theorem pageOfIx_hbr {p : PageIx} (h : (pageOfIx p).1 = 0x0B) : (pageOfIx p).2 = 0 := by
  have hlt := pageOfIx_listed p
  rw [h] at hlt
  exact Nat.lt_one_iff.1 hlt

theorem classCount_le (c : Nat) : classCount c ≤ 48 := by
  unfold classCount
  split_ifs <;> omega

section
variable {c i o : Nat}

theorem classOf_pageBase (hi : i < 256) (ho : o < 0x1000) : classOf (pageBase c i + o) = c := by
  unfold classOf pageBase
  omega

theorem instOf_pageBase (hi : i < 256) (ho : o < 0x1000) : instOf (pageBase c i + o) = i := by
  unfold instOf pageBase
  omega

theorem pageOf_pageBase (ho : o < 0x1000) : pageOf (pageBase c i + o) = pageBase c i := by
  unfold pageOf pageBase
  omega

end

section
variable {p : PageIx} {o : Nat}

theorem pageOfIx_inst_lt (p : PageIx) : (pageOfIx p).2 < 256 := by
  have hlt := pageOfIx_listed p
  have hle := classCount_le (pageOfIx p).1
  omega

theorem classOf_pageAt (ho : o < 0x1000) : classOf (pageAt p + o) = (pageOfIx p).1 :=
  classOf_pageBase (pageOfIx_inst_lt p) ho

theorem instOf_pageAt (ho : o < 0x1000) : instOf (pageAt p + o) = (pageOfIx p).2 :=
  instOf_pageBase (pageOfIx_inst_lt p) ho

theorem pageOf_pageAt (ho : o < 0x1000) : pageOf (pageAt p + o) = pageAt p := pageOf_pageBase ho

/-- The offset in its page of a register of page `p`. -/
theorem pageAt_add_mod (ho : o < 0x1000) : (pageAt p + o) % 0x1000 = o := by
  unfold pageAt pageBase
  omega

theorem pageListed_pageAt (ho : o < 0x1000) : pageListed (pageAt p + o) = true := by
  have hc : (pageAt p + o) / 0x100000 = (pageOfIx p).1 := classOf_pageAt ho
  have hi : (pageAt p + o) % 0x100000 / 0x1000 = (pageOfIx p).2 := instOf_pageAt ho
  simp [pageListed, hc, hi, pageOfIx_listed p]

end

/-! ### A harbour's write to the header -/

/-- A write to a register of the page header comes to the register, also on a page whose atoll is out of service: R61
takes away only what lies beside the header. -/
theorem State.request_header {s : State} {p : PageIx} {o v : Nat} {d : RegDesc} (ho : o < 0x80) (hw : o % 4 = 0)
    (hh : regHit (pageAt p + o) = some (d, pageAt p + o)) (hp : s.rst.power = true) (ha : s.rst.asserted = false)
    (hr : p.val ∉ s.rst.srst) :
    s.request .harbour (pageAt p + o) 4 v = s.writeLive .harbour d (pageAt p + o) (2 ^ 32 - 1) (v % 2 ^ 32) := by
  have ho' : o < 0x1000 := by omega
  have hoff : (pageAt p + o) % 0x1000 = o := pageAt_add_mod ho'
  have hlive : pageAt p + o % 0x800 = pageAt p + o := by omega
  have hok : accessOk (pageAt p + o) 4 = true := by simp [accessOk]; omega
  have hrst : s.resetting (pageAt p + o) = false := by
    simpa [State.resetting, classOf_pageAt ho', instOf_pageAt ho', pageIx_pageOfIx] using hr
  simp [State.request, hp, ha, State.regWrite, hok, pageListed_pageAt ho', State.writeUnit, hrst, hoff, hlive, hh,
    show ¬ 0x80 ≤ o by omega, show ¬ 0x800 ≤ o by omega]

/-- PG_EVT_ACK: every bit is written, none is guarded. -/
def evtAckDesc : RegDesc :=
  ⟨0x02C, 0, 1, false, 0x0, 0xFFFFFFFF, 0x0, 0x0, 0x0, 0xFFFFFFFF, false, fun _ => 0x0⟩

theorem regAt_evtAck (c : Nat) : regAt c 0x2C = some evtAckDesc := rfl

/-- A register that begins at `a` is the one that holds `a`. -/
theorem regHit_of_regAt {a : Nat} {d : RegDesc} (h : regAt (a / 0x100000) (a % 0x1000) = some d) :
    regHit a = some (d, a) := by
  simp [regHit, h]

theorem regHit_evtAck (p : PageIx) : regHit (R.PG_EVT_ACK (pageAt p)) = some (evtAckDesc, R.PG_EVT_ACK (pageAt p)) :=
  regHit_of_regAt (by rw [pageAt_add_mod (by decide), regAt_evtAck])

/-- EVT_ACK is the acknowledgement of the whole value written. -/
theorem exec_evtAck_eq {s : State} {p : PageIx} {v : Word32} (hp : s.rst.power = true) (ha : s.rst.asserted = false)
    (hr : p.val ∉ s.rst.srst) : exec (.evtAck p v) s = .next (s.evtAck (R.PG_EVT_ACK (pageAt p)) v.toNat) := by
  have hoff : (pageAt p + 0x2C) % 0x1000 = 0x2C := pageAt_add_mod (by decide)
  have hv : v.toNat % 2 ^ 32 &&& (2 ^ 32 - 1) &&& evtAckDesc.wo = v.toNat := by
    have := v.isLt
    rw [show evtAckDesc.wo = 2 ^ 32 - 1 from rfl, Nat.and_two_pow_sub_one_eq_mod, Nat.and_two_pow_sub_one_eq_mod]
    omega
  have hfree : guarded evtAckDesc (2 ^ 32 - 1) (v.toNat % 2 ^ 32) = false := by simp [guarded, evtAckDesc]
  have hb : pageBase (pageOfIx p).1 (pageOfIx p).2 + 0x2C = pageAt p + 0x2C := rfl
  rw [exec_evtAck, execEvtAck, State.harbourWrites,
    State.request_header (by decide) (by decide) (regHit_evtAck p) hp ha hr, State.writeLive_free hfree (by decide), hv,
    hoff, classOf_pageAt (by decide), instOf_pageAt (by decide)]
  simp [State.writeRw, evtAckDesc, State.command, hb]

/-! ### The sticky bits of a page (R63) -/

section
variable {s : State} {c i a : Nat}

/-- Clear what PG_EVT_ACK clears in the header of the page at `b`, and keep the value `v` written. -/
def State.clearHeader (s : State) (b v : Nat) : State :=
  (((((s.setFld (F.PG_EVT_CAUSE_CAUSE b) 0).setFld (F.PG_STAGE_STAT_REFUSED b) 0).setFld
    (F.PG_LOCK_STAT_BADKEY b) 0).setFld (F.PG_SRST_REFUSED b) 0).setFld (F.PG_MODE_SPLIT_FELL b) 0).setFld
      (F.PG_EVT_ACK_SEQ b) v

/-- The sticky bits of the header at `b` are clear. -/
structure State.HeaderClear (s : State) (b : Nat) : Prop where
  cause   : s.fld (F.PG_EVT_CAUSE_CAUSE b) = 0
  refused : s.fld (F.PG_STAGE_STAT_REFUSED b) = 0
  badKey  : s.fld (F.PG_LOCK_STAT_BADKEY b) = 0
  srst    : s.fld (F.PG_SRST_REFUSED b) = 0
  fell    : s.fld (F.PG_MODE_SPLIT_FELL b) = 0

theorem State.clearHeader_clear (s : State) (b v : Nat) : (s.clearHeader b v).HeaderClear b := by
  constructor <;>
    simp [State.clearHeader, F.PG_EVT_CAUSE_CAUSE, F.PG_STAGE_STAT_REFUSED, F.PG_LOCK_STAT_BADKEY, F.PG_SRST_REFUSED,
      F.PG_MODE_SPLIT_FELL, F.PG_EVT_ACK_SEQ, State.fld_setFld_self, State.fld_setFld_ne]

/-- Clearing the header reaches no register of another page. -/
theorem State.clearHeader_rd (b v : Nat) (h : ∀ o < 0x80, a ≠ b + o) : (s.clearHeader b v).rd a = s.rd a := by
  simp [State.clearHeader, F.PG_EVT_CAUSE_CAUSE, F.PG_STAGE_STAT_REFUSED, F.PG_LOCK_STAT_BADKEY, F.PG_SRST_REFUSED,
    F.PG_MODE_SPLIT_FELL, F.PG_EVT_ACK_SEQ, State.rd_setFld_ne, h]

theorem State.clearHeader_only (b v : Nat) : Only [.regs] s (s.clearHeader b v) := by
  unfold State.clearHeader
  iterate 6 refine Only.andThen State.setFld_only rfl ?_
  exact Only.refl

/-- Clear queue `n`'s REJ, as an acknowledgement of the HBR page does for every queue. -/
def State.clearRej (s : State) (n : Nat) : State :=
  if s.fld (F.HBR_QSTAT_REJ n) = 1 then s.setFld (F.HBR_QSTAT_REJ n) 0 else s

theorem State.clearRej_self (n : Nat) : (s.clearRej n).fld (F.HBR_QSTAT_REJ n) = 0 := by
  have hlt : s.fld (F.HBR_QSTAT_REJ n) < 2 := State.fld_lt (F.HBR_QSTAT_REJ n)
  unfold State.clearRej
  split
  · exact State.fld_setFld_self (F.HBR_QSTAT_REJ n) 0 (by decide : 30 ≤ 30) (by decide : 30 < 64)
  · omega

theorem State.clearRej_rd {n : Nat} (h : a ≠ R.HBR_QSTAT n) : (s.clearRej n).rd a = s.rd a := by
  unfold State.clearRej
  split
  · exact State.rd_setFld_ne (f := F.HBR_QSTAT_REJ n) 0 h
  · rfl

theorem State.each_clearRej_rd {l : List Nat} (h : ∀ n ∈ l, a ≠ R.HBR_QSTAT n) :
    (s.each l State.clearRej).rd a = s.rd a := by
  induction l generalizing s with
  | nil => rfl
  | cons m l ih =>
    rw [List.forall_mem_cons] at h
    exact (ih h.2).trans (State.clearRej_rd h.1)

theorem State.each_clearRej_self {l : List Nat} {n : Nat} (hn : n ∈ l) (hl : l.Nodup) :
    (s.each l State.clearRej).fld (F.HBR_QSTAT_REJ n) = 0 := by
  induction l generalizing s with
  | nil => cases hn
  | cons m l ih =>
    obtain ⟨hm, hl⟩ := List.nodup_cons.1 hl
    rcases List.mem_cons.1 hn with rfl | hn
    · have later : (((s.clearRej n).each l State.clearRej).rd (R.HBR_QSTAT n)) = (s.clearRej n).rd (R.HBR_QSTAT n) :=
        State.each_clearRej_rd fun k hk hkn => hm (by rwa [show n = k by unfold R.HBR_QSTAT at hkn; omega])
      exact (congrArg (bits · 30 30) later).trans (State.clearRej_self n)
    · exact ih hn hl

theorem State.clearSticky_hbr : s.clearSticky 0x0B i = s.each (List.range 128) State.clearRej := rfl

theorem State.clearSticky_atl : s.clearSticky 0x10 i = s.setFld (F.ATL_ILOAD_STAT_ERR i) 0 := rfl

/-- The sticky bits beside the header lie on the page itself, past its header. -/
theorem State.clearSticky_rd (h : ∀ o, 0x80 ≤ o → o < 0x1000 → a ≠ pageBase c i + o) (hi : c = 0x0B → i = 0) :
    (s.clearSticky c i).rd a = s.rd a := by
  by_cases hb : c = 0x0B
  · subst hb
    rw [State.clearSticky_hbr]
    refine State.each_clearRej_rd fun n hn => ?_
    have := List.mem_range.1 hn
    obtain rfl := hi rfl
    have hne := h (0x400 + n * 4) (by omega) (by omega)
    unfold pageBase at hne
    unfold R.HBR_QSTAT
    omega
  · by_cases hk : c = 0x10
    · subst hk
      exact State.rd_setFld_ne (f := F.ATL_ILOAD_STAT_ERR i) 0 (h 0x94 (by decide) (by decide))
    · simp [State.clearSticky, hb, hk]

theorem State.clearSticky_rej {n : Nat} (hn : n < 128) : (s.clearSticky 0x0B i).fld (F.HBR_QSTAT_REJ n) = 0 :=
  State.each_clearRej_self (List.mem_range.2 hn) List.nodup_range

theorem State.clearSticky_err : (s.clearSticky 0x10 i).fld (F.ATL_ILOAD_STAT_ERR i) = 0 :=
  State.fld_setFld_self (F.ATL_ILOAD_STAT_ERR i) 0 (by decide : 2 ≤ 2) (by decide : 2 < 64)

/-- The header stays clear while the page's other sticky bits are cleared. -/
theorem State.HeaderClear.clearSticky {b : Nat} (h : s.HeaderClear b) (hb : b = pageBase c i) (hi : c = 0x0B → i = 0) :
    (s.clearSticky c i).HeaderClear b := by
  have header {f : Fld} (o : Nat) (ho : o < 0x80) (hf : f.reg = b + o) : (s.clearSticky c i).fld f = s.fld f :=
    congrArg (bits · f.hi f.lo) (State.clearSticky_rd (fun o' _ _ => by omega) hi)
  exact {
    cause   := (header 0x28 (by decide) rfl).trans h.cause
    refused := (header 0x0C (by decide) rfl).trans h.refused
    badKey  := (header 0x20 (by decide) rfl).trans h.badKey
    srst    := (header 0x18 (by decide) rfl).trans h.srst
    fell    := (header 0x10 (by decide) rfl).trans h.fell }

end

/-! ### PG_EVT_ACK (R64) -/

section
variable {s : State} {a v : Nat}

/-- Another value than the page's sequence number acknowledges nothing. -/
theorem State.evtAck_stale (h : v ≠ s.fld (F.PG_EVT_SEQ_SEQ (pageOf a))) : s.evtAck a v = s := if_pos h

/-- The page's own sequence number clears its sticky bits. -/
theorem State.evtAck_regs (h : v = s.fld (F.PG_EVT_SEQ_SEQ (pageOf a))) :
    (s.evtAck a v).regs = ((s.clearHeader (pageOf a) v).clearSticky (classOf a) (instOf a)).regs := by
  unfold State.evtAck
  dsimp only
  rw [if_neg fun hne => hne h]
  rfl

/-- The page's own sequence number withdraws its interrupt. -/
theorem State.evtAck_irqPend (h : v = s.fld (F.PG_EVT_SEQ_SEQ (pageOf a))) :
    (s.evtAck a v).irqPend = s.irqPend.filter fun x => x != pageIx (classOf a) (instOf a) := by
  have hpend : ((s.clearHeader (pageOf a) v).clearSticky (classOf a) (instOf a)).irqPend = s.irqPend :=
    (State.clearSticky_only.2.2 .irq (by decide)).trans ((State.clearHeader_only _ _).2.2 .irq (by decide))
  unfold State.evtAck
  dsimp only
  rw [if_neg fun hne => hne h, ← hpend]
  rfl

end

/-! ### An event moves the sequence number on (R63) -/

section
variable {s : State} {c i : Nat}

theorem State.deliver_fld (f : Fld) : (s.deliver c i).fld f = s.fld f :=
  State.fld_congr (State.deliver_only.2.2 .regs (by decide)) f

theorem State.countEvent_seq :
    (s.countEvent c i).fld (F.PG_EVT_SEQ_SEQ (pageBase c i)) =
      if s.fld (F.PG_EVT_SEQ_SEQ (pageBase c i)) = 0xFFFFFFFF then 1 else s.fld (F.PG_EVT_SEQ_SEQ (pageBase c i)) + 1 := by
  have hlt : s.fld (F.PG_EVT_SEQ_SEQ (pageBase c i)) < 2 ^ 32 := State.fld_lt _
  unfold State.countEvent
  rw [State.fld_setFld_ne _ (by simp [F.PG_EVT_SEQ_SEQ, F.PG_EVT_TIDE_HI_TIDE_HI]),
    State.fld_setFld_ne _ (by simp [F.PG_EVT_SEQ_SEQ, F.PG_EVT_TIDE_LO_TIDE_LO]),
    State.fld_setFld_self _ _ (Nat.zero_le _) (by decide : 31 < 64)]
  generalize s.fld (F.PG_EVT_SEQ_SEQ (pageBase c i)) = q at hlt ⊢
  refine Nat.mod_eq_of_lt (?_ : _ < 2 ^ 32)
  split <;> omega

theorem State.raise_seq (b : Nat) :
    (s.raise c i b).fld (F.PG_EVT_SEQ_SEQ (pageBase c i)) = (s.countEvent c i).fld (F.PG_EVT_SEQ_SEQ (pageBase c i)) := by
  have hcause (v : Nat) : ((s.countEvent c i).setFld (F.PG_EVT_CAUSE_CAUSE (pageBase c i)) v).fld
      (F.PG_EVT_SEQ_SEQ (pageBase c i)) = (s.countEvent c i).fld (F.PG_EVT_SEQ_SEQ (pageBase c i)) :=
    State.fld_setFld_ne v (by simp [F.PG_EVT_SEQ_SEQ, F.PG_EVT_CAUSE_CAUSE])
  unfold State.raise
  dsimp only
  split
  · exact hcause _
  · rw [State.deliver_fld, hcause]

/-- An event leaves the page another sequence number than it found. -/
theorem State.raise_seq_ne (b : Nat) :
    (s.raise c i b).fld (F.PG_EVT_SEQ_SEQ (pageBase c i)) ≠ s.fld (F.PG_EVT_SEQ_SEQ (pageBase c i)) := by
  rw [State.raise_seq, State.countEvent_seq]
  split <;> omega

end

/-- Settles O12: a value that is not the page's sequence number changes nothing; the page's own clears the header and the
sticky bits beside it, all of them on the page; an event leaves a number that the one before it does not match. -/
theorem eventAcknowledged : Obligations.EventAcknowledged := by
  intro s p v c i b hp ha hr
  have hexec := exec_evtAck_eq (v := v) hp ha hr
  have hb : pageOf (R.PG_EVT_ACK (pageAt p)) = b := pageOf_pageAt (by decide)
  have hc : classOf (R.PG_EVT_ACK (pageAt p)) = c := classOf_pageAt (by decide)
  have hi : instOf (R.PG_EVT_ACK (pageAt p)) = i := instOf_pageAt (by decide)
  have hix : pageIx c i = p.val := pageIx_pageOfIx p
  have hbr : c = 0x0B → i = 0 := pageOfIx_hbr
  refine ⟨fun hne => ?_, fun heq => ⟨_, hexec, ?_⟩, ?_⟩
  · rw [hexec, State.evtAck_stale (by rwa [hb])]
  · have honly : Only [.regs, .irq] s (s.evtAck (R.PG_EVT_ACK (pageAt p)) v.toNat) := State.evtAck_only
    have hregs := State.evtAck_regs (s := s) (a := R.PG_EVT_ACK (pageAt p)) (v := v.toNat) (by rwa [hb])
    have hirq := State.evtAck_irqPend (s := s) (a := R.PG_EVT_ACK (pageAt p)) (v := v.toNat) (by rwa [hb])
    rw [hb, hc, hi] at hregs
    rw [hc, hi, hix] at hirq
    simp only [State.fld_congr hregs, State.rd_congr hregs, hirq]
    obtain ⟨cause, refused, badKey, srst, fell⟩ :=
      (s.clearHeader_clear b v.toNat).clearSticky (c := c) (i := i) rfl hbr
    refine ⟨cause, refused, badKey, srst, fell, fun hh n hn => ?_, fun hk => ?_, by simp, fun q hq => by simp [hq],
      fun a hother => ?_, honly⟩
    · rw [hh]
      exact State.clearSticky_rej hn
    · rw [hk]
      exact State.clearSticky_err
    · have off (o : Nat) (ho : o < 0x1000) : a ≠ b + o := fun h => hother (by
        rw [h]
        exact pageOf_pageAt ho)
      exact (State.clearSticky_rd (fun o _ => off o) hbr).trans (State.clearHeader_rd b _ fun o ho => off o (by omega))
  · intro c' i' bit hbase t ht
    rw [ht, ← hbase]
    exact State.raise_seq_ne bit

end Sys2Proof.Machine
end

section
/-! SUPPORT. Finishing an exact accumulator (08_vector.md R193): how a main-pipe operation that is accepted acts, what a
scalar register and an accumulator read after a write, and what VXFIN leaves of both. -/

namespace Sys2Proof.Machine

/-! ### Writes to a scalar register and to an accumulator (R191, R212) -/

@[simp] theorem SeqRegs.sv_zero (r : SeqRegs) : r.sv 0 = 0 := rfl

theorem SeqRegs.sv_setS_self (r : SeqRegs) {i : SReg} (v : Nat) (h : i ≠ 0) : (r.setS i v).sv i = v % 2 ^ 64 := by
  simp only [SeqRegs.sv, SeqRegs.setS, if_neg h, SMap.get_put_self, BitVec.toNat_ofNat]

theorem SeqRegs.sv_setS_ne (r : SeqRegs) {i j : SReg} (v : Nat) (h : i ≠ j) : (r.setS j v).sv i = r.sv i := by
  have hkey : i.toNat ≠ j.toNat := fun e => h (BitVec.eq_of_toNat_eq e)
  unfold SeqRegs.sv SeqRegs.setS
  by_cases hj : j = 0
  · rw [if_pos hj]
  · rw [if_neg hj, SMap.get_put_ne _ _ _ hkey]

section
variable {s : State} {k j : Atoll}

@[simp] theorem State.setS_atl (i : SReg) (v : Nat) :
    (s.setS k i v).atl k =
      { s.atl k with seq := { (s.atl k).seq with r := (s.atl k).seq.r.setS i v } } := by
  simp [State.setS]

theorem State.setS_atl_ne (i : SReg) (v : Nat) (h : j ≠ k) : (s.setS k i v).atl j = s.atl j :=
  State.onSeq_atl_ne s _ h

@[simp] theorem State.setXa_atl (i : Nat) (x : XaSt) :
    (s.setXa k i x).atl k =
      { s.atl k with vec := { (s.atl k).vec with xa := SMap.put (fun _ => XaSt.zero) (s.atl k).vec.xa i x } } := by
  simp [State.setXa]

theorem State.setXa_atl_ne (i : Nat) (x : XaSt) (h : j ≠ k) : (s.setXa k i x).atl j = s.atl j :=
  State.onVec_atl_ne s _ h

theorem State.xa_setS (i : SReg) (v n : Nat) : (s.setS k i v).xa k n = s.xa k n := by
  simp [State.xa]

@[simp] theorem State.xa_setXa_self (n : Nat) (x : XaSt) : (s.setXa k n x).xa k n = x := by
  simp [State.xa]

theorem State.xa_setXa_ne {m n : Nat} (x : XaSt) (h : m ≠ n) : (s.setXa k n x).xa k m = s.xa k m := by
  unfold State.xa
  rw [State.setXa_atl, SMap.get_put_ne _ _ _ h]

end

/-! ### The issue of a main-pipe operation (R185, R287) -/

section
variable {s : State} {k j : Atoll} {op : Nat} {o : VOp}

/-- A VLD that does not wait reads no pending line. -/
theorem State.flowNote_vldReads {r : SeqRegs} (h : s.vecStalls k r op o = false) :
    s.flowNote k (vldReads r op o) = s := by
  unfold vldReads
  split
  · next hld =>
    rw [State.vecStalls, if_pos hld] at h
    simp [State.flowNote, h]
  · rfl

/-- An accepted operation acts on the state it has issued in. -/
theorem State.vecIssue_accepted
    (h : s.accepts k (s.vecBad k (s.atl k).seq.r op o) (s.vecStalls k (s.atl k).seq.r op o)) :
    s.vecIssue k op o = (s.issued k op o).vecEffect k (s.atl k).seq.r op o (s.atl k).vec := by
  obtain ⟨hrun, hbad, hstall⟩ := h
  unfold State.vecIssue
  dsimp only
  rw [State.flowNote_vldReads hstall, State.slotIssue_ok hrun hbad hstall, State.vecAct, State.onSeq_atl]
  rfl

/-- What issuing changes in the atoll: the stall ends and the issue clocks are owed. -/
@[simp] theorem State.issued_atl : (s.issued k op o).atl k =
    { s.atl k with
      seq := { (s.atl k).seq with stalled := false }
      vec := { (s.atl k).vec with mainOwed := (s.atl k).vec.mainOwed + issueClocks op o } } := by
  simp [State.issued]

theorem State.issued_atl_ne (h : j ≠ k) : (s.issued k op o).atl j = s.atl j :=
  (State.onVec_atl_ne _ _ h).trans (State.onSeq_atl_ne s _ h)

theorem State.issued_xa (n : Nat) : (s.issued k op o).xa k n = s.xa k n := by
  simp [State.xa]

theorem State.issued_only : Only [.atolls] s (s.issued k op o) :=
  Only.andThen State.onVec_only (by decide) (Only.andThen State.onSeq_only (by decide) Only.refl)

end

/-! ### VXFIN (R193) -/

section
variable {s : State} {k j : Atoll} {r : SeqRegs} {o : VOp}

/-- With no reserved field set nothing refuses VXFIN: it has no packed side, names no pair of registers and lists no
SUB. -/
theorem State.vecBad_vxfin (hhi : o.hi = false) (hext : o.ext = 0) : s.vecBad k r Opc.vxfin o = none := by
  have hlisted : listedOpc Opc.vxfin = true := by decide
  have hfmt : needsFmt Opc.vxfin = false := by decide
  have hmax : subMax Opc.vxfin = 15 := by decide
  have hsub : ¬ 15 < o.sub.toNat := by omega
  have hcode : s.vecCode k r Opc.vxfin o = (0, s) := by
    simp [State.vecCode, hlisted, hfmt, hmax, hhi, hsub]
  simp [State.vecBad, pairBeyond, hcode, hext, bits]

theorem State.accepts_vxfin (hrun : s.running k = true) (hhi : o.hi = false) (hext : o.ext = 0) :
    s.accepts k (s.vecBad k r Opc.vxfin o) (s.vecStalls k r Opc.vxfin o) :=
  ⟨hrun, State.vecBad_vxfin hhi hext, rfl⟩

theorem exec_vxfin_accepted (hrun : s.running k = true) (hhi : o.hi = false) (hext : o.ext = 0) :
    exec (.vxfin k o) s = .next ((s.issued k Opc.vxfin o).vXfin k o) := by
  rw [exec_vxfin, execVxfin, State.vecIssue_accepted (State.accepts_vxfin hrun hhi hext)]
  rfl

theorem State.vXfin_of_clr (h : o.clr = true) : s.vXfin k o =
    (s.setS k o.sd (fp32.enc (s.xa k o.xi.toNat).val)).setXa k o.xi.toNat XaSt.zero := by
  simp [State.vXfin, h]

theorem State.vXfin_of_not_clr (h : o.clr = false) : s.vXfin k o =
    s.setS k o.sd (fp32.enc (s.xa k o.xi.toNat).val) := by
  simp [State.vXfin, h]

/-- SD takes the rounded value, whether or not the accumulator is then cleared. -/
theorem State.vXfin_regs :
    ((s.vXfin k o).atl k).seq.r = (s.atl k).seq.r.setS o.sd (fp32.enc (s.xa k o.xi.toNat).val) := by
  cases hclr : o.clr
  · rw [State.vXfin_of_not_clr hclr, State.setS_atl]
  · rw [State.vXfin_of_clr hclr, State.setXa_atl, State.setS_atl]

theorem State.vXfin_v : ((s.vXfin k o).atl k).vec.v = (s.atl k).vec.v := by
  cases hclr : o.clr
  · rw [State.vXfin_of_not_clr hclr, State.setS_atl]
  · rw [State.vXfin_of_clr hclr, State.setXa_atl, State.setS_atl]

theorem State.vXfin_atl_ne (h : j ≠ k) : (s.vXfin k o).atl j = s.atl j := by
  cases hclr : o.clr
  · rw [State.vXfin_of_not_clr hclr, State.setS_atl_ne _ _ h]
  · rw [State.vXfin_of_clr hclr, State.setXa_atl_ne _ _ h, State.setS_atl_ne _ _ h]

theorem State.vXfin_xa_cleared (h : o.clr = true) : (s.vXfin k o).xa k o.xi.toNat = XaSt.zero := by
  rw [State.vXfin_of_clr h, State.xa_setXa_self]

/-- Every accumulator but the one cleared stands. -/
theorem State.vXfin_xa_kept {n : Nat} (h : n ≠ o.xi.toNat ∨ o.clr = false) : (s.vXfin k o).xa k n = s.xa k n := by
  cases hclr : o.clr
  · rw [State.vXfin_of_not_clr hclr, State.xa_setS]
  · have hne : n ≠ o.xi.toNat := h.resolve_right (by simp [hclr])
    rw [State.vXfin_of_clr hclr, State.xa_setXa_ne _ hne, State.xa_setS]

end

/-- A cleared accumulator reads +0. -/
theorem fp32_enc_xaSt_zero : fp32.enc XaSt.zero.val = 0 := by decide +kernel

/-- Settles O53: VXFIN is accepted and acts on the state it has issued in; SD takes the rounded value, and of the
accumulators only the one named changes, and only with CLR. -/
theorem accumulatorFinished : Obligations.AccumulatorFinished := by
  refine ⟨fp32_enc_xaSt_zero, fun s k o hrun hhi hext => ⟨_, exec_vxfin_accepted hrun hhi hext, ?_⟩⟩
  simp only [State.vXfin_regs, State.vXfin_v, State.issued_xa]
  refine ⟨fun hsd => ?_, SeqRegs.sv_zero _, fun i hi => ?_, fun hclr => ⟨State.vXfin_xa_cleared hclr, rfl⟩,
    fun n hn => ?_, by simp, fun j hj => ?_, Only.andThen State.vXfin_only (by decide) State.issued_only⟩
  · rw [SeqRegs.sv_setS_self _ _ hsd]
    exact Nat.mod_mod_of_dvd _ (by decide)
  · rw [SeqRegs.sv_setS_ne _ _ hi]
    simp
  · rw [State.vXfin_xa_kept hn, State.issued_xa]
  · rw [State.vXfin_atl_ne hj, State.issued_atl_ne hj]

end Sys2Proof.Machine
end

section
/-! SUPPORT. A reset during bring-up (18_bringup.md R425; 17_power.md R411): which registers an event, the end of
bring-up and a reset leave, what of THERM_STAT a module reset keeps, and that stage 3 halts without COOL_OK (R433). -/

namespace Sys2Proof.Machine

/-! ### Registers beside the page headers -/

section
variable {s : State} {a : Nat}

@[simp] theorem State.onRst_fld (f : RstSt → RstSt) (x : Fld) : (s.onRst f).fld x = s.fld x := rfl

@[simp] theorem State.onRst_flag (f : RstSt → RstSt) (x : Fld) : (s.onRst f).flag x = s.flag x := rfl

@[simp] theorem State.onRst_mem (f : RstSt → RstSt) : (s.onRst f).mem = s.mem := rfl

@[simp] theorem State.onRst_poison (f : RstSt → RstSt) : (s.onRst f).poison = s.poison := rfl

/-- A step that leaves the register alone leaves it alone for a whole list. -/
theorem State.each_rd {α : Type} {l : List α} {f : State → α → State} (h : ∀ s x, (f s x).rd a = s.rd a) :
    (s.each l f).rd a = s.rd a := by
  induction l generalizing s with
  | nil => rfl
  | cons x l ih => exact ih.trans (h s x)

/-- A register beside its page's header is none of a header's. -/
theorem header_ne {c i o : Nat} (ha : 0x80 ≤ a % 0x1000) (ho : o < 0x80) : a ≠ pageBase c i + o := by
  unfold pageBase
  omega

theorem State.deliver_rd (c i : Nat) : (s.deliver c i).rd a = s.rd a :=
  State.rd_congr (State.deliver_only.2.2 .regs (by decide)) a

/-- An event writes the header of its page alone (R63). -/
theorem State.raise_rd (c i b : Nat) (ha : 0x80 ≤ a % 0x1000) : (s.raise c i b).rd a = s.rd a := by
  have header {o : Nat} (ho : o < 0x80) : a ≠ pageBase c i + o := header_ne ha ho
  have hcause (v : Nat) : ((s.countEvent c i).setFld (F.PG_EVT_CAUSE_CAUSE (pageBase c i)) v).rd a = s.rd a := by
    unfold State.countEvent
    rw [State.rd_setFld_ne, State.rd_setFld_ne, State.rd_setFld_ne, State.rd_setFld_ne]
    all_goals exact header (by decide)
  unfold State.raise
  dsimp only
  split
  · exact hcause _
  · rw [State.deliver_rd, hcause]

theorem State.alertPin_rd (ha : 0x80 ≤ a % 0x1000) : s.alertPin.rd a = s.rd a := by
  unfold State.alertPin State.raiseIf
  dsimp only
  split_ifs
  · rfl
  · exact State.raise_rd _ _ _ ha
  · rfl

theorem State.alertCause_rd (b : Nat) (ha : 0x80 ≤ a % 0x1000) (hc : a ≠ R.MGMT_ALERT_CAUSE) :
    (s.alertCause b).rd a = s.rd a :=
  (State.alertPin_rd ha).trans (State.rd_wr_ne _ hc)

/-- HOLM_STATE takes the state given. -/
theorem State.holmState_fld (v : Nat) (hv : v < 16) : (s.holmState v).fld F.HOLM_STATE_STATE = v := by
  unfold State.holmState
  split
  · assumption
  · have hkept := (State.alertCause_rd (s := (s.setFld F.HOLM_STATE_STATE v).raise 0x00 0 0) (a := R.HOLM_STATE) 0
      (by decide) (by decide)).trans (State.raise_rd 0x00 0 0 (by decide))
    calc _ = (s.setFld F.HOLM_STATE_STATE v).fld F.HOLM_STATE_STATE := congrArg (bits · 3 0) hkept
      _ = v % 2 ^ 4 := State.fld_setFld_self _ _ (by decide) (by decide)
      _ = v := Nat.mod_eq_of_lt hv

theorem State.holmState_rd (v : Nat) (ha : 0x80 ≤ a % 0x1000) (hc : a ≠ R.MGMT_ALERT_CAUSE) (hs : a ≠ R.HOLM_STATE) :
    (s.holmState v).rd a = s.rd a := by
  unfold State.holmState
  split
  · rfl
  · rw [State.alertCause_rd _ ha hc, State.raise_rd _ _ _ ha, State.rd_setFld_ne _ hs]

end

/-! ### Bring-up halts (R411, R433) -/

section
variable {s : State}

theorem State.halted_state : s.halted.fld F.HOLM_STATE_STATE = 3 := State.holmState_fld 3 (by decide)

/-- RST_BRING is not touched by the change of HOLM_STATE. -/
theorem State.halted_bring : s.halted.rd R.RST_BRING = (s.setFld F.RST_BRING_FAILED 1).rd R.RST_BRING :=
  State.holmState_rd 3 (by decide) (by decide) (by decide)

theorem State.halted_failed : s.halted.fld F.RST_BRING_FAILED = 1 :=
  (congrArg (bits · 7 7) State.halted_bring).trans (State.fld_setFld_self F.RST_BRING_FAILED 1 (by decide) (by decide))

/-- The stage in progress stays readable. -/
theorem State.halted_stage : s.halted.fld F.RST_BRING_STAGE = s.fld F.RST_BRING_STAGE :=
  (congrArg (bits · 3 0) State.halted_bring).trans
    (State.fld_setFld_apart (f := F.RST_BRING_FAILED) (g := F.RST_BRING_STAGE) 1 rfl (by decide) (by decide)
      (Or.inl (by decide)))

theorem State.halted_atolls : s.halted.atolls = s.atolls := State.halted_only.2.2 .atolls (by decide)

/-- Stage 3 with COOL_OK deasserted halts, whatever else its outcome is. -/
theorem exec_bringupStage_no_coolant {o : StageOutcome} (hp : s.rst.power = true) (hr : s.rst.asserted = false)
    (hn : s.fld F.RST_BRING_STAGE = 3) (hh : s.fld F.HOLM_STATE_STATE = 0) (hf : s.flag F.RST_BRING_FAILED = false)
    (hc : s.flag F.THERM_STAT_COOL_OK = false) : exec (.bringupStage o) s = .next s.halted := by
  rw [exec_bringupStage]
  unfold execBringupStage
  dsimp only
  rw [hn, if_neg (by simp [hp, hr, hf, hh]), if_neg fun h => absurd h.1 (by decide)]
  split
  · rfl
  · rw [if_pos ⟨rfl, hc⟩]

end

/-! ### What a reset keeps (R422, R424) -/

section
variable {s t : State} {a b mask : Nat}

theorem SMap.find_filter_key {α : Type} (m : SMap α) (f : Nat → Bool) (j : Nat) :
    SMap.find (m.filter fun e => f e.1) j = if f j then SMap.find m j else none := by
  induction m with
  | nil => simp
  | cons e m ih =>
    obtain ⟨k, v⟩ := e
    rw [List.filter_cons]
    by_cases hk : k = j
    · subst hk
      cases hf : f k <;> simp [SMap.find, ih, hf]
    · cases hf : f k <;> simp [SMap.find, ih, hk]

/-- A register reads after the wipe as before it where it is kept, and as after power-on where it is not. -/
theorem State.wiped_rd (power : Bool) :
    (s.wiped power).rd a = if keptReg power a then s.rd a else (resetWord a).toNat := by
  unfold State.rd SMap.get State.wiped
  rw [SMap.find_filter_key]
  split <;> rfl

theorem State.keepBits_rd_ne (h : b ≠ a) : (s.keepBits a mask).rd b = s.rd b := State.rd_wr_ne _ h

theorem State.keepBits_rd_congr (h : t.rd b = s.rd b) : (t.keepBits a mask).rd b = (s.keepBits a mask).rd b := by
  by_cases hb : b = a
  · subst hb
    simp [State.keepBits, h]
  · rw [State.keepBits_rd_ne hb, State.keepBits_rd_ne hb, h]

/-- A one-bit field as a bit of its register. -/
theorem State.flag_eq_testBit (n : Nat) : s.flag ⟨a, n, n⟩ = (s.rd a).testBit n := by
  have hw : n + 1 - n = 1 := by omega
  rw [Nat.testBit_eq_decide_div_mod_eq, State.flag, State.fld, bits, hw]
  rfl

/-- A flag whose bit is kept stands; another is as after power-on. -/
theorem State.keepBits_flag {n : Nat} (hn : n < 64) : (s.keepBits a mask).flag ⟨a, n, n⟩ =
    if mask.testBit n then s.flag ⟨a, n, n⟩ else (resetWord a).toNat.testBit n := by
  have hones : (0xFFFFFFFFFFFFFFFF : Nat).testBit n = true := by
    rw [show (0xFFFFFFFFFFFFFFFF : Nat) = 2 ^ 64 - 1 by rfl, Nat.testBit_two_pow_sub_one]
    exact decide_eq_true hn
  rw [State.flag_eq_testBit, State.flag_eq_testBit, State.keepBits, State.rd_wr_self, Nat.testBit_mod_two_pow]
  cases hm : mask.testBit n <;> simp [hn, hm, hones]

end

/-- An offset beside the page headers, on a page of one instance other than the COMMIT page, and none of the registers of
which a reset keeps a part, THERM_STAT left out: of such registers settling reaches THERM_STAT alone. -/
structure Unsettled (a : Nat) : Prop where
  beside : 0x80 ≤ a % 0x1000
  single : a < 0x1000000
  commit : classOf a ≠ 0x02
  named  : a ∉ [R.HOLM_ATOLLS, R.MGMT_ADDR, R.AGE_STAT, R.CKPT_STAT, R.CKPT_SAFE_ID]

section
variable {s : State} {a : Nat}

theorem unsettled_holmState : Unsettled R.HOLM_STATE := ⟨by decide, by decide, by decide, by decide⟩

theorem unsettled_thermStat : Unsettled R.THERM_STAT := ⟨by decide, by decide, by decide, by decide⟩

/-- The atolls lost show in HOLM_ATOLLS and on pages with an instance for each atoll or stack (R25, R61). -/
theorem State.showAtolls_rd (h : Unsettled a) : s.showAtolls.rd a = s.rd a := by
  have paged {c k o : Nat} (hc : 0x1000000 ≤ c) : a ≠ c + k * 0x1000 + o := by
    have := h.single
    omega
  have hin (v : Nat) : (s.setFld F.HOLM_ATOLLS_IN_SERVICE v).rd a = s.rd a :=
    State.rd_setFld_ne _ fun e : a = R.HOLM_ATOLLS => h.named (by simp [e])
  unfold State.showAtolls
  dsimp only
  split
  · exact hin _
  · refine (State.each_rd fun u k => ?_).trans (hin _)
    rw [State.rd_setFld_ne, State.rd_wr_ne, State.rd_setFld_ne, State.rd_setFld_ne, State.rd_setFld_ne,
      State.rd_setFld_ne, State.each_rd fun u i => State.rd_setFld_ne _ (paged (by decide : 0x1000000 ≤ 0x2000000)),
      State.rd_setFld_ne]
    all_goals exact paged (by decide)

/-- A page's binding and staging stand in its header, and the ticket's count of pages on the COMMIT page. -/
theorem State.unbindPage_rd (p : Nat) (ha : 0x80 ≤ a % 0x1000) (hc : classOf a ≠ 0x02) :
    (s.unbindPage p).rd a = s.rd a := by
  have hheader : a ≠ R.PG_STAGE_STAT (pageAt p) := header_ne ha (by decide)
  have hfree : (((s.cleanPage p).setFld (F.PG_STAGE_STAT_BOUND (pageAt p)) 0).setFld
      (F.PG_STAGE_STAT_TICKET (pageAt p)) 0).rd a = s.rd a := by
    rw [State.rd_setFld_ne _ hheader, State.rd_setFld_ne _ hheader]
    unfold State.cleanPage
    rw [State.rd_setFld_ne _ hheader, State.rd_setFld_ne _ hheader]
    rfl
  unfold State.unbindPage
  dsimp only
  split
  · next x hx =>
    have hlt : x < 4 := by
      unfold State.boundTo at hx
      dsimp only at hx
      split at hx
      · cases hx
        exact State.fld_lt _
      · cases hx
    have hcount : a ≠ R.COMMIT_STAT x := by
      unfold classOf at hc
      unfold R.COMMIT_STAT
      omega
    exact (State.rd_setFld_ne _ hcount).trans hfree
  · exact hfree

theorem State.safety_rd (ha : 0x80 ≤ a % 0x1000) (hstat : a ≠ R.CKPT_STAT) (hid : a ≠ R.CKPT_SAFE_ID) :
    s.safety.rd a = s.rd a := by
  have hlayers (x y : Nat) : ((s.setFld F.CKPT_STAT_DEEPEST x).setFld F.CKPT_STAT_SAFE y).rd a = s.rd a := by
    rw [State.rd_setFld_ne _ hstat, State.rd_setFld_ne _ hstat]
  unfold State.safety
  dsimp only
  split
  · rw [State.raise_rd _ _ _ ha, State.rd_setFld_ne _ hid, hlayers]
  · exact hlayers _ _

theorem layerFld_reg (l : Nat) : (layerFld l).reg = R.CKPT_STAT := by
  unfold layerFld
  split <;> rfl

/-- Of those registers a reset settles THERM_STAT alone, of which it keeps COOL_OK. -/
theorem State.settleKept_rd (power : Bool) (h : Unsettled a) :
    (s.settleKept power).rd a = (s.keepBits R.THERM_STAT 0x200).rd a := by
  obtain ⟨hbeside, hsingle, hcommit, hnamed⟩ := h
  simp only [List.mem_cons, List.not_mem_nil, or_false, not_or] at hnamed
  obtain ⟨hatolls, haddr, hage, hckpt, hsafe⟩ := hnamed
  have hatoll (k : Nat) : a ≠ R.ARR_REPAIR k := by
    unfold R.ARR_REPAIR
    omega
  unfold State.settleKept
  dsimp only
  split
  case' isFalse =>
    refine (State.safety_rd hbeside hckpt hsafe).trans ((State.each_rd fun u l => ?_).trans
      ((State.rd_setFld_ne _ hckpt).trans ((State.rd_setFld_ne _ hckpt).trans ?_)))
    · split
      · exact State.rd_setFld_ne _ (by rwa [layerFld_reg])
      · rfl
  all_goals
    refine (State.each_rd fun u k => State.rd_setFld_ne _ (hatoll k.val)).trans ((State.rd_setFld_ne _ hatolls).trans
      ((State.rd_setFld_ne _ hage).trans ((State.keepBits_rd_ne haddr).trans (State.keepBits_rd_congr ?_))))
    refine (State.unbindPage_rd _ hbeside hcommit).trans (State.each_rd fun u p => ?_)
    split
    · rfl
    · exact State.keepBits_rd_ne (header_ne hbeside (by decide))

/-- After a reset a register is as the wipe leaves it, THERM_STAT but for COOL_OK as after power-on. -/
theorem State.restart_rd (power : Bool) (h : Unsettled a) (hb : a ≠ R.RST_BRING) :
    (s.restart power).rd a = ((s.wiped power).keepBits R.THERM_STAT 0x200).rd a := by
  unfold State.restart
  dsimp only
  rw [State.rd_setFld_ne _ hb, State.rd_setFld_ne _ hb]
  split <;> exact (State.showAtolls_rd h).trans (State.settleKept_rd power h)

/-- A module reset is the reset, and its count and cause on the RST page. -/
theorem State.moduleReset_rd (cause : Nat) (hcause : a ≠ R.RST_CAUSE) (hreset : a ≠ R.RST_CNT_RESET)
    (hwdog : a ≠ R.RST_CNT_WDOG) : (s.moduleReset cause).rd a = (s.restart false).rd a := by
  have hcounted (x y : Nat) : ((((s.restart false).setFld F.RST_CAUSE_CAUSE x).setFld F.RST_CAUSE_WDOG_RUN y).bump
      F.RST_CNT_RESET).rd a = (s.restart false).rd a := by
    rw [State.rd_bump_ne _ hreset, State.rd_setFld_ne _ hcause, State.rd_setFld_ne _ hcause]
  unfold State.moduleReset
  dsimp only
  split
  · rw [State.rd_bump_ne _ hwdog, hcounted]
  · exact hcounted _ _

end

/-! ### Bring-up begins anew (R425) -/

/-- Stage 1 in progress, not failed, and HOLM_STATE in BRINGUP. -/
structure State.BringsUpAnew (t : State) : Prop where
  stage  : t.fld F.RST_BRING_STAGE = 1
  failed : t.fld F.RST_BRING_FAILED = 0
  state  : t.fld F.HOLM_STATE_STATE = 0

section
variable {s : State}

theorem State.BringsUpAnew.onRst {f : RstSt → RstSt} (h : s.BringsUpAnew) : (s.onRst f).BringsUpAnew := by
  constructor <;> simp only [State.onRst_fld, h.stage, h.failed, h.state]

theorem State.restart_stage (power : Bool) : (s.restart power).fld F.RST_BRING_STAGE = 1 := by
  unfold State.restart
  dsimp only
  rw [State.fld_setFld_apart (f := F.RST_BRING_FAILED) (g := F.RST_BRING_STAGE) 0 rfl (by decide) (by decide)
    (Or.inl (by decide)), State.fld_setFld_self F.RST_BRING_STAGE 1 (by decide) (by decide)]
  rfl

theorem State.restart_failed (power : Bool) : (s.restart power).fld F.RST_BRING_FAILED = 0 :=
  State.fld_setFld_self F.RST_BRING_FAILED 0 (by decide) (by decide)

/-- A module reset clears HOLM_STATE. -/
theorem State.moduleReset_holmState (cause : Nat) : (s.moduleReset cause).rd R.HOLM_STATE = 0 := by
  have hwiped : (s.wiped false).rd R.HOLM_STATE = 0 := by
    rw [State.wiped_rd, if_neg (by decide)]
    rfl
  rw [State.moduleReset_rd cause (by decide) (by decide) (by decide),
    State.restart_rd false unsettled_holmState (by decide), State.keepBits_rd_ne (by decide), hwiped]

theorem State.moduleReset_anew (cause : Nat) : (s.moduleReset cause).BringsUpAnew := by
  have hbring := State.moduleReset_rd (s := s) (a := R.RST_BRING) cause (by decide) (by decide) (by decide)
  exact {
    stage  := (congrArg (bits · 3 0) hbring).trans (State.restart_stage false)
    failed := (congrArg (bits · 7 7) hbring).trans (State.restart_failed false)
    state  := congrArg (bits · 3 0) (State.moduleReset_holmState cause) }

/-- Of THERM_STAT a module reset keeps COOL_OK alone (R411, R424). -/
theorem State.moduleReset_thermStat (cause : Nat) :
    (s.moduleReset cause).rd R.THERM_STAT = (s.keepBits R.THERM_STAT 0x200).rd R.THERM_STAT := by
  have hwiped : (s.wiped false).rd R.THERM_STAT = s.rd R.THERM_STAT := by
    rw [State.wiped_rd, if_pos (by decide)]
  rw [State.moduleReset_rd cause (by decide) (by decide) (by decide),
    State.restart_rd false unsettled_thermStat (by decide)]
  exact State.keepBits_rd_congr hwiped

theorem State.moduleReset_coolantStop (cause : Nat) : (s.moduleReset cause).flag F.THERM_STAT_COOLANT_STOP = false := by
  have hflag := congrArg (fun v => bits v 10 10 == 1) (State.moduleReset_thermStat (s := s) cause)
  have hclear : (resetWord R.THERM_STAT).toNat.testBit 10 = false := by decide
  rw [← hclear]
  exact hflag.trans (State.keepBits_flag (n := 10) (by decide))

theorem State.moduleReset_coolOk (cause : Nat) :
    (s.moduleReset cause).flag F.THERM_STAT_COOL_OK = s.flag F.THERM_STAT_COOL_OK := by
  have hflag := congrArg (fun v => bits v 9 9 == 1) (State.moduleReset_thermStat (s := s) cause)
  exact hflag.trans (State.keepBits_flag (n := 9) (by decide))

/-- Beyond the wipe a module reset changes registers, staged values and pending interrupts alone, and sends. -/
theorem State.moduleReset_only_wiped (cause : Nat) :
    Only [.sent, .regs, .staged, .irq] (s.wiped false) (s.moduleReset cause) := by
  have hkept : Only [.sent, .regs, .staged, .irq] (s.wiped false) ((s.wiped false).settleKept false).showAtolls :=
    Only.andThen State.showAtolls_only rfl State.settleKept_only
  have hrestart : Only [.sent, .regs, .staged, .irq] (s.wiped false) (s.restart false) := by
    refine Only.andThen State.setFld_only rfl (Only.andThen State.setFld_only rfl ?_)
    exact Only.ite hkept fun _ => Only.andThen State.emit_only rfl hkept
  refine Only.ite ?_ fun h => Only.andThen State.bump_only rfl h
  refine Only.andThen State.bump_only rfl ?_
  exact Only.andThen State.setFld_only rfl (Only.andThen State.setFld_only rfl hrestart)

/-- The stacks come out of a module reset with the bytes they had (R411). -/
theorem State.moduleReset_mem (cause : Nat) : Part.mem.same s (s.moduleReset cause) :=
  (State.moduleReset_only_wiped cause).2.2 .mem (by decide)

end

/-! ### The commands that reset the module (R422, R423, R426) -/

section
variable {s : State}

theorem exec_watchdog_armed (hp : s.rst.power = true) (hw : s.rst.wdog = true) :
    exec .watchdog s = .next ({ s with now := max s.now s.wdogAt }.moduleReset 3) := by
  rw [exec_watchdog, execWatchdog, if_pos ⟨hw, hp⟩]

theorem exec_brdResetN_low {n : Nat} (hp : s.rst.power = true) (hr : s.rst.asserted = false) (hn : 1000 ≤ n) :
    exec (.brdResetN true n) s = .next (((s.onRst fun r => { r with brdLow := true }).moduleReset 2).onRst
      fun r => { r with asserted := true }) := by
  have hgoes : (s.onRst fun r => { r with brdLow := true }).rst.power = true ∧
      (s.onRst fun r => { r with brdLow := true }).rst.asserted = false ∧ 1000 ≤ n := ⟨hp, hr, hn⟩
  rw [exec_brdResetN, execBrdResetN, if_pos rfl]
  exact if_pos hgoes

/-- RST_CMD: the command is guarded, and no bit of it is RW. -/
def rstCmdDesc : RegDesc := ⟨0x0B0, 0, 1, false, 0x0, 0xF, 0x0, 0xF, 0x0, 0xF, false, fun _ => 0x0⟩

theorem regHit_rstCmd : regHit R.RST_CMD = some (rstCmdDesc, R.RST_CMD) := regHit_of_regAt (by
  have h : regAt 0x06 0x0B0 = some rstCmdDesc := rfl
  exact h)

/-- MODULE_RESET on the unlocked page uses the lock up and resets the module. -/
theorem exec_moduleReset_unlocked (ht : s.takesWrites 0x06 0) (hu : s.unlocked 0x06 0) :
    exec .moduleReset s = .next ((s.relocked 0x06 0).moduleReset 4) := by
  have hpage : pageOf R.RST_CMD = pageBase 0x06 0 := by decide
  have hopen : s.flag (F.PG_LOCK_STAT_OPEN (pageOf R.RST_CMD)) = true := by rwa [hpage]
  rw [exec_moduleReset, execModuleReset, State.harbourWrites,
    State.request_live (by decide) (by decide) (by decide) ht regHit_rstCmd,
    State.writeLive_unlocked (by decide) hopen (by decide), hpage]
  rfl

end

/-- A command that comes to such a state gives what R425 asks of it. -/
theorem exists_anew {e : Instr} {t : State} (h : exec e s = .next t) (ht : t.BringsUpAnew) :
    ∃ t, exec e s = .next t ∧ t.fld F.RST_BRING_STAGE = 1 ∧ t.fld F.RST_BRING_FAILED = 0 ∧
      t.fld F.HOLM_STATE_STATE = 0 := by
  obtain ⟨stage, failed, state⟩ := ht
  exact ⟨t, h, stage, failed, state⟩

/-- Settles O57: each source of a reset comes to the module reset, which begins bring-up anew, keeps COOL_OK alone of
THERM_STAT and leaves the stacks; stage 3 without COOL_OK halts before it does anything. -/
theorem resetDuringBringUp : Obligations.ResetDuringBringUp := by
  intro s n hp hr hn
  have hbrd := exec_brdResetN_low hp hr hn
  refine ⟨fun hw => ?_, fun ht hu => ?_, ?_, fun _ => ?_, fun o hs hh hf hc => ?_⟩
  · exact exists_anew (exec_watchdog_armed hp hw) (State.moduleReset_anew 3)
  · exact exists_anew (exec_moduleReset_unlocked ht hu) (State.moduleReset_anew 4)
  · exact exists_anew hbrd (State.moduleReset_anew 2).onRst
  · obtain ⟨hmem, hpoison⟩ := State.moduleReset_mem (s := s.onRst fun r => { r with brdLow := true }) 2
    refine ⟨_, hbrd, ?_, ?_, ?_, ?_⟩
    · rw [State.onRst_flag, State.moduleReset_coolantStop]
    · rw [State.onRst_flag, State.moduleReset_coolOk, State.onRst_flag]
    · rw [State.onRst_mem, hmem, State.onRst_mem]
    · rw [State.onRst_poison, hpoison, State.onRst_poison]
  · exact ⟨_, exec_bringupStage_no_coolant hp hr hs hh hf hc, State.halted_state, State.halted_failed,
      State.halted_stage.trans hs, State.halted_atolls⟩

end Sys2Proof.Machine
end
